-- ==== Sys2Proof/Word.lean ====
section
/-! DEFINITION. The word types of the model (R9, R10): a byte, and an FP32 bit pattern. -/

namespace Sys2Proof

/-- One byte of device memory, of a packet or of a cell (R10). -/
abbrev Byte := BitVec 8

/-- An FP32 bit pattern (R16, R38). -/
abbrev F32 := BitVec 32

/-- A 64-bit word: an address, a token value, a stamp (R8, R10). -/
abbrev Word64 := BitVec 64

end Sys2Proof
end

