-- ==== Sys2Proof/Syntax.lean ====
section
/-! DEFINITION. The commands of the K420 as one inductive type: one constructor for each row of
spec/opcode_table.json, with the row's operands, and the data they carry. -/

namespace Sys2Proof

/-- A wait entry of a packet (R338). -/
structure Wait where
  token : Nat
  value : Nat
  rel : Bool
  deriving DecidableEq, Repr, Inhabited

/-- The header of a packet as its ring's controller reads it (R338): the ring, TAG, LENGTH, SIG_EN, SIGNAL and the
wait entries. -/
structure PktHdr where
  ring : Nat
  tag : Nat
  length : Nat
  sigEn : Bool
  signal : Nat
  waits : List Wait
  deriving DecidableEq, Repr, Inhabited

/-- A K segment of a PRODUCT payload (R352): two descriptor references and how each is read. -/
structure SegRef where
  a : Nat
  b : Nat
  aT : Bool
  bT : Bool
  deriving DecidableEq, Repr, Inhabited

/-- A packet's operation and parameters (R351, R352, R353, R148, R319). -/
inductive Op where
  | nop
  | regWrite (offset value : Nat)
  | ringReset (ring : Nat)
  | deviceSoftReset
  | copy (dst src bytes flags : Nat)
  | fill (dst bytes pattern : Nat)
  | regionRebuild
  | llsPartition (slice count : Nat)
  | llsRelease (slice first : Nat)
  | digest (start bytes dest : Nat)
  | product (out streamColl shape : Nat) (segs : List SegRef)
  | matvec (out : Nat) (parts : List (Nat × Nat))
  | softmax (inp out : Nat)
  | rmsnorm (inp out gain eps : Nat)
  | layernorm (inp out gain bias eps : Nat)
  | xent (inp target loss mean grad : Nat)
  | vprog (program const out : Nat) (ins : List Nat)
  | paramGroupsLoad
  | variantBind (variant : Nat)
  | variantRelease (slot : Nat)
  | collLaunch (desc : Nat)
  | roleSet (role node manager top : Nat)
  | groupJoin
  | groupLeave
  | stepBegin (step expectEpoch : Nat) (group setStep : Bool)
  | stepEnd (lossAddr : Nat) (digest : Bool)
  | betweenJobTest (mask : Nat)
  | unitTest (unit : Nat)
  | unitFence (unit : Nat)
  | unitUnfence (unit : Nat)
  | shroudCopy
  | restore (sourceId expectStep manifestDest : Nat) (older override : Bool) (holder : Nat)
  | shroudRelease
  | counterSnapshot (dest : Nat)
  | sampleControl (enable shift : Nat)
  | attest (nonce : List Byte) (dest : Nat)
  | measurementLog (dest bytes : Nat)
  | firmwareStage (src bytes : Nat)
  /-- A packet whose opcode the table does not define (R340). -/
  | undefinedOp (opcode : Nat)
  /-- A packet too short for its parameters, or with a reserved field set (R15, R339, R340). -/
  | malformed (opcode : Nat)
  deriving DecidableEq, Repr, Inhabited

/-- The opcode of an operation (R351). -/
def Op.opcode : Op → Nat
  | .nop => 0x0000 | .regWrite .. => 0x0001 | .ringReset _ => 0x0002 | .deviceSoftReset => 0x0003
  | .copy .. => 0x0100 | .fill .. => 0x0101 | .regionRebuild => 0x0102 | .llsPartition .. => 0x0103
  | .llsRelease .. => 0x0104 | .digest .. => 0x0105
  | .product .. => 0x0200 | .matvec .. => 0x0201 | .softmax .. => 0x0202 | .rmsnorm .. => 0x0203
  | .layernorm .. => 0x0204 | .xent .. => 0x0205 | .vprog .. => 0x0206 | .paramGroupsLoad => 0x0207
  | .variantBind _ => 0x0208 | .variantRelease _ => 0x0209
  | .collLaunch _ => 0x0300 | .roleSet .. => 0x0301 | .groupJoin => 0x0302 | .groupLeave => 0x0303
  | .stepBegin .. => 0x0400 | .stepEnd .. => 0x0401
  | .betweenJobTest _ => 0x0500 | .unitTest _ => 0x0501 | .unitFence _ => 0x0502 | .unitUnfence _ => 0x0503
  | .shroudCopy => 0x0600 | .restore .. => 0x0601 | .shroudRelease => 0x0602
  | .counterSnapshot _ => 0x0700 | .sampleControl .. => 0x0701
  | .attest .. => 0x0800 | .measurementLog .. => 0x0801 | .firmwareStage .. => 0x0802
  | .undefinedOp n => n | .malformed n => n

/-- The common header of a group message as received (R252): its sender's node address, TERM and EPOCH. -/
structure GroupHeader where
  src : Nat
  term : Nat
  epoch : Nat
  deriving DecidableEq, Repr, Inhabited

/-- What a start-up finds (R384, R387, R389, R390): whether the images of areas A and B pass the checks of R384 other
than SVN, the HBM channels that fail, a failure of kind 2, 3 or 5 (0: none), the failing units of self-check with
result (1 at nominal conditions, 2 at a corner) and kernel, and whether the device identity key is available. -/
structure BootReport where
  areaA : Bool
  areaB : Bool
  failing : List Nat
  error : Nat
  fails : List (Nat × Nat × Nat)
  identity : Bool
  deriving DecidableEq, Repr, Inhabited

/-- The header of a message received at the management port (R398): MODULE_ID, SEQ, AO_TICK and the 32-byte tag. -/
structure MgmtHeader where
  moduleId : Nat
  seq : Nat
  tick : Nat
  tag : List Byte
  deriving DecidableEq, Repr, Inhabited

/-- A request on the I3C sideband (R404): endpoint ID assignment and discovery, the sensors, and the FRU record. -/
inductive McRequest where
  | setEndpoint (eid : Nat)
  | getEndpoint
  | messageTypes
  | dieTemp (channel : Nat)
  | stackTemp (stack : Nat)
  | inputW
  | inputMv
  | thermtrip
  | dieThrottled
  | stackCrit
  | fru
  deriving DecidableEq, Repr, Inhabited

/-- The capabilities that R326 names, those present and those absent. -/
inductive Capability where
  | pciExpress | functionLevelReset | powerManagement | advancedErrorReporting | resizableBar | deviceSerialNumber
  | dataLinkFeature | physicalLayer16 | physicalLayer32 | physicalLayer64 | flitLogging | laneMargining
  | msi | msiX | srIov | ats | pasid | pri | ptm | acs | atomicCompleter
  deriving DecidableEq, Repr, Inhabited

/-- A configuration request (R325, R326). -/
inductive ConfigReq where
  | readId
  | readHeaderType
  | readCapability (c : Capability)
  | readClass
  | readRevision
  | readInterruptPin
  | readSerial
  | readBar2Size
  | readPower
  | readControl
  | readLinkCapability
  | readLinkStatus
  | readTags
  | readPowerSupport
  | bar2Size (log2Gib : Nat)
  | power (d3hot : Bool)
  | payload (log2Bytes : Nat)
  | readRequest (log2Bytes : Nat)
  | timeout (code : Nat)
  | errorReporting (on : Bool)
  deriving DecidableEq, Repr, Inhabited

namespace Machine

/-- The key of a collective (R276). -/
structure CollKey where
  epoch : Nat
  step : Nat
  attempt : Nat
  seq : Nat
  deriving DecidableEq, Repr, Inhabited

/-- The content of a LAUNCH (R267). -/
structure LaunchMsg where
  op : Nat
  redop : Nat
  type : Nat
  root : Nat
  count : Nat
  digest : Nat
  limit : Nat
  deriving DecidableEq, Repr, Inhabited

end Machine

/-- The sender of a COLLECTIVE message and the key in its sub-header (R267): the node address in the cell, then EPOCH,
STEP, ATTEMPT and SEQ. -/
structure CollHeader where
  src : Nat
  key : Machine.CollKey
  deriving DecidableEq, Repr, Inhabited

/-- The header fields of a received flit other than its type (R238): ACK, CVC and CREDITS. -/
structure FlitTotals where
  ack : Nat
  cvc : Nat
  credits : Nat
  deriving DecidableEq, Repr, Inhabited

/-- The sub-header of a received SHROUD cell other than its message (R323): the sender's node address, SLOT, STACK, PART,
BOLT and SOURCE_ID. -/
structure ShroudHeader where
  src : Nat
  slot : Nat
  stack : Nat
  part : Nat
  bolt : Nat
  sourceId : Nat
  deriving DecidableEq, Repr, Inhabited

/-- The fields that RING_CONFIG_WRITE writes (R333). -/
inductive RingField where
  | base
  | loc
  | log2
  deriving DecidableEq, Repr, Inhabited

/-- The fields that STATUS_CONFIG_WRITE writes (R346). -/
inductive StatusField where
  | base
  | log2
  deriving DecidableEq, Repr, Inhabited

/-- The fields of a scale-history entry that software writes (R181). -/
inductive HistoryField where
  | tag
  | enable
  | lenM1
  | target
  deriving DecidableEq, Repr, Inhabited

/-- The address and port fields of the management port (R397, R408). -/
inductive MgmtField where
  | deviceAddr
  | collectorAddr
  | collectorPort
  | mgmtPort
  deriving DecidableEq, Repr, Inhabited

/-- What one check of an execution saw (R108, R109, R282): the CODE of the check, the row and the block, and what it
compares: for the checksum lane the sum of the block sums that the array formed; for a residue check the difference of its
two sides. -/
structure CheckSeen where
  code : Nat
  row : Nat
  block : Nat
  seen : Int
  deriving DecidableEq, Repr

/-- The check of an execution that may have failed, none when nothing stood out. -/
abbrev Check : Type := Option CheckSeen

/-- The packed position of a check event (R300). -/
def CheckSeen.position (c : CheckSeen) : Nat := c.row % 65536 * 2 ^ 32 + c.block % 2 ^ 32

/-- What a shadow comparison sees (R282, R284): whether the shadow agrees with E0, and what its own checks saw. -/
structure ShadowSeen where
  agree : Bool
  check : Check
  deriving DecidableEq, Repr

/-- How far a tile pass has come (R104): the next common block, or group of an integer product, to issue; or, after the
merge, the next launch-wide K position of an outlier term. -/
inductive Progress where
  | block (j : Nat)
  | outlier (k : Nat)
  deriving DecidableEq, Repr, Inhabited

/-- What a test slot found (R222, R291): 0 the kernels passed, 1 one failed at nominal conditions, 2 one failed at a corner
only, 3 the corner pass was cut short; and the HBM channels whose failure lane repair cannot cover. -/
structure SlotFound where
  result : Nat
  channels : List Nat
  deriving DecidableEq, Repr

/-- The commands of the module: one constructor for each row of spec/opcode_table.json, named after its mnemonic, with
the row's operands. A packet row carries its header; an event or message row carries what arrives with it. -/
inductive Instr where
  /-- NOP (R351). -/
  | nop (h : PktHdr)
  /-- REG_WRITE (R351). -/
  | regWrite (h : PktHdr) (offset value : Nat)
  /-- RING_RESET (R336). -/
  | ringReset (h : PktHdr) (ring : Nat)
  /-- RING_RESET_WRITE (R336). -/
  | ringResetWrite (ring : Nat)
  /-- RING_RESET_DRAINED (R336). -/
  | ringResetDrained (ring : Nat)
  /-- DEVICE_SOFT_RESET (R392). -/
  | deviceSoftReset (h : PktHdr)
  /-- COPY (R351). -/
  | copy (h : PktHdr) (dst src bytes flags : Nat)
  /-- FILL (R351). -/
  | fill (h : PktHdr) (dst bytes pattern : Nat)
  /-- REGION_REBUILD (R223). -/
  | regionRebuild (h : PktHdr)
  /-- LLS_PARTITION (R227). -/
  | llsPartition (h : PktHdr) (slice count : Nat)
  /-- LLS_RELEASE (R227). -/
  | llsRelease (h : PktHdr) (slice first : Nat)
  /-- DIGEST (R209). -/
  | digest (h : PktHdr) (start bytes dest : Nat)
  /-- PRODUCT (R352). -/
  | product (h : PktHdr) (out streamColl shape : Nat) (segs : List SegRef)
  /-- MATVEC (R203). -/
  | matvec (h : PktHdr) (out : Nat) (parts : List (Nat × Nat))
  /-- SOFTMAX (R353). -/
  | softmax (h : PktHdr) (inp out : Nat)
  /-- RMSNORM (R353). -/
  | rmsnorm (h : PktHdr) (inp out gain eps : Nat)
  /-- LAYERNORM (R353). -/
  | layernorm (h : PktHdr) (inp out gain bias eps : Nat)
  /-- XENT (R353). -/
  | xent (h : PktHdr) (inp target loss mean grad : Nat)
  /-- VPROG (R353). -/
  | vprog (h : PktHdr) (program const out : Nat) (ins : List Nat)
  /-- PARAM_GROUPS_LOAD (R185). -/
  | paramGroupsLoad (h : PktHdr)
  /-- VARIANT_BIND (R201). -/
  | variantBind (h : PktHdr) (variant : Nat)
  /-- VARIANT_RELEASE (R201). -/
  | variantRelease (h : PktHdr) (slot : Nat)
  /-- SLOT_FREED (R201). -/
  | slotFreed (slot : Nat)
  /-- COLL_LAUNCH (R269). -/
  | collLaunch (h : PktHdr) (desc : Nat)
  /-- ROLE_SET (R248). -/
  | roleSet (h : PktHdr) (role node manager top : Nat)
  /-- GROUP_JOIN (R248). -/
  | groupJoin (h : PktHdr)
  /-- GROUP_LEAVE (R249). -/
  | groupLeave (h : PktHdr)
  /-- STEP_BEGIN (R149). -/
  | stepBegin (h : PktHdr) (step expectEpoch : Nat) (group setStep : Bool)
  /-- STEP_END (R152). -/
  | stepEnd (h : PktHdr) (lossAddr : Nat) (digest : Bool)
  /-- STEP_CLOSE (R152). -/
  | stepClose
  /-- REEF_REWRITE_COMPLETE (R199). -/
  | reefRewriteComplete
  /-- COMMIT_GROUP_COMPLETE (R168). -/
  | commitGroupComplete
  /-- UPDATE_BATCH_COMPLETE (R283). -/
  | updateBatchComplete (shard batch : Nat) (check : Check)
  /-- VERDICT (R154). -/
  | verdict (h : GroupHeader) (verdict reasons budget attempt : Nat)
  /-- VERDICT_TIMEOUT (R154). -/
  | verdictTimeout
  /-- BETWEEN_JOB_TEST (R295). -/
  | betweenJobTest (h : PktHdr) (mask : Nat)
  /-- UNIT_TEST (R299). -/
  | unitTest (h : PktHdr) (unit : Nat)
  /-- UNIT_FENCE (R299). -/
  | unitFence (h : PktHdr) (unit : Nat)
  /-- UNIT_UNFENCE (R299). -/
  | unitUnfence (h : PktHdr) (unit : Nat)
  /-- SHROUD_COPY (R315). -/
  | shroudCopy (h : PktHdr)
  /-- RESTORE (R320). -/
  | restore (h : PktHdr) (sourceId expectStep manifestDest : Nat) (older override : Bool) (holder : Nat)
  /-- SHROUD_RELEASE (R322). -/
  | shroudRelease (h : PktHdr)
  /-- COUNTER_SNAPSHOT (R370). -/
  | counterSnapshot (h : PktHdr) (dest : Nat)
  /-- SAMPLE_CONTROL (R366). -/
  | sampleControl (h : PktHdr) (enable shift : Nat)
  /-- ATTEST (R407). -/
  | attest (h : PktHdr) (nonce : List Byte) (dest : Nat)
  /-- MEASUREMENT_LOG (R406). -/
  | measurementLog (h : PktHdr) (dest bytes : Nat)
  /-- FIRMWARE_STAGE (R385). -/
  | firmwareStage (h : PktHdr) (src bytes : Nat)
  /-- RING_TAIL_WRITE (R332). -/
  | ringTailWrite (ring tail : Nat)
  /-- PACKET_FETCH (R340). -/
  | packetFetch (ring : Nat)
  /-- PACKET_START (R342). -/
  | packetStart (pid : Nat)
  /-- DESCRIPTOR_START (R22). -/
  | descriptorStart (engine : Bool) (index : Nat)
  /-- TILE_PASS_LATCH (R110). -/
  | tilePassLatch (id : Nat) (check : Check)
  /-- MAJORITY_OUTCOME (R286). -/
  | majorityOutcome (id : Nat) (e0e2 e1e2 : Bool) (c1 c2 : Check)
  /-- SHADOW_COMPARE (R284). -/
  | shadowCompare (id : Nat) (seen : ShadowSeen)
  /-- DESCRIPTOR_END (R90). -/
  | descriptorEnd (id : Nat)
  /-- PACKET_END (R347). -/
  | packetEnd (pid : Nat)
  /-- STATUS_RECORD_DEFERRED (R349). -/
  | statusRecordDeferred (pid : Nat)
  /-- STATUS_HEAD_WRITE (R349). -/
  | statusHeadWrite (ring head : Nat)
  /-- PREEMPT (R104). -/
  | preempt (cluster : Nat) (place : Progress)
  /-- CONTEXT_RESUME (R106). -/
  | contextResume (id : Nat)
  /-- TOKEN_ADD (R341). -/
  | tokenAdd (token amount : Nat)
  /-- DEVICE_ENABLE_WRITE (R331). -/
  | deviceEnableWrite (on : Bool)
  /-- RING_CONFIG_WRITE (R333). -/
  | ringConfigWrite (ring : Nat) (field : RingField) (value : Nat)
  /-- STATUS_CONFIG_WRITE (R346). -/
  | statusConfigWrite (ring : Nat) (field : StatusField) (value : Nat)
  /-- REGISTER_WRITE (R13). -/
  | registerWrite (offset bytes value : Nat)
  /-- BAR0_BAD_ACCESS (R327). -/
  | bar0BadAccess (write : Bool) (offset bytes : Nat)
  /-- BAR2_READ (R328). -/
  | bar2Read (offset bytes upset : Nat)
  /-- BAR2_WRITE (R328). -/
  | bar2Write (offset : Nat) (data : List Byte)
  /-- BAR2_HOLD_EXPIRY (R230). -/
  | bar2HoldExpiry (id : Nat)
  /-- ATOMIC_OP_REQUEST (R328). -/
  | atomicOpRequest
  /-- HOST_READ_COMPLETION (R330). -/
  | hostReadCompletion (rid status : Nat) (data : List Byte)
  /-- COMPLETION_TIMEOUT (R330). -/
  | completionTimeout (rid : Nat)
  /-- REEF_SET (R142). -/
  | reefSet (word bits : Nat)
  /-- REEF_CLEAR (R142). -/
  | reefClear (word bits : Nat)
  /-- DEFAULTS (R180). -/
  | defaults
  /-- CLEAR_BROKEN (R173). -/
  | clearBroken
  /-- GS_SET (R167). -/
  | gsSet (value : Nat)
  /-- BASELINE_SET (R180). -/
  | baselineSet (monitor value : Nat)
  /-- STATE_BASE_WRITE (R146). -/
  | stateBaseWrite (value : Nat)
  /-- SCALE_HISTORY_WRITE (R146). -/
  | scaleHistoryWrite (field : HistoryField) (entry value : Nat)
  /-- CAPTURE_CLEAR (R90). -/
  | captureClear (channel cluster flag : Nat)
  /-- LAST_FAULT_CLEAR (R211). -/
  | lastFaultClear (channel engine : Nat)
  /-- MAPOUT_REQUEST (R222). -/
  | mapoutRequest (channel : Nat)
  /-- LOST_CLEAR (R228). -/
  | lostClear (slice : Nat)
  /-- ARBITER_FREEZE (R233). -/
  | arbiterFreeze (arbiter : Nat) (on : Bool)
  /-- ARBITER_DRAINED (R233). -/
  | arbiterDrained (arbiter : Nat)
  /-- SCRUB_ACCESS (R220). -/
  | scrubAccess (channel bolt bursts : Nat) (uncorrectable : Bool)
  /-- SCRUB_PERIOD_END (R220). -/
  | scrubPeriodEnd (late : Bool)
  /-- STACK_TEMP_SAMPLE (R229). -/
  | stackTempSample (stack temp : Nat)
  /-- DIE_TEMP_SAMPLE (R380). -/
  | dieTempSample (channel temp : Nat)
  /-- POWER_SAMPLE (R377). -/
  | powerSample (mv watts : Nat) (domains : List (Nat × Nat))
  /-- DROOP_EVENT (R378). -/
  | droopEvent (domain : Nat)
  /-- DROOP_END (R378). -/
  | droopEnd (domain : Nat)
  /-- BROWN_OUT (R379). -/
  | brownOut
  /-- QUAD_IDLE_GATE (R374). -/
  | quadIdleGate (quad : Nat)
  /-- STACK_IDLE_GATE (R374). -/
  | stackIdleGate (stack : Nat)
  /-- DOMAIN_WAKE_COMPLETE (R375). -/
  | domainWakeComplete (domain : Nat)
  /-- COLD_RESET (R392). -/
  | coldReset (found : BootReport)
  /-- WARM_RESET (R392). -/
  | warmReset (found : BootReport)
  /-- FUNCTION_LEVEL_RESET (R392). -/
  | functionLevelReset
  /-- RESET_COMPLETE (R431). -/
  | resetComplete
  /-- PERST_DEASSERT (R421). -/
  | perstDeassert
  /-- REFCLK_LOSS (R422). -/
  | refclkLoss
  /-- STARTUP_TIMEOUT (R390). -/
  | startupTimeout
  /-- TEST_DUE (R292). -/
  | testDue (unit : Nat)
  /-- TEST_DEFER_EXPIRY (R294). -/
  | testDeferExpiry (unit : Nat) (places : List Progress)
  /-- TEST_SLOT_START (R294). -/
  | testSlotStart (unit : Nat)
  /-- TEST_SLOT_END (R296). -/
  | testSlotEnd (unit : Nat) (found : SlotFound) (kernel skipped : Nat)
  /-- BJ_OVERDUE_CHECK (R293). -/
  | bjOverdueCheck
  /-- PORT_ENABLE (R237). -/
  | portEnable (port : Nat)
  /-- PORT_DISABLE (R237). -/
  | portDisable (port : Nat)
  /-- TRAINING_COMPLETE (R244). -/
  | trainingComplete (port : Nat)
  /-- SYNC (R245). -/
  | sync (port : Nat) (totals : FlitTotals) (peerId peerPort session : Nat) (buffers : List Nat)
  /-- FLIT_RECEIVED (R239). -/
  | flitReceived (port : Nat) (bytes : List Byte) (corrected uncorrectable : Nat)
  /-- NAK (R240). -/
  | nak (port : Nat) (totals : FlitTotals)
  /-- RETRY_TIMEOUT (R240). -/
  | retryTimeout (port : Nat)
  /-- LOSS_OF_LOCK (R244). -/
  | lossOfLock (port : Nat)
  /-- BOLT_CELL (R266). -/
  | boltCell (src stream : Nat) (bytes : List Byte)
  /-- GROUP_ENABLE_SET (R248). -/
  | groupEnableSet
  /-- GROUP_ENABLE_CLEAR (R249). -/
  | groupEnableClear
  /-- JOIN (R250). -/
  | join (h : GroupHeader) (moduleId feed ne : Nat)
  /-- JOIN_REPLY (R250). -/
  | joinReply (h : GroupHeader) (result : Nat)
  /-- LEAVE (R249). -/
  | leave (h : GroupHeader)
  /-- HEARTBEAT (R250). -/
  | heartbeat (h : GroupHeader) (risk suspect fenced mapped thermal state : Nat)
  /-- MGR_HEARTBEAT (R253). -/
  | mgrHeartbeat (h : GroupHeader)
  /-- HEARTBEAT_TIMER (R250). -/
  | heartbeatTimer
  /-- GROUP_REPORT (R250). -/
  | groupReport (h : GroupHeader) (node mstate risk : Nat)
  /-- EPOCH_PREPARE (R252). -/
  | epochPrepare (h : GroupHeader) (members fp chunkRule segments : Nat)
  /-- EPOCH_LIST (R252). -/
  | epochList (h : GroupHeader) (first : Nat) (nodes : List Nat)
  /-- EPOCH_READY_SEND (R252). -/
  | epochReadySend
  /-- EPOCH_READY (R252). -/
  | epochReady (h : GroupHeader)
  /-- EPOCH_COMMIT (R252). -/
  | epochCommit (h : GroupHeader) (fp : Nat)
  /-- PREPARE_TIMEOUT (R252). -/
  | prepareTimeout
  /-- TAKEOVER (R253). -/
  | takeover (h : GroupHeader) (node : Nat)
  /-- PARTNER (R306). -/
  | partner (h : GroupHeader) (holder source : Nat) (forced : Bool) (refuse sourceId : Nat)
  /-- LAUNCH (R274). -/
  | launch (h : CollHeader) (content : Machine.LaunchMsg)
  /-- GRANT (R269). -/
  | grant (h : CollHeader) (limit : Nat)
  /-- COLLECTIVE_DATA (R269). -/
  | collectiveData (h : CollHeader) (unit phase half : Nat) (data : List Byte)
  /-- FLAGS (R265). -/
  | flags (h : CollHeader) (chunk vector : Nat)
  /-- ABORT (R275). -/
  | abort (h : CollHeader) (cause field rank : Nat)
  /-- SLOW (R277). -/
  | slow (h : CollHeader) (reason : Nat)
  /-- RELEASE (R273). -/
  | release (h : CollHeader)
  /-- COLL_COMPLETE (R273). -/
  | collComplete (key : Machine.CollKey)
  /-- COLL_WATCHDOG_EXPIRY (R277). -/
  | collWatchdogExpiry (key : Machine.CollKey)
  /-- SLOW_TIMER (R278). -/
  | slowTimer
  /-- HELLO (R309). -/
  | hello (h : ShroudHeader) (bolts : List Nat) (step : Nat)
  /-- ACCEPT (R312). -/
  | accept (h : ShroudHeader) (result : Nat)
  /-- SHROUD_DATA (R313). -/
  | shroudData (h : ShroudHeader) (content : List Byte)
  /-- SHARDS (R311). -/
  | shards (h : ShroudHeader) (content : List Byte)
  /-- MANIFEST (R313). -/
  | manifest (h : ShroudHeader) (content : List Byte)
  /-- SIGNATURE (R313). -/
  | signature (h : ShroudHeader) (content : List Byte)
  /-- COMPLETE (R313). -/
  | complete (h : ShroudHeader)
  /-- INCOMPLETE (R312). -/
  | incomplete (h : ShroudHeader)
  /-- FETCH (R321). -/
  | fetch (h : ShroudHeader) (older : Bool)
  /-- FETCH_REPLY (R320). -/
  | fetchReply (h : ShroudHeader) (content : List Byte)
  /-- LOST (R322). -/
  | lost (h : ShroudHeader)
  /-- SHROUD_TIMEOUT (R312). -/
  | shroudTimeout
  /-- SIGNATURE_COMPLETE (R311). -/
  | signatureComplete
  /-- RISK_RECOMPUTE (R316). -/
  | riskRecompute
  /-- COUNTER_SELECT_WRITE (R361). -/
  | counterSelectWrite (channel counter event filter : Nat) (enable : Bool)
  /-- COUNTER_CLEAR (R361). -/
  | counterClear (channel counter : Nat)
  /-- BW_ENABLE_WRITE (R364). -/
  | bwEnableWrite (on : Bool)
  /-- BW_WINDOW_END (R364). -/
  | bwWindowEnd
  /-- ACK (R400). -/
  | ack (h : MgmtHeader)
  /-- REPORT_RESEND (R400). -/
  | reportResend
  /-- SUMMARY (R400). -/
  | summary
  /-- STATUS_QUERY (R401). -/
  | statusQuery (h : MgmtHeader)
  /-- TEST_NOW (R401). -/
  | testNow (h : MgmtHeader) (unit : Nat)
  /-- FENCE (R401). -/
  | fence (h : MgmtHeader) (unit : Nat)
  /-- UNFENCE (R401). -/
  | unfence (h : MgmtHeader) (unit : Nat)
  /-- RESET (R392). -/
  | reset (h : MgmtHeader) (found : BootReport)
  /-- MGMT_ROLE_SET (R401). -/
  | mgmtRoleSet (h : MgmtHeader) (role node manager top standby0 standby1 topStandby : Nat)
  /-- GROUP (R401). -/
  | group (h : MgmtHeader) (action : Nat)
  /-- MAPOUT (R401). -/
  | mapout (h : MgmtHeader) (channel : Nat)
  /-- MAPOUT_CLEAR (R401). -/
  | mapoutClear (h : MgmtHeader) (channel : Nat)
  /-- SVN_RAISE (R401). -/
  | svnRaise (h : MgmtHeader) (svn : Nat)
  /-- KEY_SET (R401). -/
  | keySet (h : MgmtHeader) (key : List Byte)
  /-- RECOVERY (R403). -/
  | recovery (h : MgmtHeader) (offset : Nat) (data : List Byte)
  /-- NEIGHBOR_SOLICITATION (R396). -/
  | neighborSolicitation (target source : Nat)
  /-- ECHO_REQUEST (R396). -/
  | echoRequest (dest source : Nat) (data : List Byte)
  /-- KEY_WRITE (R408). -/
  | keyWrite (word value : Nat)
  /-- MGMT_CONFIG_WRITE (R397). -/
  | mgmtConfigWrite (field : MgmtField) (value : Nat)
  /-- MCTP_MESSAGE (R404). -/
  | mctpMessage (request : McRequest)
  /-- PCIE_LINK_UP (R422). -/
  | pcieLinkUp
  /-- CONFIG_ACCESS (R326). -/
  | configAccess (request : ConfigReq)
  /-- MGMT_PORT_LINK_CHANGE (R396). -/
  | mgmtPortLinkChange (up : Bool)
  /-- JOIN_REPLY_TIMEOUT (R351). -/
  | joinReplyTimeout
  deriving DecidableEq, Repr

end Sys2Proof
end

