-- ==== Sys2Proof/Decode.lean ====
section
/-! DEFINITION. The command that a word spells by the bits of spec/opcode_table.json. No row of the table gives bits: a
command reaches the module as a packet in a ring, an access, a message or an event, and the packets of a ring are read by
Sys2Proof.Machine.parsePacket. -/

namespace Sys2Proof

/-- The command that a word of the opcode table spells: none, since no row gives bits. -/
def decodeTableWord (_nbits _w : Nat) : Option Instr := none

end Sys2Proof
end

