-- ==== Sys2Proof/Config.lean ====
section
/-! DEFINITION. What one module's manufacture fixes and the spec gives no number for, and the values the spec leaves
open: constants without a body, so that no statement can rest on a number for them. -/

namespace Sys2Proof.Config

/-- MODULE_ID, fused (R254, R355). -/
opaque moduleId : BitVec 64

/-- FEED_ID and SLOT_ID, strapped on the carrier's connectors (R309, R389, R416). -/
opaque feedId : Fin 16
opaque slotId : Fin 256

/-- FW_MINOR of the firmware image, 0x00–0x09 (R1, R355). -/
opaque fwMinor : Fin 10

/-- A free value of the given number of bits, a fresh one for each number of the model's counter: what the spec calls
undefined or leaves to timing. -/
opaque freeBits : Nat → Nat → Nat

/-- SLH-DSA-SHAKE-256s verification (R384, R403): does a signature over a message verify under a public key? -/
opaque slhDsaVerify : List Byte → List Byte → List Byte → Bool

/-- The SLH-DSA-SHAKE-256s signature of a message under the device identity key (R311, R405, R407). -/
opaque slhDsaSign : List Byte → List Byte

/-- The fused hash of the image-signing key (R384). -/
opaque imageKeyHash : List Byte

/-- The fused ROM version (R386, R406). -/
opaque romVersion : BitVec 32

/-- The header digest of the image that the module was shipped with (R382, R386). -/
opaque shippedDigest : List Byte

/-- The device certificate and the product-line CA certificate (R405, R407). -/
opaque deviceCertificate : List Byte
opaque caCertificate : List Byte

/-- The last character of the part number: C or B, the cold-plate variant (R404, R428). -/
opaque variant : BitVec 8

/-- The PCI-SIG vendor identifier of Corzaten (R326). -/
opaque vendorId : BitVec 16

end Sys2Proof.Config
end

