-- ==== Sys2Proof/Machine/Bits.lean ====
section
/-! DEFINITION. Bit fields, little-endian byte strings and sparse tables: the helpers every other file reads
structures, registers and memory with (R9, R10, R11). -/

namespace Sys2Proof.Machine

/-- Bits [hi:lo] of a number (R9). -/
def bitsOf (v hi lo : Nat) : Nat := (v >>> lo) % 2 ^ (hi + 1 - lo)

/-- One bit of a number, as a Boolean. -/
def bitAt (v i : Nat) : Bool := v.testBit i

/-- 1 for true, 0 for false. -/
def b2n (b : Bool) : Nat := if b then 1 else 0

/-- `n` bytes of `v`, the least significant first (R10). -/
def leBytes : Nat → Nat → List Byte
  | 0, _ => []
  | n + 1, v => BitVec.ofNat 8 v :: leBytes n (v / 256)

/-- The number a little-endian byte string spells (R10). -/
def ofLe : List Byte → Nat
  | [] => 0
  | b :: bs => b.toNat + 256 * ofLe bs

/-- `n` zero bytes. -/
def zeros (n : Nat) : List Byte := List.replicate n 0

/-- Bytes `at` to `at + n - 1` of a byte string; bytes past its end read zero. -/
def slice (bs : List Byte) (start n : Nat) : List Byte :=
  let t := (bs.drop start).take n
  t ++ zeros (n - t.length)

/-- The little-endian field of `n` bytes at offset `o` of a structure (R10). -/
def fieldLe (bs : List Byte) (o n : Nat) : Nat := ofLe (slice bs o n)

/-- Replace the bytes from offset `o` of a structure. -/
def patch (bs : List Byte) (o : Nat) (new : List Byte) : List Byte :=
  bs.take o ++ new ++ bs.drop (o + new.length)

/-- True when every byte is zero (a reserved range, R15). -/
def allZero (bs : List Byte) : Bool := bs.all (fun b => b == 0)

/-- `a ÷ b` rounded up. -/
def ceilDiv (a b : Nat) : Nat := if b = 0 then 0 else (a + b - 1) / b

/-- `v + 1`, kept at the greatest value of a `w`-bit field (a saturating count). -/
def satInc (w v : Nat) : Nat := if v + 1 < 2 ^ w then v + 1 else 2 ^ w - 1

/-- `v + d`, kept at the greatest value of a `w`-bit field. -/
def satAdd (w v d : Nat) : Nat := if v + d < 2 ^ w then v + d else 2 ^ w - 1

/-- A sparse table: key and value pairs, keys strictly rising; an unlisted key has the default of its reader. -/
abbrev Tab (α : Type) := List (Nat × α)

/-- The value listed at a key. -/
def Tab.find {α : Type} : Tab α → Nat → Option α
  | [], _ => none
  | (i, v) :: t, k => if i = k then some v else Tab.find t k

/-- The value at a key, or the default. -/
def Tab.get {α : Type} (d : α) (t : Tab α) (k : Nat) : α := (Tab.find t k).getD d

/-- List a value at a key, in key order, in place of what was there. -/
def Tab.put {α : Type} : Tab α → Nat → α → Tab α
  | [], k, v => [(k, v)]
  | (i, w) :: t, k, v =>
    if k < i then (k, v) :: (i, w) :: t
    else if k = i then (k, v) :: t
    else (i, w) :: Tab.put t k v

/-- Unlist a key. -/
def Tab.del {α : Type} : Tab α → Nat → Tab α
  | [], _ => []
  | (i, w) :: t, k => if i = k then Tab.del t k else (i, w) :: Tab.del t k

/-- Apply a function to the value at a key. -/
def Tab.upd {α : Type} (d : α) (t : Tab α) (k : Nat) (f : α → α) : Tab α := Tab.put t k (f (Tab.get d t k))

/-- The table's keys rise strictly. -/
def Tab.sorted {α : Type} : Tab α → Bool
  | [] => true
  | [_] => true
  | (i, _) :: (j, w) :: t => decide (i < j) && Tab.sorted ((j, w) :: t)

/-- Device memory: byte cells, addresses strictly rising, no cell holding the byte an unlisted address reads as. -/
abbrev Mem := List (Nat × Byte)

/-- What an unlisted byte of device memory reads as: zero, because start-up after a cold reset zeroes every stack
(R387 step 6, R392), a rebuild zeroes its regions (R223) and a partition is zeroed when taken (R227). -/
def Mem.unlisted : Byte := 0

/-- One byte of memory. -/
def Mem.byte (m : Mem) (a : Nat) : Byte := Tab.get Mem.unlisted m a

/-- Write one byte, keeping the canonical form. -/
def Mem.setByte (m : Mem) (a : Nat) (b : Byte) : Mem :=
  if b = Mem.unlisted then Tab.del m a else Tab.put m a b

/-- `n` bytes from an address. -/
def Mem.read (m : Mem) (a n : Nat) : List Byte := (List.range n).map (fun i => Mem.byte m (a + i))

/-- Write a byte string from an address upwards. -/
def Mem.write : Mem → Nat → List Byte → Mem
  | m, _, [] => m
  | m, a, b :: bs => Mem.write (Mem.setByte m a b) (a + 1) bs

/-- Zero every byte of a range: its cells are unlisted. -/
def Mem.zero (m : Mem) (a n : Nat) : Mem := m.filter (fun c => decide (c.1 < a ∨ a + n ≤ c.1))

/-- Write an 8-byte pattern repeatedly over `n` units of 8 bytes (FILL, R351). -/
def Mem.fill : Mem → Nat → List Byte → Nat → Mem
  | m, _, _, 0 => m
  | m, a, p, n + 1 => Mem.fill (Mem.write m a p) (a + 8) p n

/-- The listed cells of a range. -/
def Mem.cells (m : Mem) (a n : Nat) : List (Nat × Byte) := m.filter (fun c => decide (a ≤ c.1) && decide (c.1 < a + n))

/-- The listed cells of the ranges of a list. -/
def Mem.keep (m : Mem) (rs : List (Nat × Nat)) : Mem :=
  m.filter (fun c => rs.any (fun r => decide (r.1 ≤ c.1) && decide (c.1 < r.1 + r.2)))

/-- Copy the bytes of a range over another. -/
def Mem.move (m : Mem) (src n dst : Nat) : Mem :=
  (Mem.cells m src n).foldl (fun r c => Mem.setByte r (dst + (c.1 - src)) c.2) (Mem.zero m dst n)

/-- The canonical form of memory. -/
def Mem.wf (m : Mem) : Bool := Tab.sorted m && m.all (fun c => c.2 != Mem.unlisted)

end Sys2Proof.Machine
end

