-- ==== Sys2Proof/Machine/Regs.lean ====
section
/-! DEFINITION. The BAR0 register fields: offset, place, width, access code, reset value and the values a write may
set, as the field maps of spec/ list them (R12, R13, R355, and the block each section names). -/

namespace Sys2Proof.Machine

/-- Access codes (R13). -/
inductive Access where
  | ro | rw | wo | w1s | w1c
  deriving DecidableEq, Repr

/-- The values a write may set; a write of another value is ignored (R181, R234, R280, R303, R324, R395, R408). -/
inductive RegRule where
  | any
  | range (lo hi : Nat)
  /-- Zero, or a value of the range. -/
  | zeroOr (lo hi : Nat)
  | rangeMult (lo hi m : Nat)
  /-- The low `n` bits are zero. -/
  | lowZero (n : Nat)
  /-- FP32, positive, finite and normal. -/
  | posNormal
  /-- FP32, positive and finite. -/
  | posFinite
  /-- FP32 within (0, 1). -/
  | openUnit
  | notEq (v : Nat)
  /-- Four shares of 0–32 in bits [5:0] of each byte (R234). -/
  | shares
  /-- Four-bit route entries: an egress port, or 15 for unreachable (R246). -/
  | routes
  deriving DecidableEq, Repr

/-- Does the rule accept a value? A word of several entries is one value: one entry outside its range refuses the write
(DESIGN CHOICE, log 74). -/
def RegRule.ok (r : RegRule) (v : Nat) : Bool :=
  match r with
  | .any => true
  | .range lo hi => decide (lo ≤ v) && decide (v ≤ hi)
  | .zeroOr lo hi => v == 0 || (decide (lo ≤ v) && decide (v ≤ hi))
  | .rangeMult lo hi m => decide (lo ≤ v) && decide (v ≤ hi) && v % m == 0
  | .lowZero n => v % 2 ^ n == 0
  | .posNormal => decide (0x00800000 ≤ v) && decide (v < 0x7F800000)
  | .posFinite => decide (0 < v) && decide (v < 0x7F800000)
  | .openUnit => decide (0 < v) && decide (v < 0x3F800000)
  | .notEq x => v != x
  | .shares => (List.range 4).all (fun c => decide (v / 2 ^ (8 * c) % 64 ≤ 32))
  | .routes => (List.range 8).all (fun i => !(decide (12 ≤ v / 16 ^ i % 16) && decide (v / 16 ^ i % 16 ≤ 14)))

/-- A register field: byte offset of its word in BAR0, lowest bit, width, access code, value after a cold reset,
rule for writes, and the (count, stride) pairs of its indices, outermost first. -/
structure Reg where
  off : Nat
  lsb : Nat
  width : Nat
  acc : Access
  reset : Nat
  rule : RegRule
  dims : List (Nat × Nat)
  deriving DecidableEq, Repr

/-- The byte offset that a list of indices adds. -/
def strideSum : List (Nat × Nat) → List Nat → Nat
  | (_, s) :: ds, i :: is => i * s + strideSum ds is
  | _, _ => 0

/-- The key of a field of the register table: 32 times its word's byte offset, plus its lowest bit. -/
def Reg.key (r : Reg) (idx : List Nat) : Nat := (r.off + strideSum r.dims idx) * 32 + r.lsb

/-- The bytes a field's word or words span from its offset. -/
def Reg.span (r : Reg) : Nat := (r.lsb + r.width + 31) / 32 * 4

/-- The indices that an offset relative to a field names, and what is left. -/
def indicesOf : List (Nat × Nat) → Nat → Option (List Nat × Nat)
  | [], rel => some ([], rel)
  | (n, s) :: ds, rel =>
    if rel / s < n then (indicesOf ds (rel % s)).map (fun p => (rel / s :: p.1, p.2)) else none

/-- The indices and the byte within the field that a BAR0 offset falls on, when it falls on the field. -/
def Reg.at (r : Reg) (o : Nat) : Option (List Nat × Nat) :=
  if o < r.off then none
  else
    match indicesOf r.dims (o - r.off) with
    | some (idx, rel) => if rel < r.span then some (idx, rel) else none
    | none => none

/-! Exception capture record, flag f, page offset 0x0100 + 0x20 × f (spec/03_dot_product.md). -/
/-- VALID: bits [31:31] at 0x01200100 + 0xC00000 × i + 0x1000 × j + 0x20 × k. 1 when the record holds a descriptor's event; writing 1 clears every field of the record -/
def Reg.capValid : Reg := .mk 0x1200100 31 1 .w1c 0x0 .any [(4, 0xC00000), (48, 0x1000), (8, 0x20)]
/-- EVENTS: bits [15:0] at 0x01200100 + 0xC00000 × i + 0x1000 × j + 0x20 × k. Events of flag f in the recorded descriptor, saturating at 0xFFFF -/
def Reg.capEvents : Reg := .mk 0x1200100 0 16 .ro 0x0 .any [(4, 0xC00000), (48, 0x1000), (8, 0x20)]
/-- TAG: bits [31:0] at 0x01200104 + 0xC00000 × i + 0x1000 × j + 0x20 × k. Tag of the command packet that the descriptor came from -/
def Reg.capTag : Reg := .mk 0x1200104 0 32 .ro 0x0 .any [(4, 0xC00000), (48, 0x1000), (8, 0x20)]
/-- DESC_ID: bits [31:0] at 0x01200108 + 0xC00000 × i + 0x1000 × j + 0x20 × k. Descriptor identifier, as in descriptor sampling records -/
def Reg.capDescId : Reg := .mk 0x1200108 0 32 .ro 0x0 .any [(4, 0xC00000), (48, 0x1000), (8, 0x20)]
/-- MATRIX: bits [31:0] at 0x0120010C + 0xC00000 × i + 0x1000 × j + 0x20 × k. MATRIX of the first position -/
def Reg.capMatrix : Reg := .mk 0x120010C 0 32 .ro 0x0 .any [(4, 0xC00000), (48, 0x1000), (8, 0x20)]
/-- ROW: bits [31:0] at 0x01200110 + 0xC00000 × i + 0x1000 × j + 0x20 × k. ROW of the first position -/
def Reg.capRow : Reg := .mk 0x1200110 0 32 .ro 0x0 .any [(4, 0xC00000), (48, 0x1000), (8, 0x20)]
/-- COL: bits [31:0] at 0x01200114 + 0xC00000 × i + 0x1000 × j + 0x20 × k. COL of the first position -/
def Reg.capCol : Reg := .mk 0x1200114 0 32 .ro 0x0 .any [(4, 0xC00000), (48, 0x1000), (8, 0x20)]
/-- KBLOCK: bits [31:0] at 0x01200118 + 0xC00000 × i + 0x1000 × j + 0x20 × k. KBLOCK of the first position -/
def Reg.capKblock : Reg := .mk 0x1200118 0 32 .ro 0x0 .any [(4, 0xC00000), (48, 0x1000), (8, 0x20)]

/-! Outlier and reef registers, step-control block (spec/05_writer_path.md). -/
/-- DOUBLINGS: bits [3:2] at 0x00100800. Largest number of budget doublings per tensor per step, 0–3 -/
def Reg.olDoublings : Reg := .mk 0x100800 2 2 .rw 0x2 .any []
/-- MODE: bits [1:0] at 0x00100800. 0 RECORD, 1 WIDEN_THEN_REEF, 2 REEF, 3 reserved (writes of 3 are ignored) -/
def Reg.olMode : Reg := .mk 0x100800 0 2 .rw 0x0 (.notEq 3) []
/-- REEF_COUNT: bits [12:0] at 0x00100804. Layers whose bit in REEF_STATE is 1, 0–4,096 -/
def Reg.olReefCount : Reg := .mk 0x100804 0 13 .ro 0x0 .any []
/-- REEF_STATE: bits [31:0] at 0x00100A00 + 0x4 × i. Bit i is 1 when layer 32w + i is reefed or is to be reefed at the next attempt; occupies 0x0010_0A00–0x0010_0BFF -/
def Reg.olReefState : Reg := .mk 0x100A00 0 32 .ro 0x0 .any [(128, 0x4)]
/-- REEF_SET: bits [31:0] at 0x00100C00 + 0x4 × i. Each 1 bit reefs layer 32w + i; occupies 0x0010_0C00–0x0010_0DFF -/
def Reg.olReefSet : Reg := .mk 0x100C00 0 32 .wo 0x0 .any [(128, 0x4)]
/-- REEF_CLEAR: bits [31:0] at 0x00100E00 + 0x4 × i. Each 1 bit clears the reef of layer 32w + i; occupies 0x0010_0E00–0x0010_0FFF -/
def Reg.olReefClear : Reg := .mk 0x100E00 0 32 .wo 0x0 .any [(128, 0x4)]

/-! Step-control block (spec/06_steps.md). -/
/-- DEFAULTS: bits [1:1] at 0x00100000. 1 installs the Default column of R155, the default telltale POLICY of RECORD, and outlier MODE WIDEN_THEN_REEF -/
def Reg.stDefaults : Reg := .mk 0x100000 1 1 .wo 0x0 .any []
/-- ENABLE: bits [0:0] at 0x00100000. 1 allows STEP_BEGIN -/
def Reg.stEnable : Reg := .mk 0x100000 0 1 .rw 0x0 .any []
/-- IGNORED_WRITES: bits [31:16] at 0x00100004. Writes ignored by R181, saturating -/
def Reg.stIgnoredWrites : Reg := .mk 0x100004 16 16 .ro 0x0 .any []
/-- ATTEMPT: bits [15:8] at 0x00100004. Current or last attempt -/
def Reg.stAttempt : Reg := .mk 0x100004 8 8 .ro 0x0 .any []
/-- BROKEN: bits [7:7] at 0x00100004. R172 -/
def Reg.stBroken : Reg := .mk 0x100004 7 1 .ro 0x0 .any []
/-- HALTED: bits [6:6] at 0x00100004. R162 -/
def Reg.stHalted : Reg := .mk 0x100004 6 1 .w1c 0x0 .any []
/-- STATE: bits [1:0] at 0x00100004. 0 IDLE, 1 OPEN, 2 CLOSING, 3 COMMITTING -/
def Reg.stState : Reg := .mk 0x100004 0 2 .ro 0x0 .any []
/-- NEXT_STEP: bits [63:0] at 0x00100008. Step number that the next STEP_BEGIN must carry -/
def Reg.stNextStep : Reg := .mk 0x100008 0 64 .ro 0x0 .any []
/-- CURRENT_STEP: bits [63:0] at 0x00100010. Open step, or the last closed step -/
def Reg.stCurrentStep : Reg := .mk 0x100010 0 64 .ro 0x0 .any []
/-- RUN_SEED: bits [127:0] at 0x00100020. Run seed, in four words at 0x0010_0020–0x0010_002C; takes its new value when the word at 0x0010_002C is written (R327) -/
def Reg.stRunSeed : Reg := .mk 0x100020 0 128 .rw 0x0 .any []
/-- ACTIVE: bits [31:31] at 0x00100030. Commit phase running -/
def Reg.stActive : Reg := .mk 0x100030 31 1 .ro 0x0 .any []
/-- PARTIAL: bits [30:30] at 0x00100030. R172 -/
def Reg.stPartial : Reg := .mk 0x100030 30 1 .ro 0x0 .any []
/-- DONE: bits [12:0] at 0x00100030. Groups committed in the current or last commit phase -/
def Reg.stDone : Reg := .mk 0x100030 0 13 .ro 0x0 .any []
/-- CLEAR_BROKEN: bits [0:0] at 0x00100034. R173 -/
def Reg.stClearBroken : Reg := .mk 0x100034 0 1 .wo 0x0 .any []
/-- REPLAY_BUDGET: bits [18:16] at 0x00100040. 0–7 -/
def Reg.stReplayBudget : Reg := .mk 0x100040 16 3 .rw 0x2 .any []
/-- NUM_POLICY: bits [15:0] at 0x00100040. 2 bits per field, [1:0] upwards: FWD_NONFINITE, FWD_OVF, FWD_SCALE_CLAMP, BWD_NONFINITE, SAT, LONGSUM, LOSS, INTEGRITY; 0 RECORD, 1 REPLAY_STEP, 2 SKIP, 3 FAULT -/
def Reg.stNumPolicy : Reg := .mk 0x100040 0 16 .rw 0x0 .any []
/-- GRAD_SCALE: bits [31:0] at 0x00100080. Committed gradient scale -/
def Reg.stGradScale : Reg := .mk 0x100080 0 32 .ro 0x3f800000 .any []
/-- GS_SET: bits [31:0] at 0x00100084. R167; a value that is not positive, finite and normal is ignored -/
def Reg.stGsSet : Reg := .mk 0x100084 0 32 .wo 0x0 .any []
/-- GS_BACKOFF: bits [31:0] at 0x00100088. A write that is not within (0, 1) is ignored -/
def Reg.stGsBackoff : Reg := .mk 0x100088 0 32 .rw 0x3f000000 .openUnit []
/-- GS_INTERVAL: bits [31:0] at 0x0010008C. Clean commits per growth, 1–0xFFFF_FFFF -/
def Reg.stGsInterval : Reg := .mk 0x10008C 0 32 .rw 0x3e8 (.range 1 4294967295) []
/-- GS_CLEAN: bits [31:0] at 0x00100090. c -/
def Reg.stGsClean : Reg := .mk 0x100090 0 32 .ro 0x0 .any []
/-- GS_MIN: bits [31:0] at 0x00100094. 2⁻²⁴ -/
def Reg.stGsMin : Reg := .mk 0x100094 0 32 .rw 0x33800000 .posNormal []
/-- GS_MAX: bits [31:0] at 0x00100098. 2²⁴ -/
def Reg.stGsMax : Reg := .mk 0x100098 0 32 .rw 0x4b800000 .posNormal []
/-- RECORD_BASE: bits [63:0] at 0x00100100. Step-record ring; bits [11:0] zero -/
def Reg.stRecordBase : Reg := .mk 0x100100 0 64 .rw 0x0 (.lowZero 12) []
/-- SLOT_KIB: bits [31:16] at 0x00100108. 8–1,024, a multiple of 4 -/
def Reg.stSlotKib : Reg := .mk 0x100108 16 16 .rw 0x8 (.rangeMult 8 1024 4) []
/-- SLOTS: bits [15:0] at 0x00100108. 2–65,535; 0 means no ring -/
def Reg.stSlots : Reg := .mk 0x100108 0 16 .rw 0x0 (.zeroOr 2 65535) []
/-- RECORDS_WRITTEN: bits [63:0] at 0x00100110. Records written since cold reset -/
def Reg.stRecordsWritten : Reg := .mk 0x100110 0 64 .ro 0x0 .any []
/-- STATE_BASE: bits [63:0] at 0x00100118. Step-state area; bits [19:0] zero -/
def Reg.stStateBase : Reg := .mk 0x100118 0 64 .rw 0x0 (.lowZero 20) []
/-- POLICY: bits [0:0] at 0x00100200 + 0x10 × i. Ratio class k: 0 RECORD, 1 HOLD -/
def Reg.ratioPolicy : Reg := .mk 0x100200 0 1 .rw 0x0 .any [(16, 0x10)]
/-- LO: bits [31:0] at 0x00100204 + 0x10 × i. Lower bound of the band -/
def Reg.ratioLo : Reg := .mk 0x100204 0 32 .rw 0x0 .any [(16, 0x10)]
/-- HI: bits [31:0] at 0x00100208 + 0x10 × i. Upper bound of the band -/
def Reg.ratioHi : Reg := .mk 0x100208 0 32 .rw 0x7f800000 .any [(16, 0x10)]
/-- ENABLE: bits [31:31] at 0x00101000 + 0x20 × i. Monitor i enabled -/
def Reg.monEnable : Reg := .mk 0x101000 31 1 .rw 0x0 .any [(256, 0x20)]
/-- ALPHA_K: bits [23:20] at 0x00101000 + 0x20 × i. 1–15; a write of 0 is ignored -/
def Reg.monAlphaK : Reg := .mk 0x101000 20 4 .rw 0x4 (.range 1 15) [(256, 0x20)]
/-- POLICY: bits [18:16] at 0x00101000 + 0x20 × i. 0–4 by the policy table; writes of 5–7 are ignored -/
def Reg.monPolicy : Reg := .mk 0x101000 16 3 .rw 0x0 (.range 0 4) [(256, 0x20)]
/-- WARMUP: bits [15:0] at 0x00101000 + 0x20 × i. W, in committed steps -/
def Reg.monWarmup : Reg := .mk 0x101000 0 16 .rw 0x40 .any [(256, 0x20)]
/-- THR_HI: bits [31:0] at 0x00101004 + 0x20 × i. Upper ratio threshold -/
def Reg.monThrHi : Reg := .mk 0x101004 0 32 .rw 0x7f800000 .any [(256, 0x20)]
/-- THR_LO: bits [31:0] at 0x00101008 + 0x20 × i. Lower ratio threshold -/
def Reg.monThrLo : Reg := .mk 0x101008 0 32 .rw 0x0 .any [(256, 0x20)]
/-- BASELINE: bits [31:0] at 0x0010100C + 0x20 × i. Committed b -/
def Reg.monBaseline : Reg := .mk 0x10100C 0 32 .ro 0x0 .any [(256, 0x20)]
/-- COUNT: bits [15:0] at 0x00101010 + 0x20 × i. Committed count -/
def Reg.monCount : Reg := .mk 0x101010 0 16 .ro 0x0 .any [(256, 0x20)]
/-- LAST_NORM: bits [31:0] at 0x00101014 + 0x20 × i. n of the last attempt -/
def Reg.monLastNorm : Reg := .mk 0x101014 0 32 .ro 0x0 .any [(256, 0x20)]
/-- JUMP: bits [31:31] at 0x00101018 + 0x20 × i. Last attempt: jump, no feed, feed discarded by R138 -/
def Reg.monJump : Reg := .mk 0x101018 31 1 .ro 0x0 .any [(256, 0x20)]
/-- MISSING: bits [30:30] at 0x00101018 + 0x20 × i. Last attempt: jump, no feed, feed discarded by R138 -/
def Reg.monMissing : Reg := .mk 0x101018 30 1 .ro 0x0 .any [(256, 0x20)]
/-- EXTRA: bits [29:29] at 0x00101018 + 0x20 × i. Last attempt: jump, no feed, feed discarded by R138 -/
def Reg.monExtra : Reg := .mk 0x101018 29 1 .ro 0x0 .any [(256, 0x20)]
/-- BASELINE_SET: bits [31:0] at 0x0010101C + 0x20 × i. Sets b and sets COUNT to 1 -/
def Reg.monBaselineSet : Reg := .mk 0x10101C 0 32 .wo 0x0 .any [(256, 0x20)]
/-- TAG: bits [31:0] at 0x00104000 + 0x10 × i. Bound tensor tag -/
def Reg.shTag : Reg := .mk 0x104000 0 32 .rw 0x0 .any [(4096, 0x10)]
/-- ENABLE: bits [31:31] at 0x00104004 + 0x10 × i. Entry enabled -/
def Reg.shEnable : Reg := .mk 0x104004 31 1 .rw 0x0 .any [(4096, 0x10)]
/-- LEN_M1: bits [3:0] at 0x00104004 + 0x10 × i. LEN − 1; LEN is 1–16 -/
def Reg.shLenM1 : Reg := .mk 0x104004 0 4 .rw 0x7 .any [(4096, 0x10)]
/-- TARGET: bits [31:0] at 0x00104008 + 0x10 × i. Positive finite FP32; other writes are ignored -/
def Reg.shTarget : Reg := .mk 0x104008 0 32 .rw 0x45280000 .posFinite [(4096, 0x10)]
/-- SCALE: bits [31:0] at 0x0010400C + 0x10 × i. Committed global scale -/
def Reg.shScale : Reg := .mk 0x10400C 0 32 .ro 0x3f800000 .any [(4096, 0x10)]

/-! Stack-engine fields of the step-control block (spec/07_stack_engines.md). -/
/-- GROUP_TABLE_BASE: bits [63:0] at 0x00200000. Group table; bits [19:0] zero -/
def Reg.seGroupTableBase : Reg := .mk 0x200000 0 64 .rw 0x0 (.lowZero 20) []
/-- HYPER_BASE: bits [63:0] at 0x00200008. Hyperparameter area; bits [11:0] zero -/
def Reg.seHyperBase : Reg := .mk 0x200008 0 64 .rw 0x0 (.lowZero 12) []
/-- VARIANT_TABLE_BASE: bits [63:0] at 0x00200010. Variant table; bits [17:0] zero -/
def Reg.seVariantTableBase : Reg := .mk 0x200010 0 64 .rw 0x0 (.lowZero 18) []
/-- GROUPS_LOADED: bits [12:0] at 0x00200018. Valid groups in the loaded table, 0–4,096 -/
def Reg.seGroupsLoaded : Reg := .mk 0x200018 0 13 .ro 0x0 .any []
/-- FORCE_CLUSTER: bits [4:4] at 0x0020001C. 1: every stack uses the cluster-based update stream -/
def Reg.seForceCluster : Reg := .mk 0x20001C 4 1 .rw 0x0 .any []
/-- UPDATE_CLUSTERS: bits [3:0] at 0x0020001C. 1–8 per channel; writes of 0 or 9–15 are ignored -/
def Reg.seUpdateClusters : Reg := .mk 0x20001C 0 4 .rw 0x2 (.range 1 8) []
/-- VALID: bits [31:31] at 0x00201000 + 0x4 × i. Slot s is bound -/
def Reg.slotValid : Reg := .mk 0x201000 31 1 .ro 0x0 .any [(64, 0x4)]
/-- REFS: bits [27:20] at 0x00201000 + 0x4 × i. Bindings not yet released -/
def Reg.slotRefs : Reg := .mk 0x201000 20 8 .ro 0x0 .any [(64, 0x4)]
/-- VARIANT: bits [11:0] at 0x00201000 + 0x4 × i. Bound variant -/
def Reg.slotVariant : Reg := .mk 0x201000 0 12 .ro 0x0 .any [(64, 0x4)]

/-! Stack-engine page (spec/07_stack_engines.md). -/
/-- THROTTLED: bits [4:4] at 0x01400000 + 0xC00000 × i + 0x10000 × j. The stack is at WARN -/
def Reg.engThrottled : Reg := .mk 0x1400000 4 1 .ro 0x0 .any [(4, 0xC00000), (5, 0x10000)]
/-- FALLBACK: bits [3:3] at 0x01400000 + 0xC00000 × i + 0x10000 × j. The stack's current or last commit ran as the cluster-based update stream -/
def Reg.engFallback : Reg := .mk 0x1400000 3 1 .ro 0x0 .any [(4, 0xC00000), (5, 0x10000)]
/-- ENGINE_STATE: bits [2:0] at 0x01400000 + 0xC00000 × i + 0x10000 × j. 0 OFF, 1 READY, 2 BUSY, 3 UNDER_TEST, 4 FENCED, 5 HELD; 6–7 not used -/
def Reg.engEngineState : Reg := .mk 0x1400000 0 3 .ro 0x0 .any [(4, 0xC00000), (5, 0x10000)]
/-- ELEMS_UPDATED: bits [63:0] at 0x01400008 + 0xC00000 × i + 0x10000 × j. Elements updated since cold reset, on either path -/
def Reg.engElemsUpdated : Reg := .mk 0x1400008 0 64 .ro 0x0 .any [(4, 0xC00000), (5, 0x10000)]
/-- MV_CYCLES: bits [63:0] at 0x01400010 + 0xC00000 × i + 0x10000 × j. Issue cycles of matrix-vector parts since cold reset -/
def Reg.engMvCycles : Reg := .mk 0x1400010 0 64 .ro 0x0 .any [(4, 0xC00000), (5, 0x10000)]
/-- DIGEST_BYTES: bits [63:0] at 0x01400018 + 0xC00000 × i + 0x10000 × j. Bytes digested since cold reset, on either digest path -/
def Reg.engDigestBytes : Reg := .mk 0x1400018 0 64 .ro 0x0 .any [(4, 0xC00000), (5, 0x10000)]
/-- VALID: bits [31:31] at 0x01400020 + 0xC00000 × i + 0x10000 × j. 1 when LAST_FAULT holds a fault; writing 1 clears the register -/
def Reg.engValid : Reg := .mk 0x1400020 31 1 .w1c 0x0 .any [(4, 0xC00000), (5, 0x10000)]
/-- STATUS: bits [19:12] at 0x01400020 + 0xC00000 × i + 0x10000 × j. Status code of the last fault that stopped the engine's work: MEM_UNCORRECTABLE, FAULT_CHECK or FAULT_UNIT, as R172 assigns them -/
def Reg.engStatus : Reg := .mk 0x1400020 12 8 .ro 0x0 .any [(4, 0xC00000), (5, 0x10000)]
/-- GROUP: bits [11:0] at 0x01400020 + 0xC00000 × i + 0x10000 × j. Group being committed at that fault; 0xFFF when not in a commit -/
def Reg.engGroup : Reg := .mk 0x1400020 0 12 .ro 0x0 .any [(4, 0xC00000), (5, 0x10000)]

/-! Memory block (spec/08_memory.md). -/
/-- D_SHARE: bits [5:0] at 0x00300000. Device-spread units per channel, 0–32 -/
def Reg.memDShare : Reg := .mk 0x300000 0 6 .rw 0x8 (.range 0 32) []
/-- C_SHARE: bits [31:0] at 0x00300004. C_SHARE[c] in bits [8c + 5:8c], 0–32; other bits reserved -/
def Reg.memCShare : Reg := .mk 0x300004 0 32 .rw 0x0 .shares []
/-- REBUILD_DUE: bits [31:0] at 0x00300008. Bit 0: some channel is PENDING; bit 1: shares written differ from those in force -/
def Reg.memRebuildDue : Reg := .mk 0x300008 0 32 .ro 0x0 .any []
/-- DEVICE_SPREAD_SIZE: bits [63:0] at 0x00300010. Current size in bytes -/
def Reg.memDeviceSpreadSize : Reg := .mk 0x300010 0 64 .ro 0x0 .any []
/-- CHANNEL_SPREAD_SIZE: bits [63:0] at 0x00300018 + 0x8 × i. Current size in bytes -/
def Reg.memChannelSpreadSize : Reg := .mk 0x300018 0 64 .ro 0x0 .any [(4, 0x8)]
/-- STACK_LOCAL_SIZE: bits [63:0] at 0x00300040 + 0x8 × i. Current size in bytes -/
def Reg.memStackLocalSize : Reg := .mk 0x300040 0 64 .ro 0x0 .any [(20, 0x8)]
/-- SCRUB_ENABLE: bits [5:5] at 0x00300100. Patrol scrub runs -/
def Reg.memScrubEnable : Reg := .mk 0x300100 5 1 .rw 0x1 .any []
/-- SCRUB_HOURS: bits [4:0] at 0x00300100. 1–24; other writes are ignored -/
def Reg.memScrubHours : Reg := .mk 0x300100 0 5 .rw 0x18 (.range 1 24) []
/-- CE_LIMIT: bits [15:0] at 0x00300104. 1–65,535; a write of 0 is ignored -/
def Reg.memCeLimit : Reg := .mk 0x300104 0 16 .rw 0x400 (.range 1 65535) []
/-- SCRUB_PASSES: bits [31:0] at 0x00300108. Completed scrub periods, all stacks -/
def Reg.memScrubPasses : Reg := .mk 0x300108 0 32 .ro 0x0 .any []
/-- SCRUB_LATE: bits [31:0] at 0x0030010C. Periods delayed by CRIT -/
def Reg.memScrubLate : Reg := .mk 0x30010C 0 32 .ro 0x0 .any []
/-- BAR2_HOLD_LIMIT: bits [4:0] at 0x00300110. Milliseconds, 1–20 -/
def Reg.memBar2HoldLimit : Reg := .mk 0x300110 0 5 .rw 0x5 (.range 1 20) []
/-- WARN_RATE: bits [6:0] at 0x00300114. Percent, 10–90; other writes are ignored -/
def Reg.memWarnRate : Reg := .mk 0x300114 0 7 .rw 0x32 (.range 10 90) []
/-- MAPOUT_REQUEST: bits [9:0] at 0x00300200. Device HBM channel index made PENDING with CAUSE 4; values above 639 are ignored -/
def Reg.memMapoutRequest : Reg := .mk 0x300200 0 10 .wo 0x0 .any []
/-- STATE: bits [31:30] at 0x00301000 + 0x4 × i. 0 HEALTHY, 1 PENDING, 2 MAPPED_OUT -/
def Reg.hbmState : Reg := .mk 0x301000 30 2 .ro 0x0 .any [(640, 0x4)]
/-- CAUSE: bits [29:27] at 0x00301000 + 0x4 × i. R222; 0 when HEALTHY -/
def Reg.hbmCause : Reg := .mk 0x301000 27 3 .ro 0x0 .any [(640, 0x4)]
/-- UE_COUNT: bits [26:16] at 0x00301000 + 0x4 × i. Uncorrectable errors, saturating -/
def Reg.hbmUeCount : Reg := .mk 0x301000 16 11 .ro 0x0 .any [(640, 0x4)]
/-- CE_COUNT: bits [15:0] at 0x00301000 + 0x4 × i. Corrected bursts in the current scrub period, saturating -/
def Reg.hbmCeCount : Reg := .mk 0x301000 0 16 .ro 0x0 .any [(640, 0x4)]
/-- TSTATE: bits [9:8] at 0x00303000 + 0x10 × i. 0 NORMAL, 1 WARN, 2 CRIT -/
def Reg.stkTstate : Reg := .mk 0x303000 8 2 .ro 0x0 .any [(20, 0x10)]
/-- TEMP: bits [7:0] at 0x00303000 + 0x10 × i. Last reading, °C -/
def Reg.stkTemp : Reg := .mk 0x303000 0 8 .ro 0x0 .any [(20, 0x10)]
/-- WARN_ENTRIES: bits [31:0] at 0x00303004 + 0x10 × i. Entries to WARN -/
def Reg.stkWarnEntries : Reg := .mk 0x303004 0 32 .ro 0x0 .any [(20, 0x10)]
/-- CRIT_ENTRIES: bits [31:0] at 0x00303008 + 0x10 × i. Entries to CRIT -/
def Reg.stkCritEntries : Reg := .mk 0x303008 0 32 .ro 0x0 .any [(20, 0x10)]
/-- CRIT_TICKS: bits [31:0] at 0x0030300C + 0x10 × i. AO ticks spent at CRIT ÷ 2¹⁶, saturating -/
def Reg.stkCritTicks : Reg := .mk 0x30300C 0 32 .ro 0x0 .any [(20, 0x10)]
/-- UNIT_FREE: bits [31:16] at 0x00304000 + 0x100 × i. Bit u is 1 when scratchpad unit u is a cache way -/
def Reg.llsUnitFree : Reg := .mk 0x304000 16 16 .ro 0xffff .any [(4, 0x100)]
/-- LOST_OVERFLOW: bits [7:7] at 0x00304000 + 0x100 × i. R228 -/
def Reg.llsLostOverflow : Reg := .mk 0x304000 7 1 .ro 0x0 .any [(4, 0x100)]
/-- LOST_COUNT: bits [6:0] at 0x00304000 + 0x100 × i. Entries in the lost-bolt table, 0–64 -/
def Reg.llsLostCount : Reg := .mk 0x304000 0 7 .ro 0x0 .any [(4, 0x100)]
/-- LOST_CLEAR: bits [0:0] at 0x00304004 + 0x100 × i. Empties the lost-bolt table and clears LOST_OVERFLOW -/
def Reg.llsLostClear : Reg := .mk 0x304004 0 1 .wo 0x0 .any [(4, 0x100)]
/-- LLS_CORRECTED: bits [31:0] at 0x00304008 + 0x100 × i. Corrected SRAM words, saturating -/
def Reg.llsLlsCorrected : Reg := .mk 0x304008 0 32 .ro 0x0 .any [(4, 0x100)]
/-- LOST_ADDR: bits [63:0] at 0x00305000 + 0x200 × i + 0x8 × j. Device address of lost bolt k of slice c; valid for k below LOST_COUNT -/
def Reg.llsLostAddr : Reg := .mk 0x305000 0 64 .ro 0x0 .any [(4, 0x200), (64, 0x8)]
/-- DRAINED: bits [1:1] at 0x00308000 + 0x20 × i. R233 -/
def Reg.arbDrained : Reg := .mk 0x308000 1 1 .ro 0x0 .any [(37, 0x20)]
/-- FREEZE: bits [0:0] at 0x00308000 + 0x20 × i. R233 -/
def Reg.arbFreeze : Reg := .mk 0x308000 0 1 .rw 0x0 .any [(37, 0x20)]
/-- WEIGHT: bits [31:0] at 0x00308004 + 0x20 × i. Weight of requester i in bits [4i + 3:4i] -/
def Reg.arbWeight : Reg := .mk 0x308004 0 32 .rw 0 .any [(37, 0x20)]
/-- GRANTS: bits [63:0] at 0x00308008 + 0x20 × i. Grants delivered, including empty ones -/
def Reg.arbGrants : Reg := .mk 0x308008 0 64 .ro 0x0 .any [(37, 0x20)]
/-- EMPTY_GRANTS: bits [63:0] at 0x00308010 + 0x20 × i. Empty grants (R232) -/
def Reg.arbEmptyGrants : Reg := .mk 0x308010 0 64 .ro 0x0 .any [(37, 0x20)]

/-! Link port page (spec/09_links_and_groups.md). -/
/-- LOOPBACK: bits [1:1] at 0x00400000 + 0x100 × i. Near-end loopback, for between-job test only -/
def Reg.portLoopback : Reg := .mk 0x400000 1 1 .rw 0x0 .any [(12, 0x100)]
/-- ENABLE: bits [0:0] at 0x00400000 + 0x100 × i. R237 -/
def Reg.portEnable : Reg := .mk 0x400000 0 1 .rw 0x0 .any [(12, 0x100)]
/-- PEER_PORT: bits [15:12] at 0x00400004 + 0x100 × i. Peer's port number from SYNC -/
def Reg.portPeerPort : Reg := .mk 0x400004 12 4 .ro 0x0 .any [(12, 0x100)]
/-- PEER_CHANGED: bits [3:3] at 0x00400004 + 0x100 × i. R245 -/
def Reg.portPeerChanged : Reg := .mk 0x400004 3 1 .w1c 0x0 .any [(12, 0x100)]
/-- PSTATE: bits [2:0] at 0x00400004 + 0x100 × i. 0 IDLE, 1 TRAINING, 2 SYNC, 3 UP, 4 RETRAINING -/
def Reg.portPstate : Reg := .mk 0x400004 0 3 .ro 0x0 .any [(12, 0x100)]
/-- PEER_ID: bits [63:0] at 0x00400008 + 0x100 × i. Peer's MODULE_ID -/
def Reg.portPeerId : Reg := .mk 0x400008 0 64 .ro 0x0 .any [(12, 0x100)]
/-- LINK_SESSION: bits [31:0] at 0x00400010 + 0x100 × i. R244 -/
def Reg.portLinkSession : Reg := .mk 0x400010 0 32 .ro 0x0 .any [(12, 0x100)]
/-- FLITS_TX: bits [63:0] at 0x00400018 + 0x100 × i. DATA flits sent, resends included -/
def Reg.portFlitsTx : Reg := .mk 0x400018 0 64 .ro 0x0 .any [(12, 0x100)]
/-- FLITS_RX: bits [63:0] at 0x00400020 + 0x100 × i. DATA flits accepted -/
def Reg.portFlitsRx : Reg := .mk 0x400020 0 64 .ro 0x0 .any [(12, 0x100)]
/-- RESENDS: bits [31:0] at 0x00400028 + 0x100 × i. Flits resent -/
def Reg.portResends : Reg := .mk 0x400028 0 32 .ro 0x0 .any [(12, 0x100)]
/-- CRC_ERRORS: bits [31:0] at 0x0040002C + 0x100 × i. Flits with a bad CRC -/
def Reg.portCrcErrors : Reg := .mk 0x40002C 0 32 .ro 0x0 .any [(12, 0x100)]
/-- FEC_CORRECTED: bits [63:0] at 0x00400030 + 0x100 × i. Corrected FEC codewords -/
def Reg.portFecCorrected : Reg := .mk 0x400030 0 64 .ro 0x0 .any [(12, 0x100)]
/-- FEC_UNCORRECTABLE: bits [31:0] at 0x00400038 + 0x100 × i. Uncorrectable FEC codewords -/
def Reg.portFecUncorrectable : Reg := .mk 0x400038 0 32 .ro 0x0 .any [(12, 0x100)]
/-- RETRAINS: bits [31:0] at 0x0040003C + 0x100 × i. Entries to RETRAINING -/
def Reg.portRetrains : Reg := .mk 0x40003C 0 32 .ro 0x0 .any [(12, 0x100)]
/-- CELLS_LOST: bits [31:0] at 0x00400040 + 0x100 × i. R237, R245 -/
def Reg.portCellsLost : Reg := .mk 0x400040 0 32 .ro 0x0 .any [(12, 0x100)]
/-- CELLS_DISCARDED: bits [31:0] at 0x00400044 + 0x100 × i. Cells received on this port and discarded by rule 1 or 2 of R246, and body CRC failures of R243 -/
def Reg.portCellsDiscarded : Reg := .mk 0x400044 0 32 .ro 0x0 .any [(12, 0x100)]
/-- CELLS_UNROUTABLE: bits [31:0] at 0x00400048 + 0x100 × i. Cells received on this port and discarded by rule 3 of R246 -/
def Reg.portCellsUnroutable : Reg := .mk 0x400048 0 32 .ro 0x0 .any [(12, 0x100)]
/-- TX_CREDITS: bits [25:16] at 0x00400050 + 0x100 × i + 0x4 × j. Credits held for VC v -/
def Reg.portTxCredits : Reg := .mk 0x400050 16 10 .ro 0x0 .any [(12, 0x100), (4, 0x4)]
/-- PARTIAL: bits [9:0] at 0x00400050 + 0x100 × i + 0x4 × j. Bytes of a partial cell held on VC v -/
def Reg.portPartial : Reg := .mk 0x400050 0 10 .ro 0x0 .any [(12, 0x100), (4, 0x4)]

/-! Link and group registers (spec/09_links_and_groups.md). -/
/-- RETRY_TIMEOUT: bits [31:16] at 0x00401000. Microseconds, 1–65,535; a write of 0 is ignored -/
def Reg.linkRetryTimeout : Reg := .mk 0x401000 16 16 .rw 0xa (.range 1 65535) []
/-- RETRY_LIMIT: bits [4:0] at 0x00401000. 1–31; a write of 0 is ignored -/
def Reg.linkRetryLimit : Reg := .mk 0x401000 0 5 .rw 0x10 (.range 1 31) []
/-- MODULE_ID: bits [63:0] at 0x00401008. Module serial identity -/
def Reg.grpModuleId : Reg := .mk 0x401008 0 64 .ro 0 .any []
/-- GROUP_ENABLE: bits [31:31] at 0x00402000. R248 -/
def Reg.grpGroupEnable : Reg := .mk 0x402000 31 1 .rw 0x0 .any []
/-- ROLE: bits [17:16] at 0x00402000. 0 WORKER, 1 GROUP_MANAGER, 2 TOP_MANAGER, 3 reserved (ignored) -/
def Reg.grpRole : Reg := .mk 0x402000 16 2 .rw 0x0 (.notEq 3) []
/-- NODE: bits [13:0] at 0x00402000. Node address -/
def Reg.grpNode : Reg := .mk 0x402000 0 14 .rw 0x0 .any []
/-- TOP_NODE: bits [29:16] at 0x00402004. Node addresses of the top and group managers -/
def Reg.grpTopNode : Reg := .mk 0x402004 16 14 .rw 0x0 .any []
/-- MANAGER_NODE: bits [13:0] at 0x00402004. Node addresses of the top and group managers -/
def Reg.grpManagerNode : Reg := .mk 0x402004 0 14 .rw 0x0 .any []
/-- STANDBY1: bits [29:16] at 0x00402008. Group-manager standbys; 0x3FFF none -/
def Reg.grpStandby1 : Reg := .mk 0x402008 16 14 .rw 0x3FFF .any []
/-- STANDBY0: bits [13:0] at 0x00402008. Group-manager standbys; 0x3FFF none -/
def Reg.grpStandby0 : Reg := .mk 0x402008 0 14 .rw 0x3FFF .any []
/-- TOP_STANDBY: bits [13:0] at 0x0040200C. Top-manager standby -/
def Reg.grpTopStandby : Reg := .mk 0x40200C 0 14 .rw 0x3fff .any []
/-- CHUNK_RULE: bits [31:0] at 0x00402010. Chunking rule of Collectives; read by the top manager -/
def Reg.grpChunkRule : Reg := .mk 0x402010 0 32 .rw 0x0 (.range 0 10) []
/-- HEARTBEAT_MS: bits [31:16] at 0x00402014. 10–10,000; other writes are ignored -/
def Reg.grpHeartbeatMs : Reg := .mk 0x402014 16 16 .rw 0x64 (.range 10 10000) []
/-- MISS_LIMIT: bits [15:0] at 0x00402014. 2–1,000; other writes are ignored -/
def Reg.grpMissLimit : Reg := .mk 0x402014 0 16 .rw 0xa (.range 2 1000) []
/-- PREPARE_TIMEOUT_MS: bits [31:0] at 0x00402018. 100–600,000; other writes are ignored -/
def Reg.grpPrepareTimeoutMs : Reg := .mk 0x402018 0 32 .rw 0x2710 (.range 100 600000) []
/-- EPOCH: bits [63:0] at 0x00402020. Committed membership epoch; 0 before the first -/
def Reg.grpEpoch : Reg := .mk 0x402020 0 64 .ro 0x0 .any []
/-- IN_EPOCH: bits [31:31] at 0x00402028. The module holds a rank in EPOCH -/
def Reg.grpInEpoch : Reg := .mk 0x402028 31 1 .ro 0x0 .any []
/-- PREPARED: bits [30:30] at 0x00402028. Step 2 of R252 holds -/
def Reg.grpPrepared : Reg := .mk 0x402028 30 1 .ro 0x0 .any []
/-- MEMBERS: bits [29:15] at 0x00402028. M, 0–16,384 -/
def Reg.grpMembers : Reg := .mk 0x402028 15 15 .ro 0x0 .any []
/-- RANK: bits [13:0] at 0x00402028. Rank in EPOCH -/
def Reg.grpRank : Reg := .mk 0x402028 0 14 .ro 0x0 .any []
/-- ORDER_FP: bits [127:0] at 0x00402030. R251, in four words at 0x0040_2030–0x0040_203C -/
def Reg.grpOrderFp : Reg := .mk 0x402030 0 128 .ro 0x0 .any []
/-- TERM: bits [31:0] at 0x00402040. Manager term known -/
def Reg.grpTerm : Reg := .mk 0x402040 0 32 .ro 0x0 .any []
/-- IGNORED: bits [31:0] at 0x00402044. Writes ignored by R248, and messages ignored by R252 and R253 -/
def Reg.grpIgnored : Reg := .mk 0x402044 0 32 .ro 0x0 .any []
/-- LOCAL_UNROUTABLE: bits [31:0] at 0x00402048. Locally originated cells not sent because their DEST is unreachable (R246), saturating -/
def Reg.grpLocalUnroutable : Reg := .mk 0x402048 0 32 .ro 0x0 .any []
/-- MSTATE: bits [31:29] at 0x00404000 + 0x8 × i. Managers only: 0 ABSENT, 1 JOINING, 2 ACTIVE, 3 LEAVING, 4 LOST -/
def Reg.mbrMstate : Reg := .mk 0x404000 29 3 .ro 0x0 .any [(128, 0x8)]
/-- RISK: bits [28:27] at 0x00404000 + 0x8 × i. Last risk level reported -/
def Reg.mbrRisk : Reg := .mk 0x404000 27 2 .ro 0x0 .any [(128, 0x8)]
/-- FEED_ID: bits [17:14] at 0x00404000 + 0x8 × i. From JOIN -/
def Reg.mbrFeedId : Reg := .mk 0x404000 14 4 .ro 0x0 .any [(128, 0x8)]
/-- MRANK: bits [13:0] at 0x00404000 + 0x8 × i. Rank in EPOCH while ACTIVE -/
def Reg.mbrMrank : Reg := .mk 0x404000 0 14 .ro 0x0 .any [(128, 0x8)]
/-- MISSED: bits [31:0] at 0x00404004 + 0x8 × i. Consecutive heartbeats missed -/
def Reg.mbrMissed : Reg := .mk 0x404004 0 32 .ro 0x0 .any [(128, 0x8)]
/-- GACTIVE: bits [31:24] at 0x00405000 + 0x4 × i. Top manager only: ACTIVE members of group g -/
def Reg.gtGactive : Reg := .mk 0x405000 24 8 .ro 0x0 .any [(128, 0x4)]
/-- GRISK: bits [23:22] at 0x00405000 + 0x4 × i. Highest risk level in group g -/
def Reg.gtGrisk : Reg := .mk 0x405000 22 2 .ro 0x0 .any [(128, 0x4)]
/-- GMANAGER: bits [13:0] at 0x00405000 + 0x4 × i. Node address of group g's manager -/
def Reg.gtGmanager : Reg := .mk 0x405000 0 14 .ro 0x3fff .any [(128, 0x4)]
/-- ROUTE: bits [31:0] at 0x00410000 + 0x4 × i. Entry for node 8w + i in bits [4i + 3:4i]; R246, R247 -/
def Reg.grpRoute : Reg := .mk 0x410000 0 32 .rw 0xffffffff .routes [(2048, 0x4)]

/-! Collective block (spec/10_collectives.md). -/
/-- COLL_RING: bits [7:4] at 0x00500000. Ring of R256 -/
def Reg.collCollRing : Reg := .mk 0x500000 4 4 .rw 0x0 .any []
/-- ENABLE: bits [0:0] at 0x00500000. R255 -/
def Reg.collEnable : Reg := .mk 0x500000 0 1 .rw 0x0 .any []
/-- WATCHDOG_MS: bits [31:0] at 0x00500004. 10–600,000; other writes are ignored -/
def Reg.collWatchdogMs : Reg := .mk 0x500004 0 32 .rw 0x1388 (.range 10 600000) []
/-- SLOW_INTERVAL_MS: bits [15:0] at 0x00500008. 100–10,000; other writes are ignored -/
def Reg.collSlowIntervalMs : Reg := .mk 0x500008 0 16 .rw 0x3e8 (.range 100 10000) []
/-- SLOW_LIMIT_MS: bits [31:0] at 0x0050000C. 0–3,600,000; other writes are ignored -/
def Reg.collSlowLimitMs : Reg := .mk 0x50000C 0 32 .rw 0x7530 (.range 0 3600000) []
/-- COLL_SEQ: bits [63:0] at 0x00500010. Number the next launch takes -/
def Reg.collCollSeq : Reg := .mk 0x500010 0 64 .ro 0x1 .any []
/-- HELD: bits [31:16] at 0x00500018. Messages held by R276 -/
def Reg.collHeld : Reg := .mk 0x500018 16 16 .ro 0x0 .any []
/-- IN_FLIGHT: bits [4:0] at 0x00500018. Collectives in flight, 0–16 -/
def Reg.collInFlight : Reg := .mk 0x500018 0 5 .ro 0x0 .any []
/-- UNITS: bits [8:4] at 0x00500020 + 0x4 × i. Staging units of channel c, 0–16; 0 means none -/
def Reg.stageUnits : Reg := .mk 0x500020 4 5 .rw 0x0 .any [(4, 0x4)]
/-- FIRST: bits [3:0] at 0x00500020 + 0x4 × i. First scratchpad unit of the staging partition -/
def Reg.stageFirst : Reg := .mk 0x500020 0 4 .rw 0x0 .any [(4, 0x4)]
/-- COMPLETED: bits [63:0] at 0x00500040. Collectives ended with DONE or DONE_FLAGGED -/
def Reg.collCompleted : Reg := .mk 0x500040 0 64 .ro 0x0 .any []
/-- MISMATCHES: bits [31:0] at 0x00500048. Mismatches detected here -/
def Reg.collMismatches : Reg := .mk 0x500048 0 32 .ro 0x0 .any []
/-- ABORTS_RX: bits [31:0] at 0x0050004C. Collectives ended by a received ABORT -/
def Reg.collAbortsRx : Reg := .mk 0x50004C 0 32 .ro 0x0 .any []
/-- TIMEOUTS: bits [31:0] at 0x00500050. Deadlines passed here -/
def Reg.collTimeouts : Reg := .mk 0x500050 0 32 .ro 0x0 .any []
/-- SLOW_TX: bits [31:0] at 0x00500054. SLOW cells sent -/
def Reg.collSlowTx : Reg := .mk 0x500054 0 32 .ro 0x0 .any []
/-- SLOW_RX: bits [31:0] at 0x00500058. SLOW cells received -/
def Reg.collSlowRx : Reg := .mk 0x500058 0 32 .ro 0x0 .any []
/-- STALE_DISCARDED: bits [31:0] at 0x0050005C. R276 -/
def Reg.collStaleDiscarded : Reg := .mk 0x50005C 0 32 .ro 0x0 .any []
/-- BYTES_REDUCED: bits [63:0] at 0x00500060. Contribution bytes combined here -/
def Reg.collBytesReduced : Reg := .mk 0x500060 0 64 .ro 0x0 .any []
/-- LAST_SEQ: bits [63:0] at 0x00500080. SEQ of the last collective that ended with a failure status -/
def Reg.collLastSeq : Reg := .mk 0x500080 0 64 .ro 0x0 .any []
/-- LAST_STATUS: bits [31:24] at 0x00500088. Its status code -/
def Reg.collLastStatus : Reg := .mk 0x500088 24 8 .ro 0x0 .any []
/-- LAST_CAUSE: bits [22:20] at 0x00500088. CAUSE -/
def Reg.collLastCause : Reg := .mk 0x500088 20 3 .ro 0x0 .any []
/-- LAST_FIELD: bits [19:16] at 0x00500088. FIELD -/
def Reg.collLastField : Reg := .mk 0x500088 16 4 .ro 0x0 .any []
/-- LAST_RANK: bits [13:0] at 0x00500088. RANK -/
def Reg.collLastRank : Reg := .mk 0x500088 0 14 .ro 0x0 .any []

/-! Integrity block (spec/11_integrity_and_test.md). -/
/-- CORNERS: bits [4:2] at 0x00600000. Bit 2 Summer, bit 1 Spring, bit 0 Winter -/
def Reg.intCorners : Reg := .mk 0x600000 2 3 .rw 0x7 .any []
/-- SHADOW_ENABLE: bits [1:1] at 0x00600000. R284 -/
def Reg.intShadowEnable : Reg := .mk 0x600000 1 1 .rw 0x0 .any []
/-- TEST_ENABLE: bits [0:0] at 0x00600000. R292 -/
def Reg.intTestEnable : Reg := .mk 0x600000 0 1 .rw 0x0 .any []
/-- SUSPECT_INTERVAL_S: bits [31:16] at 0x00600004. 60–3,600 -/
def Reg.intSuspectIntervalS : Reg := .mk 0x600004 16 16 .rw 0x258 (.range 60 3600) []
/-- TEST_INTERVAL_S: bits [15:0] at 0x00600004. 60–3,600 -/
def Reg.intTestIntervalS : Reg := .mk 0x600004 0 16 .rw 0x12c (.range 60 3600) []
/-- MAX_DEFER_MS: bits [31:0] at 0x00600008. 10–60,000 -/
def Reg.intMaxDeferMs : Reg := .mk 0x600008 0 32 .rw 0x7d0 (.range 10 60000) []
/-- CLEAN_TO_HEALTHY: bits [23:16] at 0x0060000C. 1–127 -/
def Reg.intCleanToHealthy : Reg := .mk 0x60000C 16 8 .rw 0x18 (.range 1 127) []
/-- SHADOW_SHIFT_SUSPECT: bits [15:8] at 0x0060000C. 2–12 -/
def Reg.intShadowShiftSuspect : Reg := .mk 0x60000C 8 8 .rw 0x6 (.range 2 12) []
/-- SHADOW_SHIFT: bits [7:0] at 0x0060000C. 4–20 -/
def Reg.intShadowShift : Reg := .mk 0x60000C 0 8 .rw 0xc (.range 4 20) []
/-- SUMMER_HEAT_MS: bits [31:16] at 0x00600010. 1–200 -/
def Reg.intSummerHeatMs : Reg := .mk 0x600010 16 16 .rw 0x28 (.range 1 200) []
/-- SUMMER_C: bits [15:8] at 0x00600010. °C, 85–99 -/
def Reg.intSummerC : Reg := .mk 0x600010 8 8 .rw 0x5f (.range 85 99) []
/-- SPRING_PCT: bits [7:4] at 0x00600010. 1–10 -/
def Reg.intSpringPct : Reg := .mk 0x600010 4 4 .rw 0x8 (.range 1 10) []
/-- WINTER_PCT: bits [3:0] at 0x00600010. 1–10 -/
def Reg.intWinterPct : Reg := .mk 0x600010 0 4 .rw 0x5 (.range 1 10) []
/-- BJ_DUE_HOURS: bits [15:0] at 0x00600014. 1–720 -/
def Reg.intBjDueHours : Reg := .mk 0x600014 0 16 .rw 0x18 (.range 1 720) []
/-- CLUSTERS_IN_SERVICE: bits [31:24] at 0x00600100. 4 × quads not FENCED -/
def Reg.intClustersInService : Reg := .mk 0x600100 24 8 .ro 0xc0 .any []
/-- SUSPECT_COUNT: bits [23:16] at 0x00600100. Units SUSPECT -/
def Reg.intSuspectCount : Reg := .mk 0x600100 16 8 .ro 0x0 .any []
/-- FENCED_COUNT: bits [15:8] at 0x00600100. Units FENCED -/
def Reg.intFencedCount : Reg := .mk 0x600100 8 8 .ro 0x0 .any []
/-- RISK: bits [7:6] at 0x00600100. Risk level of Shroud Copies, Digests and Restore -/
def Reg.intRisk : Reg := .mk 0x600100 6 2 .ro 0x0 .any []
/-- BJ_OVERDUE: bits [5:5] at 0x00600100. R293 -/
def Reg.intBjOverdue : Reg := .mk 0x600100 5 1 .ro 0x0 .any []
/-- WITHHELD_ANY: bits [4:4] at 0x00600100. Some unit has WITHHELD set -/
def Reg.intWithheldAny : Reg := .mk 0x600100 4 1 .ro 0x0 .any []
/-- CHECK_EVENTS: bits [31:0] at 0x00600108. Check events, saturating -/
def Reg.intCheckEvents : Reg := .mk 0x600108 0 32 .ro 0x0 .any []
/-- CHECKER_WRONG: bits [31:0] at 0x0060010C. Outcomes 1 -/
def Reg.intCheckerWrong : Reg := .mk 0x60010C 0 32 .ro 0x0 .any []
/-- RESULT_WRONG: bits [31:0] at 0x00600110. Outcomes 2 -/
def Reg.intResultWrong : Reg := .mk 0x600110 0 32 .ro 0x0 .any []
/-- NO_MAJORITY: bits [31:0] at 0x00600114. Outcomes 3 -/
def Reg.intNoMajority : Reg := .mk 0x600114 0 32 .ro 0x0 .any []
/-- SHADOW_PASSES: bits [63:0] at 0x00600118. Shadow executions run -/
def Reg.intShadowPasses : Reg := .mk 0x600118 0 64 .ro 0x0 .any []
/-- SHADOW_MISMATCHES: bits [31:0] at 0x00600120. Shadow disagreements -/
def Reg.intShadowMismatches : Reg := .mk 0x600120 0 32 .ro 0x0 .any []
/-- TESTS_LATE: bits [31:0] at 0x00600124. Late tests -/
def Reg.intTestsLate : Reg := .mk 0x600124 0 32 .ro 0x0 .any []
/-- SKIPPED_WINDOWS: bits [31:0] at 0x00600128. Windows and LLS units passed over -/
def Reg.intSkippedWindows : Reg := .mk 0x600128 0 32 .ro 0x0 .any []
/-- ILOG_WRITTEN: bits [63:0] at 0x00600200. R300 -/
def Reg.intIlogWritten : Reg := .mk 0x600200 0 64 .ro 0x0 .any []
/-- HSTATE: bits [31:30] at 0x00601000 + 0x10 × i. 0 HEALTHY, 1 SUSPECT, 2 FENCED -/
def Reg.unitHstate : Reg := .mk 0x601000 30 2 .ro 0x0 .any [(96, 0x10)]
/-- WITHHELD: bits [29:29] at 0x00601000 + 0x10 × i. R297 -/
def Reg.unitWithheld : Reg := .mk 0x601000 29 1 .ro 0x0 .any [(96, 0x10)]
/-- LATE: bits [28:28] at 0x00601000 + 0x10 × i. The last test started late -/
def Reg.unitLate : Reg := .mk 0x601000 28 1 .ro 0x0 .any [(96, 0x10)]
/-- LAST_RESULT: bits [27:26] at 0x00601000 + 0x10 × i. 0 none, 1 pass, 2 fail, 3 CUT -/
def Reg.unitLastResult : Reg := .mk 0x601000 26 2 .ro 0x0 .any [(96, 0x10)]
/-- NEXT_CORNER: bits [25:24] at 0x00601000 + 0x10 × i. 0 Winter, 1 Spring, 2 Summer, 3 none -/
def Reg.unitNextCorner : Reg := .mk 0x601000 24 2 .ro 0x0 .any [(96, 0x10)]
/-- TESTING: bits [23:23] at 0x00601000 + 0x10 × i. Under test now -/
def Reg.unitTesting : Reg := .mk 0x601000 23 1 .ro 0x0 .any [(96, 0x10)]
/-- CLEAN: bits [22:16] at 0x00601000 + 0x10 × i. R296 -/
def Reg.unitClean : Reg := .mk 0x601000 16 7 .ro 0x0 .any [(96, 0x10)]
/-- FENCE_SOURCE: bits [10:8] at 0x00601000 + 0x10 × i. 0 none, 1 test, 2 majority, 3 management, 4 host -/
def Reg.unitFenceSource : Reg := .mk 0x601000 8 3 .ro 0x0 .any [(96, 0x10)]
/-- LAST_KERNEL: bits [7:0] at 0x00601000 + 0x10 × i. First failing kernel of the last failed test -/
def Reg.unitLastKernel : Reg := .mk 0x601000 0 8 .ro 0x0 .any [(96, 0x10)]
/-- TESTS_RUN: bits [31:0] at 0x00601004 + 0x10 × i. Tests of the unit since cold reset -/
def Reg.unitTestsRun : Reg := .mk 0x601004 0 32 .ro 0x0 .any [(96, 0x10)]
/-- TESTS_FAILED: bits [31:0] at 0x00601008 + 0x10 × i. Failed tests -/
def Reg.unitTestsFailed : Reg := .mk 0x601008 0 32 .ro 0x0 .any [(96, 0x10)]
/-- LAST_TEST_S: bits [31:0] at 0x0060100C + 0x10 × i. Seconds from cold reset to the start of the last test -/
def Reg.unitLastTestS : Reg := .mk 0x60100C 0 32 .ro 0x0 .any [(96, 0x10)]

/-! Shroud block (spec/12_shroud_and_restore.md). -/
/-- FORCE_PAIRING: bits [3:3] at 0x00700000. R307; used by group managers -/
def Reg.shrForcePairing : Reg := .mk 0x700000 3 1 .rw 0x0 .any []
/-- SIGN: bits [2:2] at 0x00700000. R311 -/
def Reg.shrSign : Reg := .mk 0x700000 2 1 .rw 0x0 .any []
/-- HOLD_ENABLE: bits [1:1] at 0x00700000. Accept a source's copies -/
def Reg.shrHoldEnable : Reg := .mk 0x700000 1 1 .rw 0x0 .any []
/-- ENABLE: bits [0:0] at 0x00700000. Make copies of own state -/
def Reg.shrEnable : Reg := .mk 0x700000 0 1 .rw 0x0 .any []
/-- RISK_FLOOR: bits [17:16] at 0x00700004. Lowest risk level -/
def Reg.shrRiskFloor : Reg := .mk 0x700004 16 2 .rw 0x0 .any []
/-- RISK_HOLD_S: bits [15:0] at 0x00700004. 60–65,535 -/
def Reg.shrRiskHoldS : Reg := .mk 0x700004 0 16 .rw 0xe10 (.range 60 65535) []
/-- INTERVAL1: bits [31:16] at 0x00700008. 1–65,535 -/
def Reg.shrInterval1 : Reg := .mk 0x700008 16 16 .rw 0x10 (.range 1 65535) []
/-- INTERVAL0: bits [15:0] at 0x00700008. 1–65,535 -/
def Reg.shrInterval0 : Reg := .mk 0x700008 0 16 .rw 0x40 (.range 1 65535) []
/-- INTERVAL3: bits [31:16] at 0x0070000C. 1–65,535 -/
def Reg.shrInterval3 : Reg := .mk 0x70000C 16 16 .rw 0x1 (.range 1 65535) []
/-- INTERVAL2: bits [15:0] at 0x0070000C. 1–65,535 -/
def Reg.shrInterval2 : Reg := .mk 0x70000C 0 16 .rw 0x4 (.range 1 65535) []
/-- SHROUD_TIMEOUT_MS: bits [31:0] at 0x00700010. 100–600,000 -/
def Reg.shrShroudTimeoutMs : Reg := .mk 0x700010 0 32 .rw 0x7d0 (.range 100 600000) []
/-- COMMITS_SINCE: bits [31:0] at 0x00700014. R310 -/
def Reg.shrCommitsSince : Reg := .mk 0x700014 0 32 .ro 0x0 .any []
/-- RISK_CAUSE: bits [31:16] at 0x00700018. Cause bits of R316 -/
def Reg.shrRiskCause : Reg := .mk 0x700018 16 16 .ro 0x0 .any []
/-- RISK: bits [1:0] at 0x00700018. Level in force; the same as RISK of R303 -/
def Reg.shrRisk : Reg := .mk 0x700018 0 2 .ro 0x0 .any []
/-- SRC_STATE: bits [31:29] at 0x00700020. 0 NONE, 1 ASSIGNED, 2 ACCEPTED, 3 REFUSED, 4 LOST -/
def Reg.shrSrcState : Reg := .mk 0x700020 29 3 .ro 0x0 .any []
/-- FORCED: bits [28:28] at 0x00700020. R307 -/
def Reg.shrForced : Reg := .mk 0x700020 28 1 .ro 0x0 .any []
/-- REFUSE_CAUSE: bits [27:24] at 0x00700020. ACCEPT result, or 4 for a same-feed pairing -/
def Reg.shrRefuseCause : Reg := .mk 0x700020 24 4 .ro 0x0 .any []
/-- HOLDER_NODE: bits [13:0] at 0x00700020. Assigned holder -/
def Reg.shrHolderNode : Reg := .mk 0x700020 0 14 .ro 0x3fff .any []
/-- HOLD_STATE: bits [31:29] at 0x00700024. 0 NONE, 1 ASSIGNED, 2 HOLDING, 3 RETAINED -/
def Reg.shrHoldState : Reg := .mk 0x700024 29 3 .ro 0x0 .any []
/-- HELD_SOURCE_NODE: bits [13:0] at 0x00700024. Source held for -/
def Reg.shrHeldSourceNode : Reg := .mk 0x700024 0 14 .ro 0x3fff .any []
/-- HELD_SOURCE_ID: bits [63:0] at 0x00700028. MODULE_ID of that source -/
def Reg.shrHeldSourceId : Reg := .mk 0x700028 0 64 .ro 0x0 .any []
/-- CURSOR: bits [255:0] at 0x00700030. Data-cursor token, in eight words at 0x0070_0030–0x0070_004C -/
def Reg.shrCursor : Reg := .mk 0x700030 0 256 .rw 0x0 .any []
/-- LAST_COPY_STEP: bits [63:0] at 0x00700050. STEP of the last completed copy -/
def Reg.shrLastCopyStep : Reg := .mk 0x700050 0 64 .ro 0x0 .any []
/-- COPIES_DONE: bits [31:0] at 0x00700058. Completed copies -/
def Reg.shrCopiesDone : Reg := .mk 0x700058 0 32 .ro 0x0 .any []
/-- COPIES_ABANDONED: bits [31:4] at 0x0070005C. Abandoned copies, saturating -/
def Reg.shrCopiesAbandoned : Reg := .mk 0x70005C 4 28 .ro 0x0 .any []
/-- LAST_ABANDON: bits [3:0] at 0x0070005C. Cause of R314 -/
def Reg.shrLastAbandon : Reg := .mk 0x70005C 0 4 .ro 0x0 .any []
/-- SHROUD_PATH_A: bits [31:0] at 0x00700060. Egress port of stack s in bits [4s + 3:4s], s = 0–7 -/
def Reg.shrShroudPathA : Reg := .mk 0x700060 0 32 .rw 0xffffffff .routes []
/-- SHROUD_PATH_B: bits [31:0] at 0x00700064. Stacks 8–15, likewise -/
def Reg.shrShroudPathB : Reg := .mk 0x700064 0 32 .rw 0xffffffff .routes []
/-- SHROUD_PATH_C: bits [15:0] at 0x00700068. Stacks 16–19, likewise -/
def Reg.shrShroudPathC : Reg := .mk 0x700068 0 16 .rw 0xffff .routes []
/-- SHROUD_BASE: bits [63:0] at 0x00700100 + 0x10 × i. Holder area in stack-local s; bits [19:0] zero; 0 none -/
def Reg.shrAreaShroudBase : Reg := .mk 0x700100 0 64 .rw 0x0 (.lowZero 20) [(20, 0x10)]
/-- SHROUD_MIB: bits [31:0] at 0x00700108 + 0x10 × i. Area size in MiB, 0 or 3–65,536 -/
def Reg.shrAreaShroudMib : Reg := .mk 0x700108 0 32 .rw 0x0 (.zeroOr 3 65536) [(20, 0x10)]
/-- IMAGE_BOLTS: bits [31:0] at 0x0070010C + 0x10 × i. This module's image of stack s (R305) -/
def Reg.shrAreaImageBolts : Reg := .mk 0x70010C 0 32 .ro 0x0 .any [(20, 0x10)]
/-- SLOT_STATE: bits [31:30] at 0x00700300 + 0x20 × i. Holder slot k: 0 EMPTY, 1 FILLING, 2 COMPLETE -/
def Reg.shrSlotSlotState : Reg := .mk 0x700300 30 2 .ro 0x0 .any [(2, 0x20)]
/-- SLOT_SIGNED: bits [29:29] at 0x00700300 + 0x20 × i. Signature present -/
def Reg.shrSlotSlotSigned : Reg := .mk 0x700300 29 1 .ro 0x0 .any [(2, 0x20)]
/-- SLOT_STEP: bits [63:0] at 0x00700308 + 0x20 × i. STEP of the copy -/
def Reg.shrSlotSlotStep : Reg := .mk 0x700308 0 64 .ro 0x0 .any [(2, 0x20)]
/-- SLOT_SOURCE_ID: bits [63:0] at 0x00700310 + 0x20 × i. Source of the copy -/
def Reg.shrSlotSlotSourceId : Reg := .mk 0x700310 0 64 .ro 0x0 .any [(2, 0x20)]

/-! Identity and global enables (spec/13_host_interface.md). -/
/-- HW_REV: bits [31:24] at 0x00000000. Module hardware revision, ASCII "A" -/
def Reg.devHwRev : Reg := .mk 0x0 24 8 .ro 0x41 .any []
/-- COMPUTE_STEP: bits [23:16] at 0x00000000. Compute-die stepping -/
def Reg.devComputeStep : Reg := .mk 0x0 16 8 .ro 0xa2 .any []
/-- LLS_STEP: bits [15:8] at 0x00000000. LLS-die stepping -/
def Reg.devLlsStep : Reg := .mk 0x0 8 8 .ro 0xa1 .any []
/-- BASE_STEP: bits [7:0] at 0x00000000. Stack base-die stepping -/
def Reg.devBaseStep : Reg := .mk 0x0 0 8 .ro 0xa1 .any []
/-- FW_MAJOR: bits [31:24] at 0x00000004. Management firmware major release, 0x01 -/
def Reg.devFwMajor : Reg := .mk 0x4 24 8 .ro 1 .any []
/-- FW_MINOR: bits [23:16] at 0x00000004. Minor release, 0x00–0x09 -/
def Reg.devFwMinor : Reg := .mk 0x4 16 8 .ro 0 .any []
/-- NE: bits [7:0] at 0x00000004. Numerics epoch (R2) -/
def Reg.devNe : Reg := .mk 0x4 0 8 .ro 0x1 .any []
/-- MODULE_ID: bits [63:0] at 0x00000008. The same value as MODULE_ID of R254 -/
def Reg.devModuleId : Reg := .mk 0x8 0 64 .ro 0 .any []
/-- READY: bits [31:31] at 0x00000010. Start-up complete, and no function-level or device soft reset in progress (R431) -/
def Reg.devReady : Reg := .mk 0x10 31 1 .ro 0x0 .any []
/-- BOOT_ERROR: bits [15:8] at 0x00000010. Start-up failure code; zero when none -/
def Reg.devBootError : Reg := .mk 0x10 8 8 .ro 0x0 .any []
/-- DEVICE_ENABLE: bits [0:0] at 0x00000010. R331 -/
def Reg.devDeviceEnable : Reg := .mk 0x10 0 1 .rw 0x0 .any []
/-- BAR2_BASE: bits [63:0] at 0x00000018. Device address of BAR2 offset 0 (R328) -/
def Reg.devBar2Base : Reg := .mk 0x18 0 64 .rw 0x0 .any []
/-- TOKEN: bits [63:48] at 0x00000020. TOKEN_ADD: token index -/
def Reg.devToken : Reg := .mk 0x20 48 16 .wo 0x0 .any []
/-- AMOUNT: bits [47:0] at 0x00000020. TOKEN_ADD: amount added (R341, R343) -/
def Reg.devAmount : Reg := .mk 0x20 0 48 .wo 0x0 .any []
/-- AO_NOW: bits [63:0] at 0x00000028. AO ticks since cold reset -/
def Reg.devAoNow : Reg := .mk 0x28 0 64 .ro 0x0 .any []
/-- HOST_TIMEOUTS: bits [31:0] at 0x00000030. Failed host reads (R330), saturating -/
def Reg.devHostTimeouts : Reg := .mk 0x30 0 32 .ro 0x0 .any []
/-- CONFIG_IGNORED: bits [31:0] at 0x00000034. Writes ignored by R333 and R346, saturating -/
def Reg.devConfigIgnored : Reg := .mk 0x34 0 32 .ro 0x0 .any []

/-! Ring r, at 0x0001_0000 + 0x100 × r, r = 0–15 (spec/13_host_interface.md). -/
/-- RING_BASE: bits [63:0] at 0x00010000 + 0x100 × i. Ring array; bits [11:0] zero, and a write with any of them set is ignored (R332) -/
def Reg.ringRingBase : Reg := .mk 0x10000 0 64 .rw 0x0 (.lowZero 12) [(16, 0x100)]
/-- ENABLE: bits [31:31] at 0x00010008 + 0x100 × i. Fetch allowed (with DEVICE_ENABLE) -/
def Reg.ringEnable : Reg := .mk 0x10008 31 1 .rw 0x0 .any [(16, 0x100)]
/-- LOC: bits [30:30] at 0x00010008 + 0x100 × i. 0 host memory, 1 device memory -/
def Reg.ringLoc : Reg := .mk 0x10008 30 1 .rw 0x0 .any [(16, 0x100)]
/-- PRIORITY: bits [29:28] at 0x00010008 + 0x100 × i. 0–3, 3 highest -/
def Reg.ringPriority : Reg := .mk 0x10008 28 2 .rw 0x0 .any [(16, 0x100)]
/-- RING_LOG2: bits [4:0] at 0x00010008 + 0x100 × i. 6–16; other writes are ignored -/
def Reg.ringRingLog2 : Reg := .mk 0x10008 0 5 .rw 0x6 (.range 6 16) [(16, 0x100)]
/-- RING_TAIL: bits [31:0] at 0x0001000C + 0x100 × i. Slots published -/
def Reg.ringRingTail : Reg := .mk 0x1000C 0 32 .rw 0x0 .any [(16, 0x100)]
/-- RING_FETCHED: bits [31:0] at 0x00010010 + 0x100 × i. Slots read -/
def Reg.ringRingFetched : Reg := .mk 0x10010 0 32 .ro 0x0 .any [(16, 0x100)]
/-- RING_HEAD: bits [31:0] at 0x00010014 + 0x100 × i. Slots free for reuse (R335) -/
def Reg.ringRingHead : Reg := .mk 0x10014 0 32 .ro 0x0 .any [(16, 0x100)]
/-- RING_STATE: bits [9:8] at 0x00010018 + 0x100 × i. 0 IDLE, 1 RUNNING, 2 STOPPED, 3 RESETTING -/
def Reg.ringRingState : Reg := .mk 0x10018 8 2 .ro 0x0 .any [(16, 0x100)]
/-- STOP_CODE: bits [7:0] at 0x00010018 + 0x100 × i. Status that stopped the ring (R337) -/
def Reg.ringStopCode : Reg := .mk 0x10018 0 8 .ro 0x0 .any [(16, 0x100)]
/-- RING_RESET: bits [0:0] at 0x0001001C + 0x100 × i. R336 -/
def Reg.ringRingReset : Reg := .mk 0x1001C 0 1 .wo 0x0 .any [(16, 0x100)]
/-- STATUS_BASE: bits [63:0] at 0x00010020 + 0x100 × i. Status ring in host memory; bits [11:0] zero, and a write with any of them set is ignored (R346) -/
def Reg.ringStatusBase : Reg := .mk 0x10020 0 64 .rw 0x0 (.lowZero 12) [(16, 0x100)]
/-- STATUS_LOG2: bits [4:0] at 0x00010028 + 0x100 × i. 6–16; other writes are ignored -/
def Reg.ringStatusLog2 : Reg := .mk 0x10028 0 5 .rw 0x6 (.range 6 16) [(16, 0x100)]
/-- STATUS_HEAD: bits [31:0] at 0x0001002C + 0x100 × i. Records consumed by host software -/
def Reg.ringStatusHead : Reg := .mk 0x1002C 0 32 .rw 0x0 .any [(16, 0x100)]
/-- STATUS_TAIL: bits [31:0] at 0x00010030 + 0x100 × i. Records written -/
def Reg.ringStatusTail : Reg := .mk 0x10030 0 32 .ro 0x0 .any [(16, 0x100)]
/-- IN_FLIGHT: bits [31:0] at 0x00010034 + 0x100 × i. Packets fetched and not yet ended -/
def Reg.ringInFlight : Reg := .mk 0x10034 0 32 .ro 0x0 .any [(16, 0x100)]

/-! Token window (spec/13_host_interface.md). -/
/-- QUERY_TOKEN: bits [15:0] at 0x00020000 + 0x20 × i. Token compared by query slot q; bits [31:16] reserved -/
def Reg.queryQueryToken : Reg := .mk 0x20000 0 16 .rw 0x0 .any [(16, 0x20)]
/-- QUERY_VALUE: bits [63:0] at 0x00020008 + 0x20 × i. Value compared -/
def Reg.queryQueryValue : Reg := .mk 0x20008 0 64 .rw 0x0 .any [(16, 0x20)]
/-- QUERY_FAULTED: bits [8:8] at 0x00020010 + 0x20 × i. FAULTED of the token -/
def Reg.queryQueryFaulted : Reg := .mk 0x20010 8 1 .ro 0x0 .any [(16, 0x20)]
/-- QUERY_RESULT: bits [7:0] at 0x00020010 + 0x20 × i. 0x00 DONE or 0x02 PENDING (R345) -/
def Reg.queryQueryResult : Reg := .mk 0x20010 0 8 .ro 0x2 .any [(16, 0x20)]
/-- TOKEN_VALUE: bits [63:0] at 0x00030000 + 0x8 × i. Value of token i -/
def Reg.tokTokenValue : Reg := .mk 0x30000 0 64 .ro 0x0 .any [(65536, 0x8)]
/-- FAULTED_MAP: bits [31:0] at 0x000B0000 + 0x4 × i. Bit j is FAULTED of token 32w + j -/
def Reg.tokFaultedMap : Reg := .mk 0xB0000 0 32 .ro 0x0 .any [(2048, 0x4)]

/-! Fixed counters, cluster page (spec/14_counters.md). -/
/-- FIXED[e]: bits [63:0] at 0x01200400 + 0xC00000 × i + 0x1000 × j + 0x8 × k. Count of fixed event e -/
def Reg.fixFixed : Reg := .mk 0x1200400 0 64 .ro 0x0 .any [(4, 0xC00000), (48, 0x1000), (48, 0x8)]

/-! Counter block (spec/14_counters.md). -/
/-- SAMPLE_SHIFT: bits [13:9] at 0x00800000. k in force (R366) -/
def Reg.ctrSampleShift : Reg := .mk 0x800000 9 5 .ro 0x0 .any []
/-- SAMPLE_ENABLE: bits [8:8] at 0x00800000. Set and cleared by SAMPLE_CONTROL -/
def Reg.ctrSampleEnable : Reg := .mk 0x800000 8 1 .ro 0x0 .any []
/-- BW_ENABLE: bits [0:0] at 0x00800000. R364 -/
def Reg.ctrBwEnable : Reg := .mk 0x800000 0 1 .rw 0x0 .any []
/-- WINDOW_TICKS: bits [31:0] at 0x00800004. W, 500–0xFFFF_FFFF AO ticks (10 µs upwards); default 1 ms; other writes are ignored -/
def Reg.ctrWindowTicks : Reg := .mk 0x800004 0 32 .rw 0xc350 (.range 500 4294967295) []
/-- WINDOW_SEQ: bits [63:0] at 0x00800008. Windows completed -/
def Reg.ctrWindowSeq : Reg := .mk 0x800008 0 64 .ro 0x0 .any []
/-- WINDOW_END_TICK: bits [63:0] at 0x00800010. AO tick that ended the last completed window -/
def Reg.ctrWindowEndTick : Reg := .mk 0x800010 0 64 .ro 0x0 .any []
/-- SELECT_IGNORED: bits [31:0] at 0x00800018. SELECT writes ignored by R361, saturating -/
def Reg.ctrSelectIgnored : Reg := .mk 0x800018 0 32 .ro 0x0 .any []
/-- ENABLE: bits [31:31] at 0x00801000 + 0x100 × i + 0x10 × j. Counter i of channel c counts -/
def Reg.progEnable : Reg := .mk 0x801000 31 1 .rw 0x0 .any [(4, 0x100), (16, 0x10)]
/-- FILTER: bits [23:20] at 0x00801000 + 0x100 × i + 0x10 × j. R362 -/
def Reg.progFilter : Reg := .mk 0x801000 20 4 .rw 0xf .any [(4, 0x100), (16, 0x10)]
/-- EVENT: bits [9:0] at 0x00801000 + 0x100 × i + 0x10 × j. R362 -/
def Reg.progEvent : Reg := .mk 0x801000 0 10 .rw 0x0 .any [(4, 0x100), (16, 0x10)]
/-- CLEAR: bits [0:0] at 0x00801004 + 0x100 × i + 0x10 × j. R361 -/
def Reg.progClear : Reg := .mk 0x801004 0 1 .wo 0x0 .any [(4, 0x100), (16, 0x10)]
/-- VALUE: bits [63:0] at 0x00801008 + 0x100 × i + 0x10 × j. Count -/
def Reg.progValue : Reg := .mk 0x801008 0 64 .ro 0x0 .any [(4, 0x100), (16, 0x10)]
/-- SAMPLES_WRITTEN: bits [63:0] at 0x00801800 + 0x20 × i. R367 -/
def Reg.sampSamplesWritten : Reg := .mk 0x801800 0 64 .ro 0x0 .any [(4, 0x20)]
/-- DESC_COUNTED: bits [63:0] at 0x00801808 + 0x20 × i. R366 -/
def Reg.sampDescCounted : Reg := .mk 0x801808 0 64 .ro 0x0 .any [(4, 0x20)]
/-- CYCLE_NOW: bits [63:0] at 0x00801810 + 0x20 × i. Channel cycles since the uncore domain last powered up -/
def Reg.sampCycleNow : Reg := .mk 0x801810 0 64 .ro 0x0 .any [(4, 0x20)]
/-- LAST_OUT: bits [63:0] at 0x00802000 + 0x20 × i. OUT bytes of the last completed window -/
def Reg.bwLastOut : Reg := .mk 0x802000 0 64 .ro 0x0 .any [(43, 0x20)]
/-- LAST_IN: bits [63:0] at 0x00802008 + 0x20 × i. IN bytes of that window -/
def Reg.bwLastIn : Reg := .mk 0x802008 0 64 .ro 0x0 .any [(43, 0x20)]
/-- TOTAL_OUT: bits [63:0] at 0x00802010 + 0x20 × i. OUT bytes since cold reset -/
def Reg.bwTotalOut : Reg := .mk 0x802010 0 64 .ro 0x0 .any [(43, 0x20)]
/-- TOTAL_IN: bits [63:0] at 0x00802018 + 0x20 × i. IN bytes since cold reset -/
def Reg.bwTotalIn : Reg := .mk 0x802018 0 64 .ro 0x0 .any [(43, 0x20)]

/-! Power and clock block (spec/15_power_and_startup.md). -/
/-- AUTO_GATE: bits [0:0] at 0x00900000. R374 -/
def Reg.pwrAutoGate : Reg := .mk 0x900000 0 1 .rw 0x1 .any []
/-- QUAD_IDLE_US: bits [31:16] at 0x00900004. 10–65,535 µs -/
def Reg.pwrQuadIdleUs : Reg := .mk 0x900004 16 16 .rw 0x64 (.range 10 65535) []
/-- STACK_IDLE_US: bits [15:0] at 0x00900004. 10–65,535 µs -/
def Reg.pwrStackIdleUs : Reg := .mk 0x900004 0 16 .rw 0x3e8 (.range 10 65535) []
/-- POWER_LIMIT_W: bits [15:0] at 0x00900008. 1,000–3,400 W (R377) -/
def Reg.pwrPowerLimitW : Reg := .mk 0x900008 0 16 .rw 0xd48 (.range 1000 3400) []
/-- POWER_THROTTLED: bits [8:8] at 0x0090000C. R377 -/
def Reg.pwrPowerThrottled : Reg := .mk 0x90000C 8 1 .ro 0x0 .any []
/-- DIE_THROTTLED: bits [3:0] at 0x0090000C. Bit c: channel c throttled (R380) -/
def Reg.pwrDieThrottled : Reg := .mk 0x90000C 0 4 .ro 0x0 .any []
/-- INPUT_MV: bits [31:16] at 0x00900010. Input voltage, mV, 10 ms average -/
def Reg.pwrInputMv : Reg := .mk 0x900010 16 16 .ro 0x0 .any []
/-- INPUT_W: bits [15:0] at 0x00900010. Input power, W, 10 ms average -/
def Reg.pwrInputW : Reg := .mk 0x900010 0 16 .ro 0x0 .any []
/-- DROOP_EVENTS: bits [31:0] at 0x00900014. R378, saturating -/
def Reg.pwrDroopEvents : Reg := .mk 0x900014 0 32 .ro 0x0 .any []
/-- PENDING_IMAGE: bits [5:5] at 0x00900018. PENDING of the boot record (R385) -/
def Reg.pwrPendingImage : Reg := .mk 0x900018 5 1 .ro 0x0 .any []
/-- BOOT_AREA: bits [4:4] at 0x00900018. Area booted: 0 A, 1 B -/
def Reg.pwrBootArea : Reg := .mk 0x900018 4 1 .ro 0x0 .any []
/-- LAST_RESET: bits [2:0] at 0x00900018. 0 cold, 1 warm, 2 function-level, 3 device soft, 4 management -/
def Reg.pwrLastReset : Reg := .mk 0x900018 0 3 .ro 0x0 .any []
/-- TRIP_COUNT: bits [31:16] at 0x0090001C. Thermal trips recorded (R381) -/
def Reg.pwrTripCount : Reg := .mk 0x90001C 16 16 .ro 0 .any []
/-- TRIP_SOURCE: bits [15:8] at 0x0090001C. Last trip: 0 none, 1–4 compute die of channel 0–3, 5–24 stack 0–19 -/
def Reg.pwrTripSource : Reg := .mk 0x90001C 8 8 .ro 0 .any []
/-- TRIP_TEMP: bits [7:0] at 0x0090001C. Temperature at the last trip, °C -/
def Reg.pwrTripTemp : Reg := .mk 0x90001C 0 8 .ro 0 .any []
/-- PLL_LOCKED: bits [16:16] at 0x00900020 + 0x4 × i. Channel PLL locked -/
def Reg.diePllLocked : Reg := .mk 0x900020 16 1 .ro 0x0 .any [(4, 0x4)]
/-- DIE_TEMP_MAX: bits [15:8] at 0x00900020 + 0x4 × i. Highest DIE_TEMP since cold reset, °C -/
def Reg.dieDieTempMax : Reg := .mk 0x900020 8 8 .ro 0x0 .any [(4, 0x4)]
/-- DIE_TEMP: bits [7:0] at 0x00900020 + 0x4 × i. Last reading, °C (R380) -/
def Reg.dieDieTemp : Reg := .mk 0x900020 0 8 .ro 0x0 .any [(4, 0x4)]
/-- DSTATE: bits [31:30] at 0x00900100 + 0x4 × i. Domain d: 0 OFF, 1 WAKING, 2 ON, 3 FENCED -/
def Reg.domDstate : Reg := .mk 0x900100 30 2 .ro 0x0 .any [(80, 0x4)]
/-- CLOCKS_STOPPED: bits [29:29] at 0x00900100 + 0x4 × i. Every fast clock of the domain is stopped -/
def Reg.domClocksStopped : Reg := .mk 0x900100 29 1 .ro 0x0 .any [(80, 0x4)]
/-- POWER_DW: bits [15:0] at 0x00900100 + 0x4 × i. Domain power, 0.1 W units, 10 ms average -/
def Reg.domPowerDw : Reg := .mk 0x900100 0 16 .ro 0x0 .any [(80, 0x4)]

/-! Management and security block (spec/16_management.md). -/
/-- LOG_FULL: bits [2:2] at 0x00A00000. R406 -/
def Reg.mgmtLogFull : Reg := .mk 0xA00000 2 1 .ro 0x0 .any []
/-- PORT_UP: bits [1:1] at 0x00A00000. SGMII link up -/
def Reg.mgmtPortUp : Reg := .mk 0xA00000 1 1 .ro 0x0 .any []
/-- KEY_STATE: bits [0:0] at 0x00A00000. 0 UNSET, 1 SET -/
def Reg.mgmtKeyState : Reg := .mk 0xA00000 0 1 .ro 0 .any []
/-- DEVICE_ADDR: bits [127:0] at 0x00A00010. Global IPv6 address; 0 none -/
def Reg.mgmtDeviceAddr : Reg := .mk 0xA00010 0 128 .rw 0 .any []
/-- COLLECTOR_ADDR: bits [127:0] at 0x00A00020. Collector IPv6 address; 0 none -/
def Reg.mgmtCollectorAddr : Reg := .mk 0xA00020 0 128 .rw 0 .any []
/-- COLLECTOR_PORT: bits [31:16] at 0x00A00030. UDP port, 1–65,535 -/
def Reg.mgmtCollectorPort : Reg := .mk 0xA00030 16 16 .rw 0 (.range 1 65535) []
/-- MGMT_PORT: bits [15:0] at 0x00A00030. UDP port, 1–65,535 -/
def Reg.mgmtMgmtPort : Reg := .mk 0xA00030 0 16 .rw 0 (.range 1 65535) []
/-- SUMMARY_S: bits [31:16] at 0x00A00034. 1–3,600 s -/
def Reg.mgmtSummaryS : Reg := .mk 0xA00034 16 16 .rw 0x3c (.range 1 3600) []
/-- RESEND_MS: bits [15:0] at 0x00A00034. 100–60,000 ms -/
def Reg.mgmtResendMs : Reg := .mk 0xA00034 0 16 .rw 0x3e8 (.range 100 60000) []
/-- KEY: bits [255:0] at 0x00A00040. Management key, in eight words; takes effect on the write of the last word, only while KEY_STATE is UNSET -/
def Reg.mgmtKey : Reg := .mk 0xA00040 0 256 .wo 0x0 .any []
/-- LAST_CMD_SEQ: bits [63:0] at 0x00A00060. R399 -/
def Reg.mgmtLastCmdSeq : Reg := .mk 0xA00060 0 64 .ro 0 .any []
/-- SVN_MIN: bits [31:0] at 0x00A00068. R384 -/
def Reg.mgmtSvnMin : Reg := .mk 0xA00068 0 32 .ro 0 .any []
/-- REPORTS_SENT: bits [63:0] at 0x00A00070. Reports sent, resends excluded -/
def Reg.mgmtReportsSent : Reg := .mk 0xA00070 0 64 .ro 0x0 .any []
/-- REPORTS_DROPPED: bits [31:0] at 0x00A00078. R400, saturating -/
def Reg.mgmtReportsDropped : Reg := .mk 0xA00078 0 32 .ro 0x0 .any []
/-- CMDS_ACCEPTED: bits [31:0] at 0x00A0007C. Commands executed, saturating -/
def Reg.mgmtCmdsAccepted : Reg := .mk 0xA0007C 0 32 .ro 0x0 .any []
/-- CMDS_REJECTED: bits [31:0] at 0x00A00080. Commands discarded or answered AUTH_FAIL, saturating -/
def Reg.mgmtCmdsRejected : Reg := .mk 0xA00080 0 32 .ro 0x0 .any []

/-- Every register field. -/
def allRegs : List Reg :=
  [Reg.capValid, Reg.capEvents, Reg.capTag, Reg.capDescId, Reg.capMatrix, Reg.capRow,
   Reg.capCol, Reg.capKblock, Reg.olDoublings, Reg.olMode, Reg.olReefCount, Reg.olReefState,
   Reg.olReefSet, Reg.olReefClear, Reg.stDefaults, Reg.stEnable, Reg.stIgnoredWrites, Reg.stAttempt,
   Reg.stBroken, Reg.stHalted, Reg.stState, Reg.stNextStep, Reg.stCurrentStep, Reg.stRunSeed,
   Reg.stActive, Reg.stPartial, Reg.stDone, Reg.stClearBroken, Reg.stReplayBudget, Reg.stNumPolicy,
   Reg.stGradScale, Reg.stGsSet, Reg.stGsBackoff, Reg.stGsInterval, Reg.stGsClean, Reg.stGsMin,
   Reg.stGsMax, Reg.stRecordBase, Reg.stSlotKib, Reg.stSlots] ++
  [Reg.stRecordsWritten, Reg.stStateBase, Reg.ratioPolicy, Reg.ratioLo, Reg.ratioHi, Reg.monEnable,
   Reg.monAlphaK, Reg.monPolicy, Reg.monWarmup, Reg.monThrHi, Reg.monThrLo, Reg.monBaseline,
   Reg.monCount, Reg.monLastNorm, Reg.monJump, Reg.monMissing, Reg.monExtra, Reg.monBaselineSet,
   Reg.shTag, Reg.shEnable, Reg.shLenM1, Reg.shTarget, Reg.shScale, Reg.seGroupTableBase,
   Reg.seHyperBase, Reg.seVariantTableBase, Reg.seGroupsLoaded, Reg.seForceCluster, Reg.seUpdateClusters, Reg.slotValid,
   Reg.slotRefs, Reg.slotVariant, Reg.engThrottled, Reg.engFallback, Reg.engEngineState, Reg.engElemsUpdated,
   Reg.engMvCycles, Reg.engDigestBytes, Reg.engValid, Reg.engStatus] ++
  [Reg.engGroup, Reg.memDShare, Reg.memCShare, Reg.memRebuildDue, Reg.memDeviceSpreadSize, Reg.memChannelSpreadSize,
   Reg.memStackLocalSize, Reg.memScrubEnable, Reg.memScrubHours, Reg.memCeLimit, Reg.memScrubPasses, Reg.memScrubLate,
   Reg.memBar2HoldLimit, Reg.memWarnRate, Reg.memMapoutRequest, Reg.hbmState, Reg.hbmCause, Reg.hbmUeCount,
   Reg.hbmCeCount, Reg.stkTstate, Reg.stkTemp, Reg.stkWarnEntries, Reg.stkCritEntries, Reg.stkCritTicks,
   Reg.llsUnitFree, Reg.llsLostOverflow, Reg.llsLostCount, Reg.llsLostClear, Reg.llsLlsCorrected, Reg.llsLostAddr,
   Reg.arbDrained, Reg.arbFreeze, Reg.arbWeight, Reg.arbGrants, Reg.arbEmptyGrants, Reg.portLoopback,
   Reg.portEnable, Reg.portPeerPort, Reg.portPeerChanged, Reg.portPstate] ++
  [Reg.portPeerId, Reg.portLinkSession, Reg.portFlitsTx, Reg.portFlitsRx, Reg.portResends, Reg.portCrcErrors,
   Reg.portFecCorrected, Reg.portFecUncorrectable, Reg.portRetrains, Reg.portCellsLost, Reg.portCellsDiscarded, Reg.portCellsUnroutable,
   Reg.portTxCredits, Reg.portPartial, Reg.linkRetryTimeout, Reg.linkRetryLimit, Reg.grpModuleId, Reg.grpGroupEnable,
   Reg.grpRole, Reg.grpNode, Reg.grpTopNode, Reg.grpManagerNode, Reg.grpStandby1, Reg.grpStandby0,
   Reg.grpTopStandby, Reg.grpChunkRule, Reg.grpHeartbeatMs, Reg.grpMissLimit, Reg.grpPrepareTimeoutMs, Reg.grpEpoch,
   Reg.grpInEpoch, Reg.grpPrepared, Reg.grpMembers, Reg.grpRank, Reg.grpOrderFp, Reg.grpTerm,
   Reg.grpIgnored, Reg.grpLocalUnroutable, Reg.mbrMstate, Reg.mbrRisk] ++
  [Reg.mbrFeedId, Reg.mbrMrank, Reg.mbrMissed, Reg.gtGactive, Reg.gtGrisk, Reg.gtGmanager,
   Reg.grpRoute, Reg.collCollRing, Reg.collEnable, Reg.collWatchdogMs, Reg.collSlowIntervalMs, Reg.collSlowLimitMs,
   Reg.collCollSeq, Reg.collHeld, Reg.collInFlight, Reg.stageUnits, Reg.stageFirst, Reg.collCompleted,
   Reg.collMismatches, Reg.collAbortsRx, Reg.collTimeouts, Reg.collSlowTx, Reg.collSlowRx, Reg.collStaleDiscarded,
   Reg.collBytesReduced, Reg.collLastSeq, Reg.collLastStatus, Reg.collLastCause, Reg.collLastField, Reg.collLastRank,
   Reg.intCorners, Reg.intShadowEnable, Reg.intTestEnable, Reg.intSuspectIntervalS, Reg.intTestIntervalS, Reg.intMaxDeferMs,
   Reg.intCleanToHealthy, Reg.intShadowShiftSuspect, Reg.intShadowShift, Reg.intSummerHeatMs] ++
  [Reg.intSummerC, Reg.intSpringPct, Reg.intWinterPct, Reg.intBjDueHours, Reg.intClustersInService, Reg.intSuspectCount,
   Reg.intFencedCount, Reg.intRisk, Reg.intBjOverdue, Reg.intWithheldAny, Reg.intCheckEvents, Reg.intCheckerWrong,
   Reg.intResultWrong, Reg.intNoMajority, Reg.intShadowPasses, Reg.intShadowMismatches, Reg.intTestsLate, Reg.intSkippedWindows,
   Reg.intIlogWritten, Reg.unitHstate, Reg.unitWithheld, Reg.unitLate, Reg.unitLastResult, Reg.unitNextCorner,
   Reg.unitTesting, Reg.unitClean, Reg.unitFenceSource, Reg.unitLastKernel, Reg.unitTestsRun, Reg.unitTestsFailed,
   Reg.unitLastTestS, Reg.shrForcePairing, Reg.shrSign, Reg.shrHoldEnable, Reg.shrEnable, Reg.shrRiskFloor,
   Reg.shrRiskHoldS, Reg.shrInterval1, Reg.shrInterval0, Reg.shrInterval3] ++
  [Reg.shrInterval2, Reg.shrShroudTimeoutMs, Reg.shrCommitsSince, Reg.shrRiskCause, Reg.shrRisk, Reg.shrSrcState,
   Reg.shrForced, Reg.shrRefuseCause, Reg.shrHolderNode, Reg.shrHoldState, Reg.shrHeldSourceNode, Reg.shrHeldSourceId,
   Reg.shrCursor, Reg.shrLastCopyStep, Reg.shrCopiesDone, Reg.shrCopiesAbandoned, Reg.shrLastAbandon, Reg.shrShroudPathA,
   Reg.shrShroudPathB, Reg.shrShroudPathC, Reg.shrAreaShroudBase, Reg.shrAreaShroudMib, Reg.shrAreaImageBolts, Reg.shrSlotSlotState,
   Reg.shrSlotSlotSigned, Reg.shrSlotSlotStep, Reg.shrSlotSlotSourceId, Reg.devHwRev, Reg.devComputeStep, Reg.devLlsStep,
   Reg.devBaseStep, Reg.devFwMajor, Reg.devFwMinor, Reg.devNe, Reg.devModuleId, Reg.devReady,
   Reg.devBootError, Reg.devDeviceEnable, Reg.devBar2Base, Reg.devToken] ++
  [Reg.devAmount, Reg.devAoNow, Reg.devHostTimeouts, Reg.devConfigIgnored, Reg.ringRingBase, Reg.ringEnable,
   Reg.ringLoc, Reg.ringPriority, Reg.ringRingLog2, Reg.ringRingTail, Reg.ringRingFetched, Reg.ringRingHead,
   Reg.ringRingState, Reg.ringStopCode, Reg.ringRingReset, Reg.ringStatusBase, Reg.ringStatusLog2, Reg.ringStatusHead,
   Reg.ringStatusTail, Reg.ringInFlight, Reg.queryQueryToken, Reg.queryQueryValue, Reg.queryQueryFaulted, Reg.queryQueryResult,
   Reg.tokTokenValue, Reg.tokFaultedMap, Reg.fixFixed, Reg.ctrSampleShift, Reg.ctrSampleEnable, Reg.ctrBwEnable,
   Reg.ctrWindowTicks, Reg.ctrWindowSeq, Reg.ctrWindowEndTick, Reg.ctrSelectIgnored, Reg.progEnable, Reg.progFilter,
   Reg.progEvent, Reg.progClear, Reg.progValue, Reg.sampSamplesWritten] ++
  [Reg.sampDescCounted, Reg.sampCycleNow, Reg.bwLastOut, Reg.bwLastIn, Reg.bwTotalOut, Reg.bwTotalIn,
   Reg.pwrAutoGate, Reg.pwrQuadIdleUs, Reg.pwrStackIdleUs, Reg.pwrPowerLimitW, Reg.pwrPowerThrottled, Reg.pwrDieThrottled,
   Reg.pwrInputMv, Reg.pwrInputW, Reg.pwrDroopEvents, Reg.pwrPendingImage, Reg.pwrBootArea, Reg.pwrLastReset,
   Reg.pwrTripCount, Reg.pwrTripSource, Reg.pwrTripTemp, Reg.diePllLocked, Reg.dieDieTempMax, Reg.dieDieTemp,
   Reg.domDstate, Reg.domClocksStopped, Reg.domPowerDw, Reg.mgmtLogFull, Reg.mgmtPortUp, Reg.mgmtKeyState,
   Reg.mgmtDeviceAddr, Reg.mgmtCollectorAddr, Reg.mgmtCollectorPort, Reg.mgmtMgmtPort, Reg.mgmtSummaryS, Reg.mgmtResendMs,
   Reg.mgmtKey, Reg.mgmtLastCmdSeq, Reg.mgmtSvnMin, Reg.mgmtReportsSent] ++
  [Reg.mgmtReportsDropped, Reg.mgmtCmdsAccepted, Reg.mgmtCmdsRejected]

end Sys2Proof.Machine
end

