-- ==== Sys2Proof/Machine/Flags.lean ====
section
/-! DEFINITION. The flag vector, event positions, counts and first positions (R86, R87, R88, R89). -/

namespace Sys2Proof.Machine

/-- The flags of R86, in bit order. -/
inductive Flag where
  | nanIn | infIn | invalid | ovf | sat | longsum | outlierOvf | scaleClamp
  deriving DecidableEq, Repr

/-- The bit of a flag in the flag vector. -/
def Flag.bit : Flag → Nat
  | .nanIn => 0 | .infIn => 1 | .invalid => 2 | .ovf => 3
  | .sat => 4 | .longsum => 5 | .outlierOvf => 6 | .scaleClamp => 7

/-- The position of a flag event (R87). -/
structure Pos where
  matrix : Nat
  row : Nat
  col : Nat
  kblock : Nat
  deriving DecidableEq, Repr, Inhabited

/-- The order of positions: MATRIX, ROW, COL, KBLOCK as unsigned values (R87). -/
def Pos.lt (p q : Pos) : Bool :=
  decide (p.matrix < q.matrix) || (p.matrix == q.matrix &&
    (decide (p.row < q.row) || (p.row == q.row &&
      (decide (p.col < q.col) || (p.col == q.col && decide (p.kblock < q.kblock))))))

/-- KBLOCK of a merge event. -/
def kbMerge : Nat := 0xFFFFFFFE
/-- KBLOCK of a readout event. -/
def kbReadout : Nat := 0xFFFFFFFF
/-- KBLOCK of a writer event (R130). -/
def kbWriter : Nat := 0xFFFFFFFD

/-- One flag event. -/
structure Event where
  flag : Flag
  pos : Pos
  deriving DecidableEq, Repr

/-- The event count, saturating at 2^32 − 1, and the first position of one flag (R89). -/
structure FlagStat where
  count : Nat
  first : Pos
  deriving DecidableEq, Repr, Inhabited

/-- Counts and first positions of the flags that have events, keyed by flag bit. -/
abbrev FlagSet := Tab FlagStat

/-- Take one event into the counts. -/
def FlagSet.add (t : FlagSet) (e : Event) : FlagSet :=
  match Tab.find t e.flag.bit with
  | none => Tab.put t e.flag.bit { count := 1, first := e.pos }
  | some st =>
    Tab.put t e.flag.bit
      { count := satInc 32 st.count, first := if Pos.lt e.pos st.first then e.pos else st.first }

/-- The counts of a list of events. -/
def FlagSet.ofEvents (es : List Event) : FlagSet := es.foldl FlagSet.add []

/-- One flag's counts of two parts together: the counts added, the lesser first position (R89). -/
def FlagStat.join (a b : FlagStat) : FlagStat :=
  { count := satAdd 32 a.count b.count, first := if Pos.lt b.first a.first then b.first else a.first }

/-- The counts of two parts together (R89). -/
def FlagSet.join (t u : FlagSet) : FlagSet :=
  u.foldl (fun t p => match Tab.find t p.1 with
    | none => Tab.put t p.1 p.2
    | some x => Tab.put t p.1 (x.join p.2)) t

/-- The flag vector (R86): the or of the bits of the flags that have events. -/
def FlagSet.vector (t : FlagSet) : Nat := (t.map (fun p => 2 ^ p.1)).foldl (· + ·) 0

/-- The vector of a list of events. -/
def flagVector (es : List Event) : Nat := FlagSet.vector (FlagSet.ofEvents es)

/-- The tile status word of R88 from the flags of a tile and its widened blocks. -/
def tileStatus (f : FlagSet) (widened : Nat) : Nat :=
  (if widened < 0x10000 then widened else 0xFFFF) * 2 ^ 16 + FlagSet.vector f

end Sys2Proof.Machine
end

