-- ==== Sys2Proof/Machine/Float32.lean ====
section
/-! DEFINITION. FP32 arithmetic, exact to the bit (R16, R38, R78, R80, R117) and the special functions (R118).
A finite value is an integer significand times a power of two; every operation forms the exact result and rounds
it once to nearest even. -/

namespace Sys2Proof.Machine

/-- The canonical NaN (R79, R117). -/
def f32NaN : F32 := 0x7FC00000#32
/-- +∞. -/
def f32Inf : F32 := 0x7F800000#32
/-- ±∞ by sign. -/
def f32InfS (neg : Bool) : F32 := if neg then 0xFF800000#32 else 0x7F800000#32
/-- +0. -/
def f32Zero : F32 := 0#32
/-- ±0 by sign. -/
def f32ZeroS (neg : Bool) : F32 := if neg then 0x80000000#32 else 0#32
/-- 1.0. -/
def f32One : F32 := 0x3F800000#32
/-- 2.0. -/
def f32Two : F32 := 0x40000000#32

/-- The sign bit. -/
def f32Neg (x : F32) : Bool := x.toNat.testBit 31
/-- The exponent field. -/
def f32Exp (x : F32) : Nat := bitsOf x.toNat 30 23
/-- The fraction field. -/
def f32Frac (x : F32) : Nat := bitsOf x.toNat 22 0
/-- NaN test. -/
def f32IsNaN (x : F32) : Bool := f32Exp x == 255 && f32Frac x != 0
/-- Infinity test. -/
def f32IsInf (x : F32) : Bool := f32Exp x == 255 && f32Frac x == 0
/-- Finite test. -/
def f32IsFin (x : F32) : Bool := f32Exp x != 255
/-- Zero test (either sign). -/
def f32IsZero (x : F32) : Bool := bitsOf x.toNat 30 0 == 0
/-- Positive, finite and normal (R41, R180). -/
def f32PosNormal (x : F32) : Bool := !f32Neg x && f32Exp x != 0 && f32Exp x != 255
/-- The significand of a finite value. -/
def f32Mant (x : F32) : Nat := if f32Exp x = 0 then f32Frac x else 2 ^ 23 + f32Frac x
/-- The power of two of a finite value's significand. -/
def f32Pow (x : F32) : Int := if f32Exp x = 0 then -149 else (f32Exp x : Int) - 150
/-- The significand with its sign. -/
def f32SMant (x : F32) : Int := if f32Neg x then -(f32Mant x : Int) else (f32Mant x : Int)
/-- Sign bit inverted. -/
def f32Negate (x : F32) : F32 := x ^^^ 0x80000000#32
/-- Sign bit cleared. -/
def f32Abs (x : F32) : F32 := x &&& 0x7FFFFFFF#32

/-- `n × 2^k` for a non-negative power, and its whole quotient for a negative one. -/
def scalePow (n : Nat) (k : Int) : Nat := if 0 ≤ k then n * 2 ^ k.toNat else n / 2 ^ (-k).toNat

/-- The exact value `±n × 2^k` rounded once to FP32 by round to nearest even; beyond the largest finite value ±∞;
a value that rounds to zero keeps the sign given (R78). -/
def round32M (neg : Bool) (n : Nat) (k : Int) : F32 :=
  if n = 0 then f32ZeroS neg
  else
    let q : Int := max ((Nat.log2 n : Int) + k - 23) (-149)
    let sh : Int := q - k
    let m : Nat :=
      if sh ≤ 0 then n * 2 ^ (-sh).toNat
      else
        let s := sh.toNat
        let r := n % 2 ^ s
        let lo := n / 2 ^ s
        if 2 ^ s < 2 * r ∨ (2 * r = 2 ^ s ∧ lo % 2 = 1) then lo + 1 else lo
    let code := (q + 149).toNat * 2 ^ 23 + m
    let mag := if 0x7F800000 ≤ code then 0x7F800000 else code
    BitVec.ofNat 32 (mag + if neg then 2 ^ 31 else 0)

/-- The exact value `N × 2^E` rounded once to FP32 (round32 of R78); zero gives +0. -/
def round32 (N : Int) (E : Int) : F32 := round32M (decide (N < 0)) N.natAbs E

/-- The exact quotient `±(n ÷ d) × 2^k` rounded once to FP32. -/
def roundRat32 (neg : Bool) (n d : Nat) (k : Int) : F32 :=
  let s := 64 + Nat.log2 d
  let t := n * 2 ^ s
  round32M neg (2 * (t / d) + if t % d = 0 then 0 else 1) (k - s - 1)

/-- Sum of two finite values, rounded once; an exact zero sum is +0 unless both terms are −0. -/
def f32AddFin (sa : Bool) (a : Int) (ka : Int) (sb : Bool) (b : Int) (kb : Int) : F32 :=
  let k := min ka kb
  let x := a * 2 ^ (ka - k).toNat + b * 2 ^ (kb - k).toNat
  if x = 0 then f32ZeroS (sa && sb && decide (a = 0) && decide (b = 0))
  else round32 x k

/-- IEEE 754 addition, round to nearest even (R16). -/
def fadd (a b : F32) : F32 :=
  if f32IsNaN a || f32IsNaN b then f32NaN
  else if f32IsInf a then (if f32IsInf b && (f32Neg a != f32Neg b) then f32NaN else a)
  else if f32IsInf b then b
  else f32AddFin (f32Neg a) (f32SMant a) (f32Pow a) (f32Neg b) (f32SMant b) (f32Pow b)

/-- IEEE 754 subtraction. -/
def fsub (a b : F32) : F32 := if f32IsNaN b then f32NaN else fadd a (f32Negate b)

/-- IEEE 754 multiplication, round to nearest even. -/
def fmul (a b : F32) : F32 :=
  if f32IsNaN a || f32IsNaN b then f32NaN
  else
    let s := f32Neg a != f32Neg b
    if f32IsInf a || f32IsInf b then
      (if f32IsZero a || f32IsZero b then f32NaN else f32InfS s)
    else round32M s (f32Mant a * f32Mant b) (f32Pow a + f32Pow b)

/-- Fused multiply-add `a × b + c`, rounded once (R117). -/
def ffma (a b c : F32) : F32 :=
  if f32IsNaN a || f32IsNaN b || f32IsNaN c then f32NaN
  else
    let s := f32Neg a != f32Neg b
    if f32IsInf a || f32IsInf b then
      if f32IsZero a || f32IsZero b then f32NaN
      else if f32IsInf c && (f32Neg c != s) then f32NaN
      else f32InfS s
    else if f32IsInf c then c
    else
      let p : Int := (f32Mant a * f32Mant b : Nat)
      f32AddFin s (if s then -p else p) (f32Pow a + f32Pow b) (f32Neg c) (f32SMant c) (f32Pow c)

/-- A key that orders the non-NaN values, −0 directly below +0. -/
def f32Key (x : F32) : Int :=
  if f32Neg x then -1 - (bitsOf x.toNat 30 0 : Int) else (bitsOf x.toNat 30 0 : Int)

/-- FP32 comparison `a < b`: false when either is NaN, and the two zeros are equal. -/
def flt (a b : F32) : Bool :=
  !f32IsNaN a && !f32IsNaN b && !(f32IsZero a && f32IsZero b) && decide (f32Key a < f32Key b)

/-- FP32 comparison `a > b`. -/
def fgt (a b : F32) : Bool := flt b a

/-- FP32 equality as numbers. -/
def feq (a b : F32) : Bool :=
  !f32IsNaN a && !f32IsNaN b && ((f32IsZero a && f32IsZero b) || a == b)

/-- max of R117: a NaN operand gives the canonical NaN; +0 above −0. -/
def fmax (a b : F32) : F32 :=
  if f32IsNaN a || f32IsNaN b then f32NaN else if f32Key a < f32Key b then b else a

/-- min of R117. -/
def fmin (a b : F32) : F32 :=
  if f32IsNaN a || f32IsNaN b then f32NaN else if f32Key b < f32Key a then b else a

/-- An exact natural number rounded once to FP32. -/
def f32OfNat (n : Nat) : F32 := round32 n 0

/-- A power of two as FP32 (exponent in the normal range). -/
def f32Pow2 (e : Int) : F32 := round32 1 e

/-! The special functions: correctly rounded from wide fixed-point values. -/

/-- Fraction bits of the wide fixed-point values. -/
def sfuP : Nat := 256

/-- Terms of ln 2 = Σ 1 ÷ (n 2^n), in units of 2^-sfuP. -/
def ln2Sum : Nat → Nat
  | 0 => 0
  | n + 1 => ln2Sum n + 2 ^ sfuP / ((n + 1) * 2 ^ (n + 1))

/-- ln 2 in units of 2^-sfuP. -/
def ln2Fix : Nat := ln2Sum 256

/-- Σ t^i ÷ i! of a fixed-point t below 1, from term i on. -/
def expSeries : Nat → Nat → Nat → Nat → Nat
  | 0, _, _, _ => 0
  | fuel + 1, t, i, term => term + expSeries fuel t (i + 1) (term * t / 2 ^ sfuP / (i + 1))

/-- exp2, correctly rounded (R118). -/
def fexp2 (x : F32) : F32 :=
  if f32IsNaN x then f32NaN
  else if f32IsInf x then (if f32Neg x then f32Zero else f32Inf)
  else
    let m := f32SMant x
    let k := f32Pow x
    -- the value as a whole number of 2^-149 units
    let u : Int := m * 2 ^ (k + 149).toNat
    let i : Int := u.fdiv (2 ^ 149)
    let f : Nat := (u.fmod (2 ^ 149)).toNat
    if 128 ≤ i then f32Inf
    else if i < -151 then f32Zero
    else if f = 0 then round32 1 i
    else
      let t := f * 2 ^ (sfuP - 149) * ln2Fix / 2 ^ sfuP
      round32 ((2 * expSeries 80 t 0 (2 ^ sfuP) + 1 : Nat) : Int) (i - sfuP - 1)

/-- The fraction bits of log2 of a fixed-point y in [1, 2), by repeated squaring. -/
def log2Bits : Nat → Nat → Nat → Nat
  | 0, _, acc => acc
  | fuel + 1, y, acc =>
    let z := y * y / 2 ^ sfuP
    if 2 ^ (sfuP + 1) ≤ z then log2Bits fuel (z / 2) (2 * acc + 1) else log2Bits fuel z (2 * acc)

/-- log2, correctly rounded (R118). -/
def flog2 (x : F32) : F32 :=
  if f32IsNaN x then f32NaN
  else if f32IsZero x then f32InfS true
  else if f32Neg x then f32NaN
  else if f32IsInf x then f32Inf
  else
    let m := f32Mant x
    let l := Nat.log2 m
    let e : Int := (l : Int) + f32Pow x
    if m = 2 ^ l then round32 e 0
    else
      let n : Int := e * 2 ^ 140 + (log2Bits 140 (m * 2 ^ (sfuP - l)) 0 : Nat)
      round32 (2 * n + 1) (-141)

/-- recip, correctly rounded 1/x (R118). -/
def frecip (x : F32) : F32 :=
  if f32IsNaN x then f32NaN
  else if f32IsInf x then f32ZeroS (f32Neg x)
  else if f32IsZero x then f32InfS (f32Neg x)
  else roundRat32 (f32Neg x) 1 (f32Mant x) (-f32Pow x)

/-- The integer square root, bit by bit from the top. -/
def isqrtGo : Nat → Nat → Nat → Nat
  | 0, _, r => r
  | b + 1, n, r => if (r + 2 ^ b) * (r + 2 ^ b) ≤ n then isqrtGo b n (r + 2 ^ b) else isqrtGo b n r

/-- rsqrt, correctly rounded 1/√x (R118). -/
def frsqrt (x : F32) : F32 :=
  if f32IsNaN x then f32NaN
  else if f32IsZero x then f32InfS (f32Neg x)
  else if f32Neg x then f32NaN
  else if f32IsInf x then f32Zero
  else
    let k := f32Pow x
    let odd := k.emod 2 = 1
    let m := if odd then 2 * f32Mant x else f32Mant x
    let h : Int := (if odd then k - 1 else k) / 2
    -- 2^80 ÷ √m, and whether that is exact
    let n := 2 ^ 160 / m
    let r := isqrtGo 82 n 0
    let exact := decide (r * r * m = 2 ^ 160)
    round32 ((2 * r + if exact then 0 else 1 : Nat) : Int) (-81 - h)

/-- An accumulator pair (hi, lo) of R80. -/
structure Pair where
  hi : F32
  lo : F32
  deriving DecidableEq, Repr, Inhabited

/-- (+0, +0). -/
def Pair.zero : Pair := { hi := f32Zero, lo := f32Zero }

/-- two_sum of R80. -/
def twoSum (a b : F32) : F32 × F32 :=
  let s := fadd a b
  let bb := fsub s a
  (s, fadd (fsub a (fsub s bb)) (fsub b bb))

/-- What an accumulate or a merge raises: INVALID for opposite infinities, OVF for an overflow. -/
inductive AccEvent where
  | none
  | invalid
  | ovf
  deriving DecidableEq, Repr

/-- accumulate of R80, with the event it raises. -/
def accumulate (p : Pair) (v : F32) : Pair × AccEvent :=
  if f32IsNaN p.hi then (p, .none)
  else if !f32IsFin v || !f32IsFin p.hi then
    let h := fadd p.hi v
    ({ p with hi := h }, if f32IsNaN h && !f32IsNaN v then .invalid else .none)
  else
    let (s, e) := twoSum p.hi v
    if f32IsInf s then ({ p with hi := s }, .ovf)
    else ({ hi := s, lo := fadd p.lo e }, .none)

/-- merge of R80, with the event it raises. -/
def mergePair (a b : Pair) : Pair × AccEvent :=
  if !f32IsFin a.hi || !f32IsFin b.hi then
    let h := fadd a.hi b.hi
    ({ hi := h, lo := f32Zero },
      if f32IsNaN h && !f32IsNaN a.hi && !f32IsNaN b.hi then .invalid else .none)
  else
    let (s, e) := twoSum a.hi b.hi
    if f32IsInf s then ({ hi := s, lo := f32Zero }, .ovf)
    else ({ hi := s, lo := fadd (fadd a.lo b.lo) e }, .none)

/-- readout of R80, and whether it overflows. -/
def readout (p : Pair) (ga gb : F32) : F32 × Bool :=
  if f32IsNaN p.hi then (f32NaN, false)
  else
    let r := if f32IsFin p.hi then fadd p.hi p.lo else p.hi
    if f32IsInf r then (r, f32IsFin p.hi)
    else
      let x := round32M (f32Neg r) (f32Mant r * f32Mant ga * f32Mant gb) (f32Pow r + f32Pow ga + f32Pow gb)
      (x, f32IsInf x)

/-- Accumulate a value into the pair of lane `i mod 256` (R119). -/
def vsumLane (ps : Tab Pair) (i : Nat) (v : F32) : Tab Pair :=
  Tab.upd Pair.zero ps (i % 256) (fun p => (accumulate p v).1)

/-- Accumulate a row, element `i` into lane `i mod 256`. -/
def vsumLanes : Tab Pair → Nat → List F32 → Tab Pair
  | ps, _, [] => ps
  | ps, i, v :: vs => vsumLanes (vsumLane ps i v) (i + 1) vs

/-- One level of the fixed tree: neighbours merged. -/
def mergeLevel : List Pair → List Pair
  | a :: b :: t => (mergePair a b).1 :: mergeLevel t
  | [a] => [a]
  | [] => []

/-- VSUM of R119. -/
def vsum (v : List F32) : Pair :=
  let ps := vsumLanes [] 0 v
  let p0 := (List.range 256).map (fun i => Tab.get Pair.zero ps i)
  let p8 := mergeLevel (mergeLevel (mergeLevel (mergeLevel (mergeLevel (mergeLevel (mergeLevel (mergeLevel p0)))))))
  p8.headD Pair.zero

/-- total of R119. -/
def total (p : Pair) : F32 := if !f32IsFin p.hi then (if f32IsNaN p.hi then f32NaN else p.hi) else fadd p.hi p.lo

end Sys2Proof.Machine
end

