-- ==== Sys2Proof/Machine/Keccak.lean ====
section
/-! DEFINITION. Keccak, SHAKE256 and KMAC256 (R135, R207, R251, R268, R317, R398), as FIPS 202 and NIST SP 800-185
define them, and the three cyclic codes of the spec: the bolt CRC-16 (R54), the jib CRC-8 (R61) and the CRC-32 of
flits and cells (R238). -/

namespace Sys2Proof.Machine

/-- Rotate a w-bit lane left by n. -/
def rotl (w x n : Nat) : Nat := x * 2 ^ (n % w) % 2 ^ w + x / 2 ^ (w - n % w)

/-- The walk of ρ (FIPS 202, algorithm 2): from lane (x, y) the next lane is (y, 2x + 3y mod 5), and the lane met at time
t turns by (t + 1)(t + 2)/2. The answer lists lane number x + 5y with its turn. -/
def rhoWalk : Nat → Nat → Nat → Nat → List (Nat × Nat)
  | 0, _, _, _ => []
  | n + 1, t, x, y => (x + 5 * y, (t + 1) * (t + 2) / 2) :: rhoWalk n (t + 1) y ((2 * x + 3 * y) % 5)

/-- ρ's turn of lane n: the walk starts at (1, 0) and never meets lane 0. -/
def rhoTurn (n : Nat) : Nat := (((rhoWalk 24 0 1 0).find? (fun p => p.1 == n)).map (fun p => p.2)).getD 0

/-- One shift of the register of rc (FIPS 202, algorithm 5), feedback x^8 + x^6 + x^5 + x^4 + 1. -/
def rcShift (r : Nat) : Nat := if 2 * r < 256 then 2 * r else (2 * r - 256) ^^^ 0x71

/-- k output bits of the register from place number j on, and the register after them: bit j stands at place 2^j − 1 of
the round constant. -/
def rcBits : Nat → Nat → Nat → Nat × Nat
  | 0, _, r => (0, r)
  | k + 1, j, r =>
    let q := rcBits k (j + 1) (rcShift r)
    (r % 2 * 2 ^ (2 ^ j - 1) + q.1, q.2)

/-- The round constants from register content r on, seven output bits each (FIPS 202,
algorithm 5). -/
def roundConstants : Nat → Nat → List Nat
  | 0, _ => []
  | n + 1, r =>
    let q := rcBits 7 0 r
    q.1 :: roundConstants n q.2

/-- θ: the parity of each column, and what it adds to the columns beside it. -/
def theta (w : Nat) (a : List Nat) : List Nat :=
  let parity := (List.range 5).map (fun x => (List.range 5).foldl (fun v y => v ^^^ a.getD (x + 5 * y) 0) 0)
  a.zipIdx.map (fun p => p.1 ^^^ parity.getD ((p.2 + 4) % 5) 0 ^^^ rotl w (parity.getD ((p.2 + 1) % 5) 0) 1)

/-- ρ and π: the lane at (x, y) turns and comes to (y, 2x + 3y mod 5); said of the lane at (x, y) it comes from
(x + 3y mod 5, x). -/
def rhoPi (w : Nat) (turns a : List Nat) : List Nat :=
  (List.range 25).map (fun n =>
    let m := (n % 5 + 3 * (n / 5)) % 5 + 5 * (n % 5)
    rotl w (a.getD m 0) (turns.getD m 0))

/-- χ: each lane with the two lanes to its right in its row; the complement of a w-bit lane v is 2^w − 1 − v. -/
def chi (w : Nat) (a : List Nat) : List Nat :=
  let right := fun n k => a.getD (5 * (n / 5) + (n % 5 + k) % 5) 0
  a.zipIdx.map (fun p => p.1 ^^^ ((2 ^ w - 1 - right p.2 1) &&& right p.2 2))

/-- ι: the round constant enters lane 0. -/
def iota (w rc : Nat) (a : List Nat) : List Nat := a.zipIdx.map (fun p => if p.2 = 0 then p.1 ^^^ rc % 2 ^ w else p.1)

/-- The constants of the 24 rounds of Keccak-f[1600]. -/
def keccakRC : List Nat := roundConstants 24 1

/-- One round over 25 lanes of w bits with a round constant. -/
def keccakRound (w : Nat) (turns a : List Nat) (rc : Nat) : List Nat := iota w rc (chi w (rhoPi w turns (theta w a)))

/-- Keccak-p[25 w, …] with the round constants given. -/
def keccakP (w : Nat) (rcs : List Nat) (a : List Nat) : List Nat :=
  rcs.foldl (keccakRound w ((List.range 25).map rhoTurn)) a

/-- Keccak-f[1600]. -/
def keccakF1600 (a : List Nat) : List Nat := keccakP 64 keccakRC a

/-- Keccak-p[800, 12]: the rounds with indices 10 to 21 (R135). -/
def keccakP800 (a : List Nat) : List Nat := keccakP 32 ((keccakRC.drop 10).take 12) a

/-- Exclusive-or a 136-byte block into the state. -/
def absorbBlock (a : List Nat) (blk : List Byte) : List Nat :=
  keccakF1600 ((List.range 25).map (fun n => a.getD n 0 ^^^ fieldLe blk (8 * n) (if n < 17 then 8 else 0)))

/-- Absorb `n` blocks of 136 bytes. -/
def absorb : Nat → List Nat → List Byte → List Nat
  | 0, a, _ => a
  | n + 1, a, bs => absorb n (absorbBlock a (bs.take 136)) (bs.drop 136)

/-- Pad a message to whole blocks: the suffix byte, zeros, and the last bit. -/
def spongePad (msg : List Byte) (suffix : Byte) : List Byte :=
  let z := 136 - (msg.length + 1) % 136
  let z := if z = 136 then 0 else z
  let body := msg ++ suffix :: zeros z
  body.dropLast ++ [(body.getLastD 0) ||| 0x80#8]

/-- The first `n` bytes (n ≤ 136) of the sponge over a message. -/
def sponge (msg : List Byte) (suffix : Byte) (n : Nat) : List Byte :=
  let p := spongePad msg suffix
  let a := absorb (p.length / 136) (List.replicate 25 0) p
  ((a.flatMap (fun l => leBytes 8 l))).take n

/-- SHAKE256 with an output of `n` bytes. -/
def shake256 (msg : List Byte) (n : Nat) : List Byte := sponge msg 0x1F#8 n

/-- SHAKE256 with a 256-bit output (R207). -/
def digest256 (msg : List Byte) : List Byte := shake256 msg 32

/-- The big-endian bytes of a number, at least one. -/
def beBytes (v : Nat) : List Byte :=
  let n := max 1 (Nat.log2 v / 8 + 1)
  (leBytes n v).reverse

/-- left_encode of SP 800-185. -/
def leftEncode (v : Nat) : List Byte := BitVec.ofNat 8 (beBytes v).length :: beBytes v

/-- right_encode of SP 800-185. -/
def rightEncode (v : Nat) : List Byte := beBytes v ++ [BitVec.ofNat 8 (beBytes v).length]

/-- encode_string of SP 800-185. -/
def encodeString (s : List Byte) : List Byte := leftEncode (8 * s.length) ++ s

/-- bytepad to 136 bytes. -/
def bytePad (s : List Byte) : List Byte :=
  let x := leftEncode 136 ++ s
  x ++ zeros ((136 - x.length % 136) % 136)

/-- ASCII bytes of a text. -/
def asciiBytes (cs : List Nat) : List Byte := cs.map (BitVec.ofNat 8)

/-- KMAC256 with a 256-bit tag and customisation string S (R398). -/
def kmac256 (key msg custom : List Byte) : List Byte :=
  let name := asciiBytes [0x4B, 0x4D, 0x41, 0x43]
  let x := bytePad (encodeString key) ++ msg ++ rightEncode 256
  sponge (bytePad (encodeString name ++ encodeString custom) ++ x) 0x04#8 32

/-- The customisation string of the management protocol (R398): the nine ASCII bytes K420 MGMT. -/
def mgmtCustom : List Byte := asciiBytes [0x4B, 0x34, 0x32, 0x30, 0x20, 0x4D, 0x47, 0x4D, 0x54]

/-- One bit of a most-significant-bit-first CRC of width w. -/
def crcBitMsb (w poly crc : Nat) : Nat :=
  if crc.testBit (w - 1) then ((crc <<< 1) % 2 ^ w) ^^^ poly else (crc <<< 1) % 2 ^ w

/-- `n` such bits. -/
def crcBitsMsb (w poly : Nat) : Nat → Nat → Nat
  | 0, crc => crc
  | n + 1, crc => crcBitsMsb w poly n (crcBitMsb w poly crc)

/-- A CRC computed most-significant bit first, without reflection. -/
def crcMsb (w poly init : Nat) (bs : List Byte) : Nat :=
  bs.foldl (fun crc b => crcBitsMsb w poly 8 (crc ^^^ (b.toNat <<< (w - 8)))) init

/-- CRC-16 of R54. -/
def crc16 (bs : List Byte) : Nat := crcMsb 16 0x1021 0xFFFF bs

/-- CRC-8 of R61. -/
def crc8 (bs : List Byte) : Nat := crcMsb 8 0x07 0x00 bs

/-- `n` bits of the reflected CRC-32. -/
def crc32Bits : Nat → Nat → Nat
  | 0, crc => crc
  | n + 1, crc => crc32Bits n (if crc % 2 = 1 then (crc >>> 1) ^^^ 0xEDB88320 else crc >>> 1)

/-- CRC-32 of R238: polynomial 0x04C1_1DB7 with input and output reflected. -/
def crc32 (bs : List Byte) : Nat :=
  (bs.foldl (fun crc b => crc32Bits 8 (crc ^^^ b.toNat)) 0xFFFFFFFF) ^^^ 0xFFFFFFFF

end Sys2Proof.Machine
end

