-- ==== Sys2Proof/Machine/Formats.lean ====
section
/-! DEFINITION. Element and scale encodings, block geometry, bolts, jib entries and tensor descriptors (R35–R70). -/

namespace Sys2Proof.Machine

/-- Status codes (R350). -/
inductive Status where
  | done | doneFlagged | pendingRead | skipped | replayed
  | badOpcode | badParam | notEnabled | noResource | limitExceeded
  | faultCheck | faultUnit | memUncorrectable
  | collMismatch | collTimeout | collAborted | epochStale
  | restoreDigest | restoreSkew | partnerLost
  | hostTimeout | thermalHold | authFail
  deriving DecidableEq, Repr

/-- The code of a status (R350). -/
def Status.code : Status → Nat
  | .done => 0x00 | .doneFlagged => 0x01 | .pendingRead => 0x02 | .skipped => 0x08 | .replayed => 0x09
  | .badOpcode => 0x10 | .badParam => 0x11 | .notEnabled => 0x12 | .noResource => 0x13 | .limitExceeded => 0x14
  | .faultCheck => 0x20 | .faultUnit => 0x21 | .memUncorrectable => 0x22
  | .collMismatch => 0x30 | .collTimeout => 0x31 | .collAborted => 0x32 | .epochStale => 0x33
  | .restoreDigest => 0x40 | .restoreSkew => 0x41 | .partnerLost => 0x42
  | .hostTimeout => 0x50 | .thermalHold => 0x51 | .authFail => 0x60

/-- A fault status: 0x10 or above (R155, R343). -/
def Status.isFault (st : Status) : Bool := decide (0x10 ≤ st.code)

/-- Element formats (R66). -/
inductive Elem where
  | fp4 | e4m3 | e5m2 | int4 | int8 | bf16 | fp32
  deriving DecidableEq, Repr

/-- Scale encodings (R66). -/
inductive ScaleEnc where
  | none | e8m0 | ue4m3
  deriving DecidableEq, Repr

/-- Block directions (R45). -/
inductive Dir where
  | kRun | mnRun | twoD | none
  deriving DecidableEq, Repr

/-- Traffic classes (R66, R131). -/
inductive Traffic where
  | forward | gradient | moment
  deriving DecidableEq, Repr

/-- Jib modes (R66). -/
inductive JibMode where
  | none | designated | threshold
  deriving DecidableEq, Repr

/-- ELEM of FORMAT. -/
def elemOf (n : Nat) : Option Elem :=
  match n with
  | 1 => some .fp4 | 2 => some .e4m3 | 3 => some .e5m2 | 4 => some .int4 | 5 => some .int8
  | 8 => some .bf16 | 9 => some .fp32 | _ => Option.none

/-- SCALE of FORMAT. -/
def scaleOf (n : Nat) : Option ScaleEnc :=
  match n with
  | 0 => some .none | 1 => some .e8m0 | 2 => some .ue4m3 | _ => Option.none

/-- DIR of GEOMETRY. -/
def dirOf (n : Nat) : Dir :=
  match n % 4 with
  | 0 => .kRun | 1 => .mnRun | 2 => .twoD | _ => .none

/-- FP8 (E4M3 or E5M2). -/
def Elem.isFp8 : Elem → Bool
  | .e4m3 => true | .e5m2 => true | _ => false
/-- FP4 or FP8: the narrow floating-point formats, which carry block scales. -/
def Elem.isNarrowFp : Elem → Bool
  | .fp4 => true | .e4m3 => true | .e5m2 => true | _ => false
/-- INT4 or INT8. -/
def Elem.isInt : Elem → Bool
  | .int4 => true | .int8 => true | _ => false
/-- Carried in bolts (R47). -/
def Elem.inBolts (e : Elem) : Bool := e.isNarrowFp || e.isInt
/-- Four-bit elements. -/
def Elem.fourBit : Elem → Bool
  | .fp4 => true | .int4 => true | _ => false
/-- Elements per bolt (R47). -/
def Elem.perBolt (e : Elem) : Nat := if e.fourBit then 896 else 448
/-- Bytes of a BF16 or FP32 element. -/
def Elem.bytes : Elem → Nat
  | .bf16 => 2 | .fp32 => 4 | _ => 1

/-- The legal operand pairs of R48. -/
def legalPair (a b : Elem) : Bool :=
  (a == .fp4 && b == .fp4) || (a.isFp8 && b.isFp8) || (a == .int4 && b == .int4) ||
  (a == .int8 && b == .int8) || (a == .bf16 && b == .bf16)

/-- A number as the dot product and the writer path see it: NaN, an infinity, or ±m × 2^k exactly. -/
inductive Num where
  | nan
  | inf (neg : Bool)
  | fin (neg : Bool) (m : Nat) (k : Int)
  deriving DecidableEq, Repr

/-- The sign of a number; a NaN has none. -/
def Num.neg : Num → Bool
  | .nan => false | .inf s => s | .fin s _ _ => s
/-- Zero of either sign. -/
def Num.isZero : Num → Bool
  | .fin _ m _ => m == 0 | _ => false

/-- A binary float code with `mb` mantissa bits, `eb` exponent bits and unit exponent −U: its raw integer (R75). -/
def rawMag (mb eb code : Nat) : Nat :=
  let f := code % 2 ^ mb
  let e := (code >>> mb) % 2 ^ eb
  if e = 0 then f else (2 ^ mb + f) * 2 ^ (e - 1)

/-- The power of two of a narrow format's raw unit: −U of R75. -/
def Elem.unit : Elem → Int
  | .fp4 => -1 | .e4m3 => -9 | .e5m2 => -16 | _ => 0

/-- The value of an element code, in the unit of its format (R35–R38, R75). -/
def elemNum (fmt : Elem) (code : Nat) : Num :=
  match fmt with
  | .fp4 => .fin (code.testBit 3) (rawMag 1 2 (code % 8)) (-1)
  | .e4m3 => if code % 128 = 127 then .nan else .fin (code.testBit 7) (rawMag 3 4 (code % 128)) (-9)
  | .e5m2 =>
    if code % 128 = 0x7C then .inf (code.testBit 7)
    else if 0x7C < code % 128 then .nan
    else .fin (code.testBit 7) (rawMag 2 5 (code % 128)) (-16)
  | .int4 => if code.testBit 3 then .fin true (16 - code % 16) 0 else .fin false (code % 8) 0
  | .int8 => if code.testBit 7 then .fin true (256 - code % 256) 0 else .fin false (code % 128) 0
  | .bf16 =>
    let x : F32 := BitVec.ofNat 32 ((code % 65536) * 65536)
    if f32IsNaN x then .nan else if f32IsInf x then .inf (f32Neg x) else .fin (f32Neg x) (f32Mant x) (f32Pow x)
  | .fp32 =>
    let x : F32 := BitVec.ofNat 32 code
    if f32IsNaN x then .nan else if f32IsInf x then .inf (f32Neg x) else .fin (f32Neg x) (f32Mant x) (f32Pow x)

/-- The value of an FP32 pattern. -/
def numOfF32 (x : F32) : Num := elemNum .fp32 x.toNat

/-- A block scale as significand and exponent, or NaN (R42, R43, R76). -/
def scaleNum (enc : ScaleEnc) (x : Nat) : Option (Nat × Int) :=
  match enc with
  | .none => some (1, 0)
  | .e8m0 => if x % 256 = 0xFF then Option.none else some (1, (x % 256 : Nat) - 127)
  | .ue4m3 =>
    if x.testBit 7 || x % 128 = 0x7F then Option.none
    else
      let e := bitsOf x 6 3
      let f := x % 8
      if e = 0 then some (f, -9) else some (8 + f, (e : Int) - 10)

/-- Widen BF16 or take FP32 as it is (R262, R353): the FP32 pattern of a stored wide element. -/
def wideF32 (fmt : Elem) (code : Nat) : F32 :=
  if fmt = .bf16 then BitVec.ofNat 32 ((code % 65536) * 65536) else BitVec.ofNat 32 code

/-- A tensor descriptor (R66), its fields as numbers. -/
structure TDesc where
  base : Nat
  rows : Nat
  cols : Nat
  batch : Nat
  stride : Nat
  rotSize : Nat
  jibMode : Nat
  traffic : Nat
  geometry : Nat
  format : Nat
  gscale : F32
  tag : Nat
  telltale : Nat
  layer : Nat
  rowPitch : Nat
  jibBudget : Nat
  jibBase : Nat
  jibThreshold : F32
  jibCapacity : Nat
  /-- Some reserved field of the 64 bytes is not zero (R15). -/
  reservedSet : Bool
  deriving DecidableEq, Repr, Inhabited

/-- A tensor descriptor read from its 64 bytes (R66). -/
def TDesc.parse (bs : List Byte) : TDesc :=
  let w18 := fieldLe bs 0x18 4
  let w24 := fieldLe bs 0x24 4
  { base := fieldLe bs 0x00 6, rows := fieldLe bs 0x08 4, cols := fieldLe bs 0x0C 4
    batch := fieldLe bs 0x10 4, stride := fieldLe bs 0x14 4
    rotSize := bitsOf w18 22 20, jibMode := bitsOf w18 19 18, traffic := bitsOf w18 17 16
    geometry := bitsOf w18 15 8, format := bitsOf w18 7 0
    gscale := BitVec.ofNat 32 (fieldLe bs 0x1C 4), tag := fieldLe bs 0x20 4
    telltale := bitsOf w24 31 16, layer := bitsOf w24 15 0
    rowPitch := fieldLe bs 0x28 4, jibBudget := fieldLe bs 0x2C 4, jibBase := fieldLe bs 0x30 6
    jibThreshold := BitVec.ofNat 32 (fieldLe bs 0x38 4), jibCapacity := fieldLe bs 0x3C 4
    reservedSet := fieldLe bs 0x06 2 != 0 || bitsOf w18 31 23 != 0 || fieldLe bs 0x36 2 != 0 }

/-- The 64 bytes of a descriptor (R66), with its reserved fields zero. -/
def TDesc.bytes (d : TDesc) : List Byte :=
  leBytes 8 (d.base % 2 ^ 48) ++ leBytes 4 d.rows ++ leBytes 4 d.cols ++ leBytes 4 d.batch ++ leBytes 4 d.stride ++
  leBytes 4 (d.rotSize % 8 * 2 ^ 20 + d.jibMode % 4 * 2 ^ 18 + d.traffic % 4 * 2 ^ 16 + d.geometry % 256 * 256 + d.format % 256) ++
  leBytes 4 d.gscale.toNat ++ leBytes 4 d.tag ++ leBytes 4 (d.telltale % 65536 * 65536 + d.layer % 65536) ++
  leBytes 4 d.rowPitch ++ leBytes 4 d.jibBudget ++ leBytes 8 (d.jibBase % 2 ^ 48) ++
  leBytes 4 d.jibThreshold.toNat ++ leBytes 4 d.jibCapacity

/-- The element format, FP32 for a reserved code (which legality refuses). -/
def TDesc.elem (d : TDesc) : Elem := (elemOf (d.format % 16)).getD .fp32
/-- The scale encoding. -/
def TDesc.scale (d : TDesc) : ScaleEnc := (scaleOf (bitsOf d.format 5 4)).getD .none
/-- The block direction. -/
def TDesc.dir (d : TDesc) : Dir := dirOf d.geometry
/-- The block size B (R45). -/
def TDesc.blockSize (d : TDesc) : Nat := 16 * 2 ^ bitsOf d.geometry 3 2
/-- Rows of a 2-D block (R45). -/
def TDesc.r2 (d : TDesc) : Nat := if bitsOf d.geometry 3 2 < 2 then 4 else 8
/-- Columns of a 2-D block. -/
def TDesc.c2 (d : TDesc) : Nat := d.blockSize / d.r2
/-- Rows of a block. -/
def TDesc.blockRows (d : TDesc) : Nat :=
  match d.dir with
  | .mnRun => d.blockSize | .twoD => d.r2 | _ => 1
/-- Columns of a block. -/
def TDesc.blockCols (d : TDesc) : Nat :=
  match d.dir with
  | .kRun => d.blockSize | .twoD => d.c2 | _ => 1
/-- Padded columns (R49). -/
def TDesc.colsP (d : TDesc) : Nat := ceilDiv d.cols d.blockCols * d.blockCols
/-- Padded rows (R49). -/
def TDesc.rowsP (d : TDesc) : Nat := ceilDiv d.rows d.blockRows * d.blockRows
/-- Blocks per bolt (R47). -/
def TDesc.blocksPerBolt (d : TDesc) : Nat := d.elem.perBolt / d.blockSize
/-- Blocks of one matrix. -/
def TDesc.nBlocks (d : TDesc) : Nat := ceilDiv d.rows d.blockRows * ceilDiv d.cols d.blockCols
/-- Bolts of one matrix (R52, R53). -/
def TDesc.bolts (d : TDesc) : Nat :=
  if d.elem.isInt then ceilDiv (d.rows * d.cols) d.elem.perBolt else ceilDiv d.nBlocks d.blocksPerBolt
/-- K-extent of the blocks, read straight or transposed (R46). -/
def TDesc.kExtent (d : TDesc) (transposed : Bool) : Nat :=
  if d.elem.isNarrowFp then (if transposed then d.blockRows else d.blockCols) else 1
/-- The logical K of an operand. -/
def TDesc.kLen (d : TDesc) (transposed : Bool) : Nat := if transposed then d.rows else d.cols
/-- The output extent of an operand (R72). -/
def TDesc.outLen (d : TDesc) (transposed : Bool) : Nat := if transposed then d.cols else d.rows
/-- The rotation block length, 0 for none (R126). -/
def TDesc.rotLen (d : TDesc) : Nat := if d.rotSize = 0 then 0 else 8 * 2 ^ d.rotSize
/-- Bolts of one matrix's jib list, L of R63. -/
def TDesc.jibBolts (d : TDesc) : Nat := ceilDiv d.jibCapacity 64
/-- T of R63. -/
def TDesc.jibTable (d : TDesc) : Nat := if d.jibMode = 1 then 1 else 0
/-- The address of the list of matrix b (R63). -/
def TDesc.jibList (d : TDesc) (b : Nat) : Nat := d.jibBase + 512 * (d.jibTable + b * d.jibBolts)
/-- Elements of the whole tensor. -/
def TDesc.elems (d : TDesc) : Nat := d.batch * d.rows * d.cols

/-- The block index n of element (y, x) (R52). -/
def TDesc.blockIndex (d : TDesc) (y x : Nat) : Nat :=
  match d.dir with
  | .kRun => y * (d.colsP / d.blockSize) + x / d.blockSize
  | .mnRun => y / d.blockSize * d.colsP + x
  | .twoD => y / d.r2 * (d.colsP / d.c2) + x / d.c2
  | .none => 0

/-- The index of element (y, x) within its block (R52). -/
def TDesc.inBlock (d : TDesc) (y x : Nat) : Nat :=
  match d.dir with
  | .kRun => x % d.blockSize
  | .mnRun => y % d.blockSize
  | .twoD => y % d.r2 * d.c2 + x % d.c2
  | .none => 0

/-- The bolt of a matrix that holds element (y, x), and the element's index in it (R51, R52). -/
def TDesc.boltElem (d : TDesc) (y x : Nat) : Nat × Nat :=
  if d.elem.isInt then
    let j := y * d.cols + x
    (j / d.elem.perBolt, j % d.elem.perBolt)
  else
    let n := d.blockIndex y x
    (n / d.blocksPerBolt, n % d.blocksPerBolt * d.blockSize + d.inBlock y x)

/-- The offset in bolts from BASE of bolt i of matrix b (R53): SEQ is this modulo 65,536. -/
def TDesc.boltOffset (d : TDesc) (b i : Nat) : Nat := (if d.batch ≤ 1 then 0 else b * d.stride) + i
/-- The device address of bolt i of matrix b. -/
def TDesc.boltAddr (d : TDesc) (b i : Nat) : Nat := d.base + 512 * d.boltOffset b i
/-- The device address of element (y, x) of matrix b of a BF16 or FP32 tensor (R68). -/
def TDesc.wideAddr (d : TDesc) (b y x : Nat) : Nat :=
  d.base + (if d.batch ≤ 1 then 0 else 512 * b * d.stride) + y * d.rowPitch + x * d.elem.bytes

/-- One past the last byte of the tensor (R70). -/
def TDesc.endAddr (d : TDesc) : Nat :=
  let lead := if d.batch ≤ 1 then 0 else 512 * (d.batch - 1) * d.stride
  if d.elem.inBolts then d.base + lead + 512 * d.bolts
  else d.base + lead + (d.rows - 1) * d.rowPitch + d.cols * d.elem.bytes

/-- One past the last byte of the jib region; JIB_BASE when there is none. -/
def TDesc.jibEnd (d : TDesc) : Nat := if d.jibMode = 0 then d.jibBase else d.jibList d.batch

/-- The byte ranges of the jib lists. -/
def TDesc.listRanges (d : TDesc) : List (Nat × Nat) :=
  if d.jibMode = 0 then [] else [(d.jibList 0, 512 * (d.batch * d.jibBolts))]
/-- The byte ranges of the rows of a BF16 or FP32 tensor. -/
def TDesc.rowRanges (d : TDesc) : List (Nat × Nat) :=
  ((List.range d.batch).map (fun b => (List.range d.rows).map (fun y => (d.wideAddr b y 0, d.cols * d.elem.bytes)))).flatten
/-- The byte ranges that writing the tensor may change. -/
def TDesc.extent (d : TDesc) : List (Nat × Nat) :=
  (if d.elem.inBolts then (List.range d.batch).map (fun b => (d.boltAddr b 0, 512 * d.bolts)) else d.rowRanges) ++ d.listRanges

/-- The format is one of R47's combinations, with GEOMETRY and SCALE as R67 asks. -/
def TDesc.formatLegal (d : TDesc) : Bool :=
  match elemOf (d.format % 16), scaleOf (bitsOf d.format 5 4) with
  | some e, some s =>
    decide (d.format < 64) && decide (d.geometry < 16) &&
    if e.isNarrowFp then
      s != .none && d.dir != .none && (e == .fp4 || decide (bitsOf d.geometry 3 2 < 3))
    else s == .none && d.geometry == 3
  | _, _ => false

/-- The descriptor meets R15, R41, R47, R53, R66, R67 and R126; a breach is BAD_PARAM. -/
def TDesc.legal (d : TDesc) : Bool :=
  !d.reservedSet && d.formatLegal &&
  decide (d.base % 512 = 0) && decide (0 < d.rows) && decide (0 < d.cols) && decide (0 < d.batch) &&
  decide (d.rotSize ≤ 4) && decide (d.jibMode ≤ 2) && decide (d.traffic ≤ 2) &&
  (if d.elem.isNarrowFp then f32PosNormal d.gscale else d.gscale == f32One) &&
  (d.elem.isNarrowFp || (d.rotSize == 0 && d.jibMode == 0)) &&
  (d.rotSize == 0 || d.jibMode == 0) &&
  (if d.jibMode = 0 then d.jibBudget == 0 && d.jibBase == 0 && d.jibThreshold == 0#32 && d.jibCapacity == 0
   else
     decide (d.jibBase % 512 = 0) && decide (1 ≤ d.jibBudget) && decide (d.jibBudget ≤ d.jibCapacity) &&
     if d.jibMode = 1 then
       d.jibThreshold == 0#32 && decide (d.jibBudget ≤ 64) && decide (d.jibBudget * d.rows ≤ d.jibCapacity)
     else !f32Neg d.jibThreshold && f32IsFin d.jibThreshold && !f32IsZero d.jibThreshold) &&
  (if d.elem.inBolts then d.rowPitch == 0
   else decide (d.rowPitch % 4 = 0) && decide (d.cols * d.elem.bytes ≤ d.rowPitch)) &&
  (d.batch == 1 ||
    (if d.elem.inBolts then decide (d.bolts ≤ d.stride) else decide (ceilDiv (d.rows * d.rowPitch) 512 ≤ d.stride))) &&
  (d.rotSize == 0 || decide (d.cols % d.rotLen = 0))

/-- ROWS × COLS exceeds 2³² with a jib list (R65), or the tensor leaves the 48-bit space (R70): LIMIT_EXCEEDED. -/
def TDesc.tooLarge (d : TDesc) : Bool :=
  (d.jibMode != 0 && decide (2 ^ 32 < d.rows * d.cols)) || decide (2 ^ 48 < d.endAddr) || decide (2 ^ 48 < d.jibEnd)

/-- Reef substitution (R140): an FP4 FORWARD descriptor of a reefed layer is read and written as E4M3. -/
def TDesc.reefed (d : TDesc) (layerReefed : Bool) : TDesc :=
  if layerReefed && d.traffic == 0 && d.elem == .fp4 then
    { d with
      format := d.format / 16 * 16 + 2
      geometry := if bitsOf d.geometry 3 2 = 3 then d.geometry % 4 + 8 else d.geometry }
  else d

/-! Bolts. -/

/-- The header word of a bolt without its CRC (R50). -/
def boltHeader (seq tag geometry format : Nat) : Nat :=
  seq % 65536 * 2 ^ 32 + tag % 65536 * 2 ^ 16 + geometry % 256 * 256 + format % 256

/-- The CRC of a bolt's 512 bytes, bytes 454 and 455 taken as zero (R54). -/
def boltCrc (bs : List Byte) : Nat := crc16 (patch bs 454 (zeros 2))

/-- A whole bolt from payload and scales (R50, R58). -/
def boltBytes (payload scales : List Byte) (seq tag geometry format : Nat) : List Byte :=
  let body := slice payload 0 448 ++ leBytes 8 (boltHeader seq tag geometry format) ++ slice scales 0 56
  patch body 454 (leBytes 2 (boltCrc body))

/-- The check code of the first failing check of R55 after arrival: 1 CRC, 2 FORMAT or GEOMETRY, 3 TAG, 4 SEQ. -/
def boltCheck (bs : List Byte) (seq tag geometry format : Nat) : Option Nat :=
  if fieldLe bs 454 2 ≠ boltCrc bs then some 1
  else if fieldLe bs 448 1 ≠ format % 256 ∨ fieldLe bs 449 1 ≠ geometry % 256 then some 2
  else if fieldLe bs 450 2 ≠ tag % 65536 then some 3
  else if fieldLe bs 452 2 ≠ seq % 65536 then some 4
  else none

/-- Element i of a bolt's payload (R51). -/
def boltElemAt (fmt : Elem) (bs : List Byte) (i : Nat) : Nat :=
  if fmt.fourBit then
    let b := (bs.getD (i / 2) 0).toNat
    if i % 2 = 0 then b % 16 else b / 16
  else (bs.getD i 0).toNat

/-- The payload bytes of element codes (R51). -/
def packElems (fmt : Elem) (codes : List Nat) : List Byte :=
  if fmt.fourBit then
    (List.range 448).map (fun i => BitVec.ofNat 8 (codes.getD (2 * i) 0 % 16 + 16 * (codes.getD (2 * i + 1) 0 % 16)))
  else (List.range 448).map (fun i => BitVec.ofNat 8 (codes.getD i 0))

/-! Jib lists. -/

/-- A jib-list entry (R60). -/
structure JibEntry where
  index : Nat
  value : Nat
  slot : Nat
  last : Bool
  deriving DecidableEq, Repr

/-- CHECK of an entry's stored bytes under a tensor tag (R61). -/
def jibCheckByte (bs : List Byte) (tag : Nat) : Nat := crc8 (slice bs 0 6 ++ [BitVec.ofNat 8 tag])

/-- The 8 bytes of an entry (R60, R61). -/
def JibEntry.bytes (e : JibEntry) (tag : Nat) : List Byte :=
  let lo := leBytes 4 e.index ++ leBytes 2 e.value
  lo ++ [BitVec.ofNat 8 (jibCheckByte lo tag), BitVec.ofNat 8 (128 + (if e.last then 64 else 0) + e.slot % 64)]

/-- VALID of an entry word. -/
def jibValid (bs : List Byte) : Bool := (bs.getD 7 0).toNat.testBit 7

/-- The entry that 8 bytes hold. -/
def JibEntry.parse (bs : List Byte) : JibEntry :=
  let t := (bs.getD 7 0).toNat
  { index := fieldLe bs 0 4, value := fieldLe bs 4 2, slot := t % 64, last := t.testBit 6 }

/-- The first check code that a jib list breaks (R61, R64) and the slot it names, over its slots in order: a fault of
the whole list names slot 0. `prev` is the INDEX before, `ended` is set by LAST or by an unused slot, `n` counts valid
entries and `i` slots. -/
def jibListCheck (d : TDesc) (table : List Nat) :
    List (List Byte) → Option Nat → Bool → Bool → Nat → Nat → Option (Nat × Nat)
  | [], _, _, sawLast, n, _ =>
    if n ≠ 0 ∧ sawLast = false then some (6, 0)
    else if d.jibMode = 1 ∧ n ≠ d.jibBudget * d.rows then some (6, 0)
    else none
  | e :: es, prev, ended, sawLast, n, i =>
    if jibValid e then
      let je := JibEntry.parse e
      if (e.getD 6 0).toNat ≠ jibCheckByte e d.tag then some (5, i)
      else if ended then some (6, i)
      else if d.rows * d.cols ≤ je.index then some (6, i)
      else if (match prev with | some p => decide (je.index ≤ p) | none => false) then some (6, i)
      else if d.jibMode = 1 ∧ (d.jibBudget ≤ je.slot ∨ table.getD je.slot 0 ≠ je.index % d.cols) then some (6, i)
      else if d.jibMode = 2 ∧ je.slot ≠ 0 then some (6, i)
      else jibListCheck d table es (some je.index) je.last (sawLast || je.last) (n + 1) (i + 1)
    else jibListCheck d table es prev true sawLast n (i + 1)

/-- Strictly rising. -/
def strictlyRising : List Nat → Bool
  | a :: b :: t => decide (a < b) && strictlyRising (b :: t)
  | _ => true

/-- The channel-table check of R64 (code 0x07): true when the table passes. -/
def jibTableOk (d : TDesc) (bs : List Byte) : Bool :=
  let ks := (List.range 64).map (fun i => fieldLe bs (4 * i) 4)
  let live := ks.take d.jibBudget
  strictlyRising live && live.all (fun k => decide (k < d.cols)) &&
  (ks.drop d.jibBudget).all (fun k => k == 0xFFFFFFFF) && allZero (slice bs 256 256)

end Sys2Proof.Machine
end

