-- ==== Sys2Proof/Machine/Operands.lean ====
section
/-! DEFINITION. Reading tensor elements, block scales and jib lists from device memory, straight or transposed
(R46, R51, R52, R60–R63, R68, R72). -/

namespace Sys2Proof.Machine

/-- The element code stored at row y, column x of matrix b (R51, R52, R68). -/
def elemCode (m : Mem) (d : TDesc) (b y x : Nat) : Nat :=
  if d.elem.inBolts then
    let p := d.boltElem y x
    let a := d.boltAddr b p.1
    if d.elem.fourBit then
      let v := (m.byte (a + p.2 / 2)).toNat
      if p.2 % 2 = 0 then v % 16 else v / 16
    else (m.byte (a + p.2)).toNat
  else ofLe (m.read (d.wideAddr b y x) d.elem.bytes)

/-- The scale byte of the block that holds element (y, x) (R50, R52). -/
def scaleByte (m : Mem) (d : TDesc) (b y x : Nat) : Nat :=
  let n := d.blockIndex y x
  (m.byte (d.boltAddr b (n / d.blocksPerBolt) + 456 + n % d.blocksPerBolt)).toNat

/-- The block scale of an element: 1 for a format without block scales, `none` for a NaN scale (R42, R43, R76). -/
def blockScale (m : Mem) (d : TDesc) (b y x : Nat) : Option (Nat × Int) :=
  if d.elem.isNarrowFp then scaleNum d.scale (scaleByte m d b y x) else some (1, 0)

/-- Bolts of a jib list that its reader reads: up to the bolt that holds LAST, the first one of an empty list, all of
them when no entry has LAST (R62, R64, R125). -/
def jibReadBolts (m : Mem) (d : TDesc) (b : Nat) : Nat :=
  let last := fun (e : List Byte) => jibValid e && (JibEntry.parse e).last
  if !jibValid (m.read (d.jibList b) 8) then 1
  else
    match (List.range d.jibBolts).find? (fun k =>
      (List.range 64).any (fun i => last (m.read (d.jibList b + 512 * k + 8 * i) 8))) with
    | some k => k + 1
    | none => d.jibBolts

/-- The slots of the jib list of matrix b that its reader reads: 8 bytes each, 64 per bolt, never beyond JIB_CAPACITY
(R60, R63, R64). -/
def jibSlots (m : Mem) (d : TDesc) (b : Nat) : List (List Byte) :=
  ((List.range (64 * jibReadBolts m d b)).map (fun i => m.read (d.jibList b + 8 * i) 8)).take d.jibCapacity

/-- The valid entries of a matrix's jib list: INDEX and VALUE (R60, R62). -/
def jibEntries (m : Mem) (d : TDesc) (b : Nat) : Tab Nat :=
  if d.jibMode = 0 then []
  else ((jibSlots m d b).filter jibValid).map (fun e => ((JibEntry.parse e).index, (JibEntry.parse e).value))

/-- The channel table of a DESIGNATED tensor (R63): its K-channel numbers, one per slot. -/
def jibChannels (m : Mem) (d : TDesc) : List Nat :=
  (List.range d.jibBudget).map (fun i => ofLe (m.read (d.jibBase + 4 * i) 4))

/-- One operand of a product: a descriptor and how it is read (R46, R71). -/
structure Operand where
  d : TDesc
  transposed : Bool
  deriving DecidableEq, Repr, Inhabited

/-- Row and column of the element at output index o and K index k (R46). -/
def Operand.at (p : Operand) (o k : Nat) : Nat × Nat := if p.transposed then (k, o) else (o, k)
/-- The logical K. -/
def Operand.kLen (p : Operand) : Nat := p.d.kLen p.transposed
/-- The output extent (R72). -/
def Operand.outLen (p : Operand) : Nat := p.d.outLen p.transposed
/-- The K-extent of the operand's blocks (R46). -/
def Operand.kExtent (p : Operand) : Nat := p.d.kExtent p.transposed
/-- The operand's matrix for output matrix b: a batch of 1 serves every matrix (R72). -/
def Operand.matrixOf (p : Operand) (b : Nat) : Nat := if p.d.batch = 1 then 0 else b
/-- The number stored at output index o and K index k. -/
def Operand.num (m : Mem) (p : Operand) (b o k : Nat) : Num :=
  let c := p.at o k
  elemNum p.d.elem (elemCode m p.d (p.matrixOf b) c.1 c.2)
/-- The block scale at output index o and K index k. -/
def Operand.scale (m : Mem) (p : Operand) (b o k : Nat) : Option (Nat × Int) :=
  let c := p.at o k
  blockScale m p.d (p.matrixOf b) c.1 c.2
/-- The jib VALUE at output index o and K index k, when the position is in the list (R82). -/
def Operand.jib (es : Tab Nat) (p : Operand) (o k : Nat) : Option Nat :=
  let c := p.at o k
  Tab.find es (c.1 * p.d.cols + c.2)

/-- The FP32 value of element (y, x) of a BF16 or FP32 tensor (R262, R353). -/
def wideElem (m : Mem) (d : TDesc) (b y x : Nat) : F32 := wideF32 d.elem (elemCode m d b y x)

end Sys2Proof.Machine
end

