-- ==== Sys2Proof/Machine/Dot.lean ====
section
/-! DEFINITION. The defined dot product: block terms, accumulation over the ranks of a tile shape, outlier terms and
readout, with their flag events (R71–R99). -/

namespace Sys2Proof.Machine

/-- Tile shapes (R93). -/
structure Shape where
  tm : Nat
  tn : Nat
  ranks : Nat
  deriving DecidableEq, Repr, Inhabited

/-- The shape of a SHAPE code; the two reserved codes give none (R93). -/
def shapeOf (n : Nat) : Option Shape :=
  match n with
  | 0 => some { tm := 128, tn := 128, ranks := 1 }
  | 1 => some { tm := 64, tn := 256, ranks := 1 }
  | 2 => some { tm := 256, tn := 64, ranks := 1 }
  | 3 => some { tm := 64, tn := 64, ranks := 4 }
  | 4 => some { tm := 32, tn := 128, ranks := 2 }
  | 5 => some { tm := 128, tn := 32, ranks := 2 }
  | _ => none

/-- A term: its FP32 value and the flags it raises. -/
structure Term where
  v : F32
  flags : List Flag
  deriving DecidableEq, Repr

/-- Is the number infinite? -/
def Num.isInf : Num → Bool
  | .inf _ => true | _ => false
/-- Is the number a NaN? -/
def Num.isNan : Num → Bool
  | .nan => true | _ => false

/-- The signs of the infinite products of a block (R79). -/
def infSigns : List (Num × Num) → List Bool
  | [] => []
  | (a, b) :: t =>
    if (a.isInf || b.isInf) && !a.isNan && !b.isNan && !a.isZero && !b.isZero then (a.neg != b.neg) :: infSigns t
    else infSigns t

/-- The exact block sum S of R77 and the power of two of its product unit. -/
def blockSum : List (Num × Num) → Int × Int
  | [] => (0, 0)
  | (.fin na ma ka, .fin nb mb kb) :: t =>
    let p : Int := (ma * mb : Nat)
    let r := blockSum t
    ((if na != nb then -p else p) + r.1, ka + kb)
  | _ :: t => blockSum t

/-- A block term over the positions of one common block (R77, R78, R79); `sa` and `sb` are the two block scales,
none for a NaN scale. -/
def blockTerm (ps : List (Num × Num)) (sa sb : Option (Nat × Int)) : Term :=
  let nanIn := ps.any (fun p => p.1.isNan || p.2.isNan) || sa == none || sb == none
  let infA := ps.any (fun p => p.1.isInf)
  let infB := ps.any (fun p => p.2.isInf)
  let signs := infSigns ps
  let zeroScale := fun (x : Option (Nat × Int)) => match x with | some (0, _) => true | _ => false
  let invalid :=
    ps.any (fun p => (p.1.isInf && p.2.isZero) || (p.2.isInf && p.1.isZero)) ||
    (infA && zeroScale sa) || (infB && zeroScale sb) ||
    (signs.any (fun b => b) && signs.any (fun b => !b))
  let fl := (if nanIn then [Flag.nanIn] else []) ++ (if infA || infB then [Flag.infIn] else []) ++
    (if invalid then [Flag.invalid] else [])
  if nanIn || invalid then { v := f32NaN, flags := fl }
  else if infA || infB then { v := f32InfS (signs.headD false), flags := fl }
  else
    let S := blockSum ps
    let a := sa.getD (1, 0)
    let b := sb.getD (1, 0)
    -- a nonzero S whose value is or rounds to zero keeps the sign of S; S = 0 gives +0 (R78)
    let v := round32M (decide (S.1 < 0)) (S.1.natAbs * a.1 * b.1) (S.2 + a.2 + b.2)
    { v := v, flags := fl ++ if f32IsInf v then [Flag.ovf] else [] }

/-- An operand's factor in an outlier term (R82): the BF16 jib value, or the element times its block scale. A finite
element under a zero scale is a factor of zero. -/
def outlierFactor (jib : Option Nat) (e : Num) (sc : Option (Nat × Int)) : Num × Option (Nat × Int) :=
  match jib, e, sc with
  | some v, _, _ => (elemNum .bf16 v, some (1, 0))
  | none, .fin n _ k, some (0, _) => (.fin n 0 k, some (1, 0))
  | none, _, _ => (e, sc)

/-- A K segment: its two operands (R71). -/
structure Segment where
  a : Operand
  b : Operand
  deriving DecidableEq, Repr, Inhabited

/-- The common K-extent of a segment (R74). -/
def Segment.common (g : Segment) : Nat := min g.a.kExtent g.b.kExtent
/-- The logical K of a segment. -/
def Segment.kLen (g : Segment) : Nat := g.a.kLen
/-- The common blocks of a segment. -/
def Segment.blocks (g : Segment) : Nat := ceilDiv g.kLen g.common
/-- The K positions of common block j of a segment (R74). -/
def Segment.positions (g : Segment) (j : Nat) : List Nat :=
  (List.range (min (j * g.common + g.common) g.kLen - j * g.common)).map (fun i => j * g.common + i)

/-- The accumulation state of one output element. -/
structure Acc where
  pairs : List Pair
  /-- Launch-wide number of the next common block, or of the next integer group. -/
  j : Nat
  /-- (flag, KBLOCK) events, newest first. -/
  events : List (Flag × Nat)
  deriving DecidableEq, Repr, Inhabited

/-- The flag of an accumulate or merge event (R80, R86). -/
def AccEvent.flags : AccEvent → List Flag
  | .none => [] | .invalid => [.invalid] | .ovf => [.ovf]

/-- The index of the term that raises LONGSUM (R92). -/
def longsumIndex : Nat := 4194304

/-- Enter one term into the pair of a rank, as term number `index`, with events at KBLOCK `kb` (R80, R92, R96). -/
def Acc.term (acc : Acc) (rank index kb : Nat) (t : Term) : Acc :=
  let r := accumulate (acc.pairs.getD rank Pair.zero) t.v
  let fl := t.flags ++ r.2.flags
  let fl := fl ++ (if index = longsumIndex then [Flag.longsum] else [])
  { acc with pairs := acc.pairs.set rank r.1, events := (fl.map (fun f => (f, kb))).reverse ++ acc.events }

/-- The position pairs of a common block, an operand's jib positions standing as +0 in the unit of its format, whatever
code is stored there (R62, R78, R82). -/
def blockPairs (m : Mem) (g : Segment) (ja jb : Tab Nat) (b r c j : Nat) : List (Num × Num) :=
  (g.positions j).map (fun k =>
    let za := (g.a.jib ja r k).isSome
    let zb := (g.b.jib jb c k).isSome
    (if za then Num.fin false 0 g.a.d.elem.unit else g.a.num m b r k,
     if zb then Num.fin false 0 g.b.d.elem.unit else g.b.num m b c k))

/-- The jib entries of a segment's operands for output matrix b. -/
def Segment.jibs (m : Mem) (g : Segment) (b : Nat) : Tab Nat × Tab Nat :=
  (jibEntries m g.a.d (g.a.matrixOf b), jibEntries m g.b.d (g.b.matrixOf b))

/-- The block terms of a segment for output element (b, r, c) whose launch-wide numbers are lo to hi − 1 (R74, R96). -/
def segmentTerms (m : Mem) (ranks b r c lo hi : Nat) (acc : Acc) (g : Segment) : Acc :=
  let js := g.jibs m b
  (List.range g.blocks).foldl (fun acc j =>
    if acc.j < lo ∨ hi ≤ acc.j then { acc with j := acc.j + 1 }
    else
      let k0 := j * g.common
      let t := blockTerm (blockPairs m g js.1 js.2 b r c j) (g.a.scale m b r k0) (g.b.scale m b c k0)
      { Acc.term acc (acc.j % ranks) acc.j acc.j t with j := acc.j + 1 }) acc

/-- The merge tree of R97. -/
def mergeRanks (acc : Acc) : Acc :=
  let p := fun i => acc.pairs.getD i Pair.zero
  let ev := fun (e : AccEvent) => e.flags.map (fun f => (f, kbMerge))
  match acc.pairs.length with
  | 2 =>
    let r := mergePair (p 0) (p 1)
    { acc with pairs := [r.1], events := ev r.2 ++ acc.events }
  | 4 =>
    let x := mergePair (p 0) (p 1)
    let y := mergePair (p 2) (p 3)
    let r := mergePair x.1 y.1
    { acc with pairs := [r.1], events := ev r.2 ++ ev y.2 ++ ev x.2 ++ acc.events }
  | _ => { acc with pairs := [p 0] }

/-- Where the outlier terms of a launch stand: the accumulation, the number of the segment's first common block, the
index of the next term, and the launch-wide number of the segment's first K position. -/
structure OutlierRun where
  acc : Acc
  jBase : Nat
  index : Nat
  kBase : Nat
  deriving DecidableEq, Repr, Inhabited

/-- The outlier terms of one segment, in ascending K, at launch-wide K positions lo to hi − 1 (R82, R83, R96). -/
def segmentOutliers (m : Mem) (b r c lo hi : Nat) (st : OutlierRun) (g : Segment) : OutlierRun :=
  let js := g.jibs m b
  let next := { st with jBase := st.jBase + g.blocks, kBase := st.kBase + g.kLen }
  if js.1.isEmpty && js.2.isEmpty then next
  else
    let out := (List.range g.kLen).foldl (fun (q : Acc × Nat) k =>
      let ja := g.a.jib js.1 r k
      let jb := g.b.jib js.2 c k
      if ja.isNone && jb.isNone then q
      else if st.kBase + k < lo ∨ hi ≤ st.kBase + k then (q.1, q.2 + 1)
      else
        let fa := outlierFactor ja (g.a.num m b r k) (g.a.scale m b r k)
        let fb := outlierFactor jb (g.b.num m b c k) (g.b.scale m b c k)
        let t := blockTerm [(fa.1, fb.1)] fa.2 fb.2
        (Acc.term q.1 0 q.2 (st.jBase + k / g.common) t, q.2 + 1)) (st.acc, st.index)
    { next with acc := out.1, index := out.2 }

/-- The sum of K over all segments (R73). -/
def segK (segs : List Segment) : Nat := segs.foldl (fun n g => n + g.kLen) 0

/-- One progress lies no further than another. -/
def Progress.le : Progress → Progress → Bool
  | .block i, .block j => decide (i ≤ j)
  | .block _, .outlier _ => true
  | .outlier _, .block _ => false
  | .outlier i, .outlier j => decide (i ≤ j)

/-- The common blocks of a launch. -/
def segBlocks (segs : List Segment) : Nat := (segs.map Segment.blocks).sum

/-- Enter the outlier terms at launch-wide K positions lo to hi − 1 into a merged accumulation. -/
def enterOutliers (m : Mem) (segs : List Segment) (b r c lo hi : Nat) (acc : Acc) : Acc :=
  (segs.foldl (segmentOutliers m b r c lo hi) { acc := acc, jBase := 0, index := segBlocks segs, kBase := 0 }).acc

/-- A floating-point or BF16 output element goes on from one progress to another with its pairs, and its events on the
way (R71–R97): one pair for each rank before the merge, the merged pair after it. -/
def floatRun (m : Mem) (ranks : Nat) (segs : List Segment) (b r c : Nat) (pairs : List Pair) (p q : Progress) :
    List Pair × List (Flag × Nat) :=
  let acc : Acc := { pairs := pairs, j := 0, events := [] }
  let out := match p, q with
    | .block lo, .block hi => segs.foldl (segmentTerms m ranks b r c lo hi) acc
    | .block lo, .outlier k => enterOutliers m segs b r c 0 k (mergeRanks (segs.foldl (segmentTerms m ranks b r c lo (segBlocks segs)) acc))
    | .outlier lo, .outlier hi => enterOutliers m segs b r c lo hi acc
    | .outlier _, .block _ => acc
  (out.pairs, out.events)

/-- The readout of a final pair and its event (R84). -/
def floatReadout (segs : List Segment) (pair : Pair) : F32 × List (Flag × Nat) :=
  let ga := (segs.head?.map (fun g => g.a.d.gscale)).getD f32One
  let gb := (segs.head?.map (fun g => g.b.d.gscale)).getD f32One
  let v := readout pair ga gb
  (v.1, if v.2 then [(Flag.ovf, kbReadout)] else [])

/-- The integer value of an integer element. -/
def Num.toInt : Num → Int
  | .fin s m _ => if s then -(m : Int) else (m : Int)
  | _ => 0

/-- The accumulator of an integer output: value, saturated, next group, group of the SAT event (R85). -/
structure IntAcc where
  acc : Int
  sat : Option Nat
  g : Nat
  deriving DecidableEq, Repr, Inhabited

/-- Apply one group sum with sticky saturation (R85). -/
def IntAcc.group (a : IntAcc) (t : Int) : IntAcc :=
  match a.sat with
  | some _ => { a with g := a.g + 1 }
  | none =>
    let x := a.acc + t
    if 2147483647 < x then { acc := 2147483647, sat := some a.g, g := a.g + 1 }
    else if x < -2147483648 then { acc := -2147483648, sat := some a.g, g := a.g + 1 }
    else { acc := x, sat := none, g := a.g + 1 }

/-- The groups lo to hi − 1 of one segment of an integer product (R85, R98). -/
def segmentInt (m : Mem) (b r c lo hi : Nat) (a : IntAcc) (s : Segment) : IntAcc :=
  (List.range (ceilDiv s.kLen 32)).foldl (fun a q =>
    if a.g < lo ∨ hi ≤ a.g then { a with g := a.g + 1 }
    else
      let t := (List.range (min (32 * q + 32) s.kLen - 32 * q)).foldl (fun (t : Int) i =>
        t + (s.a.num m b r (32 * q + i)).toInt * (s.b.num m b c (32 * q + i)).toInt) 0
      IntAcc.group a t) a

/-- The groups of an integer launch. -/
def segGroups (segs : List Segment) : Nat := (segs.map (fun g => ceilDiv g.kLen 32)).sum

/-- What a cell of the array holds for one output element (R105): its hi/lo pairs by rank, or the accumulator and the
saturation bit of an integer product. -/
structure ArrayCell where
  pairs : List Pair
  int : Int
  sat : Bool
  deriving DecidableEq, Repr, Inhabited

/-- A cell before its first term. -/
def ArrayCell.fresh (ranks : Nat) : ArrayCell := { pairs := List.replicate ranks Pair.zero, int := 0, sat := false }

/-- The elements of a launch are integers. -/
def segInt (segs : List Segment) : Bool := (segs.head?.map (fun g => g.a.d.elem.isInt)).getD false

/-- The cell of output element (b, r, c) goes on from one progress to another, with its flag events (R71–R98). -/
def cellRun (m : Mem) (ranks : Nat) (segs : List Segment) (b r c : Nat) (x : ArrayCell) (p q : Progress) : ArrayCell × List Event :=
  let at' := fun (e : Flag × Nat) => ({ flag := e.1, pos := { matrix := b, row := r, col := c, kblock := e.2 } } : Event)
  if segInt segs then
    let lo := match p with | .block j => j | .outlier _ => segGroups segs
    let hi := match q with | .block j => j | .outlier _ => segGroups segs
    let a := segs.foldl (segmentInt m b r c lo hi) { acc := x.int, sat := if x.sat then some 0 else none, g := 0 }
    ({ x with int := a.acc, sat := a.sat.isSome }, match x.sat, a.sat with | false, some g => [at' (.sat, g)] | _, _ => [])
  else
    let f := floatRun m ranks segs b r c x.pairs p q
    ({ x with pairs := f.1 }, f.2.map at')

/-- The readout of a finished cell, with its events (R84, R112). -/
def cellReadout (segs : List Segment) (b r c : Nat) (x : ArrayCell) : F32 × List Event :=
  if segInt segs then (round32 x.int 0, [])
  else
    let v := floatReadout segs (x.pairs.getD 0 Pair.zero)
    (v.1, v.2.map (fun e => { flag := e.1, pos := { matrix := b, row := r, col := c, kblock := e.2 } }))

/-- One output element from a cell at some progress to its readout, with the events from there on. -/
def cellFinish (m : Mem) (ranks : Nat) (segs : List Segment) (b r c : Nat) (x : ArrayCell) (p : Progress) : F32 × List Event :=
  let y := cellRun m ranks segs b r c x p (.outlier (segK segs))
  let v := cellReadout segs b r c y.1
  (v.1, v.2 ++ y.2)

/-- One output element of a product, with its flag events (R71–R98). -/
def dotOutput (m : Mem) (ranks : Nat) (segs : List Segment) (b r c : Nat) : F32 × List Event :=
  cellFinish m ranks segs b r c (ArrayCell.fresh ranks) (.block 0)

/-- All outputs of a product in row-major order, with all their events. -/
def productValues (m : Mem) (ranks : Nat) (segs : List Segment) (batch rows cols : Nat) : List F32 × List Event :=
  let r := (List.range (batch * rows * cols)).map (fun i =>
    dotOutput m ranks segs (i / (rows * cols)) (i / cols % rows) (i % cols))
  (r.map (fun v => v.1), (r.map (fun v => v.2)).flatten)

/-- BATCH values above 1 agree over the whole launch (R72). -/
def batchesAgree : List Nat → Bool
  | [] => true
  | b :: t => (b == 1 || t.all (fun c => c == 1 || c == b)) && batchesAgree t

/-- The operand descriptors of a launch. -/
def segDescs (segs : List Segment) : List TDesc := (segs.map (fun g => [g.a.d, g.b.d])).flatten

/-- The larger BATCH of the operands (R72). -/
def segBatch (segs : List Segment) : Nat := (segDescs segs).foldl (fun n d => max n d.batch) 1

/-- The rotation rule of R128 for one segment. -/
def rotationOk (g : Segment) : Bool :=
  (g.a.d.rotSize == 0 && g.b.d.rotSize == 0) ||
  (g.a.d.rotSize == g.b.d.rotSize && g.a.d.layer == g.b.d.layer && !g.a.transposed && !g.b.transposed)

/-- The static checks of R72, R114 and R128 over a launch with its output descriptor and shape. -/
def productOk (segs : List Segment) (o : TDesc) (sh : Shape) : Bool :=
  match segs with
  | [] => false
  | g0 :: _ =>
    decide (segs.length ≤ 16) &&
    segs.all (fun g =>
      g.a.kLen == g.b.kLen && legalPair g.a.d.elem g.b.d.elem &&
      g.a.d.elem == g0.a.d.elem && g.b.d.elem == g0.b.d.elem &&
      g.a.outLen == g0.a.outLen && g.b.outLen == g0.b.outLen && rotationOk g) &&
    batchesAgree ((segDescs segs).map (fun d => d.batch)) &&
    o.rows == g0.a.outLen && o.cols == g0.b.outLen && o.batch == segBatch segs &&
    !o.elem.isInt &&
    (!o.elem.isNarrowFp || (decide (o.blockRows ≤ sh.tm) && decide (o.blockCols ≤ sh.tn))) &&
    decide (o.rotLen ≤ sh.tn)

/-- The global-scale check of R72, made at the start with the scales as bound (R163). -/
def gscalesAgree (segs : List Segment) : Bool :=
  match segs with
  | [] => true
  | g0 :: _ => segs.all (fun g => g.a.d.gscale == g0.a.d.gscale && g.b.d.gscale == g0.b.d.gscale)

end Sys2Proof.Machine
end

