-- ==== Sys2Proof/Machine/Writer.lean ====
section
/-! DEFINITION. The writer path: jib extraction, rotation, block scales, rounding by traffic class, the keyed
generator and the norm feed (R112–R137), and the bytes it writes (R50–R53, R60–R63, R125). -/

namespace Sys2Proof.Machine

/-! The keyed generator (R135). -/

/-- The 25 input lanes of a generator invocation. -/
def genState (seed stepField tag group domain : Nat) : List Nat :=
  [bitsOf seed 31 0, bitsOf seed 63 32, bitsOf seed 95 64, bitsOf seed 127 96,
   bitsOf stepField 31 0, bitsOf stepField 63 32, tag % 2 ^ 32,
   bitsOf group 31 0, bitsOf group 63 32, domain, 1,
   0, 0, 0, 0, 0, 0, 0, 0, 0, 0, 0, 0, 0, 0x80000000]

/-- The generator's 128-bit output. -/
def generator (seed stepField tag group domain : Nat) : Nat :=
  let l := keccakP800 (genState seed stepField tag group domain)
  l.getD 0 0 + l.getD 1 0 * 2 ^ 32 + l.getD 2 0 * 2 ^ 64 + l.getD 3 0 * 2 ^ 96

/-- The step field of a command outside every step, and of rotation signs (R127, R136). -/
def noStepField : Nat := 0xFFFFFFFFFFFFFFFF

/-- The 16-bit rounding draw of logical element e (R134, R136). -/
def roundDraw (seed stepField tag e : Nat) : Nat :=
  let g := generator seed stepField tag (e / 8) 1
  g / 2 ^ (16 * (e % 8)) % 2 ^ 16

/-- Is the rotation sign of a column −1 (R127)? -/
def rotSignNeg (seed layer x : Nat) : Bool :=
  (generator seed noStepField (0xFFFF0000 + layer % 65536) (x / 128) 2).testBit (x % 128)

/-! Rounding to a narrow format or BF16. -/

/-- A binary format as the rounder sees it: mantissa bits, unit exponent, largest finite code. -/
structure RoundFmt where
  mb : Nat
  unit : Int
  maxCode : Nat
  deriving DecidableEq, Repr

/-- The rounding format of an output element format. -/
def roundFmt : Elem → RoundFmt
  | .fp4 => { mb := 1, unit := -1, maxCode := 0x7 }
  | .e4m3 => { mb := 3, unit := -9, maxCode := 0x7E }
  | .e5m2 => { mb := 2, unit := -16, maxCode := 0x7B }
  | _ => { mb := 7, unit := -133, maxCode := 0x7F7F }

/-- Rounding modes (R132). -/
inductive Rounding where
  | rne
  | rto
  | sr (r : Nat)
  deriving DecidableEq, Repr

/-- The magnitude code of the exact value `n ÷ d × 2^e` (R132, R133). A code past the largest finite one is +∞ for
BF16 under RNE, and is kept at the largest finite one under RTO and SR (R122, R132). -/
def roundMag (f : RoundFmt) (mode : Rounding) (n d : Nat) (e : Int) : Nat :=
  -- the value in units of the smallest subnormal, as p ÷ q
  let k := e - f.unit
  let p := if 0 ≤ k then n * 2 ^ k.toNat else n
  let q := if 0 ≤ k then d else d * 2 ^ (-k).toNat
  let fl := p / q
  let sh := Nat.log2 fl - f.mb
  let code := sh * 2 ^ f.mb + fl / 2 ^ sh
  let lo := fl / 2 ^ sh * 2 ^ sh
  -- the part above lo, over q, and the gap to the next magnitude
  let rem := p - lo * q
  let gap := 2 ^ sh * q
  let up : Bool :=
    match mode with
    | .rne => decide (gap < 2 * rem) || (decide (2 * rem = gap) && decide (code % 2 = 1))
    | .rto => decide (rem ≠ 0) && decide (code % 2 = 0)
    | .sr r => decide (rem ≠ 0) && decide (r < 65536 * rem / gap)
  let c := if up then code + 1 else code
  match mode with
  | .rne => min c (f.maxCode + 1)
  | _ => min c f.maxCode

/-- BF16 of a value divided exactly by a positive FP32 value (R122, R131, R132); NaN is 0x7FC0. -/
def toBf16 (mode : Rounding) (x g : F32) : Nat :=
  if f32IsNaN x then 0x7FC0
  else
    let s := if f32Neg x then 0x8000 else 0
    if f32IsInf x then s + 0x7F80
    else s + roundMag (roundFmt .bf16) mode (f32Mant x) (f32Mant g) (f32Pow x - f32Pow g)

/-- The rounding mode of a traffic class for one kind of output (R131). -/
def elemMode (traffic draw : Nat) : Rounding := if traffic = 0 then .rne else .sr draw
/-- BF16 outputs: RTO for FORWARD. -/
def bf16Mode (traffic draw : Nat) : Rounding := if traffic = 0 then .rto else .sr draw

/-! Block scales (R129). -/

/-- The largest finite magnitude of an element format as significand and exponent. -/
def emaxOf : Elem → Nat
  | .fp4 => 6 | .e4m3 => 448 | _ => 57344

/-- `n ÷ d × 2^e ≤ m × 2^k`. -/
def ratLe (n d : Nat) (e : Int) (m : Nat) (k : Int) : Bool :=
  if e ≤ k then decide (n ≤ m * d * 2 ^ (k - e).toNat) else decide (n * 2 ^ (e - k).toNat ≤ m * d)

/-- A chosen scale: its byte, its value, and whether the block saturates. -/
structure ScalePick where
  code : Nat
  sig : Nat
  exp : Int
  clamp : Bool
  deriving DecidableEq, Repr, Inhabited

/-- The smallest E8M0 scale at least `n ÷ d × 2^e`, or the largest scale with its clamp. -/
def pickE8m0 (n d : Nat) (e : Int) : ScalePick :=
  let c0 : Int := (Nat.log2 n : Int) - (Nat.log2 d : Int) + e - 1
  let c := if ratLe n d e 1 c0 then c0 else if ratLe n d e 1 (c0 + 1) then c0 + 1 else c0 + 2
  if 127 < c then { code := 0xFE, sig := 1, exp := 127, clamp := true }
  else
    let c := max c (-127)
    { code := (c + 127).toNat, sig := 1, exp := c, clamp := false }

/-- The first UE4M3 code from `c` upwards whose value is at least `n ÷ d × 2^e`; past 0x7E the largest, clamped. -/
def pickUe4m3 : Nat → Nat → Nat → Nat → Int → ScalePick
  | 0, _, _, _, _ => { code := 0x7E, sig := 14, exp := 5, clamp := true }
  | fuel + 1, c, n, d, e =>
    let s := (scaleNum .ue4m3 c).getD (0, 0)
    if ratLe n d e s.1 s.2 then { code := c, sig := s.1, exp := s.2, clamp := false }
    else pickUe4m3 fuel (c + 1) n d e

/-- What the writer puts into one block: the scale byte, the element codes and whether SCALE_CLAMP is raised. -/
structure BlockOut where
  scale : Nat
  codes : List Nat
  clamp : Bool
  deriving DecidableEq, Repr, Inhabited

/-- The element of largest magnitude among finite values. -/
def amaxF32 (vs : List F32) : F32 :=
  (vs.filter f32IsFin).foldl (fun a v => if flt a (f32Abs v) then f32Abs v else a) f32Zero

/-- One element's code under a chosen scale (R131, R132). -/
def convertElem (fmt : Elem) (mode : Rounding) (g : F32) (p : ScalePick) (v : F32) : Nat :=
  let f := roundFmt fmt
  let signBit := if fmt = .fp4 then 8 else 128
  let s := if f32Neg v then signBit else 0
  if f32IsInf v then s + 0x7C
  else
    let c := min (roundMag f mode (f32Mant v) (f32Mant g * p.sig) (f32Pow v - f32Pow g - p.exp)) f.maxCode
    if c = 0 then 0 else s + c

/-- One block of narrow elements: `vs` its live values in block order with their rounding draws (R129, R131). Below the E8M0
range the sentence of R129 rounds towards zero and its table by traffic class: the model follows the table (log 82). -/
def writeBlock (fmt : Elem) (sc : ScaleEnc) (traffic : Nat) (g : F32) (vs : List (F32 × Nat)) : BlockOut :=
  let xs := vs.map (fun p => p.1)
  if xs.any f32IsNaN || (fmt != .e5m2 && xs.any f32IsInf) then
    { scale := if sc = .e8m0 then 0xFF else 0x7F, codes := vs.map (fun _ => 0), clamp := true }
  else
    let a := amaxF32 xs
    let pick :=
      if f32IsZero a then
        { code := if sc = .e8m0 then 0 else 1, sig := 1, exp := if sc = .e8m0 then -127 else -9, clamp := false }
      else
        let n := f32Mant a
        let d := f32Mant g * emaxOf fmt
        let e := f32Pow a - f32Pow g
        if sc = .e8m0 then pickE8m0 n d e else pickUe4m3 126 1 n d e
    { scale := pick.code
      codes := vs.map (fun p => convertElem fmt (elemMode traffic p.2) g pick p.1)
      clamp := pick.clamp }

/-! Rotation (R126). -/

/-- C[p] for ROT_SIZE 1 to 4. -/
def rotConst (rotSize : Nat) : F32 :=
  match rotSize with
  | 1 => 0x3E800000#32 | 2 => 0x3E3504F3#32 | 3 => 0x3E000000#32 | _ => 0x3DB504F3#32

/-- One butterfly stage over a run: pairs i and i + 2^s. -/
def butterfly (z : List F32) (s : Nat) : List F32 :=
  (List.range z.length).map (fun i =>
    if (i >>> s) % 2 = 0 then fadd (z.getD i 0) (z.getD (i + 2 ^ s) 0)
    else fsub (z.getD (i - 2 ^ s) 0) (z.getD i 0))

/-- Rotate one run of 2^p values whose first column is x0. -/
def rotateRun (seed layer rotSize x0 : Nat) (xs : List F32) : List F32 :=
  let z := (List.range xs.length).map (fun i =>
    let v := xs.getD i 0
    -- a product by −1: a NaN gives the canonical NaN, as every lane operation does
    if f32IsNaN v then f32NaN else if rotSignNeg seed layer (x0 + i) then f32Negate v else v)
  ((List.range (rotSize + 3)).foldl butterfly z).map (fun y => fmul y (rotConst rotSize))

/-! Tiles and extraction. -/

/-- What a write depends on besides its values: seed, step field, tile shape and the doublings of the outlier
policy (R113, R136, R139). -/
structure WriteCtx where
  seed : Nat
  stepField : Nat
  tm : Nat
  tn : Nat
  doublings : Nat
  deriving DecidableEq, Repr, Inhabited

/-- Tiles across one matrix's columns. -/
def tilesX (d : TDesc) (w : WriteCtx) : Nat := ceilDiv d.cols w.tn
/-- Tiles of one matrix, T of R123. -/
def tilesOf (d : TDesc) (w : WriteCtx) : Nat := ceilDiv d.rows w.tm * tilesX d w
/-- The tile index of an element (R123). -/
def tileOf (d : TDesc) (w : WriteCtx) (y x : Nat) : Nat := y / w.tm * tilesX d w + x / w.tn
/-- The logical elements of tile t in row-major order (R94, R137). -/
def tileElems (d : TDesc) (w : WriteCtx) (t : Nat) : List (Nat × Nat) :=
  let y0 := t / tilesX d w * w.tm
  let x0 := t % tilesX d w * w.tn
  ((List.range (min w.tm (d.rows - y0))).map (fun i =>
    (List.range (min w.tn (d.cols - x0))).map (fun j => (y0 + i, x0 + j)))).flatten

/-- The effective budget of R139. -/
def effBudget (d : TDesc) (doublings : Nat) : Nat := min (d.jibBudget * 2 ^ doublings) d.jibCapacity
/-- The quota of tile t (R123). -/
def tileQuota (d : TDesc) (w : WriteCtx) (t : Nat) : Nat :=
  let e := effBudget d w.doublings
  let n := tilesOf d w
  if t < e % n then e / n + 1 else e / n

/-- The stage-1 value of element (y, x) of matrix b. -/
def valueAt (vals : List F32) (d : TDesc) (b y x : Nat) : F32 := vals.getD ((b * d.rows + y) * d.cols + x) 0

/-- A candidate of THRESHOLD mode (R121). -/
def isCandidate (d : TDesc) (x : F32) : Bool := fgt (f32Abs x) d.jibThreshold && !f32IsNaN x

/-- The extracted INDEX numbers of matrix b, ascending within each tile (R121, R123). -/
def extracted (vals : List F32) (d : TDesc) (w : WriteCtx) (table : List Nat) (b : Nat) : Tab Unit :=
  if d.jibMode = 0 then []
  else if d.jibMode = 1 then
    ((List.range (d.rows * d.cols)).filter (fun i => table.contains (i % d.cols))).map (fun i => (i, ()))
  else
    (List.range (tilesOf d w)).foldl (fun (acc : Tab Unit) t =>
      let cand := (tileElems d w t).filter (fun p => isCandidate d (valueAt vals d b p.1 p.2))
      (cand.take (tileQuota d w t)).foldl (fun acc p => Tab.put acc (p.1 * d.cols + p.2) ()) acc) []

/-- The values of one matrix after extraction and rotation, row-major (R113 stages 2 and 3). -/
def staged (vals : List F32) (d : TDesc) (w : WriteCtx) (ex : Tab Unit) (b : Nat) : List F32 :=
  let v2 := (List.range (d.rows * d.cols)).map (fun i =>
    if (Tab.find ex i).isSome then f32Zero else vals.getD (b * d.rows * d.cols + i) 0)
  if d.rotSize = 0 then v2
  else
    let n := d.rotLen
    ((List.range (d.rows * (d.cols / n))).map (fun q =>
      let y := q / (d.cols / n)
      let x0 := q % (d.cols / n) * n
      rotateRun w.seed d.layer d.rotSize x0 ((v2.drop (y * d.cols + x0)).take n))).flatten

/-- The live element positions of block n, each with its place in the block (R49, R52). -/
def blockElems (d : TDesc) (n : Nat) : List (Nat × Nat × Nat) :=
  let per := d.colsP / d.blockCols
  let y0 := n / per * d.blockRows
  let x0 := n % per * d.blockCols
  ((List.range d.blockSize).map (fun i => (i, y0 + i / d.blockCols, x0 + i % d.blockCols))).filter
    (fun p => decide (p.2.1 < d.rows) && decide (p.2.2 < d.cols))

/-- The first element of block n, the position of its writer events (R130). -/
def blockFirst (d : TDesc) (n : Nat) : Nat × Nat :=
  let per := d.colsP / d.blockCols
  (n / per * d.blockRows, n % per * d.blockCols)

/-- Block n of a matrix: its scale, its B element codes (padding zero) and its clamp event. -/
def narrowBlock (vs : List F32) (d : TDesc) (w : WriteCtx) (b n : Nat) : BlockOut :=
  let el := blockElems d n
  let o := writeBlock d.elem d.scale d.traffic d.gscale (el.map (fun p =>
    (vs.getD (p.2.1 * d.cols + p.2.2) 0,
      if d.traffic = 0 then 0 else roundDraw w.seed w.stepField d.tag ((b * d.rows + p.2.1) * d.cols + p.2.2))))
  let t : Tab Nat := (el.map (fun p => p.1)).zip o.codes
  { o with codes := (List.range d.blockSize).map (fun i => Tab.get 0 t i) }

/-- What a write leaves: byte strings at addresses, flag events, tile status words in tile order, and the sum of
squares fed to the telltale. -/
structure WriteOut where
  writes : List (Nat × List Byte)
  events : List Event
  widened : Nat
  feed : F32
  deriving DecidableEq, Repr, Inhabited

/-- The bolts of matrix b from its blocks (R50–R53, R115). -/
def packBolts (d : TDesc) (b : Nat) (blocks : List BlockOut) : List (Nat × List Byte) :=
  (List.range d.bolts).map (fun i =>
    let mine := (blocks.drop (i * d.blocksPerBolt)).take d.blocksPerBolt
    let payload := packElems d.elem ((mine.map (fun o => o.codes)).flatten)
    let scales := mine.map (fun o => BitVec.ofNat 8 o.scale)
    (d.boltAddr b i, boltBytes payload scales (d.boltOffset b i) d.tag d.geometry d.format))

/-- The jib-list bolts of matrix b (R60, R122, R125). -/
def packJib (vals : List F32) (d : TDesc) (w : WriteCtx) (table : List Nat) (b : Nat) (ex : Tab Unit) :
    List (Nat × List Byte) :=
  let n := ex.length
  let es := (List.range n).map (fun i =>
    let idx := (ex.getD i (0, ())).1
    let e := b * d.rows * d.cols + idx
    let x := vals.getD e 0
    let draw := if d.traffic = 0 then 0 else roundDraw w.seed w.stepField d.tag e
    let slot := if d.jibMode = 1 then (table.findIdx? (fun k => k == idx % d.cols)).getD 0 else 0
    JibEntry.bytes { index := idx, value := toBf16 (elemMode d.traffic draw) x d.gscale, slot := slot,
                     last := decide (i + 1 = n) } d.tag)
  let bolts := max 1 (ceilDiv n 64)
  let all := es.flatten
  (List.range bolts).map (fun i => (d.jibList b + 512 * i, slice all (512 * i) 512))

/-- The widened blocks of a matrix (R124): those that hold a candidate that was not extracted. -/
def widenedBlocks (vals : List F32) (d : TDesc) (ex : Tab Unit) (b : Nat) : List Nat :=
  if d.jibMode ≠ 2 then []
  else
    (List.range d.nBlocks).filter (fun n =>
      (blockElems d n).any (fun p =>
        isCandidate d (valueAt vals d b p.2.1 p.2.2) && (Tab.find ex (p.2.1 * d.cols + p.2.2)).isNone))

/-- One matrix of a narrow tensor. -/
def writeNarrow (vals : List F32) (d : TDesc) (w : WriteCtx) (table : List Nat) (b : Nat) :
    List (Nat × List Byte) × List Event × Nat :=
  let ex := extracted vals d w table b
  let vs := staged vals d w ex b
  let blocks := (List.range d.nBlocks).map (narrowBlock vs d w b)
  let at_ := fun (f : Flag) (n : Nat) =>
    let p := blockFirst d n
    ({ flag := f, pos := { matrix := b, row := p.1, col := p.2, kblock := kbWriter } } : Event)
  let wide := widenedBlocks vals d ex b
  let clamp := (List.range d.nBlocks).filter (fun n => (blocks.getD n default).clamp)
  (packBolts d b blocks ++ (if d.jibMode = 0 then [] else packJib vals d w table b ex),
   wide.map (at_ .outlierOvf) ++ clamp.map (at_ .scaleClamp), wide.length)

/-- One matrix of a BF16 or FP32 tensor (R68, R131). -/
def writeWide (vals : List F32) (d : TDesc) (w : WriteCtx) (b : Nat) : List (Nat × List Byte) :=
  (List.range (d.rows * d.cols)).map (fun i =>
    let e := b * d.rows * d.cols + i
    let x := vals.getD e 0
    let code :=
      if d.elem = .bf16 then
        toBf16 (bf16Mode d.traffic (if d.traffic = 0 then 0 else roundDraw w.seed w.stepField d.tag e)) x f32One
      else x.toNat
    (d.wideAddr b (i / d.cols) (i % d.cols), leBytes d.elem.bytes code))

/-- The pair of the norm feed over one tile (R137). -/
def tileNorm (vals : List F32) (d : TDesc) (w : WriteCtx) (b t : Nat) : Pair :=
  vsum ((tileElems d w t).map (fun p => let x := valueAt vals d b p.1 p.2; fmul x x))

/-- The sum of squares of a write (R137). -/
def normFeed (vals : List F32) (d : TDesc) (w : WriteCtx) : F32 :=
  total ((List.range d.batch).foldl (fun p b =>
    (List.range (tilesOf d w)).foldl (fun p t => (mergePair p (tileNorm vals d w b t)).1) p) Pair.zero)

/-- The largest finite magnitude that the writer divides in stage 4, the amax it reports (R164). -/
def writeAmax (vals : List F32) (d : TDesc) (w : WriteCtx) (table : List Nat) : F32 :=
  if d.elem.isNarrowFp then
    amaxF32 ((List.range d.batch).map (fun b => staged vals d w (extracted vals d w table b) b)).flatten
  else f32Zero

/-- Everything a writer path does with the FP32 values of a tensor, row-major over all matrices (R113).
`table` is the channel table of a DESIGNATED tensor, as read. -/
def writeTensor (vals : List F32) (d : TDesc) (w : WriteCtx) (table : List Nat) : WriteOut :=
  let feed := if d.telltale = 0xFFFF then f32Zero else normFeed vals d w
  if d.elem.isNarrowFp then
    let rs := (List.range d.batch).map (writeNarrow vals d w table)
    { writes := (rs.map (fun r => r.1)).flatten
      events := (rs.map (fun r => r.2.1)).flatten
      widened := rs.foldl (fun n r => n + r.2.2) 0
      feed := feed }
  else
    { writes := ((List.range d.batch).map (writeWide vals d w)).flatten
      events := [], widened := 0, feed := feed }

/-- Put a list of byte strings into memory. -/
def Mem.writeAll (m : Mem) (ws : List (Nat × List Byte)) : Mem := ws.foldl (fun m p => m.write p.1 p.2) m

/-- The tile geometry of a vector-unit or stack-engine write (R114): row bands of 128 rows. -/
def bandCtx (d : TDesc) (seed stepField doublings : Nat) : WriteCtx :=
  { seed := seed, stepField := stepField, tm := 128, tn := d.cols, doublings := doublings }

end Sys2Proof.Machine
end

