-- ==== Sys2Proof/Machine/Vector.lean ====
section
/-! DEFINITION. The vector operators and update programs (R117–R120, R194, R353), the fixed optimizers and the update
of one element (R189–R192), the ratio (R169), the scale and monitor rules (R159–R167), the joined partial sums of the
matrix-vector unit (R204) and the range digest (R207). -/

namespace Sys2Proof.Machine

/-- log2(e), nearest FP32 (R120). -/
def cLog2e : F32 := 0x3FB8AA3B#32
/-- ln(2), nearest FP32 (R120). -/
def cLn2 : F32 := 0x3F317218#32

/-- The running maximum from −∞ (R120). -/
def rowMax (x : List F32) : F32 := x.foldl fmax (f32InfS true)

/-- softmax of one row (R120). -/
def softmaxRow (x : List F32) : List F32 :=
  let m := rowMax x
  if m = f32InfS true then x.map (fun _ => f32Zero)
  else
    let e := x.map (fun v => fexp2 (fmul (fsub v m) cLog2e))
    let r := frecip (total (vsum e))
    e.map (fun v => fmul v r)

/-- rmsnorm of one row (R120). -/
def rmsnormRow (x g : List F32) (eps : F32) : List F32 :=
  let ms := fmul (total (vsum (x.map (fun v => fmul v v)))) (frecip (f32OfNat x.length))
  let r := frsqrt (fadd ms eps)
  (x.zip g).map (fun p => fmul (fmul p.1 r) p.2)

/-- layernorm of one row (R120). -/
def layernormRow (x g b : List F32) (eps : F32) : List F32 :=
  let rl := frecip (f32OfNat x.length)
  let mu := fmul (total (vsum x)) rl
  let d := x.map (fun v => fsub v mu)
  let var := fmul (total (vsum (d.map (fun v => fmul v v)))) rl
  let r := frsqrt (fadd var eps)
  (d.zip (g.zip b)).map (fun p => ffma (fmul p.1 r) p.2.1 p.2.2)

/-- xent of one row with target position t (R120). -/
def xentRow (x : List F32) (t : Nat) : F32 :=
  let m := rowMax x
  let s := total (vsum (x.map (fun v => fexp2 (fmul (fsub v m) cLog2e))))
  fadd (fsub m (x.getD t 0)) (fmul (flog2 s) cLn2)

/-- mean_loss (R120). -/
def meanLoss (l : List F32) : F32 := fmul (total (vsum l)) (frecip (f32OfNat l.length))

/-- The seed gradient of one row (R353): (y[i] − δ) × c. -/
def seedGrad (x : List F32) (t : Nat) (c : F32) : List F32 :=
  (softmaxRow x).zipIdx.map (fun p => fmul (fsub p.1 (if p.2 = t then f32One else f32Zero)) c)

/-! Update programs (R194). -/

/-- The words before the first END, and whether an END or the 32-word limit ended them. -/
def programWords (ws : List Nat) : List Nat := (ws.take 32).takeWhile (fun w => w / 2 ^ 28 % 16 != 0)

/-- A program is valid: not empty, no reserved OP, bits [11:0] zero. -/
def programOk (ws : List Nat) : Bool :=
  let p := programWords ws
  !p.isEmpty && p.all (fun w => w / 2 ^ 28 % 16 != 15 && w % 4096 == 0)

/-- One update-program operation on the sixteen registers. -/
def programStep (v : List F32) (w : Nat) : List F32 :=
  let a := v.getD (bitsOf w 23 20) 0
  let b := v.getD (bitsOf w 19 16) 0
  let c := v.getD (bitsOf w 15 12) 0
  let r : F32 :=
    match bitsOf w 31 28 with
    | 1 => fadd a b
    | 2 => fsub a b
    | 3 => fmul a b
    | 4 => ffma a b c
    | 5 => fmax a b
    | 6 => fmin a b
    | 7 => fexp2 a
    | 8 => flog2 a
    | 9 => frecip a
    | 10 => frsqrt a
    | 11 => f32Abs a
    | 12 => f32Negate a
    | 13 => if flt a f32Zero then b else c
    | 14 => if fgt a b then f32One else f32Zero
    | _ => v.getD (bitsOf w 27 24) 0
  v.set (bitsOf w 27 24) r

/-- Run a program on the registers v0–v15. -/
def programRun (ws : List Nat) (v : List F32) : List F32 := (programWords ws).foldl programStep v

/-! The update (R189–R192). -/

/-- A hyperparameter set (R188): LR, BETA1, BETA2, EPS, WD, AUX0, AUX1, AUX2. -/
structure Hyper where
  lr : F32
  beta1 : F32
  beta2 : F32
  eps : F32
  wd : F32
  aux0 : F32
  aux1 : F32
  aux2 : F32
  deriving DecidableEq, Repr, Inhabited

/-- A set read from its 32 bytes. -/
def Hyper.parse (bs : List Byte) : Hyper :=
  let f := fun i => (BitVec.ofNat 32 (fieldLe bs (4 * i) 4) : F32)
  { lr := f 0, beta1 := f 1, beta2 := f 2, eps := f 3, wd := f 4, aux0 := f 5, aux1 := f 6, aux2 := f 7 }

/-- The bias factors r1 and r2 of R190 for optimizer step count t. -/
def biasFactors (h : Hyper) (t : Nat) : F32 × F32 :=
  let tf := f32OfNat t
  (frecip (fsub f32One (fexp2 (fmul tf (flog2 h.beta1)))),
   frecip (fsub f32One (fexp2 (fmul tf (flog2 h.beta2)))))

/-- What the update of one element forms: dw and the new moments. -/
structure Delta where
  dw : F32
  m1 : F32
  m2 : F32
  deriving DecidableEq, Repr, Inhabited

/-- ADAPTIVE of R191. -/
def adaptive (h : Hyper) (r : F32 × F32) (g w m v : F32) : Delta :=
  let m1 := ffma h.beta1 m (fmul (fsub f32One h.beta1) g)
  let v1 := ffma h.beta2 v (fmul (fsub f32One h.beta2) (fmul g g))
  let mh := fmul m1 r.1
  let vh := fmul v1 r.2
  let sd := if feq vh f32Zero then f32Zero else fmul vh (frsqrt vh)
  let u := fmul mh (frecip (fadd sd h.eps))
  let d := ffma h.wd w u
  { dw := f32Negate (fmul h.lr d), m1 := m1, m2 := v1 }

/-- SGD_MOMENTUM of R191. -/
def sgdMomentum (h : Hyper) (g w m : F32) : Delta :=
  let gw := ffma h.wd w g
  let m1 := ffma h.beta1 m gw
  { dw := f32Negate (fmul h.lr m1), m1 := m1, m2 := f32Zero }

/-- CUSTOM of R194. -/
def customUpdate (h : Hyper) (r : F32 × F32) (prog : List Nat) (g w m v : F32) : Delta :=
  let o := programRun prog [g, w, m, v, h.lr, h.beta1, h.beta2, h.eps, h.wd, h.aux0, h.aux1, h.aux2, r.1, r.2,
    f32Zero, f32Zero]
  { dw := o.getD 14 0, m1 := o.getD 2 0, m2 := o.getD 3 0 }

/-- The update by OPT code: 0 SGD_MOMENTUM, 1 ADAPTIVE, 2 CUSTOM. A NaN of dw is the canonical one. -/
def updateElem (opt : Nat) (h : Hyper) (r : F32 × F32) (prog : List Nat) (g w m v : F32) : Delta :=
  let d := match opt with
    | 0 => sgdMomentum h g w m
    | 1 => adaptive h r g w m v
    | _ => customUpdate h r prog g w m v
  if f32IsNaN d.dw ∧ opt < 2 then { d with dw := f32NaN } else d

/-- The gradient value γ of R189: the element times its block scale and global scale over the gradient scale, rounded
once. -/
def gradValue (e : Num) (sc : Option (Nat × Int)) (G gs : F32) : F32 :=
  match e, sc with
  | .nan, _ => f32NaN
  | _, none => f32NaN
  | .inf s, some _ => f32InfS s
  | .fin s m k, some (sg, t) =>
    if m * sg = 0 then f32Zero
    else roundRat32 s (m * sg * f32Mant G) (f32Mant gs) (k + t + f32Pow G - f32Pow gs)

/-- Store an FP32 result in a master or moment array (R192): FP32 as it is, BF16 by stochastic rounding keyed by the
array's tag. -/
def storeMoment (bf16 : Bool) (seed stepField tag i : Nat) (x : F32) : List Byte :=
  if bf16 then leBytes 2 (toBf16 (.sr (roundDraw seed stepField tag i)) x f32One) else leBytes 4 x.toNat

/-- The ratio of R169 from sΔ and sw. -/
def updateRatio (sd sw : F32) : F32 :=
  if f32IsZero sw then (if f32IsZero sd then f32Zero else f32Inf)
  else
    let r := fmul sd (frecip sw)
    if f32IsZero r then f32Zero else fmul r (frsqrt r)

/-- A ratio is outside its class (R170). -/
def ratioOutside (r lo hi : F32) : Bool := f32IsNaN r || flt r lo || fgt r hi

/-! Scales, monitors and the gradient scale. -/

/-- The scale computed from a set of amax values (R164): none when the set holds no non-zero finite value. -/
def scaleFrom (target : F32) (amax : List F32) : Option F32 :=
  let a := amaxF32 amax
  if f32IsZero a then none
  else
    -- the smallest power of two at least A ÷ TARGET
    let n := f32Mant a
    let d := f32Mant target
    let e := f32Pow a - f32Pow target
    let c0 : Int := (Nat.log2 n : Int) - (Nat.log2 d : Int) + e - 1
    let c := if ratLe n d e 1 c0 then c0 else if ratLe n d e 1 (c0 + 1) then c0 + 1 else c0 + 2
    some (f32Pow2 (min (max c (-126)) 127))

/-- The norm n of a feed s (R159). -/
def normOf (s : F32) : F32 :=
  if f32IsZero s then f32Zero
  else if f32IsNaN s then f32NaN
  else if f32IsInf s then s
  else fmul s (frsqrt s)

/-- The ratio q of a norm to a baseline (R159). -/
def normRatio (n b : F32) : F32 :=
  if f32IsZero b then (if f32IsZero n then f32One else f32Inf) else fmul n (frecip b)

/-- A jump (R159). -/
def isJump (n b thrHi thrLo : F32) (count warmup : Nat) : Bool :=
  !f32IsFin n || (decide (warmup ≤ count) && (fgt (normRatio n b) thrHi || flt (normRatio n b) thrLo))

/-- The new baseline of R160. -/
def newBaseline (n b : F32) (count alphaK : Nat) : F32 :=
  if count = 0 then n else ffma (fsub n b) (f32Pow2 (-(alphaK : Int))) b

/-- The gradient scale and clean-commit count after a COMMIT (R167). -/
def gsCommit (g gmax : F32) (c interval : Nat) : F32 × Nat :=
  if c + 1 = interval then (fmin gmax (fmul g f32Two), 0) else (g, c + 1)

/-- After a SKIP (R167). -/
def gsSkip (g gmin backoff : F32) : F32 × Nat := (fmax gmin (fmul g backoff), 0)

/-! The matrix-vector unit (R204). -/

/-- The joined partial sums of one MATVEC output (n, o): each part's own pair, merged in launch order, then readout. -/
def matvecOutput (m : Mem) (segs : List Segment) (n o : Nat) : F32 × List Event :=
  let st := segs.foldl (fun (st : List Pair × Acc) g =>
    let a := segmentTerms m 1 0 n o 0 (segBlocks segs) { st.2 with pairs := [Pair.zero] } g
    (st.1 ++ [a.pairs.getD 0 Pair.zero], a)) ([], { pairs := [Pair.zero], j := 0, events := [] })
  let p0 := st.1.headD Pair.zero
  let mg := (st.1.drop 1).foldl (fun (q : Pair × List (Flag × Nat)) p =>
    let r := mergePair q.1 p
    (r.1, q.2 ++ r.2.flags.map (fun f => (f, kbMerge)))) (p0, st.2.events)
  let ga := (segs.head?.map (fun g => g.a.d.gscale)).getD f32One
  let gb := (segs.head?.map (fun g => g.b.d.gscale)).getD f32One
  let v := readout mg.1 ga gb
  let ev := mg.2 ++ if v.2 then [(Flag.ovf, kbReadout)] else []
  (v.1, ev.map (fun e => { flag := e.1, pos := { matrix := 0, row := n, col := o, kblock := e.2 } }))

/-- All outputs of a MATVEC, row-major. -/
def matvecValues (m : Mem) (segs : List Segment) (rows cols : Nat) : List F32 × List Event :=
  let r := (List.range (rows * cols)).map (fun i => matvecOutput m segs (i / cols) (i % cols))
  (r.map (fun v => v.1), (r.map (fun v => v.2)).flatten)

/-! Range digests (R207). -/

/-- Bytes of a leaf. -/
def leafBytes : Nat := 1048576

/-- The two-level range digest of a byte string. -/
def rangeDigest (bs : List Byte) : List Byte :=
  let leaves := (List.range (ceilDiv bs.length leafBytes)).map (fun i => digest256 ((bs.drop (i * leafBytes)).take leafBytes))
  digest256 (leBytes 8 bs.length ++ leaves.flatten)

end Sys2Proof.Machine
end

