-- ==== Sys2Proof/Machine/State.lean ====
section
/-! DEFINITION. The state of the module as plain data: the register table, device memory, tokens, rings and packets in
flight, descriptors, steps, links, groups, collectives, shroud, integrity, power and management, and the queue of
waiting commands; and the state after a cold reset. -/

namespace Sys2Proof.Machine

/-- The reasons a command stops with a fault. No command of this block raises one: an error the spec describes is a
status, a completion or a log entry of the next state. -/
inductive Fault where
  /-- Raised by no command. Safe: it adds no behaviour. -/
  | unreachable
  deriving DecidableEq, Repr

/-- The reasons a command is refused. -/
inductive Refusal where
  /-- Raised by an arm of exec whose command has no meaning yet; by none when every command has its meaning. Safe. -/
  | notModelled (mnemonic : String)
  deriving DecidableEq, Repr

/-- Where a packet stands (R336, R344, R347). -/
inductive Phase where
  /-- Fetched and expanded, its waits not yet satisfied. -/
  | waiting
  | running
  /-- Ended with this status and detail; its record is not yet written. -/
  | ended (st : Status) (detail : Nat) (faultedWait : Bool)
  deriving DecidableEq, Repr

/-- What a write of a packet reported, for the step record, the scale histories and the monitors (R89, R137, R164). -/
structure WriteReport where
  /-- TAG, LAYER, TELLTALE and TRAFFIC of the output descriptor. -/
  tag : Nat
  layer : Nat
  telltale : Nat
  backward : Bool
  feed : F32
  amax : F32
  overflow : Bool
  deriving DecidableEq, Repr, Inhabited

/-- A collective descriptor (R260). -/
structure CollDesc where
  addr : Nat
  root : Nat
  bundle : Bool
  redop : Nat
  op : Nat
  segments : Nat
  src : Nat
  dst : Nat
  segTable : Nat
  watchdogMs : Nat
  /-- The 64 bytes as read. -/
  raw : List Byte
  deriving DecidableEq, Repr, Inhabited

/-- A packet fetched and not yet ended by its status record. `pid` numbers packets in the order of their fetch. -/
structure Packet where
  pid : Nat
  ring : Nat
  tag : Nat
  slot : Nat
  length : Nat
  sigEn : Bool
  signal : Nat
  waits : List Wait
  op : Op
  phase : Phase
  /-- Tensor descriptors read at expansion, reef substitution applied (R69, R140), in the order the payload names. -/
  descs : List TDesc
  /-- Sequence slots the packet holds (R202). -/
  slots : List Nat
  /-- The collective descriptor that a COLL_LAUNCH, or the STREAM_COLL of a PRODUCT, names, with its tensor
  descriptors and its sequence number (R256, R260). -/
  coll : Option CollDesc
  collDescs : List TDesc
  collSeq : Nat
  /-- It belongs to the open attempt (R147). -/
  inAttempt : Bool
  /-- The run seed when it was expanded (R136). -/
  seed : Nat
  /-- AO ticks of its fetch and of its start. -/
  fetched : Nat
  started : Nat
  /-- Global scales bound at its start, one for each descriptor (R163). -/
  scales : List F32
  /-- Released output values, by row-major element index, while it runs. -/
  vals : Tab F32
  /-- Counts and first positions of its flags (R89). -/
  flags : FlagSet
  report : Option WriteReport
  /-- The bytes that it read and checked as it started: a channel table, a program, constants and target positions (R121,
  R353). -/
  held : Mem
  /-- Channels whose feed was judged: it was re-executed under REPLAY_OP (R161). -/
  redone : Bool
  /-- It ended and waits for room in its status ring (R349). -/
  deferred : Bool
  /-- Byte ranges that packets ordered neither before nor after it have written since it was fetched (R24). -/
  raced : List (Nat × Nat)
  /-- Its descriptors are read again once its waits are satisfied: a packet that it waits for wrote some of them after it
  was fetched, or the first reading failed while it still waits (R24, R69). -/
  again : Bool
  deriving DecidableEq, Repr

/-- A status record that waits for room in its ring (R349), and the AO tick of what it reports; `pid` names the packet, none
for the record of a stop (R337). -/
structure LateRecord where
  ring : Nat
  pid : Option Nat
  tag : Nat
  opcode : Nat
  status : Status
  detail : Nat
  slot : Nat
  faultedWait : Bool
  signalled : Bool
  signal : Nat
  ended : Nat
  deriving DecidableEq, Repr

/-- What a descriptor runs on (R22, R285). -/
inductive ExecUnit where
  | cluster (k : Nat)
  | engine (s : Nat)
  deriving DecidableEq, Repr, Inhabited

/-- What a descriptor is (R366): one tile pass, a vector operation, or one part of a MATVEC. -/
inductive DescKind where
  | tile (matrix index : Nat)
  | vector
  | part (p : Nat)
  deriving DecidableEq, Repr, Inhabited

/-- A context (R105): how far the pass had come, the cells of its tile in row-major order, the tile status word, the running
counts and first positions, and the descriptor's identifier. -/
structure Context where
  progress : Progress
  cells : List ArrayCell
  status : Nat
  flags : FlagSet
  desc : Nat
  deriving DecidableEq, Repr, Inhabited

/-- Where a descriptor stands. -/
inductive DescPhase where
  | queued
  | running (u : ExecUnit)
  /-- Its pass has latched and its output is released. -/
  | released (u : ExecUnit)
  /-- Withheld by a check event; the majority procedure decides (R285). -/
  | withheld (u : ExecUnit)
  /-- Suspended on a cluster that holds its context (R104, R105). -/
  | suspended (k : Nat)
  | done
  deriving DecidableEq, Repr

/-- A descriptor of a packet (R22, R69). -/
structure Desc where
  id : Nat
  pid : Nat
  ring : Nat
  kind : DescKind
  phase : DescPhase
  /-- Selected for a sample record (R366). -/
  selected : Bool
  preempted : Bool
  checkedAgain : Bool
  tested : Bool
  /-- Selected for a shadow execution (R284). -/
  shadowed : Bool
  /-- Cycles of issue and first start, ticks suspended, and the tick of the present suspension (R367, R368). -/
  issue : Nat
  start : Nat
  suspendedFor : Nat
  suspendedAt : Nat
  /-- Its flags: counts and first positions (R90). -/
  flags : FlagSet
  /-- The channel whose queues hold it (R26). -/
  channel : Nat
  /-- The bytes of its operands as they were read and checked when it started (R55, R57, R59). -/
  read : Mem
  /-- The context it was last saved in, or has been restored from (R105, R106). -/
  context : Option Context
  /-- The tile status word (R88). -/
  status : Nat
  deriving DecidableEq, Repr

/-- What a majority procedure decides (R285): a descriptor, or a batch of a shard of the group in progress. -/
inductive RetryFor where
  | desc (id : Nat)
  | batch (shard n : Nat)
  deriving DecidableEq, Repr

/-- A majority procedure or a shadow comparison in progress (R284–R286): what it is for, and the units of E0, E1 and
E2. -/
structure Retry where
  id : Nat
  what : RetryFor
  u0 : ExecUnit
  u1 : ExecUnit
  u2 : ExecUnit
  /-- 0 a majority procedure over a withheld execution; 1 a shadow execution awaiting comparison; 2 a majority
  procedure begun by a shadow disagreement. -/
  kind : Nat
  deriving DecidableEq, Repr

/-- What an outstanding read of host memory is for (R330). -/
inductive ReadFor where
  /-- Slots of a command ring. -/
  | ring (r : Nat)
  /-- The data of a packet. -/
  | packet (pid : Nat)
  deriving DecidableEq, Repr

/-- An outstanding read of host memory. -/
structure HostRead where
  rid : Nat
  addr : Nat
  len : Nat
  what : ReadFor
  deriving DecidableEq, Repr

/-- A read held because its stack is at CRIT (R230). -/
structure HeldRead where
  id : Nat
  addr : Nat
  len : Nat
  since : Nat
  deriving DecidableEq, Repr

/-- An integrity-log entry (R300). -/
structure LogEntry where
  seq : Nat
  tick : Nat
  type : Nat
  code : Nat
  addr : Nat
  tag : Nat
  uclass : Nat
  uindex : Nat
  detail : Nat
  deriving DecidableEq, Repr, Inhabited

/-- An operation of an attempt, for the step record (R175). -/
structure OpEntry where
  pid : Nat
  tag : Nat
  shape : Nat
  flags : FlagSet
  isProduct : Bool
  deriving DecidableEq, Repr, Inhabited

/-- A monitor's judgement of its feed (R159, R161). -/
structure FeedEntry where
  n : F32
  q : F32
  policy : Nat
  jump : Bool
  resolved : Bool
  extra : Bool
  deriving DecidableEq, Repr, Inhabited

/-- A member's part of a verdict exchange (R154). -/
structure VerdictMsg where
  rank : Nat
  verdict : Nat
  reasons : Nat
  budget : Nat
  attempt : Nat
  deriving DecidableEq, Repr, Inhabited

/-- A GROUP entry of the step record (R175). -/
structure GroupEntry where
  group : Nat
  status : Nat
  flags : Nat
  ratio : F32
  deriving DecidableEq, Repr, Inhabited

/-- The open step and its attempt (R147–R165), and what its close has formed. -/
structure StepSt where
  ring : Nat
  beginPid : Nat
  beginSlot : Nat
  nextSlot : Nat
  group : Bool
  budget : Nat
  aoBegin : Nat
  epoch : Nat
  collSeq : Nat
  orderFp : Nat
  /-- The register table as latched at the start of the attempt (R150, R181). -/
  latched : Tab Nat
  gs : F32
  /-- The 64 hyperparameter sets copied by STEP_BEGIN (R188). -/
  hyper : List Byte
  attScale : Tab F32
  amax : Tab F32
  pastAmax : Tab (List F32)
  doublings : Tab Nat
  /-- Tensors that raised OUTLIER_OVF in the attempt: TAG, LAYER, JIB_BUDGET and JIB_CAPACITY. -/
  overflow : List (Nat × Nat × Nat × Nat)
  feeds : Tab FeedEntry
  reasons : Nat
  ops : List OpEntry
  /-- Fetch order and status of the first faulted packet. -/
  firstFault : Option (Nat × Status)
  replayOps : Nat
  logStart : Nat
  endPid : Option Nat
  lossAddr : Nat
  digest : Bool
  loss : Option F32
  lossFault : Option Status
  verdict : Option Nat
  /-- AO tick at which the verdict exchange times out. -/
  deadline : Nat
  /-- COLLECTIVE entries, by the number of their packet: in fetch order (R279). -/
  collEntries : List (Nat × List Byte)
  groups : List GroupEntry
  digests : List (Nat × List Byte)
  /-- A reef rewrite of the attempt failed (R199). -/
  rewriteFault : Option Status
  /-- A jump under HALT, or a reset of the step ring, stops the attempt (R153, R162). -/
  stopped : Bool
  /-- The step ring was reset before step 1 of the close had ended: the step closes by R153. -/
  resetWaits : Bool
  deriving DecidableEq, Repr, Inhabited

/-- A shard of a parameter group as loaded (R185, R186). -/
structure Shard where
  base : Nat
  elems : Nat
  masterTag : Nat
  m1Tag : Nat
  m2Tag : Nat
  hasWork : Bool
  work : TDesc
  grad : TDesc
  deriving DecidableEq, Repr, Inhabited

/-- A parameter group as loaded (R185). -/
structure ParamGroup where
  num : Nat
  ratioClass : Nat
  hyperSet : Nat
  opt : Nat
  momentBf16 : Bool
  masterBf16 : Bool
  /-- PROGRAM, the number of its custom program. -/
  custom : Nat
  program : List Nat
  shards : List Shard
  deriving DecidableEq, Repr, Inhabited

/-- A commit phase in progress (R168, R196): the groups still to commit, the first of them in progress with its step
count, bias factors, ratio and written batches; the stacks that run as the cluster-based update stream; and whether a
group was held. A phase without a group left has the step-state copy to write. -/
structure CommitSt where
  todo : List Nat
  stream : List Nat
  held : Bool
  count : Nat
  bias : F32 × F32
  ratio : F32
  /-- Written batches: shard and batch. -/
  written : List (Nat × Nat)
  /-- The next group, or the step-state copy, waits: for ACCEPT before the first group of a copying commit (R311), or for
  a stack at CRIT (R184, R230). -/
  waiting : Bool
  /-- Batches withheld for the majority procedure. -/
  withheld : List (Nat × Nat)
  deriving DecidableEq, Repr, Inhabited

/-- What a bound sequence slot read at binding (R201): the adapter list's descriptor addresses. -/
structure SlotSt where
  entries : List Nat
  deriving DecidableEq, Repr, Inhabited

/-- An arbiter instance (R231–R234): its pointer and count, the requester whose grant is delivered in the next cycle, and
the grants delivered and the empty ones among them. -/
structure ArbSt where
  ptr : Nat
  used : Nat
  next : Option Nat
  grants : Nat
  empty : Nat
  deriving DecidableEq, Repr, Inhabited

/-- A write that waits for a stack at CRIT (R230), by kind: 0 a host write of a BAR0 word, for posted-write credit; 1 one
through BAR2, in a slice's merge buffer or for credit; 2 a shroud write from a partner, or of a restore; 3 a host write of one
register field, its key in place of an address. -/
structure HeldWrite where
  kind : Nat
  addr : Nat
  data : List Byte
  deriving DecidableEq, Repr, Inhabited

/-- Patrol scrub (R220): the bolts that the pass in progress has read on each stack, in ascending HBM channel and offset;
the stacks that paused it at CRIT; the tick at which the period began, and that of the last read. -/
structure PatrolSt where
  pos : Tab Nat
  held : List Nat
  since : Nat
  last : Nat
  deriving DecidableEq, Repr, Inhabited

/-- What leaves the module: writes to and reads of host memory, completions, link and management traffic, pins. The
state keeps it in order, oldest first. -/
inductive Out where
  | hostWrite (addr : Nat) (data : List Byte)
  | hostRead (rid addr len : Nat)
  | readData (data : List Byte)
  | readUR
  | readCA
  /-- A datagram of the management port (R396, R398). -/
  | mgmt (bytes : List Byte)
  /-- A flit on a link port (R238). -/
  | flit (port : Nat) (bytes : List Byte)
  /-- A packet of the management port other than a protocol message: Neighbor Advertisement or Echo Reply, to an
  address (R396). -/
  | neighborAdvert (target dest : Nat)
  | echoReply (dest : Nat) (data : List Byte)
  /-- An answer on the I3C sideband (R404). -/
  | mctp (bytes : List Byte)
  /-- An answer to a configuration request (R326). -/
  | config (value : Nat)
  deriving DecidableEq, Repr

/-- A cell delivered to a local unit (R241, R246): node addresses, KIND, STREAM and body without its CRC. -/
structure Cell where
  dest : Nat
  src : Nat
  kind : Nat
  stream : Nat
  body : List Byte
  deriving DecidableEq, Repr, Inhabited

/-- The flit state of a link port (R239–R245). -/
structure PortSt where
  /-- SEQ of the next DATA flit sent. -/
  nextSeq : Nat
  /-- SEQ of the last DATA flit accepted. -/
  lastRx : Nat
  /-- Unacknowledged DATA flits, oldest first: SEQ, VC, whether it ends its cell, and payload. -/
  retry : List (Nat × Nat × Bool × List Byte)
  /-- Cells that wait for credit or for the link: VC and bytes. -/
  waiting : List (Nat × List Byte)
  /-- What is still to be sent of the cell that each VC has started. -/
  sending : List (List Byte)
  /-- Cells begun and not yet consumed at the first hop, oldest first: VC and header (R242, R273). -/
  inHop : List (Nat × List Byte)
  /-- Totals of credits returned to the peer, by VC. -/
  returned : List Nat
  /-- The last totals taken from the peer, by VC. -/
  taken : List Nat
  /-- VC whose total the next flit states. -/
  cvc : Nat
  /-- Bytes of the partial cell of each VC. -/
  part : List (List Byte)
  /-- Resends of the oldest flit since ACK advanced. -/
  resent : Nat
  /-- The next SYNC begins a new link session. -/
  fresh : Bool
  /-- LINK_SESSION of the peer, from its last SYNC. -/
  peerSession : Nat
  deriving DecidableEq, Repr, Inhabited

/-- A port with nothing sent or received. -/
def PortSt.empty : PortSt :=
  { nextSeq := 0, lastRx := 4095, retry := [], waiting := [], sending := [[], [], [], []], inHop := [], returned := [0, 0, 0, 0], taken := [0, 0, 0, 0]
    cvc := 0, part := [[], [], [], []], resent := 0, fresh := true, peerSession := 0 }

/-- A message held for a collective not yet launched (R276). -/
inductive HeldBody where
  | launch (m : LaunchMsg)
  | abort (cause field rank : Nat)
  | slow
  deriving DecidableEq, Repr

/-- A held message: its key, the sender's node address, its arrival and its content. -/
structure HeldMsg where
  key : CollKey
  src : Nat
  tick : Nat
  body : HeldBody
  deriving DecidableEq, Repr

/-- A collective in flight (R255–R273). -/
structure CollSt where
  key : CollKey
  /-- The COLL_LAUNCH packet, none while only a streaming product has launched it. -/
  pid : Option Nat
  /-- The product that streams into it (R271). -/
  stream : Option Nat
  tag : Nat
  own : LaunchMsg
  /-- Source and destination of each segment, scales bound. -/
  pairs : List (TDesc × TDesc)
  members : Nat
  rank : Nat
  chunkShift : Nat
  watchdogMs : Nat
  slowLimitMs : Nat
  stepField : Nat
  seed : Nat
  begun : Nat
  progress : Nat
  deadline : Nat
  /-- Ranks whose LAUNCH arrived and matched. -/
  matched : List Nat
  /-- The latest LIMIT of each reducer. -/
  limits : Tab Nat
  /-- Units sent to each rank: contributions or copies, and gathered results. -/
  sent : Tab Nat
  gathered : Tab Nat
  /-- Units received from each rank, by phase × 16,384 + rank. -/
  got : Tab Nat
  /-- The first half of a BF16 or FP32 unit that waits for its second. -/
  half : Tab (List Byte)
  /-- Staged contributions: unit, rank and bytes. -/
  staged : List (Nat × Nat × List Byte)
  /-- Chunks of the own share combined, and their flag vectors. -/
  combined : Nat
  chunkFlags : List Nat
  flags : FlagSet
  /-- FLAGS messages received: rank, chunk, vector. -/
  flagsRx : List (Nat × Nat × Nat)
  /-- RELEASE arrived or was sent. -/
  released : Bool
  /-- The own part has been copied (R266). -/
  copied : Bool
  /-- Units of a streaming product's output that are complete and checked (R271). -/
  avail : List Nat
  /-- SLOW_INTERVAL_MS as latched, and the tick of the last SLOW sent for it while its cause lasts (R278). -/
  slowMs : Nat
  slowAt : Option Nat
  deriving DecidableEq, Repr, Inhabited

/-- An epoch change at a member (R252): what EPOCH_PREPARE and EPOCH_LIST brought. -/
structure PrepSt where
  epoch : Nat
  members : Nat
  fp : Nat
  chunkRule : Nat
  segments : Nat
  /-- Node addresses by rank. -/
  nodes : Tab Nat
  deriving DecidableEq, Repr, Inhabited

/-- An epoch change at the top manager (R252): the new rank list, who must answer, who has, and the timeout. -/
structure TopSt where
  epoch : Nat
  list : List Nat
  wanted : List Nat
  ready : List Nat
  deadline : Nat
  deriving DecidableEq, Repr, Inhabited

/-- Who waits for the end of a test or for a JOIN_REPLY. -/
inductive Asker where
  | none
  | packet (pid : Nat)
  /-- A management command, by CMD_SEQ. -/
  | command (seq : Nat)
  deriving DecidableEq, Repr, Inhabited

/-- A unit test that is due or running (R292, R294, R295, R299). -/
structure TestSt where
  unit : Nat
  /-- AO tick at which it fell due. -/
  due : Nat
  asker : Asker
  /-- A test of UNIT_UNFENCE. -/
  unfence : Bool
  running : Bool
  /-- MAX_DEFER_MS has passed and the clusters were preempted. -/
  expired : Bool
  /-- MAX_DEFER_MS, CORNERS and CLEAN_TO_HEALTHY as they stood when it fell due (R303). -/
  deferMs : Nat
  corners : Nat
  clean : Nat
  /-- A droop, or a junction at the throttle point, cuts its corner pass short (R291). -/
  cut : Bool
  /-- ILOG_WRITTEN, the slice's LLS_CORRECTED and the last report's number when its slot started (R291, R295). -/
  logFrom : Nat
  corrected : Nat
  reportFrom : Nat
  deriving DecidableEq, Repr, Inhabited

/-- An event that the risk estimate counts (R316): its kind, tick and number. -/
structure RiskEvent where
  kind : Nat
  tick : Nat
  n : Nat
  deriving DecidableEq, Repr, Inhabited

/-- A firmware image in a flash area (R382, R383): release, SVN and the digest of its header. -/
structure FwImage where
  major : Nat
  minor : Nat
  svn : Nat
  digest : List Byte
  deriving DecidableEq, Repr, Inhabited

/-- A shroud copy that this module makes (R311, R312, R315). -/
structure CopySt where
  /-- SHROUD_COPY, none for a copying commit. -/
  pid : Option Nat
  holder : Nat
  slot : Nat
  step : Nat
  cursor : Nat
  accepted : Bool
  /-- The manifest has been sent. -/
  sent : Bool
  /-- Tick of the last cell that gained credit. -/
  progress : Nat
  /-- Image bolts sent, by stack × 2^32 + bolt, with the bytes that were sent (R311). -/
  images : Tab (List Byte)
  deriving DecidableEq, Repr, Inhabited

/-- A manifest that is being signed (R311 step 6). -/
structure SignSt where
  holder : Nat
  slot : Nat
  manifest : List Byte
  deriving DecidableEq, Repr, Inhabited

/-- A copy that arrives at this module as holder (R309, R313). -/
structure HoldSt where
  slot : Nat
  source : Nat
  sourceNode : Nat
  step : Nat
  bolts : List Nat
  /-- Image bolts received, by stack. -/
  received : Tab Nat
  /-- First halves of image bolts, by stack × 2^32 + bolt. -/
  halves : Tab (List Byte)
  /-- Manifest parts. -/
  parts : Tab (List Byte)
  /-- Its slot is FILLING. -/
  filled : Bool
  /-- COMPLETE or INCOMPLETE has answered it; its signature may still come. -/
  ended : Bool
  deriving DecidableEq, Repr, Inhabited

/-- A FETCH that this module serves (R321): the node and the source it serves, and the slot. -/
structure ServeSt where
  dest : Nat
  source : Nat
  slot : Nat
  deriving DecidableEq, Repr, Inhabited

/-- A RESTORE in progress (R320). -/
structure RestoreSt where
  pid : Nat
  holder : Nat
  source : Nat
  expect : Nat
  dest : Nat
  override : Bool
  /-- FETCH_REPLY arrived with result 0. -/
  serving : Bool
  /-- Pieces of slot headers by stack × 16 + piece; parts of the manifest and of the signature. -/
  headers : Tab (List Byte)
  manifest : Tab (List Byte)
  signature : Tab (List Byte)
  /-- The checks of step 3 have passed. -/
  checked : Bool
  /-- First halves, and whole image bolts received, by stack × 2^32 + bolt. -/
  halves : Tab (List Byte)
  bolts : Tab (List Byte)
  /-- The live copy when it began: where the step-state bolts of the image lie. -/
  live : Nat
  /-- Tick of the last message. -/
  heard : Nat
  deriving DecidableEq, Repr, Inhabited

/-- A GROUP_JOIN that waits for its JOIN_REPLY (R351). -/
structure JoinWait where
  asker : Asker
  since : Nat
  deriving DecidableEq, Repr, Inhabited

/-- PCIe configuration space (R325, R326): the selected BAR2 size as log2 of GiB, the power state, Device Control's
payload and read-request sizes as log2 of bytes, the Completion Timeout code, error reporting, and the link's speed code and
width. -/
structure ConfigSpace where
  bar2Log2 : Nat
  d3hot : Bool
  mps : Nat
  mrrs : Nat
  timeout : Nat
  errors : Bool
  speed : Nat
  width : Nat
  deriving DecidableEq, Repr, Inhabited


/-- The state of the module. -/
structure State where
  /-- Commands waiting, oldest first. -/
  pending : List Instr
  /-- The register fields that differ from their values after a cold reset, by key (spec's register maps). -/
  regs : Tab Nat
  /-- Words of 64-bit and wider fields held until the highest word is written (R327), keyed by word offset. -/
  heldWords : Tab Nat
  /-- Device memory (R214). -/
  mem : Mem
  /-- Bolts that hold an uncorrectable error (R219). -/
  ue : List Nat
  /-- Bursts of a bolt that hold a correctable error, until scrub or a write repairs them (R218). -/
  ce : Tab Nat
  /-- Patrol scrub (R220). -/
  patrol : PatrolSt
  /-- Writes that wait for a stack at CRIT, oldest first (R230). -/
  heldWrites : List HeldWrite
  /-- Shares in force: D_SHARE and C_SHARE of the last build (R214, R223). -/
  dShare : Nat
  cShare : List Nat
  /-- Held scratchpad partitions: slice, first unit, units (R227). -/
  partitions : List (Nat × Nat × Nat)
  /-- Arbiter instances (R231). -/
  arbiters : Tab ArbSt
  /-- Token values and FAULTED bits (R341), and the values at the start of the attempt (R342). -/
  tokens : Tab Nat
  tokFaulted : Tab Bool
  tokBase : Tab Nat
  /-- The number of the next packet, descriptor, host read or majority procedure. -/
  nextId : Nat
  flight : List Packet
  /-- Rings whose fetching is held by a running command (R223, R295, R320), by packet number. -/
  fetchHold : List Nat
  /-- Slots of a ring read from host memory so far, of the packet being fetched. -/
  fetchBuf : Tab (List Byte)
  hostReads : List HostRead
  descs : List Desc
  retries : List Retry
  heldReads : List HeldRead
  step : Option StepSt
  commit : Option CommitSt
  /-- The loaded group table (R185). -/
  groups : List ParamGroup
  slots : Tab SlotSt
  /-- Layers whose reef is in force (R140, R142); REEF_STATE holds what the next attempt will take. -/
  reef : List Nat
  /-- Layers whose working copies a rewrite is to derive anew (R142, R199), and those due again after a failure. -/
  rewrites : List Nat
  rewritesDue : List Nat
  /-- The stacks whose part of the rewrite runs as the cluster-based update stream (R196, R199). -/
  rewriteStream : List Nat
  /-- The integrity log, newest last, at most 4,096 entries (R300). -/
  ilog : List LogEntry
  /-- AO ticks since the cold reset (R8). -/
  aoNow : Nat
  /-- The PCIe link is up (R422); writes to host memory wait while it is down. -/
  pcieUp : Bool
  heldOut : List Out
  /-- Status records that wait for room in their ring, in the order of their ends (R347, R349). -/
  lateRecords : List LateRecord
  /-- The management key in flash (R397, R408); KEY_STATE tells whether it is set. -/
  key : List Byte
  /-- Reports sent and not yet acknowledged: SEQ and the datagram (R400). -/
  reports : List (Nat × List Byte)
  reportSeq : Nat
  /-- The attestation log: 64-byte entries (R406). -/
  attLog : List (List Byte)
  /-- Flit state by link port. -/
  ports : Tab PortSt
  /-- Cells delivered to local units, oldest first. -/
  delivered : List Cell
  /-- Node addresses of the committed epoch by rank (R251). -/
  rankNodes : List Nat
  colls : List CollSt
  /-- Streamed collectives that ended before their COLL_LAUNCH (R271): sequence number, status and detail. -/
  endedColls : List (CollKey × Status × Nat)
  /-- Reservations of streaming products (R256): collective descriptor address and sequence number. -/
  reserved : List (Nat × Nat)
  heldMsgs : List HeldMsg
  prep : Option PrepSt
  top : Option TopSt
  /-- The highest epoch number prepared so far by this top manager (R251). -/
  lastEpoch : Nat
  /-- Node addresses that will be ACTIVE in the next epoch, as the top manager knows them (R251). -/
  sysMembers : List Nat
  /-- CHUNK_RULE committed with the epoch (R258). -/
  chunkRule : Nat
  /-- MODULE_ID of each member entry of a manager (R250). -/
  memberIds : Tab Nat
  /-- The health summary of each member's last HEARTBEAT beside its risk level (R250): SUSPECT and FENCED counts,
  mapped-out channels, highest thermal state, STATE. -/
  memberHealth : Tab (List Nat)
  /-- VERDICT messages received and not yet used, oldest first (R154). -/
  verdicts : List VerdictMsg
  /-- Members heard since the last heartbeat interval, and whether the manager was (R250, R253). -/
  heard : List Nat
  mgrHeard : Bool
  mgrMissed : Nat
  /-- Tests due or running, in order of their due time, and failing units so far of each BETWEEN_JOB_TEST. -/
  tests : List TestSt
  testFails : Tab Nat
  /-- Passes dispatched by health unit (R284), and the next scratchpad unit that an LLS test takes (R292). -/
  dispatched : Tab Nat
  llsTest : Tab Nat
  /-- Seconds at which an in-service test last fell due, by health unit: of a SUSPECT quad for quads; of the rotation of the
  quads at 96; and the next quad of the rotation at 97 (R292). -/
  testClock : Tab Nat
  /-- Sample records, by channel × 65,536 + place (R367). -/
  samples : Tab (List Byte)
  /-- AO tick at which a channel's uncore last powered up (R367, R393). -/
  cycleBase : Tab Nat
  /-- 0 unpowered or in brown-out, 1 powered, 2 tripped (R379, R381). -/
  power : Nat
  /-- A function-level (2) or device soft (3) reset in progress (R431). -/
  resetting : Option Nat
  /-- Start-up has completed without a BOOT_ERROR (R387). -/
  startDone : Bool
  /-- The pins PERST# (true: asserted), PWR_GOOD and THERMTRIP# (true: asserted), and whether REFCLK is present. -/
  perst : Bool
  pwrGood : Bool
  thermtrip : Bool
  refclk : Bool
  /-- Issue duty of the quads in sixteenths (R377), and the last ten input measurements: mV and W. -/
  duty : Nat
  powerLog : List (Nat × Nat)
  /-- Domains that stop issuing for a droop; 255 is the input (R378). -/
  drooped : List Nat
  /-- Events of the risk estimate; unresolved jumps and a HALT of the last 64 attempts, newest first; and seconds since
  an input demanded the level in force (R316). -/
  riskEvents : List RiskEvent
  attJumps : List (Nat × Bool)
  riskQuiet : Nat
  /-- AO ticks that each stack has spent at CRIT (R234). -/
  critTicks : Tab Nat
  /-- Mapped-out HBM channels in flash (R221); the flash image areas, ACTIVE and the running image (R382). -/
  flashMap : List Nat
  areaA : FwImage
  areaB : FwImage
  active : Nat
  running : FwImage
  /-- The staging buffer of a recovery image (R403). -/
  recovery : Mem
  /-- The group table as loaded, from offset 0 (R318). -/
  groupTable : Mem
  copy : Option CopySt
  /-- Copies that have been sent and await COMPLETE or INCOMPLETE while a further one is made, oldest first (R310, R313). -/
  copyWas : List CopySt
  /-- The next COMMIT copies: the holder's area was lost (R322). -/
  copyDue : Bool
  /-- CURSOR as latched when STEP_END was fetched (R324). -/
  cursor : Nat
  /-- Manifests being signed, oldest first. -/
  signing : List SignSt
  hold : Option HoldSt
  /-- The slot that last became COMPLETE (R309). -/
  newest : Option Nat
  serve : Option ServeSt
  restore : Option RestoreSt
  joins : List JoinWait
  cfg : ConfigSpace
  /-- The device identity key is available (R351, R405). -/
  identityKey : Bool
  /-- MCTP endpoint ID (R404). -/
  eid : Nat
  /-- AO tick at which BW_ENABLE became 1, and the byte counts of the window in progress by port × 2 + direction. -/
  bwStart : Nat
  bwWindow : Tab Nat
  /-- The byte counts since cold reset, and those of the last completed window, by port × 2 + direction (R363, R364). -/
  bwTotals : Tab Nat
  bwLast : Tab Nat
  out : List Out
  /-- The model's own counter of free values. -/
  free : Nat
  deriving DecidableEq, Repr

/-- The default weights of an arbiter instance (R233). -/
def arbWeights (a : Nat) : List Nat :=
  if a < 20 then [4, 4, 4, 2, 1, 1]
  else if a < 24 then [4, 4, 4, 2, 2]
  else if a < 36 then [8, 4, 4, 1]
  else [4, 4, 4, 4]

/-- The value of a register field after a cold reset: the field map's Reset column, the arbiter weights by instance,
and the fused and image values. -/
def Reg.resetAt (r : Reg) (idx : List Nat) : Nat :=
  if r = Reg.arbWeight then ofNibbles (arbWeights (idx.headD 0))
  else if r = Reg.devModuleId ∨ r = Reg.grpModuleId then Config.moduleId.toNat
  else if r = Reg.devFwMinor then Config.fwMinor.val
  else r.reset
where
  /-- Four bits each, the first lowest. -/
  ofNibbles : List Nat → Nat
    | [] => 0
    | w :: ws => w % 16 + 16 * ofNibbles ws

/-- A register field's value. -/
def State.rd (s : State) (r : Reg) (idx : List Nat) : Nat := Tab.get (r.resetAt idx) s.regs (r.key idx)

/-- Set a register field; a value wider than the field is cut to its width, and the value after a cold reset is
unlisted. -/
def State.wr (s : State) (r : Reg) (idx : List Nat) (v : Nat) : State :=
  if v % 2 ^ r.width = r.resetAt idx then { s with regs := Tab.del s.regs (r.key idx) }
  else { s with regs := Tab.put s.regs (r.key idx) (v % 2 ^ r.width) }

/-- The firmware image that the module was shipped with (R355, R382). -/
def FwImage.shipped : FwImage := { major := 1, minor := Config.fwMinor.val, svn := 0, digest := Config.shippedDigest }

/-- Configuration space after a conventional reset (R325, R326). -/
def ConfigSpace.reset : ConfigSpace := { bar2Log2 := 0, d3hot := false, mps := 7, mrrs := 9, timeout := 0, errors := false, speed := 0, width := 0 }

/-- The machine right after the input power is applied: the always-on domain is up, every register field is at its
value after a cold reset, memory is zero, nothing waits or is in flight, and start-up has not run (R32, R387, R392). -/
def State.reset : State :=
  { pending := [], regs := [], heldWords := [], mem := [], ue := [], ce := []
    patrol := { pos := [], held := [], since := 0, last := 0 }, heldWrites := [], dShare := 8, cShare := [0, 0, 0, 0]
    partitions := [], arbiters := [], tokens := [], tokFaulted := [], tokBase := [], nextId := 1, flight := []
    fetchHold := [], fetchBuf := [], hostReads := [], descs := [], retries := [], heldReads := [], step := none
    commit := none, groups := [], slots := [], reef := [], rewrites := [], rewritesDue := [], rewriteStream := [], ilog := [], aoNow := 0
    pcieUp := false, heldOut := [], lateRecords := [], key := [], reports := [], reportSeq := 0, attLog := [], ports := [], delivered := []
    rankNodes := [], colls := [], endedColls := [], reserved := [], heldMsgs := [], prep := none, top := none
    lastEpoch := 0, sysMembers := [], chunkRule := 0, memberIds := [], memberHealth := [], verdicts := [], heard := [], mgrHeard := false, mgrMissed := 0
    tests := [], testFails := [], dispatched := [], llsTest := [], testClock := [], samples := [], cycleBase := [], power := 1
    resetting := none, startDone := false, perst := true, pwrGood := false, thermtrip := false, refclk := false
    duty := 16, powerLog := [], drooped := [], riskEvents := [], attJumps := [], riskQuiet := 0, critTicks := []
    flashMap := [], areaA := FwImage.shipped, areaB := FwImage.shipped, active := 0, running := FwImage.shipped
    recovery := [], groupTable := [], copy := none, copyWas := [], copyDue := false, cursor := 0, signing := []
    hold := none, newest := none, serve := none, restore := none, joins := [], cfg := ConfigSpace.reset, identityKey := true, eid := 0, bwStart := 0
    bwWindow := [], bwTotals := [], bwLast := [], out := [], free := 0 }

end Sys2Proof.Machine
end

