-- ==== Sys2Proof/Machine/Ops.lean ====
section
/-! DEFINITION. The named operations that commands share: what leaves the module, reports and log entries, free values,
device memory by region, tokens, packets and their status records. -/

namespace Sys2Proof.Machine

/-! What leaves the module. -/

/-- Emit something to the outside. -/
def State.emit (s : State) (o : Out) : State := { s with out := s.out ++ [o] }

/-- A free value below `2 ^ w`: nothing constrains it. The counter advances. -/
def State.freeVal (s : State) (w : Nat) : Nat × State :=
  (Config.freeBits w s.free % 2 ^ w, { s with free := s.free + 1 })

/-- Add to a saturating counter field. -/
def State.count (s : State) (r : Reg) (idx : List Nat) (n : Nat) : State :=
  s.wr r idx (satAdd r.width (s.rd r idx) n)

/-- Add to a free-running counter field, modulo its width. -/
def State.bump (s : State) (r : Reg) (idx : List Nat) (n : Nat) : State := s.wr r idx (s.rd r idx + n)

/-- A one-bit field as a Boolean. -/
def State.flag (s : State) (r : Reg) (idx : List Nat) : Bool := s.rd r idx == 1

/-! Reports (R398, R400). -/

/-- A message of the management port: header, body, tag. -/
def mgmtMessage (key : List Byte) (type seq tick : Nat) (body : List Byte) : List Byte :=
  let h := leBytes 4 (0x01 * 2 ^ 24 + type % 256 * 2 ^ 16 + body.length) ++ zeros 4 ++
    leBytes 8 Config.moduleId.toNat ++ leBytes 8 seq ++ leBytes 8 tick
  h ++ body ++ kmac256 key (h ++ body) mgmtCustom

/-- The management controller is under test (R295). -/
def State.mgmtTest (s : State) : Bool := s.tests.any (fun t => t.unit == 95 && t.running)

/-- A datagram leaves when the port is up and a collector is configured; reports queue while the management controller is
under test (R295). -/
def State.sendDatagram (s : State) (bytes : List Byte) : State :=
  if s.flag .mgmtPortUp [] ∧ s.rd .mgmtCollectorAddr [] ≠ 0 ∧ s.mgmtTest = false then s.emit (.mgmt bytes) else s

/-- Queue and send a report (R399, R400): none while the key is unset; the oldest of more than 256 is dropped. -/
def State.report (s : State) (type : Nat) (body : List Byte) : State :=
  if s.rd .mgmtKeyState [] = 0 then s
  else
    let seq := s.reportSeq + 1
    let m := mgmtMessage s.key type seq s.aoNow body
    let q := s.reports ++ [(seq, m)]
    let s := { s with reportSeq := seq, reports := if 256 < q.length then q.drop 1 else q }
    let s := if 256 < q.length then s.count .mgmtReportsDropped [] 1 else s
    (s.bump .mgmtReportsSent [] 1).sendDatagram m

/-- The 32 bytes of a log entry (R300). -/
def LogEntry.bytes (e : LogEntry) : List Byte :=
  leBytes 8 e.seq ++ leBytes 8 e.tick ++
  leBytes 8 (e.type % 256 * 2 ^ 56 + e.code % 256 * 2 ^ 48 + e.addr % 2 ^ 48) ++
  leBytes 8 (e.tag % 2 ^ 32 * 2 ^ 32 + e.uclass % 16 * 2 ^ 28 + e.uindex % 4096 * 2 ^ 16 + e.detail % 2 ^ 16)

/-- Enter an event in the integrity log and report it (R300, R302). -/
def State.log (s : State) (type code addr tag uclass uindex detail : Nat) : State :=
  let n := s.rd .intIlogWritten [] + 1
  let e : LogEntry :=
    { seq := n, tick := s.aoNow, type := type, code := code, addr := addr, tag := tag, uclass := uclass,
      uindex := uindex, detail := detail }
  -- the ring keeps 4,096 entries; those of the open attempt stay for its step record (R301)
  let from' := match s.step with | some t => min t.logStart (n - 4096) | none => n - 4096
  let s := { s with ilog := (s.ilog ++ [e]).filter (fun x => decide (from' < x.seq)) }
  (s.wr .intIlogWritten [] n).report 0x01 e.bytes

/-! Health units (R281, R298). -/

/-- HSTATE is FENCED. -/
def State.fenced (s : State) (u : Nat) : Bool := s.rd .unitHstate [u] == 2
/-- The class of a health unit, 1–8 in the order of R281. -/
def unitClass (u : Nat) : Nat :=
  if u < 48 then 1 else if u < 52 then 2 else if u < 56 then 3 else if u < 76 then 4
  else if u < 82 then 5 else if u < 94 then 6 else if u = 94 then 7 else 8
/-- Channel c and its addresses are available: neither its uncore nor its LLS slice is fenced (R298). -/
def State.channelUp (s : State) (c : Nat) : Bool := !s.fenced (48 + c) && !s.fenced (52 + c)

/-! Counters (R360–R362). -/

/-- Programmable counter i of channel c gains n when it is enabled on the event and its filter takes the quad. -/
def countProg (c ev : Nat) (quad : Option Nat) (n : Nat) (s : State) (i : Nat) : State :=
  let f := s.rd .progFilter [c, i]
  if s.flag .progEnable [c, i] ∧ s.rd .progEvent [c, i] = ev ∧ (f = 15 ∨ some f = quad) then
    s.bump .progValue [c, i] n
  else s

/-- An event of channel c counts n. -/
def State.countEvent (s : State) (c ev n : Nat) : State := (List.range 16).foldl (countProg c ev none n) s

/-- A fixed event of device cluster k counts n: in the cluster's own counter and in its channel's programmable
counters. -/
def State.countCluster (s : State) (k e n : Nat) : State :=
  let c := k / 48
  let s := s.bump .fixFixed [c, k % 48, e] n
  (List.range 16).foldl (countProg c e (some (k % 48 / 4)) n) s

/-- Bytes at a bandwidth port (R363, R364): the TOTAL field of a direction, and the window in progress. -/
def State.countBw (s : State) (p : Nat) (inward : Bool) (n : Nat) : State :=
  let s := { s with bwTotals := Tab.upd 0 s.bwTotals (2 * p + b2n inward) (fun v => v + n) }
  if s.flag .ctrBwEnable [] then { s with bwWindow := Tab.upd 0 s.bwWindow (2 * p + b2n inward) (fun v => v + n) } else s

/-- TLP data bytes sent to the host (R362, R363). -/
def State.tlpOut (s : State) (n : Nat) : State := (s.countBw 32 false n).countEvent 0 0x1E1 n
/-- TLP data bytes received from the host. -/
def State.tlpIn (s : State) (n : Nat) : State := (s.countBw 32 true n).countEvent 0 0x1E0 n

/-! Host memory (R330, R422). -/

/-- Emit a write or a read of host memory; it waits while the PCIe link is down (R422) and while the arbiter of the PCIe
DMA engines is frozen (R233). The data bytes of a write count at bandwidth port 32 (R363), a read as one request. -/
def State.emitHost (s : State) (o : Out) : State :=
  if s.pcieUp ∧ s.rd .arbFreeze [36] = 0 then
    match o with
    | .hostWrite _ data => (s.emit o).tlpOut data.length
    | .hostRead .. => (s.emit o).countEvent 0 0x1E5 1
    | _ => s.emit o
  else { s with heldOut := s.heldOut ++ [o] }

/-- Note an event of the risk estimate (R316): 0 corrected bursts, 1 channel made PENDING or MAPPED_OUT, 2 uncorrectable
error, 3 entry to WARN, 4 entry to CRIT, 5 junction at 95 °C or above, 6 die throttled, 7 retrain, 8 COLL_TIMEOUT,
9 RESULT_WRONG or a fence by test, 10 NO_MAJORITY, 11 droop. -/
def State.noteRisk (s : State) (kind n : Nat) : State :=
  { s with riskEvents := s.riskEvents ++ [{ kind := kind, tick := s.aoNow, n := n }] }

/-- The cycle count of a channel's uncore (R367, R376): 21 cycles of 1.05 GHz for each AO tick since it powered up. -/
def State.cycleNow (s : State) (c : Nat) : Nat := 21 * (s.aoNow - Tab.get 0 s.cycleBase c)

/-! Sample records (R366, R367). -/

/-- Count a first start for sampling on channel c and decide its selection (R366). -/
def State.sampleStart (s : State) (c : Nat) : State × Bool :=
  if s.flag .ctrSampleEnable [] then
    let n := s.rd .sampDescCounted [c] + 1
    (s.wr .sampDescCounted [c] n, n % 2 ^ s.rd .ctrSampleShift [] == 0)
  else (s, false)

/-- What a sample record names (R367): identifier, tag, UNIT_KIND, UNIT_INDEX and OPERAND. -/
structure Sampled where
  id : Nat
  tag : Nat
  kind : Nat
  index : Nat
  operand : Nat
  deriving DecidableEq, Repr

/-- A sample record enters the buffer of channel c (R367), with its cycles and its last word. Until the start, cycles that lack
credit are timing, and so are those that lack operands, or credit for the output, after it: free values (log 6, log 11). -/
def State.putSample (s : State) (c : Nat) (d : Sampled) (issue start fin flags : Nat) : State :=
  let n := s.rd .sampSamplesWritten [c] + 1
  let a := s.freeVal 32
  let b := a.2.freeVal 32
  let w := b.2.freeVal 32
  let s := w.2
  let credit := w.1 % (start - issue + 1)
  let bytes := leBytes 4 d.id ++ leBytes 4 d.tag ++ leBytes 8 (d.kind * 2 ^ 60 + d.index % 4096 * 2 ^ 48 + d.operand % 2 ^ 48) ++
    leBytes 8 issue ++ leBytes 8 start ++ leBytes 8 fin ++ leBytes 4 0 ++ leBytes 4 (min credit 0xFFFFFFFF) ++
    leBytes 4 (min (start - issue - credit) 0xFFFFFFFF) ++ leBytes 4 a.1 ++ leBytes 4 b.1 ++ leBytes 4 flags
  { s with samples := Tab.put s.samples (c * 65536 + (n - 1) % 65536) bytes }.wr .sampSamplesWritten [c] n

/-- A descriptor that is placed, runs and ends in one command (R366): an update batch, a DIGEST, a unit that leaves through a
link port, or a chunk that a reducer combines. What one descriptor of these kinds covers is the model's choice (log 84). -/
def State.sampleOnce (s : State) (c kind index operand tag : Nat) : State :=
  let q := s.sampleStart c
  let s := q.1
  if q.2 then
    let d : Sampled := { id := s.nextId, tag := tag, kind := kind, index := index, operand := operand }
    ({ s with nextId := s.nextId + 1 }).putSample c d (s.cycleNow c) (s.cycleNow c) (s.cycleNow c) 0
  else s

/-! Regions (R214–R216). -/

/-- The state of device HBM channel x: 2 is MAPPED_OUT. -/
def State.mappedOut (s : State) (x : Nat) : Bool := s.rd .hbmState [x] == 2

/-- The HBM channels of the device, in ascending order of the spread key h × 20 + stack (R216). -/
def spreadOrder : List Nat := (List.range 640).map (fun k => 32 * (k % 20) + k / 20)

/-- The regions with HBM members, and the scratchpads. -/
inductive Region where
  | device
  | channel (c : Nat)
  | stack (st : Nat)
  | lls (c : Nat)
  deriving DecidableEq, Repr

/-- The members of a region that are not mapped out, in spread-key order (R216). -/
def State.healthyList (s : State) (r : Region) : List Nat :=
  spreadOrder.filter (fun x =>
    !s.mappedOut x &&
    match r with
    | .device => true
    | .channel c => x / 32 / 5 == c
    | .stack st => x / 32 == st
    | .lls _ => false)

/-- C_SHARE[c] in force. -/
def State.cShareOf (s : State) (c : Nat) : Nat := s.cShare.getD c 0
/-- 64 MiB. -/
def unit64M : Nat := 67108864
/-- 32 MiB. -/
def unit32M : Nat := 33554432

/-- Byte offset and size of a region's share in each member channel (R214). -/
def State.shareOf (s : State) (r : Region) : Nat × Nat :=
  match r with
  | .device => (0, s.dShare * unit64M)
  | .channel c => (s.dShare * unit64M, s.cShareOf c * unit64M)
  | .stack st => ((s.dShare + s.cShareOf (st / 5)) * unit64M, (32 - s.dShare - s.cShareOf (st / 5)) * unit64M)
  | .lls _ => (0, 0)

/-- Window base of a region (R214). -/
def Region.base : Region → Nat
  | .device => 0
  | .channel c => 0x020000000000 + c * 0x008000000000
  | .stack st => 0x040000000000 + st * 0x001000000000
  | .lls c => 0x080000000000 + c * 0x20000000

/-- Current size of a region (R214). A scratchpad's is judged unit by unit. -/
def State.regionSize (s : State) (r : Region) : Nat :=
  match r with
  | .lls _ => 0x20000000
  | _ => (s.healthyList r).length * (s.shareOf r).2

/-- The region whose window holds an address. -/
def regionOf (a : Nat) : Option Region :=
  if a < 0x020000000000 then some .device
  else if a < 0x040000000000 then some (.channel ((a - 0x020000000000) / 0x008000000000))
  else if a < 0x040000000000 + 20 * 0x001000000000 then some (.stack ((a - 0x040000000000) / 0x001000000000))
  else if 0x080000000000 ≤ a ∧ a < 0x080080000000 then some (.lls ((a - 0x080000000000) / 0x20000000))
  else none

/-- Scratchpad unit u of slice c is in a held partition (R227). -/
def State.unitHeld (s : State) (c u : Nat) : Bool :=
  s.partitions.any (fun p => p.1 == c && decide (p.2.1 ≤ u) && decide (u < p.2.1 + p.2.2))

/-- Bytes a to a + n − 1 lie inside the current extent of one region (R215). -/
def State.inRegion (s : State) (a n : Nat) : Bool :=
  match regionOf a with
  | none => false
  | some (.lls c) =>
    let o := a - (Region.lls c).base
    decide (o + n ≤ 0x20000000) &&
      (List.range ((o + n + unit32M - 1) / unit32M - o / unit32M)).all (fun i => s.unitHeld c (o / unit32M + i))
  | some r => decide (a - r.base + n ≤ s.regionSize r)

/-- locate of R216: the HBM channel and channel offset of an address of an HBM region. -/
def State.locate (s : State) (a : Nat) : Option (Nat × Nat) :=
  match regionOf a with
  | none => none
  | some (.lls _) => none
  | some r =>
    let hl := s.healthyList r
    let n := hl.length
    let g := (a - r.base) / 512
    let q := g / n
    let h := (q ^^^ (q >>> 16) ^^^ (q >>> 32)) % 65536
    match hl[(g % n + h) % n]? with
    | some x => some (x, (s.shareOf r).1 + q * 512 + a % 512)
    | none => none

/-- The stack that holds an address, none for a scratchpad. -/
def State.stackOf (s : State) (a : Nat) : Option Nat :=
  match regionOf a with
  | some (.stack st) => some st
  | _ => (s.locate a).map (fun p => p.1 / 32)

/-- The compute channel that homes an address (R19). -/
def State.homeChannel (s : State) (a : Nat) : Option Nat :=
  match regionOf a with
  | some (.lls c) => some c
  | some (.channel c) => some c
  | some (.stack st) => some (st / 5)
  | some .device => (s.locate a).map (fun p => p.1 / 160)
  | none => none

/-- The bolt addresses a byte range touches. -/
def boltsOf (a n : Nat) : List Nat :=
  if n = 0 then [] else (List.range ((a + n - 1) / 512 + 1 - a / 512)).map (fun i => (a / 512 + i) * 512)

/-- A HEALTHY HBM channel becomes PENDING with its cause, logged (R222). -/
def State.makePending (s : State) (x cause : Nat) : State :=
  if s.rd .hbmState [x] = 0 then
    (((s.wr .hbmState [x] 1).wr .hbmCause [x] cause).log 0x0D 1 0 0 9 x cause).noteRisk 1 1
  else s

/-! Arbiters (R231, R232). -/

/-- decide() of R231 on the requests asserted in a cycle, an urgent refresh first: the requester chosen, and the arbiter
with its new pointer and count. -/
def decideGrant (weights : List Nat) (reqs : List Bool) (urgent : Option Nat) (a : ArbSt) : Option Nat × ArbSt :=
  if urgent.isSome then (urgent, a) else
  let n := weights.length
  let live := fun (i : Nat) => reqs.getD i false && weights.getD i 0 != 0
  match (List.range n).map (fun i => (a.ptr + i) % n) |>.find? live with
  | none => (none, a)
  | some i =>
    let used := if i = a.ptr then a.used + 1 else 1
    (some i, if weights.getD i 0 = used then { a with ptr := (i + 1) % n, used := 0 } else { a with ptr := i, used := used })

/-- One cycle of an instance (R231–R233): the grant decided in the cycle before is delivered, empty when its requester no
longer asserts a request that is not masked; decide() then runs unless FREEZE is set. -/
def arbCycle (weights : List Nat) (reqs : List Bool) (urgent : Option Nat) (frozen : Bool) (a : ArbSt) : ArbSt :=
  let a := match a.next with
    | some i => { a with grants := a.grants + 1, empty := a.empty + (1 - b2n (reqs.getD i false && weights.getD i 0 != 0)) }
    | none => a
  if frozen then { a with next := none }
  else
    let r := decideGrant weights reqs urgent a
    { r.2 with next := r.1 }

/-- An arbiter instance. -/
def State.arb (s : State) (a : Nat) : ArbSt := Tab.get default s.arbiters a
/-- The weights of an instance as they stand in WEIGHT, one for each of its requesters (R233, R234). -/
def State.weights (s : State) (a : Nat) : List Nat :=
  (List.range (arbWeights a).length).map (fun i => s.rd .arbWeight [a] / 16 ^ i % 16)

/-! Traffic: the stay links, the slices and the arrays (R19, R20, R217, R226, R357, R362, R363). -/

/-- How an access reaches memory (R19, R217): through the LLS slice that homes it, from a unit of a compute channel (a
link port's own; the host interface is on channel 0); through the base die's TSV path, by a stack engine; or through the
stack's port, as a shroud write from a partner. -/
inductive Via where
  | iface (c : Nat)
  | tsv
  | partner
  deriving DecidableEq, Repr

/-- The stay link between two channels: S01, S02, S03, S12, S13, S23. -/
def stayIndex (d c : Nat) : Nat := if min d c = 0 then max d c - 1 else if min d c = 1 then max d c + 1 else 5

/-- The stay links that traffic from channel d to channel c crosses, in order (R20): while their own link is fenced or
under test, those of the lower-numbered of the other two channels. -/
def State.stayRoute (s : State) (d c : Nat) : List (Nat × Nat) :=
  let u := 76 + stayIndex d c
  if d = c then []
  else if s.fenced u ∨ s.tests.any (fun t => t.unit == u && t.running) then
    let m := ((List.range 4).find? (fun x => x != d && x != c)).getD 0
    [(d, m), (m, c)]
  else [(d, c)]

/-- n bytes go from channel d to channel c over the stay fabric, counted at every link they cross (R20, R362, R363). -/
def State.stayMove (s : State) (d c n : Nat) : State :=
  let r := s.stayRoute d c
  r.foldl (fun s l =>
    let s := (s.countBw (33 + stayIndex l.1 l.2) (decide (l.2 < l.1)) n).countEvent l.1 (0x180 + 8 * l.2) n
    let s := s.countEvent l.2 (0x181 + 8 * l.1) n
    if 1 < r.length then (s.countEvent l.1 (0x183 + 8 * l.2) n).countEvent l.2 (0x183 + 8 * l.1) n else s) s

/-- A domain leaves OFF toward ON (R374). -/
def State.wake (s : State) (dom : Nat) : State :=
  if s.rd .domDstate [dom] = 0 then (s.wr .domDstate [dom] 1).wr .domClocksStopped [dom] 1 else s

/-- An access reaches the arrays of HBM channel x: a gated engine, whose stack is in self-refresh, wakes with its stack
(R374). -/
def State.wakeStack (s : State) (x : Nat) : State := s.wake (56 + x / 32)

/-- Event j of stack st counts n. -/
def State.stackEvent (s : State) (st j n : Nat) : State := s.countEvent (st / 5) (0x80 + 0x10 * (st % 5) + j) n

/-- Corrected bursts on HBM channel x (R218, R222): counted, and above CE_LIMIT in a scrub period the channel becomes
PENDING. -/
def State.corrected (s : State) (x n : Nat) : State :=
  if n = 0 then s
  else
    let now := s.rd .hbmCeCount [x] + n
    let s := ((s.count .hbmCeCount [x] n).noteRisk 0 n).stackEvent (x / 32) 7 n
    if s.rd .memCeLimit [] < now then s.makePending x 1 else s

/-- A slice reads a bolt of HBM channel x for a line or for a merge unless a cache way holds it: `miss` is 1 or 0. -/
def State.fillBolt (s : State) (x miss : Nat) : State :=
  let s := if miss = 0 then s else s.wakeStack x
  (s.stackEvent (x / 32) 0 (512 * miss)).countBw (x / 32) false (512 * miss)

/-- A slice writes a bolt of HBM channel x, `n` times. -/
def State.storeBolt (s : State) (x n : Nat) : State :=
  let s := if n = 0 then s else s.wakeStack x
  (s.stackEvent (x / 32) 1 (512 * n)).countBw (x / 32) true (512 * n)

/-- The correctable bursts of a bolt that is read from its array are corrected and counted (R218). -/
def State.readBursts (s : State) (x b : Nat) : State := s.corrected x (Tab.get 0 s.ce b)

/-- k bytes of bolt b are read. Whether a cache way of its slice holds it is timing: a free value; a bolt with a
correctable burst is read from its array. -/
def State.readBolt (s : State) (via : Via) (b k : Nat) : State :=
  match s.homeChannel b, s.locate b, via with
  | some c, none, .iface d => (((s.stayMove c d k).countBw (39 + c) false k).countEvent c 0x146 k)
  | some c, some (x, _), .iface d =>
    let s := (s.stayMove c d k).countBw (39 + c) false k
    let f := s.freeVal 1
    let miss := if (Tab.find s.ce b).isSome then 1 else f.1
    (((f.2.countEvent c 0x140 (1 - miss)).countEvent c 0x141 miss).fillBolt x miss).readBursts x b
  | some _, some (x, _), _ => (((s.wakeStack x).stackEvent (x / 32) 2 512).countBw (x / 32) false 512).readBursts x b
  | _, _, _ => s

/-- k bytes of bolt b are written (R217, R226): part of a bolt is merged, from the array when no cache way holds the bolt;
a stack-local line is written through and another is written back later; a write that passes the slice by invalidates its
line first. The array's bolt is whole and correct again. -/
def State.writeBolt (s : State) (via : Via) (b k : Nat) : State :=
  match s.homeChannel b, s.locate b, via with
  | some c, none, .iface d => (((s.stayMove d c k).countBw (39 + c) true k).countEvent c 0x147 k)
  | some c, some (x, _), .iface d =>
    let s := (s.stayMove d c k).countBw (39 + c) true k
    let f := s.freeVal 1
    let g := f.2.freeVal 1
    let miss := if (Tab.find s.ce b).isSome then 1 else f.1
    let part := b2n (k != 512)
    let s := ((g.2.countEvent c 0x143 part).stackEvent (x / 32) 8 (part * miss)).fillBolt x (part * miss)
    let s := if k = 512 then s else s.readBursts x b
    let back := if regionOf b = some (.stack (x / 32)) then 1 else g.1
    let s := (s.countEvent c 0x142 (if regionOf b = some (.stack (x / 32)) then 0 else back)).storeBolt x back
    { s with ce := Tab.del s.ce b }
  | some c, some (x, _), .tsv =>
    let f := s.freeVal 1
    let s := (((f.2.wakeStack x).countEvent c 0x149 f.1).stackEvent (x / 32) 3 512).countBw (x / 32) true 512
    { s with ce := Tab.del s.ce b }
  | some c, some (x, _), .partner =>
    let f := s.freeVal 1
    let s := (((f.2.wakeStack x).countEvent c 0x149 f.1).stackEvent (x / 32) 14 512).countBw (x / 32) true 512
    { s with ce := Tab.del s.ce b }
  | _, _, _ => s

/-- The bytes of a range that lie in bolt b. -/
def inBolt (a n b : Nat) : Nat := min (a + n) (b + 512) - max a b

/-- A range is read: its traffic. -/
def State.readTraffic (s : State) (via : Via) (a n : Nat) : State :=
  (boltsOf a n).foldl (fun s b => s.readBolt via b (inBolt a n b)) s
/-- A range is written: its traffic. -/
def State.writeTraffic (s : State) (via : Via) (a n : Nat) : State :=
  (boltsOf a n).foldl (fun s b => s.writeBolt via b (inBolt a n b)) s
/-- Ranges are read. -/
def State.readsTraffic (s : State) (via : Via) (rs : List (Nat × Nat)) : State :=
  rs.foldl (fun s r => s.readTraffic via r.1 r.2) s

/-! Where the bytes of a bolt lie inside a part (R213, R227). -/

/-- The pseudo-channel of an offset of an HBM channel and the pseudo-channel offset (R213). -/
def pieceOf (o : Nat) : Nat × Nat := (o / 32 % 2, o / 512 * 256 + o % 512 / 64 * 32 + o % 32)
/-- The bank of an offset of a slice's scratchpad window (R227). -/
def llsBank (o : Nat) : Nat := ((o >>> 7) ^^^ (o >>> 13)) % 64
/-- The cache way that is scratchpad unit u (R227). -/
def unitWay (u : Nat) : Nat := 15 - u
/-- The pseudo-channel and offset of a byte of an HBM region (R213, R216). -/
def State.locatePiece (s : State) (a : Nat) : Option (Nat × Nat × Nat) :=
  (s.locate a).map (fun p => (p.1, (pieceOf p.2).1, (pieceOf p.2).2))

/-! Stacks at CRIT and frozen ports (R230, R233). -/

/-- Some stack is at CRIT (R229). -/
def State.anyCrit (s : State) : Bool := (List.range 20).any (fun st => s.rd .stkTstate [st] == 2)

/-- No access reaches a stack now: it is at CRIT (R230), or the arbiter of its port is frozen (R233). -/
def State.stackHeld (s : State) (st : Nat) : Bool := s.rd .stkTstate [st] == 2 || s.flag .arbFreeze [st]

/-- Some stack, or some slice's banks, are held. -/
def State.anyHeld (s : State) : Bool :=
  (List.range 20).any s.stackHeld || (List.range 4).any (fun c => s.flag .arbFreeze [20 + c])

/-- An access to some byte of the range waits: its stack is held, or the arbiter of its slice's banks is frozen. -/
def State.heldIn (s : State) (a n : Nat) : Bool :=
  s.anyHeld && (boltsOf a n).any (fun b =>
    (match s.stackOf b with | some st => s.stackHeld st | none => false) ||
    (match s.homeChannel b with | some c => s.flag .arbFreeze [20 + c] | none => false))

/-- Bolts of the merge buffer of slice c that waiting writes occupy (R226, R230). -/
def State.mergeUsed (s : State) (c : Nat) : Nat :=
  s.heldWrites.foldl (fun n w =>
    if w.kind = 1 then n + ((boltsOf w.addr w.data.length).filter (fun b => s.homeChannel b == some c)).length else n) 0

/-- The merge buffer of the slice that homes an address has room: a writer to it has credit (R22, R226). -/
def State.mergeRoom (s : State) (a : Nat) : Bool :=
  s.heldWrites.isEmpty || match s.homeChannel a with | some c => decide (s.mergeUsed c < 2048) | none => true

/-- Some byte of the range is homed on a channel that is not available (R298). -/
def State.unavailIn (s : State) (a n : Nat) : Bool :=
  ((List.range 8).any (fun i => s.fenced (48 + i))) &&
  (boltsOf a n).any (fun b => match s.homeChannel b with | some c => !s.channelUp c | none => false)

/-! Uncorrectable errors (R219, R228). -/

/-- Every access to an address homed on the bolt's channel meets an error: its slice's lost-bolt table has overflowed
(R228). -/
def State.overflowed (s : State) (b : Nat) : Bool :=
  match s.homeChannel b with | some c => s.flag .llsLostOverflow [c] | none => false

/-- A slice's lost-bolt table holds the bolt, or has overflowed (R228). -/
def State.lostBolt (s : State) (b : Nat) : Bool :=
  match s.homeChannel b with
  | none => false
  | some c =>
    s.flag .llsLostOverflow [c] ||
    (List.range (s.rd .llsLostCount [c])).any (fun k => s.rd .llsLostAddr [c, k] == b)

/-- The bolts of a range whose read meets an uncorrectable error. -/
def State.badBolts (s : State) (a n : Nat) : List Nat :=
  if s.ue.isEmpty && (List.range 4).all (fun c => s.rd .llsLostCount [c] == 0 && !s.flag .llsLostOverflow [c]) then []
  else (boltsOf a n).filter (fun b => s.ue.contains b || s.lostBolt b)

/-- Why a command cannot read a range that it names (R5, R21, R219): it leaves its region, is homed on a channel that is not
available, or holds bolts with an error, which are given too. -/
def State.readFault (s : State) (a n : Nat) : Option (Status × List Nat) :=
  if !s.inRegion a n then some (.limitExceeded, [])
  else if s.unavailIn a n then some (.faultUnit, [])
  else if !(s.badBolts a n).isEmpty then some (.memUncorrectable, s.badBolts a n) else none

/-- A read met an uncorrectable error in a bolt: logged with the packet's tag; an HBM error counts against its channel
and makes it PENDING (R219, R228). A read of a bolt that is lost meets no new error. -/
def State.noteBad (s : State) (tag b : Nat) : State :=
  if s.ue.contains b then
    let s := s.noteRisk 2 1
    match s.locate b with
    | some (x, _) =>
      let s := s.log 0x02 0 b tag 9 x 0
      (s.count .hbmUeCount [x] 1).makePending x 2
    | none =>
      let c := (s.homeChannel b).getD 0
      s.log 0x03 2 b tag 3 (52 + c) (s.rd .llsLostCount [c])
  else
    match s.homeChannel b with
    | some c =>
      let listed := (List.range (s.rd .llsLostCount [c])).any (fun k => s.rd .llsLostAddr [c, k] == b)
      s.log 0x03 (if listed then 1 else 3) b tag 3 (52 + c) (s.rd .llsLostCount [c])
    | none => s

/-- Every bad bolt of a list is noted. -/
def State.noteBads (s : State) (tag : Nat) (bs : List Nat) : State := bs.foldl (fun s b => s.noteBad tag b) s

/-- The whole bolts that a write covers. -/
def wholeBolts (a n : Nat) : List Nat := (boltsOf a n).filter (fun b => decide (a ≤ b) && decide (b + 512 ≤ a + n))

/-- A whole-bolt write replaces a bolt with an error: its error and its lost-bolt entry are gone (R219, R228). -/
def State.clearBolt (s : State) (b : Nat) : State :=
  let s := { s with ue := s.ue.filter (fun x => x != b) }
  match s.homeChannel b with
  | none => s
  | some c =>
    let n := s.rd .llsLostCount [c]
    let keep := ((List.range n).map (fun k => s.rd .llsLostAddr [c, k])).filter (fun x => x != b)
    if keep.length = n then s
    else
      let s := keep.zipIdx.foldl (fun s p => s.wr .llsLostAddr [c, p.2] p.1) s
      s.wr .llsLostCount [c] keep.length

/-- Write bytes to device memory (R217): whole bolts lose their errors; a part of a bolt with an error is not merged. What
is answered are the bolts whose error stays, and every bolt of a slice whose lost-bolt table has overflowed (R228). -/
def State.writeMem (s : State) (via : Via) (tag a : Nat) (bs : List Byte) : State × List Nat :=
  let s := s.writeTraffic via a bs.length
  let bad := s.badBolts a bs.length
  if bad.isEmpty then ({ s with mem := s.mem.write a bs }, [])
  else
    let whole := wholeBolts a bs.length
    let stuck := bad.filter (fun b => !whole.contains b)
    let told := bad.filter (fun b => !whole.contains b || s.overflowed b)
    let s := (bad.filter (fun b => whole.contains b)).foldl State.clearBolt s
    let m := if stuck.isEmpty then s.mem.write a bs
      else
        (boltsOf a bs.length).foldl (fun m b =>
          if stuck.contains b then m
          else
            let lo := max a b
            let hi := min (a + bs.length) (b + 512)
            m.write lo ((bs.drop (lo - a)).take (hi - lo))) s.mem
    (({ s with mem := m }).noteBads tag told, told)

/-- Write whole bolts and other byte strings in turn, errors noted. -/
def State.writeMems (s : State) (via : Via) (tag : Nat) (ws : List (Nat × List Byte)) : State × List Nat :=
  ws.foldl (fun (p : State × List Nat) w =>
    let r := p.1.writeMem via tag w.1 w.2
    (r.1, p.2 ++ r.2)) (s, [])

/-! Content that the spec leaves undefined (R116, R199, R275): free values take its place. -/

/-- n bytes become undefined. -/
def State.spoil (s : State) (a n : Nat) : State :=
  let f := s.freeVal (8 * n)
  { f.2 with mem := f.2.mem.write a (leBytes n f.1) }

/-- Byte ranges become undefined. -/
def State.spoils (s : State) (rs : List (Nat × Nat)) : State := rs.foldl (fun s r => s.spoil r.1 r.2) s

/-- Bolt i of matrix b of a destination holds its former bytes, or a complete bolt with the tensor's header and its CRC:
a free choice with free content (R116). -/
def State.spoilBolt (s : State) (d : TDesc) (b i : Nat) : State :=
  let c := s.freeVal 1
  if c.1 = 0 then c.2
  else
    let f := c.2.freeVal (8 * 504)
    let bs := leBytes 504 f.1
    { f.2 with mem := f.2.mem.write (d.boltAddr b i)
                        (boltBytes (slice bs 0 448) (slice bs 448 56) (d.boltOffset b i) d.tag d.geometry d.format) }

/-- A destination tensor becomes undefined: its bolts or its rows, and its jib lists. -/
def State.spoilTensor (s : State) (d : TDesc) : State :=
  let s := if d.elem.inBolts then
      (List.range (d.batch * d.bolts)).foldl (fun s i => s.spoilBolt d (i / d.bolts) (i % d.bolts)) s
    else s.spoils d.rowRanges
  s.spoils d.listRanges

/-- Destination tensors become undefined. -/
def State.spoilTensors (s : State) (ds : List TDesc) : State := ds.foldl State.spoilTensor s

/-- The detail of MEM_UNCORRECTABLE and FAULT_CHECK (R430). -/
def faultDetail (code outcome addr : Nat) : Nat := code % 256 + outcome % 16 * 256 + addr % 2 ^ 48 * 65536

/-- The lowest address of a list. -/
def lowest : List Nat → Nat
  | [] => 0
  | a :: t => t.foldl min a

/-! Tokens (R341–R344). -/

/-- A token's value. -/
def State.token (s : State) (t : Nat) : Nat := Tab.get 0 s.tokens t
/-- A token's FAULTED bit. -/
def State.tokenFaulted (s : State) (t : Nat) : Bool := Tab.get false s.tokFaulted t

/-- Raise a token, stopping at 2^64 − 1 (R341). -/
def State.raiseToken (s : State) (t n : Nat) : State :=
  { s with tokens := Tab.put s.tokens t (satAdd 64 (s.token t) n) }

/-- Set a token's FAULTED bit. -/
def State.setFaulted (s : State) (t : Nat) (b : Bool) : State := { s with tokFaulted := Tab.put s.tokFaulted t b }

/-- The signal of a packet that ended (R343). -/
def State.signal (s : State) (t : Nat) (st : Status) : State :=
  let s := s.raiseToken t 1
  if st = .skipped ∨ st.isFault then s.setFaulted t true else s.setFaulted t false

/-- A wait entry is satisfied (R342). -/
def State.waitMet (s : State) (w : Wait) : Bool :=
  decide (w.value + (if w.rel then Tab.get 0 s.tokBase w.token else 0) ≤ s.token w.token)

/-! Status records (R346–R349). -/

/-- The status ring of a command ring has no room. -/
def State.statusFull (s : State) (r : Nat) : Bool :=
  decide (2 ^ s.rd .ringStatusLog2 [r] ≤ (s.rd .ringStatusTail [r] + 2 ^ 32 - s.rd .ringStatusHead [r]) % 2 ^ 32)

/-- Write a status record of what ended at a tick (R346): bytes 0x00–0x03 and 0x08–0x1F first, then the word with PHASE and
STATUS (R347). -/
def State.writeRecord (s : State) (r tag opcode : Nat) (st : Status) (detail slot : Nat)
    (faultedWait signalled : Bool) (signal ended : Nat) : State :=
  let k := s.rd .ringStatusTail [r]
  let lg := s.rd .ringStatusLog2 [r]
  let a := s.rd .ringStatusBase [r] + 32 * (k % 2 ^ lg)
  let phase := if k / 2 ^ lg % 2 = 0 then 1 else 0
  let s := s.emitHost (.hostWrite a (leBytes 4 tag))
  let s := s.emitHost (.hostWrite (a + 8) (leBytes 8 detail ++ leBytes 8 ended ++
    leBytes 8 (slot % 2 ^ 32 * 2 ^ 32 + b2n faultedWait * 2 ^ 17 + b2n signalled * 2 ^ 16 + signal % 65536)))
  let s := s.emitHost (.hostWrite (a + 4) (leBytes 4 (opcode % 65536 * 65536 + r % 16 * 4096 + phase * 256 + st.code)))
  (s.bump .ringStatusTail [r] 1).countEvent (r % 4) 0x47 1

/-! Packets in flight. -/

/-- A packet by number. -/
def State.packet (s : State) (pid : Nat) : Option Packet := s.flight.find? (fun p => p.pid == pid)

/-- Replace a packet. -/
def State.setPacket (s : State) (p : Packet) : State :=
  { s with flight := s.flight.map (fun q => if q.pid = p.pid then p else q) }

/-- Change a packet by number. -/
def State.updPacket (s : State) (pid : Nat) (f : Packet → Packet) : State :=
  { s with flight := s.flight.map (fun q => if q.pid = pid then f q else q) }

/-- Remove a packet. -/
def State.dropPacket (s : State) (pid : Nat) : State :=
  { s with flight := s.flight.filter (fun q => q.pid != pid) }

/-- The packet has ended. -/
def Packet.isEnded (p : Packet) : Bool := match p.phase with | .ended .. => true | _ => false
/-- The packet has not started. -/
def Packet.isWaiting (p : Packet) : Bool := p.phase == .waiting

/-- End a packet with a status and detail; a packet that has ended keeps its first end. -/
def State.endPacket (s : State) (pid : Nat) (st : Status) (detail : Nat) : State :=
  s.updPacket pid (fun p => if p.isEnded then p else { p with phase := .ended st detail false })

/-- End a packet with MEM_UNCORRECTABLE over its bad bolts, all of them noted (R56, R430). -/
def State.endBad (s : State) (pid tag : Nat) (bs : List Nat) : State :=
  (s.noteBads tag bs).endPacket pid .memUncorrectable (faultDetail 0 0 (lowest bs))

/-- Write the record of l; a packet's token is then signalled, and it leaves flight (R343, R347). -/
def State.reportEnd (s : State) (l : LateRecord) : State :=
  let s := s.writeRecord l.ring l.tag l.opcode l.status l.detail l.slot l.faultedWait l.signalled l.signal l.ended
  let s := if l.signalled then s.signal l.signal l.status else s
  match l.pid with
  | none => s
  | some pid =>
    let s := (s.dropPacket pid).countEvent (l.ring % 4) 0x41 1
    if l.status = .skipped then s.countEvent (l.ring % 4) 0x48 1 else s

/-- The oldest record that waits for room in the status ring of ring r. -/
def State.lateOf (s : State) (r : Nat) : Option LateRecord := s.lateRecords.find? (fun l => l.ring == r)

/-- A record of ring r has to wait: its ring is full, or records of earlier ends wait (R347, R349). -/
def State.recordWaits (s : State) (r : Nat) : Bool := s.statusFull r || (s.lateOf r).isSome

/-- What a packet that ended reports. -/
def Packet.record (p : Packet) (st : Status) (detail : Nat) (fw : Bool) (ended : Nat) : LateRecord :=
  { ring := p.ring, pid := some p.pid, tag := p.tag, opcode := p.op.opcode, status := st, detail := detail, slot := p.slot
    faultedWait := fw, signalled := p.sigEn, signal := p.signal, ended := ended }

/-- A record that waits is the oldest of its ring, and there is room for it. -/
def State.lateReady (s : State) (l : LateRecord) : Bool := s.lateOf l.ring == some l && !s.statusFull l.ring

/-- Stop records that wait are written as their ring has room (R337, R349). -/
def State.flushStops (s : State) (r : Nat) : State :=
  s.lateRecords.foldl (fun s l =>
    if l.ring == r && l.pid.isNone && s.lateReady l then
      { s with lateRecords := s.lateRecords.erase l }.reportEnd l
    else s) s

/-- The record of a packet that waited is written, and with it the stop records behind it (R347, R349). -/
def State.finishLate (s : State) (l : LateRecord) : State :=
  ({ s with lateRecords := s.lateRecords.erase l }.reportEnd l).flushStops l.ring

/-- A packet's end reaches its status ring (R347, R349): its record is written, then its token signalled, and it leaves
flight; with no room in the ring, or behind records that wait, it waits. -/
def State.finishPacket (s : State) (pid : Nat) : State :=
  match s.packet pid with
  | none => s
  | some p =>
    match p.phase with
    | .ended st detail fw =>
      let l := p.record st detail fw s.aoNow
      if s.recordWaits p.ring then
        { s with lateRecords := s.lateRecords ++ [l] }.updPacket pid (fun p => { p with deferred := true })
      else s.reportEnd l
    | _ => s


/-- Is a step open (R149)? -/
def State.stepOpen (s : State) : Bool := s.rd .stState [] != 0

/-- The step field and seed of a write of a packet (R136). -/
def State.stepField (s : State) (inAttempt : Bool) : Nat :=
  if inAttempt then s.rd .stCurrentStep [] else noStepField

/-- A field of the step-control block as latched at the start of the attempt; the field itself outside a step (R150,
R181). -/
def State.att (s : State) (r : Reg) (idx : List Nat) : Nat :=
  match s.step with
  | some t => Tab.get (r.resetAt idx) t.latched (r.key idx)
  | none => s.rd r idx

end Sys2Proof.Machine
end

