-- ==== Sys2Proof/Machine/CountOps.lean ====
section
/-! DEFINITION. Programmable counters, bandwidth windows and sample control (R361–R366). -/

namespace Sys2Proof.Machine

/-- The event catalogue of channel c (R362). -/
def eventOk (c ev : Nat) : Bool :=
  decide (ev < 0x30) || (decide (0x40 ≤ ev) && decide (ev < 0x4E)) || (decide (0x80 ≤ ev) && decide (ev < 0xD0)) ||
  (decide (0x100 ≤ ev) && decide (ev < 0x130) && decide (ev % 16 < 14)) || (decide (0x140 ≤ ev) && decide (ev < 0x14C)) ||
  (decide (0x180 ≤ ev) && decide (ev < 0x1A0) && decide (ev % 8 < 4) && decide ((ev - 0x180) / 8 ≠ c)) ||
  (decide (0x1C0 ≤ ev) && decide (ev < 0x1C8)) || (decide (0x1E0 ≤ ev) && decide (ev < 0x1E8))

/-- The filters that an event allows (R362). -/
def filterOk (ev f : Nat) : Bool := f == 15 || (decide (ev < 0x30) && decide (f < 12))

/-- A SELECT write (R361): ignored and counted when it names a reserved event or a filter the event does not allow;
VALUE becomes 0 when EVENT or FILTER changes. -/
def State.selectWrite (s : State) (c i ev filter : Nat) (enable : Bool) : State :=
  if !eventOk c ev || !filterOk ev filter then s.count .ctrSelectIgnored [] 1
  else
    let changed := s.rd .progEvent [c, i] != ev || s.rd .progFilter [c, i] != filter
    let s := (s.wr .progEvent [c, i] ev).wr .progFilter [c, i] filter
    let s := if changed then s.wr .progValue [c, i] 0 else s
    s.wr .progEnable [c, i] (b2n enable)

/-- CLEAR (R361). -/
def State.counterClear (s : State) (c i : Nat) : State := s.wr .progValue [c, i] 0

/-- BW_ENABLE is written (R364): windows start at this tick, or the window in progress is discarded. -/
def State.bwEnable (s : State) (on : Bool) : State :=
  if s.flag .ctrBwEnable [] = on then s
  else { s with bwStart := s.aoNow, bwWindow := [] }.wr .ctrBwEnable [] (b2n on)

/-- This is the last tick of a bandwidth window not yet ended (R364). -/
def State.bwEnds (s : State) : Bool :=
  s.flag .ctrBwEnable [] && (s.aoNow + 1 - s.bwStart) % s.rd .ctrWindowTicks [] == 0 && decide (s.bwStart < s.aoNow + 1) &&
  (s.rd .ctrWindowEndTick [] != s.aoNow || s.rd .ctrWindowSeq [] == 0)

/-- A window ends (R364): its 86 counts are copied together. -/
def State.bwEnd (s : State) : State :=
  if !s.bwEnds then s
  else
    ({ s with bwLast := s.bwWindow, bwWindow := [] }.bump .ctrWindowSeq [] 1).wr .ctrWindowEndTick [] s.aoNow

/-- SAMPLE_CONTROL (R366). -/
def State.sampleControl (s : State) (on : Bool) (k : Nat) : State :=
  if on then
    let s := (s.wr .ctrSampleEnable [] 1).wr .ctrSampleShift [] k
    (List.range 4).foldl (fun s c => s.wr .sampDescCounted [c] 0) s
  else s.wr .ctrSampleEnable [] 0

end Sys2Proof.Machine
end

