-- ==== Sys2Proof/Machine/LinkOps.lean ====
section
/-! DEFINITION. Link ports: flits, retry, credits, cells, sessions and routing (R235–R247). -/

namespace Sys2Proof.Machine

/-- PSTATE values (R237). -/
def psIdle : Nat := 0
def psTraining : Nat := 1
def psSync : Nat := 2
def psUp : Nat := 3
def psRetraining : Nat := 4

/-- A port's flit state. -/
def State.port (s : State) (p : Nat) : PortSt := Tab.get PortSt.empty s.ports p
/-- Replace a port's flit state, its PARTIAL registers with it. -/
def State.setPort (s : State) (p : Nat) (q : PortSt) : State :=
  (List.range 4).foldl (fun s v => s.wr .portPartial [p, v] ((q.part.getD v []).length))
    { s with ports := Tab.put s.ports p q }
/-- A port's state code. -/
def State.pstate (s : State) (p : Nat) : Nat := s.rd .portPstate [p]

/-- The receive buffers of each VC, in cells (R242). -/
def vcBuffers : List Nat := [256, 32, 128, 16]

/-- The header word of a flit (R238). -/
def flitHeader (seq ack vc type fill cvc credits : Nat) : Nat :=
  seq % 4096 * 2 ^ 52 + ack % 4096 * 2 ^ 40 + vc % 4 * 2 ^ 38 + type % 4 * 2 ^ 36 + fill % 256 * 2 ^ 28 +
    cvc % 4 * 2 ^ 26 + credits % 1024 * 2 ^ 16

/-- The 256 bytes of a flit (R238). -/
def flitBytes (header : Nat) (payload : List Byte) : List Byte :=
  let b := leBytes 8 header ++ slice payload 0 244
  b ++ leBytes 4 (crc32 b)

/-- Event j of link port p counts n (R362). -/
def State.portEvent (s : State) (p j n : Nat) : State := s.countEvent (p / 3) (0x100 + 0x10 * (p % 3) + j) n

/-- Event 0x1C0 + j of the collectives, groups and shroud copies counts n: no rule names the channel that counts it, a free value
(log 6). -/
def State.groupEvent (s : State) (j n : Nat) : State :=
  let f := s.freeVal 2
  f.2.countEvent f.1 (0x1C0 + j) n

/-- Send a flit: the current ACK and the total of the next VC in turn go with it (R239). -/
def State.sendFlit (s : State) (p type vc seq : Nat) (payload : List Byte) : State :=
  let q := s.port p
  let h := flitHeader seq q.lastRx vc type payload.length q.cvc (q.returned.getD q.cvc 0)
  let s := match type with
    | 0 => ((s.bump .portFlitsTx [p] 1).countBw (20 + p) false payload.length).portEvent p 0 1
    | 1 => s.portEvent p 12 1
    | 2 => s.portEvent p 3 1
    | _ => s
  (s.setPort p { q with cvc := (q.cvc + 1) % 4 }).emit (.flit p (flitBytes h payload))

/-- A NAK flit (R239). -/
def State.sendNak (s : State) (p : Nat) : State := s.sendFlit p 2 0 (s.port p).nextSeq []

/-- A cell of a copy that this module makes (R311, R312, R323): a SHROUD cell from here to the copy's holder, its HELLO, or
DATA, SHARDS, MANIFEST or SIGNATURE for its slot, with this module's MODULE_ID as its SOURCE_ID. -/
def State.copyCell (s : State) (c : CopySt) (bytes : List Byte) : Bool :=
  let h := fieldLe bytes 0 8
  bitsOf h 23 16 == 4 && bitsOf h 63 50 == c.holder && bitsOf h 49 36 == s.rd .grpNode [] &&
  (let m := (bytes.getD 8 0).toNat
   (m == 1 && fieldLe bytes 104 8 == c.step) || ((m == 3 || m == 4 || m == 5 || m == 6) && c.accepted && (bytes.getD 9 0).toNat == c.slot)) &&
  fieldLe bytes 16 8 == Config.moduleId.toNat

/-- Start a cell (R242): its credit is spent with its first byte; a cell of a shroud copy has gained credit (R312). -/
def State.startCell (s : State) (p vc : Nat) : State :=
  let q := s.port p
  match q.waiting.find? (fun w => w.1 % 4 == vc) with
  | none => s
  | some w =>
    let note := fun (x : CopySt) => if s.copyCell x w.2 then { x with progress := s.aoNow } else x
    let s : State := { s with copy := s.copy.map note, copyWas := s.copyWas.map note }
    let s := if bitsOf (fieldLe w.2 0 8) 23 16 = 4 then s.groupEvent 6 w.2.length else s
    (s.wr .portTxCredits [p, vc] (s.rd .portTxCredits [p, vc] - 1)).setPort p
      { q with waiting := q.waiting.erase w, sending := q.sending.set vc w.2, inHop := q.inHop ++ [(vc, w.2.take 8)] }

/-- A VC of a port asserts a request of the egress arbiter (R239, R242): it has begun a cell, or one waits and its VC holds
a credit; and fewer than 2,048 flits are unacknowledged. -/
def State.vcReady (s : State) (p vc : Nat) : Bool :=
  let q := s.port p
  decide (q.retry.length < 2048) &&
  (!(q.sending.getD vc []).isEmpty || (decide (0 < s.rd .portTxCredits [p, vc]) && q.waiting.any (fun w => w.1 % 4 == vc)))

/-- Send one DATA flit of a VC and keep it for retry (R239): up to 244 bytes of its cell. -/
def State.sendData (s : State) (p vc : Nat) : State :=
  let s := if ((s.port p).sending.getD vc []).isEmpty then s.startCell p vc else s
  let q := s.port p
  let rest := q.sending.getD vc []
  let f := rest.take 244
  let s := s.setPort p { q with nextSeq := (q.nextSeq + 1) % 4096, sending := q.sending.set vc (rest.drop 244),
                                retry := q.retry ++ [(q.nextSeq, vc, decide (rest.length ≤ 244), f)] }
  s.sendFlit p 0 vc q.nextSeq f

/-- Flits that a port has yet to send. -/
def PortSt.flitsDue (q : PortSt) : Nat :=
  (q.sending ++ q.waiting.map (fun w => w.2)).foldl (fun n b => n + ceilDiv b.length 244) 0

/-- The egress arbiter of a port decides one flit at a time among its VCs (R242), as long as one may go; its grant is
delivered at once. -/
def State.pumpFlits (p : Nat) : Nat → State → State
  | 0, s => s
  | fuel + 1, s =>
    let r := decideGrant (s.weights (24 + p)) ((List.range 4).map (s.vcReady p)) none (s.arb (24 + p))
    match r.1 with
    | none => s
    | some vc =>
      State.pumpFlits p fuel
        (({ s with arbiters := Tab.put s.arbiters (24 + p) { r.2 with grants := r.2.grants + 1 } }).sendData p vc)

/-- Send what may go while the port is UP and its egress arbiter is not frozen (R233). -/
def State.pump (s : State) (p : Nat) : State :=
  if s.pstate p = psUp ∧ s.rd .arbFreeze [24 + p] = 0 then State.pumpFlits p (s.port p).flitsDue s else s

/-- A port with no DATA flit due, or with 2,048 unacknowledged, sends an IDLE flit (R239). -/
def State.idleFlit (s : State) (p : Nat) : State :=
  if s.pstate p = psUp then s.sendFlit p 1 0 (s.port p).nextSeq [] else s

/-- Queue a cell's bytes on a port. -/
def State.queueCell (s : State) (p vc : Nat) (bytes : List Byte) : State :=
  let q := s.port p
  (s.setPort p { q with waiting := q.waiting ++ [(vc, bytes)] }).pump p

/-! Cells and routes (R241, R246). -/

/-- A cell's header word (R241). -/
def cellHeader (dest src len kind stream : Nat) : Nat :=
  dest % 16384 * 2 ^ 50 + src % 16384 * 2 ^ 36 + len % 1024 * 2 ^ 26 + kind % 256 * 2 ^ 16 + stream % 65536

/-- The bytes of a cell: every body but a BOLT's ends with its CRC-32. -/
def cellBytes (c : Cell) : List Byte :=
  if c.kind = 1 then leBytes 8 (cellHeader c.dest c.src c.body.length c.kind c.stream) ++ c.body
  else
    let h := leBytes 8 (cellHeader c.dest c.src (c.body.length + 4) c.kind c.stream)
    h ++ c.body ++ leBytes 4 (crc32 (h ++ c.body))

/-- The route entry of a node address (R246). -/
def State.route (s : State) (node : Nat) : Nat := s.rd .grpRoute [node / 8] / 16 ^ (node % 8) % 16

/-- The attempt number that STREAM carries: 0 outside every step (R267). -/
def State.openAttempt (s : State) : Nat := if s.stepOpen then s.rd .stAttempt [] else 0

/-- The STREAM field of a collective's cells, without its PHASE bit (R267). -/
def streamOf (k : CollKey) : Nat := k.attempt % 8 * 2 ^ 13 + k.seq % 4096

/-- Send a cell that originates here (R246): a cell toward an unreachable node is not sent and is counted; one toward
this module is delivered here. -/
def State.sendCell (s : State) (vc dest kind stream : Nat) (body : List Byte) : State :=
  let c : Cell := { dest := dest, src := s.rd .grpNode [], kind := kind, stream := stream, body := body }
  if dest = s.rd .grpNode [] then { s with delivered := s.delivered ++ [c] }
  else if 11 < s.route dest then s.count .grpLocalUnroutable [] 1
  else s.queueCell (s.route dest) vc (cellBytes c)

/-- Drop the acknowledged flits: those up to and including SEQ `ack`. -/
def dropAcked (ack : Nat) (r : List (Nat × Nat × Bool × List Byte)) : List (Nat × Nat × Bool × List Byte) :=
  if r.any (fun f => f.1 == ack) then (r.dropWhile (fun f => f.1 != ack)).drop 1 else r

/-- The n oldest cells of a VC have been consumed at the peer. -/
def dropConsumed (vc : Nat) : List (Nat × List Byte) → Nat → List (Nat × List Byte)
  | [], _ => []
  | c :: cs, n => if c.1 = vc ∧ 0 < n then dropConsumed vc cs (n - 1) else c :: dropConsumed vc cs n

/-- Take the ACK and the credit total of a good flit (R239): a credit returned says that a cell has been consumed. -/
def State.takeTotals (s : State) (p ack cvc credits : Nat) : State :=
  let q := s.port p
  let r := dropAcked ack q.retry
  let d := (credits + 1024 - q.taken.getD cvc 0) % 1024
  let s := s.setPort p { q with retry := r, resent := if r.length < q.retry.length then 0 else q.resent,
                                taken := q.taken.set cvc credits, inHop := dropConsumed cvc q.inHop d }
  s.wr .portTxCredits [p, cvc] (s.rd .portTxCredits [p, cvc] + d)

/-- Resend every unacknowledged DATA flit in ascending SEQ (R240). -/
def State.resendAll (s : State) (p : Nat) : State :=
  (s.port p).retry.foldl (fun s f => ((s.sendFlit p 0 f.2.1 f.1 f.2.2.2).count .portResends [p] 1).portEvent p 2 1) s

/-- A port of an UP link starts to retrain, its flit state kept (R244). -/
def State.retrain (s : State) (p : Nat) : State :=
  (((s.wr .portPstate [p] psRetraining).count .portRetrains [p] 1).noteRisk 7 1).report 0x05
    ([BitVec.ofNat 8 p, 1] ++ zeros 6)

/-- A resend of the same flits: at RETRY_LIMIT without ACK the port retrains (R240, R244). -/
def State.resendOrRetrain (s : State) (p : Nat) : State :=
  let q := s.port p
  if q.retry.isEmpty then s
  else if s.rd .linkRetryLimit [] ≤ q.resent then s.retrain p
  else (s.setPort p { q with resent := q.resent + 1 }).resendAll p

/-- Cells of a port that a discard loses (R237, R245): those received in part, those whose last flit is not acknowledged,
and those of which a part is still to be sent. -/
def PortSt.lost (q : PortSt) : Nat :=
  (q.part.filter (fun b => !b.isEmpty)).length + (q.retry.filter (fun f => f.2.2.1)).length +
  (q.sending.filter (fun b => !b.isEmpty)).length

/-- Discard the retry buffer, partial cells and credits, and begin a session with totals of 0 (R237, R245). -/
def State.discardPort (s : State) (p : Nat) : State :=
  let q := s.port p
  let s := s.count .portCellsLost [p] q.lost
  let s := (List.range 4).foldl (fun s v => s.wr .portTxCredits [p, v] 0) s
  s.setPort p { PortSt.empty with waiting := q.waiting }

/-- The free receive buffers of a VC: a partial cell holds one (R242–R244). -/
def State.freeBuffers (s : State) (p vc : Nat) : Nat :=
  vcBuffers.getD vc 0 - b2n (!((s.port p).part.getD vc []).isEmpty)

/-- The SYNC payload (R244). -/
def State.syncPayload (s : State) (p : Nat) : List Byte :=
  leBytes 8 Config.moduleId.toNat ++ leBytes 2 p ++ leBytes 4 (s.rd .portLinkSession [p]) ++
    ((List.range 4).map (fun v => leBytes 2 (s.freeBuffers p v))).flatten

/-- A received SYNC (R245): the session continues when MODULE_ID, port and session match the peer before the retrain;
otherwise a new one begins with credits taken afresh. -/
def State.takeSync (s : State) (p : Nat) (t : FlitTotals) (peerId peerPort session : Nat) (credits : List Nat) : State :=
  let q := s.port p
  if !q.fresh ∧ s.rd .portPeerId [p] = peerId ∧ s.rd .portPeerPort [p] = peerPort ∧ q.peerSession = session then
    let s := s.takeTotals p t.ack t.cvc t.credits
    let s := (s.setPort p { s.port p with resent := 0 }).wr .portPstate [p] psUp
    (s.resendAll p).pump p
  else
    let s := s.discardPort p
    let s := (s.wr .portPeerChanged [p] 1).report 0x05 ([BitVec.ofNat 8 p, 2] ++ zeros 6)
    let s := ((s.wr .portPeerId [p] peerId).wr .portPeerPort [p] peerPort).wr .portPstate [p] psUp
    let s := (List.range 4).foldl (fun s v => s.wr .portTxCredits [p, v] (credits.getD v 0)) s
    (s.setPort p { s.port p with fresh := false, peerSession := session }).pump p

end Sys2Proof.Machine
end

