-- ==== Sys2Proof/Machine/Checks.lean ====
section
/-! DEFINITION. The checks inside the engine: the identity of the checksum lane over the raw values of a tile, the widths of
its sides, and the mod-3 residues of the scale-and-accumulate stage (R108, R109, R205). -/

namespace Sys2Proof.Machine

/-- The raw value of an element; a special encoding counts as 0 (R75, R108). -/
def rawValue : Num → Int
  | .fin s m _ => if s then -(m : Int) else (m : Int)
  | _ => 0

/-- A launch-wide block number, or group of an integer product, as a segment and the first and one past the last of its K
positions (R74, R85). -/
def blockPlace (isInt : Bool) : List Segment → Nat → Option (Segment × Nat × Nat)
  | [], _ => none
  | g :: gs, j =>
    let step := if isInt then 32 else g.common
    let n := ceilDiv g.kLen step
    if j < n then some (g, j * step, min (j * step + step) g.kLen) else blockPlace isInt gs (j - n)

/-- The raw value of A at (row r, position k), 0 at a jib position (R62, R108). -/
def rawA (m : Mem) (g : Segment) (ja : Tab Nat) (b r k : Nat) : Int :=
  if (g.a.jib ja r k).isSome then 0 else rawValue (g.a.num m b r k)
/-- The raw value of B at (position k, column c). -/
def rawB (m : Mem) (g : Segment) (jb : Tab Nat) (b c k : Nat) : Int :=
  if (g.b.jib jb c k).isSome then 0 else rawValue (g.b.num m b c k)

/-- The sum of a function over a list. -/
def sumOver {α : Type} (l : List α) (f : α → Int) : Int := l.foldl (fun t x => t + f x) 0

/-- The left side of the identity of R108: the block sums S(r, n, j) of a row over the columns of the tile. -/
def checksumLeft (m : Mem) (segs : List Segment) (b r j : Nat) (cols : List Nat) : Int :=
  match blockPlace (segInt segs) segs j with
  | none => 0
  | some (g, lo, hi) =>
    let js := g.jibs m b
    sumOver cols (fun n => sumOver (List.range (hi - lo)) (fun i => rawA m g js.1 b r (lo + i) * rawB m g js.2 b n (lo + i)))

/-- C(k): the raw values of B at a position over the columns of the tile (R108). -/
def columnSum (m : Mem) (g : Segment) (jb : Tab Nat) (b k : Nat) (cols : List Nat) : Int :=
  sumOver cols (fun n => rawB m g jb b n k)

/-- The right side of the identity of R108: each raw value of the row of A times C(k). -/
def checksumRight (m : Mem) (segs : List Segment) (b r j : Nat) (cols : List Nat) : Int :=
  match blockPlace (segInt segs) segs j with
  | none => 0
  | some (g, lo, hi) =>
    let js := g.jibs m b
    sumOver (List.range (hi - lo)) (fun i => rawA m g js.1 b r (lo + i) * columnSum m g js.2 b (lo + i) cols)

/-- The width of each side of the identity by operand pair (R108); BF16 products and outlier terms have no checksum
lane. -/
def checksumWidth (a b : Elem) : Option Nat :=
  match a, b with
  | .fp4, .fp4 => some 24
  | .int4, .int4 => some 24
  | .int8, .int8 => some 32
  | .e4m3, .e4m3 => some 56
  | .e4m3, .e5m2 => some 72
  | .e5m2, .e4m3 => some 72
  | .e5m2, .e5m2 => some 80
  | _, _ => none

/-- The width of the checksum lane of a launch. -/
def checksumLane (segs : List Segment) : Option Nat :=
  match segs with
  | [] => none
  | g :: _ => checksumWidth g.a.d.elem g.b.d.elem

/-- The checksum lane fails (R108): what the array formed as the left side, cut to the lane's width, is not the right
side. -/
def checksumFails (m : Mem) (segs : List Segment) (b r j : Nat) (cols : List Nat) (seen : Int) : Bool :=
  match checksumLane segs with
  | none => false
  | some w => decide (seen % 2 ^ w ≠ checksumRight m segs b r j cols % 2 ^ w)

/-- A mod-3 residue (R109). -/
def residue (x : Int) : Nat := (x % 3).toNat

/-- The residue check of a product before rounding: S × σ_A × σ_B from the residues of its factors. -/
def productResidue (S sa sb : Int) : Nat := residue S * residue sa * residue sb % 3

/-- The residue check of a rounding: the value kept and the part discarded make up the whole. -/
def roundingResidue (kept discarded : Int) : Nat := (residue kept + residue discarded) % 3

/-- The residue check of an addition of aligned significands. -/
def additionResidue (a b : Int) : Nat := (residue a + residue b) % 3

end Sys2Proof.Machine
end

