-- ==== Sys2Proof/Machine/Payload.lean ====
section
/-! DEFINITION. Packets as bytes: the header checks, the payload of each opcode, and the expansion that reads the
descriptors a packet names (R69, R140, R141, R202, R338–R340, R351, R352). -/

namespace Sys2Proof.Machine

/-- Offset `o` rounded up to a multiple of n. -/
def alignUp (o n : Nat) : Nat := (o + n - 1) / n * n

/-- The little-endian fields of the given sizes, each aligned to its own size; none when the payload is too short, or
when a byte between or after them is not zero (R339). -/
def fieldsOf (bs : List Byte) : List Nat → Nat → Option (List Nat)
  | [], o => if allZero (bs.drop o) then some [] else none
  | n :: ns, o =>
    let a := alignUp o n
    if bs.length < a + n then none
    else if !allZero ((bs.drop o).take (a - o)) then none
    else (fieldsOf bs ns (a + n)).map (fun l => fieldLe bs a n :: l)

/-- A field as some value when its reserved high bits are zero. -/
def within (v w : Nat) : Bool := decide (v < 2 ^ w)

/-- The PRODUCT payload (R352). -/
def parseProduct (bs : List Byte) : Option Op :=
  let n := bitsOf (fieldLe bs 0x10 4) 12 8
  let w := fieldLe bs 0x10 4
  if bs.length < 0x18 + 0x18 * n then none
  else if !within (fieldLe bs 8 8) 48 || bitsOf w 31 13 != 0 || bitsOf w 7 3 != 0 || fieldLe bs 0x14 4 != 0 then none
  else if !allZero (bs.drop (0x18 + 0x18 * n)) then none
  else
    let segs := (List.range n).map (fun i =>
      let f := fieldLe bs (0x28 + 0x18 * i) 4
      ((f, fieldLe bs (0x2C + 0x18 * i) 4),
        SegRef.mk (fieldLe bs (0x18 + 0x18 * i) 8) (fieldLe bs (0x20 + 0x18 * i) 8) (f.testBit 0) (f.testBit 1)))
    if segs.any (fun p => !within p.1.1 2 || p.1.2 != 0) then none
    else some (.product (fieldLe bs 0 8) (fieldLe bs 8 8) (bitsOf w 2 0) (segs.map (fun p => p.2)))

/-- The MATVEC payload (R351, R352). -/
def parseMatvec (bs : List Byte) : Option Op :=
  let n := bitsOf (fieldLe bs 8 4) 4 0
  if bs.length < 16 + 16 * n then none
  else if fieldLe bs 8 4 / 32 != 0 || fieldLe bs 12 4 != 0 || !allZero (bs.drop (16 + 16 * n)) then none
  else some (.matvec (fieldLe bs 0 8)
    ((List.range n).map (fun i => (fieldLe bs (16 + 16 * i) 8, fieldLe bs (24 + 16 * i) 8))))

/-- The operation and parameters of a payload; none when it breaks R15 or R339 (R340, R351). -/
def parseOp (opcode : Nat) (bs : List Byte) : Option Op :=
  let f := fun sizes => fieldsOf bs sizes 0
  let g := fun (l : List Nat) (i : Nat) => l.getD i 0
  match opcode with
  | 0x0000 => (f []).map (fun _ => .nop)
  | 0x0001 => (f [4, 4]).map (fun l => .regWrite (g l 0) (g l 1))
  | 0x0002 => (f [1]).map (fun l => .ringReset (g l 0))
  | 0x0003 => (f []).map (fun _ => .deviceSoftReset)
  | 0x0100 => (f [8, 8, 8, 4]).bind (fun l => if within (g l 3) 2 then some (.copy (g l 0) (g l 1) (g l 2) (g l 3)) else none)
  | 0x0101 => (f [8, 8, 8]).map (fun l => .fill (g l 0) (g l 1) (g l 2))
  | 0x0102 => (f []).map (fun _ => .regionRebuild)
  | 0x0103 => (f [1, 1]).map (fun l => .llsPartition (g l 0) (g l 1))
  | 0x0104 => (f [1, 1]).map (fun l => .llsRelease (g l 0) (g l 1))
  | 0x0105 => (f [8, 8, 8]).map (fun l => .digest (g l 0) (g l 1) (g l 2))
  | 0x0200 => parseProduct bs
  | 0x0201 => parseMatvec bs
  | 0x0202 => (f [8, 8]).map (fun l => .softmax (g l 0) (g l 1))
  | 0x0203 => (f [8, 8, 8, 4]).map (fun l => .rmsnorm (g l 0) (g l 1) (g l 2) (g l 3))
  | 0x0204 => (f [8, 8, 8, 8, 4]).map (fun l => .layernorm (g l 0) (g l 1) (g l 2) (g l 3) (g l 4))
  | 0x0205 => (f [8, 8, 8, 8, 8]).map (fun l => .xent (g l 0) (g l 1) (g l 2) (g l 3) (g l 4))
  | 0x0206 => (f [8, 8, 8, 8, 8, 8, 8]).map (fun l => .vprog (g l 0) (g l 1) (g l 2) (l.drop 3))
  | 0x0207 => (f []).map (fun _ => .paramGroupsLoad)
  | 0x0208 => (f [2]).map (fun l => .variantBind (g l 0))
  | 0x0209 => (f [1]).map (fun l => .variantRelease (g l 0))
  | 0x0300 => (f [8]).map (fun l => .collLaunch (g l 0))
  | 0x0301 => (f [1, 2, 2, 2]).map (fun l => .roleSet (g l 0) (g l 1) (g l 2) (g l 3))
  | 0x0302 => (f []).map (fun _ => .groupJoin)
  | 0x0303 => (f []).map (fun _ => .groupLeave)
  | 0x0400 => (f [8, 8, 4]).bind (fun l =>
      if within (g l 2) 2 then some (.stepBegin (g l 0) (g l 1) ((g l 2).testBit 1) ((g l 2).testBit 0)) else none)
  | 0x0401 => (f [8, 4]).bind (fun l =>
      if within (g l 0) 48 && within (g l 1) 1 then some (.stepEnd (g l 0) ((g l 1).testBit 0)) else none)
  | 0x0500 => (f [8]).map (fun l => .betweenJobTest (g l 0))
  | 0x0501 => (f [2]).map (fun l => .unitTest (g l 0))
  | 0x0502 => (f [2]).map (fun l => .unitFence (g l 0))
  | 0x0503 => (f [2]).map (fun l => .unitUnfence (g l 0))
  | 0x0600 => (f []).map (fun _ => .shroudCopy)
  | 0x0601 => (f [8, 8, 8, 4]).bind (fun l =>
      if within (g l 2) 48 && within (g l 3) 16 then
        some (.restore (g l 0) (g l 1) (g l 2) ((g l 3).testBit 15) ((g l 3).testBit 14) (bitsOf (g l 3) 13 0))
      else none)
  | 0x0602 => (f []).map (fun _ => .shroudRelease)
  | 0x0700 => (f [8]).map (fun l => .counterSnapshot (g l 0))
  | 0x0701 => (f [1, 1]).map (fun l => .sampleControl (g l 0) (g l 1))
  | 0x0800 => (f [32, 8]).map (fun l => .attest (leBytes 32 (g l 0)) (g l 1))
  | 0x0801 => (f [8, 4]).map (fun l => .measurementLog (g l 0) (g l 1))
  | 0x0802 => (f [8, 8]).map (fun l => .firmwareStage (g l 0) (g l 1))
  | n => some (.undefinedOp n)

/-- A packet header as its ring's controller reads it (R338). -/
structure RawHeader where
  tag : Nat
  length : Nat
  opcode : Nat
  sigEn : Bool
  nWaits : Nat
  signal : Nat
  /-- Some reserved header bit is set. -/
  reservedSet : Bool
  deriving DecidableEq, Repr, Inhabited

/-- The header of a packet's bytes. -/
def RawHeader.parse (bs : List Byte) : RawHeader :=
  let w0 := fieldLe bs 0 8
  let w1 := fieldLe bs 8 8
  { tag := bitsOf w0 63 32, length := bitsOf w0 31 16, opcode := bitsOf w0 15 0, sigEn := w1.testBit 20
    nWaits := bitsOf w1 18 16, signal := bitsOf w1 15 0, reservedSet := bitsOf w1 63 21 != 0 || w1.testBit 19 }

/-- The header checks of R340. -/
def RawHeader.ok (h : RawHeader) : Bool :=
  h.length != 0 && decide (h.length ≤ 64) && decide (h.nWaits ≤ 4) && decide (16 + 16 * h.nWaits ≤ 64 * h.length)

/-- The wait entries of a packet's bytes; none when a reserved bit is set. -/
def parseWaits (bs : List Byte) (n : Nat) : Option (List Wait) :=
  let ws := (List.range n).map (fun i => (fieldLe bs (16 + 16 * i) 8, fieldLe bs (24 + 16 * i) 8))
  if ws.any (fun p => !within p.2 17) then none
  else some (ws.map (fun p => { token := p.2 % 65536, value := p.1, rel := p.2.testBit 16 }))

/-- The operation of a whole packet's bytes, whose header has passed R340. -/
def parsePacket (h : RawHeader) (bs : List Byte) : Op × List Wait :=
  match parseWaits bs h.nWaits, parseOp h.opcode (bs.drop (16 + 16 * h.nWaits)) with
  | some ws, some op =>
    match op with
    | .undefinedOp n => (.undefinedOp n, ws)
    | _ => if h.reservedSet then (.malformed h.opcode, ws) else (op, ws)
  | some ws, none => (.malformed h.opcode, ws)
  | none, _ => (.malformed h.opcode, [])

/-! Packets from their parameters (R338, R339, R351). -/

/-- Little-endian fields given as size and value, each aligned to its own size, with zero bytes between them. -/
def putFields : List (Nat × Nat) → Nat → List Byte
  | [], _ => []
  | (n, v) :: t, o => zeros (alignUp o n - o) ++ leBytes n v ++ putFields t (alignUp o n + n)

/-- The payload of an operation. -/
def opPayload : Op → List Byte
  | .regWrite o v => putFields [(4, o), (4, v)] 0
  | .ringReset r => putFields [(1, r)] 0
  | .copy d s n f => putFields [(8, d), (8, s), (8, n), (4, f)] 0
  | .fill d n p => putFields [(8, d), (8, n), (8, p)] 0
  | .llsPartition c n => putFields [(1, c), (1, n)] 0
  | .llsRelease c u => putFields [(1, c), (1, u)] 0
  | .digest a n d => putFields [(8, a), (8, n), (8, d)] 0
  | .product o c sh segs =>
    leBytes 8 o ++ leBytes 8 c ++ leBytes 4 (sh + segs.length * 256) ++ zeros 4 ++
      (segs.map (fun g => leBytes 8 g.a ++ leBytes 8 g.b ++ leBytes 4 (b2n g.aT + 2 * b2n g.bT) ++ zeros 4)).flatten
  | .matvec o ps =>
    leBytes 8 o ++ leBytes 4 ps.length ++ zeros 4 ++ (ps.map (fun p => leBytes 8 p.1 ++ leBytes 8 p.2)).flatten
  | .softmax i o => putFields [(8, i), (8, o)] 0
  | .rmsnorm i o g e => putFields [(8, i), (8, o), (8, g), (4, e)] 0
  | .layernorm i o g b e => putFields [(8, i), (8, o), (8, g), (8, b), (4, e)] 0
  | .xent i t l m g => putFields [(8, i), (8, t), (8, l), (8, m), (8, g)] 0
  | .vprog p c o ins => putFields ([(8, p), (8, c), (8, o)] ++ ins.map (fun i => (8, i))) 0
  | .variantBind v => putFields [(2, v)] 0
  | .variantRelease k => putFields [(1, k)] 0
  | .collLaunch d => putFields [(8, d)] 0
  | .roleSet r n m t => putFields [(1, r), (2, n), (2, m), (2, t)] 0
  | .stepBegin n e g st => putFields [(8, n), (8, e), (4, b2n st + 2 * b2n g)] 0
  | .stepEnd a d => putFields [(8, a), (4, b2n d)] 0
  | .betweenJobTest m => putFields [(8, m)] 0
  | .unitTest u => putFields [(2, u)] 0
  | .unitFence u => putFields [(2, u)] 0
  | .unitUnfence u => putFields [(2, u)] 0
  | .restore i e d old ovr hd => putFields [(8, i), (8, e), (8, d), (4, b2n old * 32768 + b2n ovr * 16384 + hd)] 0
  | .counterSnapshot d => putFields [(8, d)] 0
  | .sampleControl e k => putFields [(1, e), (1, k)] 0
  | .attest n d => putFields [(32, ofLe n), (8, d)] 0
  | .measurementLog d n => putFields [(8, d), (4, n)] 0
  | .firmwareStage a n => putFields [(8, a), (8, n)] 0
  | _ => []

/-- The bytes of a packet from its header to the end of its last slot (R338, R339). -/
def packetBytes (h : PktHdr) (op : Op) : List Byte :=
  let w0 := h.tag * 2 ^ 32 + h.length * 2 ^ 16 + op.opcode
  let w1 := b2n h.sigEn * 2 ^ 20 + h.waits.length * 2 ^ 16 + h.signal
  let ws := (h.waits.map (fun w => leBytes 8 w.value ++ leBytes 8 (b2n w.rel * 65536 + w.token))).flatten
  let bs := leBytes 8 w0 ++ leBytes 8 w1 ++ ws ++ opPayload op
  bs ++ zeros (64 * h.length - bs.length)

/-! Descriptor references (R202). -/

/-- The descriptor references of an operation, in payload order; a reference that may be absent is 0 then. -/
def opRefs : Op → List Nat
  | .product o _ _ segs => o :: (segs.map (fun g => [g.a, g.b])).flatten
  | .matvec o parts => o :: (parts.map (fun p => [p.1, p.2])).flatten
  | .softmax i o => [i, o]
  | .rmsnorm i o g _ => [i, o, g]
  | .layernorm i o g b _ => [i, o, g, b]
  | .xent i _ _ _ g => [i, g]
  | .vprog _ _ o ins => match o :: ins with | l => l
  | _ => []

/-- A zero reference is allowed at this place (XENT's GRAD, VPROG's inputs; R353). -/
def optionalRef (op : Op) (i : Nat) : Bool :=
  match op with
  | .xent .. => i == 1
  | .vprog .. => i != 0
  | _ => false

/-- What resolving a reference gives: the descriptor's address and the slot held, or the status it ends with. -/
def State.resolveRef (s : State) (ref : Nat) : Except Status (Nat × Option Nat) :=
  if ref < 2 ^ 63 then
    if ref < 2 ^ 48 ∧ ref % 64 = 0 then .ok (ref, none) else .error .badParam
  else
    let slot := bitsOf ref 53 48
    let entry := bitsOf ref 15 0
    if bitsOf ref 62 54 ≠ 0 ∨ bitsOf ref 47 16 ≠ 0 then .error .badParam
    else if !s.flag .slotValid [slot] then .error .badParam
    else
      match ((Tab.get default s.slots slot).entries)[entry]? with
      | some a => .ok (a, some slot)
      | none => .error .badParam

/-- A layer is reefed in force. -/
def State.reefedLayer (s : State) (layer : Nat) : Bool := s.reef.contains layer

/-- The checks of a descriptor at expansion: its form, its room, its region (R66, R70, R140, R141). Of a descriptor that breaks
its form and its room both the spec gives no order: the model answers for the form, BAD_PARAM (log 81). -/
def State.checkDesc (s : State) (d : TDesc) : Except Status TDesc :=
  if !d.legal then .error .badParam
  else if d.tooLarge then .error .limitExceeded
  else
    let e := d.reefed (s.reefedLayer d.layer)
    if e.batch ≠ 1 ∧ e.elem.inBolts ∧ e.stride < e.bolts then .error .limitExceeded
    else if !s.inRegion e.base (e.endAddr - e.base) then .error .limitExceeded
    else if e.jibMode ≠ 0 ∧ !s.inRegion e.jibBase (e.jibEnd - e.jibBase) then .error .limitExceeded
    else .ok e

/-- The descriptors of a list of references: all of them with the slots they hold, or the status and the bad bolts of
the first that fails. -/
def State.readDescs (s : State) (op : Op) : List (Nat × Nat) → Except (Status × List Nat) (List TDesc × List Nat)
  | [] => .ok ([], [])
  | (ref, i) :: rest =>
    if ref = 0 ∧ optionalRef op i then
      (s.readDescs op rest).map (fun r => (default :: r.1, r.2))
    else
      match s.resolveRef ref with
      | .error e => .error (e, [])
      | .ok (a, slot) =>
        match s.readFault a 64 with
        | some e => .error e
        | none =>
          match s.checkDesc (TDesc.parse (s.mem.read a 64)) with
          | .error e => .error (e, [])
          | .ok d =>
            (s.readDescs op rest).map (fun r => (d :: r.1, match slot with | some k => k :: r.2 | none => r.2))

/-! Descriptors (R260, R261). -/

/-- The collective descriptor in 64 bytes at an address. -/
def CollDesc.parse (a : Nat) (bs : List Byte) : CollDesc :=
  let w := fieldLe bs 0 4
  { addr := a, root := bitsOf w 29 16, bundle := w.testBit 15, redop := bitsOf w 9 8, op := bitsOf w 7 0
    segments := bitsOf (fieldLe bs 4 4) 8 0, src := fieldLe bs 8 8, dst := fieldLe bs 16 8
    segTable := fieldLe bs 24 6, watchdogMs := fieldLe bs 32 4, raw := bs }

/-- The descriptor's own fields are legal for M members (R260, R272). -/
def CollDesc.legal (d : CollDesc) (members : Nat) : Bool :=
  let w := fieldLe d.raw 0 4
  bitsOf w 31 30 == 0 && bitsOf w 14 10 == 0 && bitsOf (fieldLe d.raw 4 4) 31 9 == 0 && fieldLe d.raw 30 2 == 0 &&
  allZero (d.raw.drop 36) && decide (1 ≤ d.op) && decide (d.op ≤ 6) &&
  (if d.op = 4 then decide (d.root < members) else d.root == 0) &&
  (if d.op ≤ 2 then decide (d.redop ≤ 2) else d.redop == 0) &&
  (d.watchdogMs == 0 || (decide (10 ≤ d.watchdogMs) && decide (d.watchdogMs ≤ 600000))) &&
  (if d.bundle then
     (d.op == 1 || d.op == 3 || d.op == 4) && decide (1 ≤ d.segments) && decide (d.segments ≤ 256) && d.src == 0 &&
       d.dst == 0 && d.segTable % 16 == 0
   else d.segments == 0 && d.segTable == 0 && (d.op != 6 || (d.src == 0 && d.dst == 0)))

/-- The reference pairs of a descriptor: its segment table's, or its own. -/
def CollDesc.refs (d : CollDesc) (m : Mem) : List (Nat × Nat) :=
  if d.op = 6 then []
  else if d.bundle then
    (List.range d.segments).map (fun i => (ofLe (m.read (d.segTable + 16 * i) 8), ofLe (m.read (d.segTable + 16 * i + 8) 8)))
  else [(d.src, d.dst)]

/-- A destination descriptor without its shape fields, which a collective does not use (R259). -/
def TDesc.shapeless (d : TDesc) : TDesc :=
  { d with rows := 1, cols := 4, batch := 1, stride := 0, rowPitch := if d.elem.inBolts then 0 else 4 * d.elem.bytes }

/-- A tensor descriptor of a collective at expansion: its form only. -/
def State.readCollDesc (s : State) (dest : Bool) (ref : Nat) : Except (Status × List Nat) (TDesc × Option Nat) :=
  match s.resolveRef ref with
  | .error e => .error (e, [])
  | .ok (a, slot) =>
    match s.readFault a 64 with
    | some e => .error e
    | none =>
      let d := TDesc.parse (s.mem.read a 64)
      if (if dest then d.shapeless else d).legal then .ok (d, slot) else .error (.badParam, [])

/-- The tensor descriptors of a list of references: a source and a destination in turn, `dest` says which is next. -/
def State.readCollDescs (s : State) (dest : Bool) : List Nat → Except (Status × List Nat) (List TDesc × List Nat)
  | [] => .ok ([], [])
  | r :: rs =>
    match s.readCollDesc dest r with
    | .error e => .error e
    | .ok (d, slot) =>
      (s.readCollDescs (!dest) rs).map (fun q => (d :: q.1, match slot with | some k => k :: q.2 | none => q.2))

/-- The address of the collective descriptor that an operation names: 0 for none. -/
def collAddrOf : Op → Nat
  | .collLaunch a => a
  | .product _ c _ _ => c
  | _ => 0

/-- An operation takes part in the sequence of collectives (R256). -/
def isCollective : Op → Bool
  | .collLaunch _ => true
  | .product _ c _ _ => c != 0
  | _ => false

/-- The expansion of a collective descriptor (R260): the descriptor, its tensor descriptors and slots. -/
def State.readColl (s : State) (r a : Nat) : Except (Status × List Nat) (CollDesc × List TDesc × List Nat) :=
  if r ≠ s.att .collCollRing [] ∨ 2 ^ 48 ≤ a ∨ a % 64 ≠ 0 then .error (.badParam, [])
  else
    match s.readFault a 64 with
    | some e => .error e
    | none =>
    let d := CollDesc.parse a (s.mem.read a 64)
    if !d.legal (s.rd .grpMembers []) then .ok (d, [], [])
    else
      match if d.bundle then s.readFault d.segTable (16 * d.segments) else none with
      | some e => .error e
      | none =>
        (s.readCollDescs false ((d.refs s.mem).map (fun p => [p.1, p.2])).flatten).map (fun q => (d, q.1, q.2))

/-- Assign a collective's sequence number in fetch order (R256): a streaming product reserves the next one, the next
COLL_LAUNCH of the same descriptor takes the reservation, and any other launch takes the next number. -/
def State.assignSeq (s : State) (op : Op) : Nat × State :=
  let n := s.rd .collCollSeq []
  match op with
  | .product _ c _ _ =>
    if c = 0 then (0, s)
    else (n, { s with reserved := s.reserved ++ [(c, n)] }.wr .collCollSeq [] (n + 1))
  | .collLaunch a =>
    match s.reserved.find? (fun e => e.1 == a) with
    | some e => (e.2, { s with reserved := s.reserved.erase e })
    | none => (n, s.wr .collCollSeq [] (n + 1))
  | _ => (0, s)

/-! Launch checks (R72, R93, R114, R128, R203, R353). -/

/-- The K segments of a product or the parts of a MATVEC, from its descriptors in payload order (R352). -/
def opSegments (op : Op) (ds : List TDesc) : List Segment :=
  match op with
  | .product _ _ _ segs => segs.zipIdx.map (fun p =>
      { a := { d := ds.getD (1 + 2 * p.2) default, transposed := p.1.aT }
        b := { d := ds.getD (2 + 2 * p.2) default, transposed := p.1.bT } })
  | .matvec _ parts => (List.range parts.length).map (fun i =>
      { a := { d := ds.getD (1 + 2 * i) default, transposed := false }
        b := { d := ds.getD (2 + 2 * i) default, transposed := false } })
  | _ => []

/-- The place of the output descriptor in the payload's references; XENT's is GRAD. -/
def outIndex : Op → Nat
  | .product .. => 0 | .matvec .. => 0 | .vprog .. => 0 | _ => 1

/-- The stack whose stack-local window holds an address, 20 for none. -/
def stackWindow (a : Nat) : Nat := match regionOf a with | some (.stack st) => st | _ => 20

/-- The bytes of a context in cluster memory (R105). -/
def contextBytes : Nat := 135168
/-- The bytes of a cluster's memory (R27). -/
def clusterMemory : Nat := 4194304

/-- The cluster memory that a descriptor of an operation names (R27): a tile pass the area of its context (R105). The spec
states no other amount (DESIGN CHOICE: none). -/
def clusterBytes : Op → Nat
  | .product .. => contextBytes
  | _ => 0

/-- The checks of a PRODUCT (R72, R73, R93, R114). -/
def productCheck (shape : Nat) (o : TDesc) (gs : List Segment) : Option Status :=
  match shapeOf shape with
  | none => some .badParam
  | some sh =>
    if !productOk gs o sh then some .badParam
    else if 2 ^ 32 < segK gs then some .limitExceeded
    else none

/-- The checks of a MATVEC (R203). -/
def matvecCheck (o : TDesc) (gs : List Segment) : Option Status :=
  match gs with
  | [] => some .badParam
  | g0 :: _ =>
    let ok := decide (gs.length ≤ 20) &&
      gs.all (fun g =>
        decide (stackWindow g.a.d.base < 20) && stackWindow g.a.d.base == stackWindow g.b.d.base &&
        g.a.d.rows == g0.a.d.rows && g.b.d.rows == g0.b.d.rows && g.a.d.cols == g.b.d.cols &&
        g.a.d.batch == 1 && g.b.d.batch == 1 && g.a.d.jibMode == 0 && g.b.d.jibMode == 0 &&
        ((g.a.d.elem == .fp4 && g.b.d.elem == .fp4) || (g.a.d.elem.isFp8 && g.b.d.elem.isFp8)) &&
        g.a.d.elem == g0.a.d.elem && g.b.d.elem == g0.b.d.elem && rotationOk g) &&
      strictlyRising (gs.map (fun g => stackWindow g.a.d.base)) &&
      o.rows == g0.a.d.rows && o.cols == g0.b.d.rows && o.batch == 1 && !o.elem.isInt
    if !ok then some .badParam
    else if 64 < o.rows then some .noResource
    else if 2 ^ 32 < segK gs then some .limitExceeded
    else none

/-- A BF16 or FP32 tensor of the shape of another (R353). -/
def wideLike (d o : TDesc) : Bool :=
  (d.elem == .bf16 || d.elem == .fp32) && d.rows == o.rows && d.cols == o.cols && d.batch == o.batch
/-- A single-row BF16 or FP32 tensor of L elements (R353). -/
def rowOf (d : TDesc) (l : Nat) : Bool :=
  (d.elem == .bf16 || d.elem == .fp32) && d.rows == 1 && d.cols == l && d.batch == 1

/-- The checks of a vector opcode (R353). -/
def vectorCheck (op : Op) (ds : List TDesc) : Option Status :=
  let d := fun i => ds.getD i default
  let verdict := fun (l : Nat) (ok : Bool) =>
    if !ok then some Status.badParam else if 16777216 < l then some .limitExceeded else none
  match op with
  | .softmax .. => verdict (d 1).cols (wideLike (d 0) (d 1) && !(d 1).elem.isInt)
  | .rmsnorm .. => verdict (d 1).cols (wideLike (d 0) (d 1) && !(d 1).elem.isInt && rowOf (d 2) (d 1).cols)
  | .layernorm .. =>
    verdict (d 1).cols (wideLike (d 0) (d 1) && !(d 1).elem.isInt && rowOf (d 2) (d 1).cols && rowOf (d 3) (d 1).cols)
  | .xent _ _ _ _ g =>
    verdict (d 0).cols (((d 0).elem == .bf16 || (d 0).elem == .fp32) &&
      (g == 0 || (!(d 1).elem.isInt && (d 1).rows == (d 0).rows && (d 1).cols == (d 0).cols && (d 1).batch == (d 0).batch)))
  | .vprog _ _ _ ins =>
    verdict (d 0).cols (!(d 0).elem.isInt &&
      ins.zipIdx.all (fun p => p.1 == 0 || wideLike (d (p.2 + 1)) (d 0)))
  | _ => none

/-- The checks of a launch that its descriptors decide (R72, R93, R114, R203, R353). -/
def launchCheck (op : Op) (ds : List TDesc) : Option Status :=
  let o := ds.getD (outIndex op) default
  if clusterMemory < clusterBytes op then some .noResource
  else
  match op with
  | .product _ _ sh _ => productCheck sh o (opSegments op ds)
  | .matvec .. => matvecCheck o (opSegments op ds)
  | _ => vectorCheck op ds

/-- The ring's controller may fetch: the device and the ring are enabled, the ring is neither stopped nor resetting,
and no command holds fetching; the host interface needs the uncore of channel 0 (R21, R223, R298, R331, R336, R337). -/
def State.canFetch (s : State) (r : Nat) : Bool :=
  decide (r < 16) && s.flag .devDeviceEnable [] && s.flag .ringEnable [r] && decide (s.rd .ringRingState [r] < 2) &&
  s.fetchHold.isEmpty && s.channelUp (r % 4) && !s.fenced 94 && !s.fenced 48 &&
  -- the step ring fetches nothing while its step closes (R152)
  (match s.step with | some st => st.ring != r || s.rd .stState [] == 1 | none => true) &&
  -- nothing is fetched after a STEP_BEGIN until it has ended (R150)
  !s.flight.any (fun p => p.ring == r && !p.isEnded && match p.op with | .stepBegin .. => true | _ => false)

/-- Slots published and not fetched. -/
def State.unfetched (s : State) (r : Nat) : Nat := (s.rd .ringRingTail [r] + 2 ^ 32 - s.rd .ringRingFetched [r]) % 2 ^ 32

/-- A packet of the step ring fetched now belongs to the open attempt (R147). -/
def State.fetchesAttempt (s : State) (r : Nat) : Bool :=
  match s.step with
  | some st => st.ring == r && s.rd .stState [] == 1
  | none => false

/-- A wait entry with REL = 1 is legal only in a packet of the open attempt, and in no STEP_BEGIN (R342). -/
def relOk (op : Op) (inAttempt : Bool) (ws : List Wait) : Bool :=
  ws.all (fun w => !w.rel) || (inAttempt && match op with | .stepBegin .. => false | .stepEnd .. => false | _ => true)

/-- The ranges that expanding a packet reads first: the descriptors that it names, and its collective descriptor (R69,
R260). -/
def State.refRanges (s : State) (op : Op) : List (Nat × Nat) :=
  (opRefs op).filterMap (fun r => match s.resolveRef r with | .ok q => some (q.1, 64) | .error _ => none) ++
    if isCollective op then [(collAddrOf op, 64)] else []

/-- A packet whose descriptors lie on a stack at CRIT reads them once the stack has cooled (R230). -/
def State.refsHeld (s : State) (op : Op) : Bool := (s.refRanges op).any (fun r => s.heldIn r.1 r.2)

/-- The descriptors of a waiting packet are read again (R24, R69): the packet with what they hold now, and the status of
a reading or check that fails. -/
def State.reread (s : State) (p : Packet) : Packet × Option (Status × List Nat) :=
  match s.readDescs p.op (opRefs p.op).zipIdx,
      (if isCollective p.op then (s.readColl p.ring (collAddrOf p.op)).map (fun q => some q) else .ok none) with
  | .error e, _ => (p, some e)
  | _, .error e => (p, some e)
  | .ok v, .ok c =>
    ({ p with descs := v.1, slots := v.2 ++ (match c with | some q => q.2.2 | none => [])
              coll := c.map (fun q => q.1), collDescs := match c with | some q => q.2.1 | none => [] },
      (launchCheck p.op v.1).map (fun st => (st, [])))

/-- The detail of a packet that ends as it is expanded. -/
def expansionDetail (st : Status) (bs : List Nat) : Nat := if st = .memUncorrectable then faultDetail 0 0 (lowest bs) else 0

/-- Fetch and expand a packet (R69, R334, R335, R340): its slots are read, it enters flight, and a packet that is
wrong ends at once without action. A packet that waits for tokens and whose descriptors cannot be used yet reads them
again once it may start, since a packet that it waits for may write them (R24); so does one whose descriptors lie on a stack
at CRIT (R230). -/
def State.fetchPacket (s : State) (h : PktHdr) (op : Op) : State :=
  let slot := s.rd .ringRingFetched [h.ring]
  let att := s.fetchesAttempt h.ring
  let pid := s.nextId
  let r := s.readDescs op (opRefs op).zipIdx
  let c := if isCollective op then (s.readColl h.ring (collAddrOf op)).map (fun q => some q) else .ok none
  let failed : Option (Status × List Nat) :=
    match op with
    | .undefinedOp _ => some (.badOpcode, [])
    | .malformed _ => some (.badParam, [])
    | _ =>
      if !relOk op att h.waits then some (.badParam, [])
      else
        match r, c with
        | .error e, _ => some e
        | _, .error e => some e
        | .ok v, _ => (launchCheck op v.1).map (fun st => (st, []))
  let itself : Bool := match op with | .undefinedOp _ => true | .malformed _ => true | _ => !relOk op att h.waits
  let again : Bool := !itself && ((failed.isSome && !h.waits.all s.waitMet) || s.refsHeld op)
  let phase : Phase :=
    match failed with
    | none => .waiting
    | some (st, bs) => if again then .waiting else .ended st (expansionDetail st bs) false
  let q := if isCollective op ∧ h.ring = s.att .collCollRing [] then s.assignSeq op else (0, s)
  let cd := match c with | .ok v => v | .error _ => none
  let p : Packet :=
    { pid := pid, ring := h.ring, tag := h.tag, slot := slot, length := h.length, sigEn := h.sigEn,
      signal := h.signal, waits := h.waits, op := op, phase := phase
      descs := match r with | .ok v => v.1 | .error _ => []
      slots := (match r with | .ok v => v.2 | .error _ => []) ++ (match cd with | some v => v.2.2 | none => [])
      coll := cd.map (fun v => v.1), collDescs := match cd with | some v => v.2.1 | none => []
      collSeq := q.1
      inAttempt := att, seed := s.rd .stRunSeed [], fetched := s.aoNow, started := 0, scales := [], vals := [], flags := [], report := none, held := []
      redone := false, deferred := false, raced := [], again := again }
  let s := match failed with | some (_, bs) => (if again then q.2 else q.2.noteBads h.tag bs) | none => q.2
  let s := s.readsTraffic (.iface (h.ring % 4)) (s.refRanges op)
  let s := s.bump .ringRingFetched [h.ring] h.length
  -- on the step ring RING_HEAD stays at the STEP_BEGIN packet (R151, R335)
  let held : Bool := match s.step, op with
    | some st, .stepBegin .. => st.ring == h.ring || phase == .waiting
    | some st, _ => st.ring == h.ring
    | none, .stepBegin .. => phase == .waiting
    | none, _ => false
  let s := if held then s else s.wr .ringRingHead [h.ring] (slot + h.length)
  ({ s with flight := s.flight ++ [p], nextId := pid + 1 }).countEvent (h.ring % 4) 0x40 1

/-- A ring stops (R337): STOP_CODE, the stop record, which waits for room as any other (R349), no signal. -/
def State.stopRing (s : State) (r tag opcode : Nat) (st : Status) (detail : Nat) : State :=
  let slot := s.rd .ringRingFetched [r]
  let s := (s.wr .ringRingState [r] 2).wr .ringStopCode [r] st.code
  let l : LateRecord :=
    { ring := r, pid := none, tag := tag, opcode := opcode, status := st, detail := detail, slot := slot, faultedWait := false
      signalled := false, signal := 0, ended := s.aoNow }
  if s.recordWaits r then { s with lateRecords := s.lateRecords ++ [l] } else s.reportEnd l

end Sys2Proof.Machine
end

