-- ==== Sys2Proof/Machine/CollOps.lean ====
section
/-! DEFINITION. Collectives: descriptors, units and shares, the defined reduction, messages, progress, completion and
failure (R255–R279). -/

namespace Sys2Proof.Machine

/-! Units and shares (R257–R259). -/

/-- Elements of one unit. -/
def unitElems (d : TDesc) : Nat := if d.elem.inBolts then d.elem.perBolt else 512 / d.elem.bytes
/-- Units of a tensor. -/
def unitsOf (d : TDesc) : Nat :=
  if d.elem.inBolts then d.batch * d.bolts else d.batch * d.rows * d.cols * d.elem.bytes / 512
/-- First unit of share j. -/
def shareLo (units members j : Nat) : Nat := j * units / members
/-- Units of share j. -/
def shareLen (units members j : Nat) : Nat := shareLo units members (j + 1) - shareLo units members j
/-- Chunks of a share of n units. -/
def chunksOf (n shift : Nat) : Nat := ceilDiv n (2 ^ shift)

/-- U of a collective. -/
def CollSt.units (c : CollSt) : Nat := c.own.count
/-- OP without BUNDLE. -/
def CollSt.op (c : CollSt) : Nat := c.own.op % 32768
/-- It is a BUNDLE. -/
def CollSt.bundle (c : CollSt) : Bool := decide (32768 ≤ c.own.op)
/-- First unit of a rank's share. -/
def CollSt.lo (c : CollSt) (j : Nat) : Nat := shareLo c.units c.members j
/-- Units of a rank's share. -/
def CollSt.len (c : CollSt) (j : Nat) : Nat := shareLen c.units c.members j
/-- The other ranks. -/
def CollSt.others (c : CollSt) : List Nat := (List.range c.members).filter (fun r => r != c.rank)
/-- Chunks of the own share. -/
def CollSt.chunks (c : CollSt) : Nat := chunksOf (c.len c.rank) c.chunkShift

/-- The segment that holds unit u, and the unit's place in it (R272). -/
def locateUnit : List (TDesc × TDesc) → Nat → TDesc × TDesc × Nat
  | [], u => (default, default, u)
  | p :: ps, u => if u < unitsOf p.1 then (p.1, p.2, u) else locateUnit ps (u - unitsOf p.1)

/-- The segment and the destination unit of the i-th unit received from rank k in a phase (R257, R259). -/
def CollSt.destOf (c : CollSt) (phase k i : Nat) : TDesc × TDesc × Nat × Nat :=
  match c.op with
  | 1 => let q := locateUnit c.pairs (c.lo k + i); (q.1, q.2.1, q.2.2, q.2.2)
  | 3 => let q := locateUnit c.pairs i; (q.1, q.2.1, q.2.2, k * unitsOf q.1 + q.2.2)
  | 5 => let q := locateUnit c.pairs 0; (q.1, q.2.1, c.rank * (c.units / c.members) + i, k * (c.units / c.members) + i)
  | _ => let q := locateUnit c.pairs (if phase = 0 ∧ c.op = 2 then c.lo c.rank + i else i); (q.1, q.2.1, q.2.2, q.2.2)

/-- Units that rank k sends this member in a phase. -/
def CollSt.expects (c : CollSt) (phase k : Nat) : Nat :=
  if k = c.rank then 0
  else
    match c.op, phase with
    | 1, 0 => c.len c.rank
    | 1, _ => c.len k
    | 2, 0 => c.len c.rank
    | 3, 0 => c.units
    | 4, 0 => if k = c.own.root then c.units else 0
    | 5, 0 => c.units / c.members
    | _, _ => 0

/-- Units that this member sends rank r as contributions or copies. -/
def CollSt.owes (c : CollSt) (r : Nat) : Nat :=
  if r = c.rank then 0
  else
    match c.op with
    | 1 => c.len r
    | 2 => c.len r
    | 3 => c.units
    | 4 => if c.rank = c.own.root then c.units else 0
    | 5 => c.units / c.members
    | _ => 0

/-- The first own unit that goes to rank r. -/
def CollSt.firstOwed (c : CollSt) (r : Nat) : Nat :=
  match c.op with
  | 1 => c.lo r
  | 2 => c.lo r
  | 5 => r * (c.units / c.members)
  | _ => 0

/-! The ranges of a launch (R257, R259, R261). -/

/-- Sources and destinations of a launch, scales bound. -/
def pairUp : List TDesc → List (TDesc × TDesc)
  | a :: b :: t => (a, b) :: pairUp t
  | _ => []

/-- Units of the destination of a pair (R257). -/
def destUnits (op rank members units : Nat) : Nat :=
  match op with
  | 2 => shareLen units members rank
  | 3 => members * units
  | _ => units

/-- The source and destination ranges of a launch (R259, R261). -/
def launchRanges (op rank members : Nat) (pairs : List (TDesc × TDesc)) : List (Nat × Nat) × List (Nat × Nat) :=
  (pairs.map (fun p => (p.1.base, 512 * unitsOf p.1)),
   pairs.map (fun p => (p.2.base, 512 * destUnits op rank members (unitsOf p.1))))

/-! The reduction (R262–R265). -/

/-- The FP32 value of contribution element i of a unit, and whether forming it overflowed (R262). -/
def contribValue (d : TDesc) (bs : List Byte) (i : Nat) : F32 × Bool :=
  if d.elem.inBolts then
    let e := elemNum d.elem (bs.getD i 0).toNat
    let sc := scaleNum d.scale (bs.getD (456 + i / d.blockSize) 0).toNat
    let v := gradValue e sc d.gscale f32One
    (v, f32IsInf v && !e.isInf)
  else
    let v := wideF32 d.elem (fieldLe bs (i * d.elem.bytes) d.elem.bytes)
    (if f32IsNaN v then f32NaN else v, false)

/-- The live element positions of a unit, block by block, for a bolt (R49, R53, R262); all of them for a wide unit. -/
def liveBlocks (d : TDesc) (u : Nat) : List (List Nat) :=
  if d.elem.inBolts then
    (List.range d.blocksPerBolt).map (fun k =>
      let n := u % d.bolts * d.blocksPerBolt + k
      if n < d.nBlocks then (blockElems d n).map (fun p => k * d.blockSize + p.1) else [])
  else [List.range (unitElems d)]

/-- One element of the reduction: the value and its events (R263). -/
def reduceElem (redop : Nat) (vs : List (F32 × Bool)) : F32 × List (Flag × Nat) :=
  let input := (vs.zipIdx.map (fun p =>
    (if f32IsNaN p.1.1 then [(Flag.nanIn, p.2)] else if p.1.2 then [(Flag.ovf, p.2)]
     else if f32IsInf p.1.1 then [(Flag.infIn, p.2)] else []))).flatten
  if redop = 0 then
    let r := vs.zipIdx.foldl (fun (q : Pair × List (Flag × Nat)) p =>
      let a := accumulate q.1 p.1.1
      (a.1, q.2 ++ a.2.flags.map (fun f => (f, p.2)))) (Pair.zero, [])
    let o := readout r.1 f32One f32One
    (o.1, input ++ r.2 ++ if o.2 then [(Flag.ovf, kbReadout)] else [])
  else
    let f := if redop = 1 then fmax else fmin
    ((vs.drop 1).foldl (fun a p => f a p.1) ((vs.headD (f32Zero, false)).1), input)

/-- A reduced unit: its bytes as destination unit `du`, and its events. `contribs` are the ranks' units in ascending
rank (R263, R264, R265). -/
def reduceUnit (redop seed stepField : Nat) (src dst : TDesc) (u du : Nat) (contribs : List (List Byte)) :
    List Byte × List Event :=
  let live := liveBlocks src u
  let elem := fun i => reduceElem redop (contribs.map (fun bs => contribValue src bs i))
  let draw := fun i => if dst.traffic = 0 then 0 else roundDraw seed stepField dst.tag (u * unitElems src + i)
  let pos := fun i kb => ({ matrix := 0, row := u, col := i, kblock := kb } : Pos)
  let events := ((live.flatten.map (fun i => (elem i).2.map (fun e => ({ flag := e.1, pos := pos i e.2 } : Event))))).flatten
  if src.elem.inBolts then
    let blocks := live.zipIdx.map (fun b =>
      if b.1.isEmpty then ({ scale := 0, codes := List.replicate dst.blockSize 0, clamp := false } : BlockOut)
      else
        let o := writeBlock dst.elem dst.scale dst.traffic dst.gscale (b.1.map (fun i => ((elem i).1, draw i)))
        let t : Tab Nat := b.1.zip o.codes
        { o with codes := (List.range dst.blockSize).map (fun i => Tab.get 0 t (b.2 * dst.blockSize + i)) })
    let clamps := (blocks.zipIdx.filter (fun b => b.1.clamp)).map (fun b =>
      ({ flag := .scaleClamp, pos := pos (b.2 * dst.blockSize) kbWriter } : Event))
    (boltBytes (packElems dst.elem (blocks.map (fun o => o.codes)).flatten)
       (blocks.map (fun o => BitVec.ofNat 8 o.scale)) du dst.tag dst.geometry dst.format, events ++ clamps)
  else
    ((live.flatten.map (fun i =>
      let x := (elem i).1
      if dst.elem = .bf16 then leBytes 2 (toBf16 (bf16Mode dst.traffic (draw i)) x f32One) else leBytes 4 x.toNat)).flatten,
     events)

/-- A copied or gathered unit under its destination's header (R259, R266). -/
def reheaded (dst : TDesc) (du : Nat) (bs : List Byte) : List Byte :=
  if dst.elem.inBolts then boltBytes (bs.take 448) (slice bs 456 56) du dst.tag dst.geometry dst.format else bs

/-! Messages (R267–R269). -/

/-- The 32-byte sub-header of a COLLECTIVE body. -/
def collHeader (msg : Nat) (k : CollKey) : List Byte :=
  leBytes 1 msg ++ leBytes 1 k.attempt ++ zeros 6 ++ leBytes 8 k.epoch ++ leBytes 8 k.step ++ leBytes 8 k.seq

/-- Send a collective message to a rank; data goes on VC 0, every other message on VC 1. -/
def State.sendColl (s : State) (c : CollSt) (rank vc phase msg : Nat) (content : List Byte) : State :=
  if rank = c.rank then s
  else s.sendCell vc (s.rankNodes.getD rank 0) 2 (streamOf c.key + phase * 4096) (collHeader msg c.key ++ content)

/-- Send one unit, read at address `a`, to a rank: a BOLT cell, or two DATA messages. The port that it leaves through samples it
(R366). -/
def State.sendUnit (s : State) (c : CollSt) (rank phase unit : Nat) (narrow : Bool) (a : Nat) (bs : List Byte) : State :=
  let port := s.route (s.rankNodes.getD rank 0)
  let s := if port < 12 then s.sampleOnce (port / 3) 5 port a c.tag else s
  if narrow then s.sendCell 0 (s.rankNodes.getD rank 0) 1 (streamOf c.key + phase * 4096) bs
  else
    (List.range 2).foldl (fun s h =>
      s.sendColl c rank 0 phase 3 (leBytes 8 unit ++ leBytes 1 phase ++ leBytes 1 h ++ zeros 6 ++ slice bs (256 * h) 256)) s

/-- The content of a LAUNCH. -/
def LaunchMsg.bytes (m : LaunchMsg) : List Byte :=
  leBytes 2 m.op ++ leBytes 1 m.redop ++ zeros 1 ++ leBytes 2 m.type ++ leBytes 2 m.root ++ leBytes 8 m.count ++
    leBytes 8 m.digest ++ leBytes 2 m.limit ++ zeros 6

/-- The first field in which a peer's LAUNCH differs (R274); 0 when none does. -/
def LaunchMsg.differs (a b : LaunchMsg) : Nat :=
  if a.op ≠ b.op then 1 else if a.redop ≠ b.redop then 2 else if a.type ≠ b.type then 3
  else if a.root ≠ b.root then 4 else if a.count ≠ b.count then 5 else if a.digest ≠ b.digest then 6 else 0

/-- A descriptor as DIGEST takes it (R268). -/
def digestDesc (dest : Bool) (d : TDesc) : List Byte :=
  let e := { d with base := 0, jibBase := 0 }
  TDesc.bytes (if dest then { e with rows := 0, cols := 0, batch := 0, stride := 0, rowPitch := 0 } else e)

/-- DIGEST of a launch (R268). -/
def collDigest (d : CollDesc) (pairs : List (TDesc × TDesc)) : Nat :=
  let head := patch (patch (patch (patch d.raw 8 (zeros 16)) 24 (zeros 6)) 30 (zeros 2)) 32 (zeros 4)
  ofLe ((digest256 (head ++ (pairs.map (fun p => digestDesc false p.1 ++ digestDesc true p.2)).flatten)).take 8)

/-! Progress. -/

/-- A collective in flight by key. -/
def State.coll (s : State) (k : CollKey) : Option CollSt := s.colls.find? (fun c => c.key == k)
/-- Replace a collective. -/
def State.setColl (s : State) (c : CollSt) : State :=
  { s with colls := s.colls.map (fun d => if d.key = c.key then c else d) }

/-- Milliseconds in AO ticks. -/
def msTicks (ms : Nat) : Nat := ms * 50000

/-- Progress moves a collective's deadline to now + WATCHDOG_MS (R277). -/
def CollSt.progressed (c : CollSt) (now : Nat) : CollSt :=
  { c with progress := now, deadline := now + msTicks c.watchdogMs }

/-- A SLOW notice moves the deadline, never past T + WATCHDOG_MS + SLOW_LIMIT_MS (R277). -/
def CollSt.slowed (c : CollSt) (now : Nat) : CollSt :=
  let last := c.progress + msTicks c.watchdogMs + msTicks c.slowLimitMs
  { c with deadline := min (max c.deadline (now + msTicks c.watchdogMs)) last }

/-- A COLLECTIVE entry's 24 bytes (R279). -/
def collEntry (c : CollSt) (vector : Nat) (st : Status) (field rank now : Nat) : List Byte :=
  leBytes 8 c.key.seq ++ leBytes 4 c.tag ++ leBytes 1 (c.op + if c.bundle then 128 else 0) ++ leBytes 1 vector ++
    leBytes 1 st.code ++ leBytes 1 field ++ leBytes 2 rank ++ zeros 2 ++ leBytes 4 (min ((now - c.begun) / 50) (2 ^ 32 - 1))

/-- Enter a collective's end in the open attempt's record, under the number of its packet (R279). -/
def State.noteColl (s : State) (c : CollSt) (vector : Nat) (st : Status) (field rank : Nat) : State :=
  match s.step with
  | some t =>
    if c.key.step = s.rd .stCurrentStep [] ∧ c.key.attempt = s.rd .stAttempt [] ∧ c.key.attempt ≠ 0 then
      { s with step := some { t with collEntries := t.collEntries ++ [((c.pid.orElse (fun _ => c.stream)).getD 0, collEntry c vector st field rank s.aoNow)] } }
    else s
  | none => s

/-- The detail of a collective that ends with a failure status (R275). -/
def collDetail (cause field rank : Nat) : Nat := rank % 16384 + field % 16 * 2 ^ 16 + cause % 8 * 2 ^ 20

/-- Send ABORT to every other member (R274). -/
def State.sendAborts (s : State) (c : CollSt) (cause field rank : Nat) : State :=
  c.others.foldl (fun s r => s.sendColl c r 1 0 4 (leBytes 1 cause ++ leBytes 1 field ++ leBytes 2 rank ++ zeros 4)) s

/-- The byte ranges of a collective's destination: the run of its units from each BASE (R259). -/
def CollSt.dests (c : CollSt) : List (Nat × Nat) := (launchRanges c.op c.rank c.members c.pairs).2

/-- End a collective with a failure status (R274, R275): its destination is undefined, it leaves flight, LAST fields
take it, its packet ends. -/
def State.failColl (s : State) (c : CollSt) (st : Status) (cause field rank : Nat) : State :=
  let s := (s.spoils c.dests).groupEvent 1 1
  let s := { s with colls := s.colls.filter (fun d => d.key != c.key) }
  let s := ((((s.wr .collLastSeq [] c.key.seq).wr .collLastStatus [] st.code).wr .collLastCause [] cause).wr
    .collLastField [] field).wr .collLastRank [] rank
  let s := s.noteColl c 0 st field rank
  let s := if st = .collTimeout then s.noteRisk 8 1 else s
  match c.pid with
  | some pid => s.endPacket pid st (collDetail cause field rank)
  | none => { s with endedColls := s.endedColls ++ [(c.key, st, collDetail cause field rank)] }

/-- A source read or a received unit failed (R274): ABORT with CAUSE 3 names this member. -/
def State.failCheck (s : State) (c : CollSt) : State :=
  (s.sendAborts c 3 0 c.rank).failColl c .faultCheck 3 0 c.rank

/-- The failing read of own source unit u is logged and counted like any other (R55, R56, R219). -/
def State.ownFault (s : State) (c : CollSt) (u : Nat) : State :=
  let q := locateUnit c.pairs u
  let a := q.1.base + 512 * q.2.2
  let bad := s.badBolts a 512
  if !bad.isEmpty then s.noteBads c.tag bad
  else
    match boltCheck (s.mem.read a 512) (q.2.2 % 65536) q.1.tag q.1.geometry q.1.format with
    | some code => s.log 0x01 code a c.tag 0 0 0
    | none => s

/-- The channel that homes a unit's address: its reducers and its slice. -/
def State.viaHome (s : State) (a : Nat) : Via := .iface ((s.homeChannel a).getD 0)

/-- Own source unit u, checked as its reader checks it: none when the read fails. -/
def State.ownUnit (s : State) (c : CollSt) (u : Nat) : Option (List Byte) :=
  let q := locateUnit c.pairs u
  let a := q.1.base + 512 * q.2.2
  let bs := s.mem.read a 512
  if !(s.badBolts a 512).isEmpty then none
  else if q.1.elem.inBolts && (boltCheck bs (q.2.2 % 65536) q.1.tag q.1.geometry q.1.format).isSome then none
  else some bs

/-- The streaming product of a collective, when it has one, has ended with its record (R271). -/
def State.sourceReady (s : State) (c : CollSt) : Bool :=
  match c.stream with
  | none => true
  | some pid => (s.packet pid).isNone

/-- Own source unit u may leave (R271): a streaming product's output bolt once it is complete and its tiles have passed their
checks. -/
def State.unitReady (s : State) (c : CollSt) (u : Nat) : Bool := s.sourceReady c || c.avail.contains u

/-- Send the next `n` own units to rank r, in ascending order, as far as they are complete (R269, R271). -/
def State.sendOwed (r : Nat) : Nat → State → CollSt → State × CollSt × Bool
  | 0, s, c => (s, c, true)
  | n + 1, s, c =>
    let i := Tab.get 0 c.sent r
    let u := c.firstOwed r + i
    if !s.unitReady c u then (s, c, true)
    else
      match s.ownUnit c u with
      | none => (s.ownFault c u, c, false)
      | some bs =>
        let q := locateUnit c.pairs u
        let a := q.1.base + 512 * q.2.2
        State.sendOwed r n ((s.readTraffic (s.viaHome a) a 512).sendUnit c r 0 u q.1.elem.inBolts a bs)
          { c with sent := Tab.put c.sent r (i + 1) }

/-- Own units that may go to rank r now: below the reducer's LIMIT for a reduction. -/
def CollSt.sendable (c : CollSt) (r : Nat) : Nat :=
  let n := if c.op ≤ 2 then min (c.owes r) (Tab.get 0 c.limits r * 2 ^ c.chunkShift) else c.owes r
  n - Tab.get 0 c.sent r

/-- The units of chunk q of the own share. -/
def CollSt.chunkUnits (c : CollSt) (q : Nat) : List Nat :=
  let lo := q * 2 ^ c.chunkShift
  (List.range (min (lo + 2 ^ c.chunkShift) (c.len c.rank) - lo)).map (fun i => lo + i)

/-- A staged contribution. -/
def CollSt.contribution (c : CollSt) (u k : Nat) : Option (List Byte) :=
  (c.staged.find? (fun e => e.1 == u && e.2.1 == k)).map (fun e => e.2.2)

/-- Send chunk q, combined here, to rank r: FLAGS and then its units (R269). -/
def State.sendGathered (c : CollSt) (r : Nat) (s : State) (q : Nat) : State :=
  let s := s.sendColl c r 1 0 7 (leBytes 8 q ++ leBytes 1 (c.chunkFlags.getD q 0) ++ zeros 7)
  (c.chunkUnits q).foldl (fun s i =>
    let l := locateUnit c.pairs (c.lo c.rank + i)
    let a := l.2.1.base + 512 * l.2.2
    s.sendUnit c r 1 (c.lo c.rank + i) l.2.1.elem.inBolts a (s.mem.read a 512)) s

/-- Combine one unit of the own share from every rank's contribution and write it (R263, R264). None when a
contribution is missing; the Boolean is false when the own source read fails. -/
def State.combineUnit (s : State) (c : CollSt) (i : Nat) : Option (State × List Event × Bool) :=
  let u := c.lo c.rank + i
  let others := c.others.map (fun k => c.contribution u k)
  if others.any (fun o => o.isNone) || !s.unitReady c u then none
  else
    match s.ownUnit c u with
    | none => some (s.ownFault c u, [], false)
    | some own =>
      let all := (List.range c.members).map (fun k => if k = c.rank then own else (c.contribution u k).getD [])
      let l := locateUnit c.pairs u
      let du := if c.op = 2 then i else l.2.2
      let r := reduceUnit c.own.redop c.seed c.stepField l.1 l.2.1 l.2.2 du all
      let a := l.2.1.base + 512 * du
      some ((s.writeMem (s.viaHome a) c.tag a r.1).1, r.2, true)

/-- CHUNK_COMBINE: combine the next chunks whose contributions are all there; each is written, counted, granted
(R263, R269). The Boolean is false when the own source read fails. -/
def State.combineChunks : Nat → State → CollSt → State × CollSt × Bool
  | 0, s, c => (s, c, true)
  | n + 1, s, c =>
    if c.chunks ≤ c.combined then (s, c, true)
    else
      let us := c.chunkUnits c.combined
      let r := us.foldl (fun (acc : Option (State × List Event × Bool)) i =>
        match acc with
        | some (s, ev, true) => (s.combineUnit c i).map (fun q => (q.1, ev ++ q.2.1, q.2.2))
        | x => x) (some (s, [], true))
      match r with
      | none => (s, c, true)
      | some (s, _, false) => (s, c, false)
      | some (s, ev, true) =>
        let s := (s.bump .collBytesReduced [] (us.length * 512 * c.members)).groupEvent 2 (us.length * 512 * c.members)
        let lo := c.lo c.rank
        let first := locateUnit c.pairs (lo + us.headD 0)
        let ch := (s.homeChannel first.2.1.base).getD 0
        let s := s.sampleOnce ch 6 ch (first.1.base + 512 * first.2.2) c.tag
        let c := { c with
          combined := c.combined + 1, chunkFlags := c.chunkFlags ++ [flagVector ev]
          flags := ev.foldl FlagSet.add c.flags
          staged := c.staged.filter (fun e => !us.contains (e.1 - lo) || decide (e.1 < lo)) }
        let c := c.progressed s.aoNow
        let s := c.others.foldl (fun s k => s.sendColl c k 1 0 2 (leBytes 8 (c.combined + c.own.limit))) s
        State.combineChunks n s c

/-- Send everything that rank r may take now. -/
def State.sendTo (acc : State × CollSt × Bool) (r : Nat) : State × CollSt × Bool :=
  let s := acc.1
  let c := acc.2.1
  if !acc.2.2 || !c.matched.contains r then acc
  else
    let a := State.sendOwed r (c.sendable r) s c
    let s := a.1
    let c := a.2.1
    if c.op = 1 then
      let done := Tab.get 0 c.gathered r
      let s := ((List.range (c.combined - done)).map (fun i => done + i)).foldl (State.sendGathered c r) s
      (s, { c with gathered := Tab.put c.gathered r c.combined }, a.2.2)
    else (s, c, a.2.2)

/-- Copy the own part of a copying collective (R266). False when its read fails. -/
def State.copyOwn (s : State) (c : CollSt) : State × Bool :=
  let us := match c.op with
    | 3 => (List.range c.units).map (fun i => (i, i))
    | 4 => if c.rank = c.own.root then (List.range c.units).map (fun i => (i, i)) else []
    | 5 => (List.range (c.units / c.members)).map (fun i => (c.rank * (c.units / c.members) + i, i))
    | _ => []
  us.foldl (fun (acc : State × Bool) p =>
    if !acc.2 then acc
    else
      match acc.1.ownUnit c p.1 with
      | none => (acc.1.ownFault c p.1, false)
      | some bs =>
        let q := c.destOf 0 c.rank p.2
        let a := q.2.1.base + 512 * q.2.2.2
        ((acc.1.writeMem (acc.1.viaHome a) c.tag a (reheaded q.2.1 q.2.2.2 bs)).1, true)) (s, true)

/-- Advance a collective as far as what has arrived allows. -/
def State.advance (s : State) (c : CollSt) : State :=
  let s := s.setColl c
  if c.op = 6 then
    if c.rank = 0 ∧ !c.released ∧ c.others.all (fun r => c.matched.contains r) then
      let s := c.others.foldl (fun s r => s.sendColl c r 1 0 6 []) s
      s.setColl { c with released := true }
    else s
  else
    -- the own part of a copying collective is copied here, once (R266)
    let own := if c.copied then (s, true) else s.copyOwn c
    let s := own.1
    let c := { c with copied := true }
    let a := if !own.2 then (s, c, false)
      else if c.op ≤ 2 then State.combineChunks (c.chunks + 1) s c else (s, c, true)
    let b := if a.2.2 then c.others.foldl State.sendTo a else a
    if b.2.2 then b.1.setColl b.2.1 else b.1.failCheck b.2.1

/-- A unit from rank k in a phase arrived (R266, R269): checked, then staged or written. -/
def State.takeUnit (s : State) (c : CollSt) (k phase : Nat) (bs : List Byte) : State :=
  let i := Tab.get 0 c.got (phase * 16384 + k)
  if c.expects phase k ≤ i then
    (s.sendAborts c 3 0 k).failColl c .faultCheck 3 0 k
  else
    let c := ({ c with got := Tab.put c.got (phase * 16384 + k) (i + 1) }).progressed s.aoNow
    let q := c.destOf phase k i
    -- a contribution or a copy carries the source's header, a gathered unit the destination's
    let red := decide (c.op ≤ 2) && phase == 0
    let u := if red then c.lo c.rank + i else 0
    let l := locateUnit c.pairs u
    let seq := if red then l.2.2 else if phase = 1 then q.2.2.2 else q.2.2.1
    let d := if phase = 1 then q.2.1 else if red then l.1 else q.1
    if d.elem.inBolts && (boltCheck bs (seq % 65536) d.tag d.geometry d.format).isSome then
      let code := (boltCheck bs (seq % 65536) d.tag d.geometry d.format).getD 0
      (s.log 0x01 code 0 c.tag 0 0 0).failCheck c
    else if red then s.advance { c with staged := c.staged ++ [(u, k, bs)] }
    else
      let a := q.2.1.base + 512 * q.2.2.2
      ((s.writeMem (s.viaHome a) c.tag a (reheaded q.2.1 q.2.2.2 bs)).1).advance c

/-- The rank of a node address in the committed epoch. -/
def State.rankOf (s : State) (node : Nat) : Option Nat := s.rankNodes.findIdx? (fun a => a == node)

/-- A held message is stale (R276): its epoch is below the committed one, or it is of an earlier attempt of the open
step. -/
def State.staleMsg (s : State) (k : CollKey) : Bool :=
  decide (k.epoch < s.rd .grpEpoch []) ||
  (s.stepOpen && k.epoch == s.rd .grpEpoch [] && k.step == s.rd .stCurrentStep [] && decide (k.attempt < s.rd .stAttempt []))

/-- Stale held messages are discarded and counted (R276). -/
def State.dropStale (s : State) : State :=
  let n := (s.heldMsgs.filter (fun m => s.staleMsg m.key)).length
  if n = 0 then s
  else ({ s with heldMsgs := s.heldMsgs.filter (fun m => !s.staleMsg m.key) }).count .collStaleDiscarded [] n

/-- A peer's LAUNCH compared with the own one (R274). -/
def State.takeLaunch (s : State) (c : CollSt) (k : Nat) (m : LaunchMsg) : State :=
  let f := c.own.differs m
  if f ≠ 0 then
    ((s.sendAborts c 1 f k).failColl c .collMismatch 1 f k).count .collMismatches [] 1
  else
    let c := ({ c with matched := if c.matched.contains k then c.matched else c.matched ++ [k],
                       limits := Tab.put c.limits k (max m.limit (Tab.get 0 c.limits k)) }).progressed s.aoNow
    s.advance c

/-- An ABORT for a collective in flight (R275). -/
def State.takeAbort (s : State) (c : CollSt) (cause field rank : Nat) : State :=
  (s.failColl c (if cause = 2 then .collTimeout else .collAborted) cause field rank).count .collAbortsRx [] 1

/-- Every completion condition of R273 holds. -/
def State.collDone (s : State) (c : CollSt) : Bool :=
  c.pid.isSome && s.sourceReady c && (c.copied || c.op == 6) &&
  (if c.op = 6 then c.released
   else
     (List.range c.members).all (fun k =>
       Tab.get 0 c.got k == c.expects 0 k && Tab.get 0 c.got (16384 + k) == c.expects 1 k &&
       Tab.get 0 c.sent k == c.owes k &&
       (c.op != 1 || k == c.rank ||
         (Tab.get 0 c.gathered k == c.chunks &&
          (c.flagsRx.filter (fun e => e.1 == k)).length == chunksOf (c.len k) c.chunkShift))) &&
     (decide (2 < c.op) || c.combined == c.chunks))

/-- The flag vector of a collective that completes (R265). -/
def CollSt.vector (c : CollSt) : Nat :=
  let own := c.chunkFlags.foldl (· ||| ·) 0
  if c.op = 1 then c.flagsRx.foldl (fun v e => v ||| e.2.2) own else own

/-- A collective completes (R273, R279). -/
def State.completeColl (s : State) (c : CollSt) : State :=
  let v := c.vector
  let st : Status := if v = 0 then .done else .doneFlagged
  let s := { s with colls := s.colls.filter (fun d => d.key != c.key) }
  let s := ((s.bump .collCompleted [] 1).groupEvent 1 1).noteColl c v st 0 0
  match c.pid with
  | some pid => (s.updPacket pid (fun p => { p with flags := c.flags })).endPacket pid st v
  | none => s

/-- This member receives LAUNCH from rank k (R269 step 1): from those that will receive data from it; at a BARRIER, rank 0
from every other rank. -/
def CollSt.hears (c : CollSt) (k : Nat) : Bool :=
  k != c.rank && (if c.op = 4 then c.rank == c.own.root else if c.op = 6 then c.rank == 0 else true)

/-- The rank that a timeout names (R277): the lowest from which a LAUNCH, a GRANT or data is still awaited, 0x3FFF when
none. -/
def CollSt.awaited (c : CollSt) : Nat :=
  (c.others.find? (fun k => (c.hears k && !c.matched.contains k) || decide (Tab.get 0 c.got k < c.expects 0 k) ||
    decide (Tab.get 0 c.got (16384 + k) < c.expects 1 k) ||
    (decide (c.op ≤ 2) && decide (Tab.get 0 c.limits k * 2 ^ c.chunkShift < c.owes k)))).getD 0x3FFF

/-! SLOW notices (R277, R278). -/

/-- The REASON of SLOW (R278): the most severe condition, 0 for none. Power throttling counts as a throttled die (R377). -/
def State.slowReason (s : State) : Nat :=
  let hot := fun (v : Nat) => (List.range 20).any (fun st => s.rd .stkTstate [st] == v)
  if hot 2 then 2 else if hot 1 then 1 else if s.rd .pwrDieThrottled [] ≠ 0 ∨ s.flag .pwrPowerThrottled [] then 3
  else if (List.range 12).any (fun p => s.pstate p == psRetraining) then 4 else 0

/-- SLOW goes to every other member of a collective (R278). -/
def State.sendSlow (reason : Nat) (s : State) (c : CollSt) : State :=
  let s := c.others.foldl (fun s r => s.sendColl c r 1 0 5 (leBytes 1 reason ++ zeros 7)) s
  ((s.count .collSlowTx [] c.others.length).groupEvent 4 c.others.length).setColl { c.slowed s.aoNow with slowAt := some s.aoNow }

/-- A notice of the collective is due (R278): none has been sent since its cause began, or the last is SLOW_INTERVAL_MS old. -/
def CollSt.slowDue (c : CollSt) (now : Nat) : Bool :=
  match c.slowAt with | none => true | some t => decide (t + msTicks c.slowMs ≤ now)

/-- SLOW is sent for every collective in flight whose notice is due, as long as its cause lasts (R278). -/
def State.slowCheck (s : State) : State :=
  if s.slowReason = 0 then { s with colls := s.colls.map (fun c => { c with slowAt := none }) }
  else (s.colls.filter (fun c => c.slowDue s.aoNow)).foldl (State.sendSlow s.slowReason) s

/-- W of R270 for a destination homed on channel ch. -/
def State.stagingWindow (s : State) (ch members shift : Nat) : Nat :=
  min 64 (s.att .stageUnits [ch] * unit32M / (members * 2 ^ shift * 512))

end Sys2Proof.Machine
end

