-- ==== Sys2Proof/Machine/GroupOps.lean ====
section
/-! DEFINITION. Groups and managers: group messages, joins, heartbeats, epochs and failover (R248–R253). -/

namespace Sys2Proof.Machine

/-- No node. -/
def noNode : Nat := 0x3FFF

/-- Send a group message (R252): common header, content, on VC 1. -/
def State.sendGroup (s : State) (dest msg epoch : Nat) (content : List Byte) : State :=
  s.sendCell 1 dest 3 0 (leBytes 2 msg ++ zeros 2 ++ leBytes 4 (s.rd .grpTerm []) ++ leBytes 8 epoch ++ content)

/-- This module is a manager with GROUP_ENABLE set. -/
def State.isManager (s : State) : Bool := s.flag .grpGroupEnable [] && s.rd .grpRole [] != 0
/-- This module is the top manager. -/
def State.isTop (s : State) : Bool := s.flag .grpGroupEnable [] && s.rd .grpRole [] == 2

/-- Member numbers of this manager's table in a state. -/
def State.membersIn (s : State) (st : Nat) : List Nat :=
  (List.range 128).filter (fun m => s.rd .mbrMstate [m] == st)

/-- The node address of member m of this module's group. -/
def State.nodeOfMember (s : State) (m : Nat) : Nat := s.rd .grpNode [] / 128 * 128 + m

/-- TERM rule of R253: a lower TERM is ignored and counted (none); a higher one makes a manager a WORKER whose manager
is the sender. -/
def State.termCheck (s : State) (src term : Nat) : State × Bool :=
  if term < s.rd .grpTerm [] then (s.count .grpIgnored [] 1, false)
  else if s.rd .grpTerm [] < term then
    let s := s.wr .grpTerm [] term
    if s.rd .grpRole [] ≠ 0 then ((s.wr .grpRole [] 0).wr .grpManagerNode [] src, true) else (s, true)
  else (s, true)

/-! Epochs (R251, R252). -/

/-- Insert into a strictly rising list. -/
def insertRising (n : Nat) : List Nat → List Nat
  | [] => [n]
  | m :: t => if n < m then n :: m :: t else if n = m then m :: t else m :: insertRising n t

/-- The order fingerprint (R251), its 16 bytes as one number. -/
def orderFingerprint (epoch : Nat) (nodes : List Nat) (chunkRule : Nat) : Nat :=
  ofLe ((digest256 (leBytes 8 epoch ++ leBytes 4 nodes.length ++ (nodes.map (leBytes 2)).flatten ++
    leBytes 4 chunkRule)).take 16)

/-- Cut a rank list into EPOCH_LIST segments of up to 240 nodes, each with its first rank. -/
def epochSegments (nodes : List Nat) : List (Nat × List Nat) :=
  (List.range (ceilDiv nodes.length 240)).map (fun i => (240 * i, (nodes.drop (240 * i)).take 240))

/-- Send EPOCH_PREPARE and the EPOCH_LIST segments to a node. -/
def State.sendPrepare (s : State) (epoch : Nat) (nodes : List Nat) (dest : Nat) : State :=
  let rule := s.rd .grpChunkRule []
  let segs := epochSegments nodes
  let s := s.sendGroup dest 0x07 epoch (leBytes 4 nodes.length ++ leBytes 16 (orderFingerprint epoch nodes rule) ++
    leBytes 4 rule ++ leBytes 4 segs.length)
  segs.foldl (fun s g => s.sendGroup dest 0x08 epoch (leBytes 4 g.1 ++ leBytes 4 g.2.length ++
    (g.2.map (leBytes 2)).flatten)) s

/-- The members of the old and the new membership (R252). -/
def State.bothLists (s : State) (l : List Nat) : List Nat := s.rankNodes.foldl (fun l a => insertRising a l) l

/-- Whom EPOCH_PREPARE and EPOCH_LIST for a node are sent to (R252 step 1): the manager of its group, when that is another
group's and the top manager knows it; the node itself otherwise. -/
def State.managerOf (s : State) (node : Nat) : Nat :=
  let g := node / 128
  if g = s.rd .grpNode [] / 128 ∨ s.rd .gtGmanager [g] = noNode then node else s.rd .gtGmanager [g]

/-- The top manager begins an epoch change (R252 step 1) with a number above every one that was prepared or committed so far
as this module knows (R251). The answers awaited are those of the members that will be ACTIVE: one that left discards group
cells (R249), and one that is LOST has none. -/
def State.startEpoch (s : State) : State :=
  if !s.isTop then s
  else
    let n := max s.lastEpoch (s.rd .grpEpoch []) + 1
    let t : TopSt :=
      { epoch := n, list := s.sysMembers, wanted := s.sysMembers, ready := []
        deadline := s.aoNow + msTicks (s.rd .grpPrepareTimeoutMs []) }
    let s := { s with top := some t, lastEpoch := n }
    ((s.bothLists t.list).foldl (fun l a => insertRising (s.managerOf a) l) []).foldl (fun s a => s.sendPrepare n t.list a) s

/-- A report of a node's state reaches the top manager's list: a change of the list, or a node that joins, begins an epoch
change. -/
def State.memberChange (s : State) (node mstate : Nat) : State :=
  if !s.isTop then s
  else
    let l := if mstate = 1 ∨ mstate = 2 then insertRising node s.sysMembers else s.sysMembers.filter (fun a => a != node)
    if l = s.sysMembers ∧ mstate ≠ 1 then s
    else ({ s with sysMembers := l }).startEpoch

/-- The highest risk level in this manager's group, its own included (R250). -/
def State.groupRisk (s : State) : Nat := (List.range 128).foldl (fun n m => max n (s.rd .mbrRisk [m])) (s.rd .intRisk [])

/-- The top manager keeps the risk of its own group as it keeps that of the others (R254). -/
def State.noteGrisk (s : State) : State := if s.isTop then s.wr .gtGrisk [s.rd .grpNode [] / 128] s.groupRisk else s

/-- A group manager tells the top manager of a change (R250): GROUP_REPORT, or its own list when it is the top. -/
def State.reportChange (s : State) (node mstate : Nat) : State :=
  if s.isTop then s.noteGrisk.memberChange node mstate
  else s.sendGroup (s.rd .grpTopNode []) 0x06 (s.rd .grpEpoch []) (leBytes 2 node ++ leBytes 1 mstate ++ leBytes 1 s.groupRisk)

/-- The state of a member's entry, and its report when it changes (R250). -/
def State.setMstate (s : State) (m st : Nat) : State :=
  if s.rd .mbrMstate [m] = st then s else (s.wr .mbrMstate [m] st).reportChange (s.nodeOfMember m) st

/-- A manager's entry m after a commit (R250–R252): ACTIVE with its rank in the new list; a member that left or was lost is
ABSENT; one that was ACTIVE and stands no more in the list gave no answer in time and is LOST; one that joins waits on. -/
def State.followList (nodes : List Nat) (s : State) (m : Nat) : State :=
  match nodes.findIdx? (fun a => a == s.nodeOfMember m) with
  | some k => (s.wr .mbrMrank [m] k).setMstate m 2
  | none =>
    if s.rd .mbrMstate [m] = 1 then s
    else (s.wr .mbrMrank [m] 0).setMstate m (if s.rd .mbrMstate [m] = 2 then 4 else 0)

/-- The committed epoch is installed at a member (R252 step 3): the collectives of the old one are ended by the
caller. -/
def State.installEpoch (s : State) (p : PrepSt) : State :=
  let nodes := (List.range p.members).map (fun k => Tab.get noNode p.nodes k)
  let mine := nodes.findIdx? (fun a => a == s.rd .grpNode [])
  let s := (((s.wr .grpEpoch [] p.epoch).wr .grpMembers [] p.members).wr .grpOrderFp [] p.fp).wr .grpPrepared [] 0
  let s := (s.wr .grpInEpoch [] (b2n mine.isSome)).wr .grpRank [] (mine.getD (s.rd .grpRank []))
  let s := { s with rankNodes := nodes, chunkRule := p.chunkRule, prep := none, reserved := [], verdicts := [] }.wr .collCollSeq [] 1
  -- a manager's entries follow the new list (R250)
  if s.isManager then (List.range 128).foldl (State.followList nodes) s else s

/-- Collectives of an earlier epoch end with EPOCH_STALE when an epoch commits (R276). -/
def State.staleColls (s : State) (epoch : Nat) : State :=
  (s.colls.filter (fun c => decide (c.key.epoch < epoch))).foldl
    (fun s c => (s.sendAborts c 4 0 noNode).failColl c .epochStale 4 0 noNode) s

/-! Failover (R253). -/

/-- The content of HEARTBEAT (R252). -/
def State.heartbeatBody (s : State) : List Byte :=
  let mapped := ((List.range 640).filter s.mappedOut).length
  let hot := (List.range 20).foldl (fun n st => max n (s.rd .stkTstate [st])) 0
  let n := fun v => ((List.range 96).filter (fun u => s.rd .unitHstate [u] == v)).length
  leBytes 1 (s.rd .intRisk []) ++ leBytes 1 (n 1) ++ leBytes 1 (n 2) ++ leBytes 2 mapped ++ leBytes 1 hot ++
    leBytes 1 (s.rd .stState [])

/-- The manager whose heartbeats a module expects (R250, R253): a group manager that has no other, the top manager's. -/
def State.superior (s : State) : Nat :=
  if s.rd .grpRole [] ≠ 0 ∧ s.rd .grpManagerNode [] = s.rd .grpNode [] then s.rd .grpTopNode [] else s.rd .grpManagerNode []

/-- The standbys that may replace that manager, in order (R253): TOP_STANDBY for the top manager. -/
def State.standbys (s : State) : List Nat :=
  ((if s.superior = s.rd .grpTopNode [] then [s.rd .grpTopStandby []] else []) ++
    (if s.rd .grpRole [] = 0 then [s.rd .grpStandby0 [], s.rd .grpStandby1 []] else [])).filter (fun a => a != noNode)

/-- The node a member sends its HEARTBEAT to (R250, R253): its manager; once MISS_LIMIT manager heartbeats are missing, the
first standby whose own heartbeats still arrive. No message of the spec brings a standby's heartbeats to a member, so which of
them arrive is a free value. -/
def State.heartbeatTo (s : State) : Nat × State :=
  if s.mgrMissed < s.rd .grpMissLimit [] then (s.rd .grpManagerNode [], s)
  else
    let f := s.freeVal 3
    let arrive := s.standbys.zipIdx.filter (fun p => f.1.testBit p.2)
    ((arrive.head?.map (fun p => p.1)).getD (s.rd .grpManagerNode []), f.2)

/-- JOIN is sent to MANAGER_NODE when GROUP_ENABLE is set (R248). -/
def State.sendJoin (s : State) : State :=
  s.sendGroup (s.rd .grpManagerNode []) 0x01 (s.rd .grpEpoch [])
    (leBytes 8 Config.moduleId.toNat ++ leBytes 1 Config.feedId.val ++ leBytes 1 (s.rd .devNe []))

end Sys2Proof.Machine
end

