-- ==== Sys2Proof/Machine/ParamOps.lean ====
section
/-! DEFINITION. Parameter groups: loading and checking the group table, the update of a batch, working copies, the
ratio, digests, global scales as bound, and the live step-state copy (R145, R146, R163–R165, R185–R199, R208). -/

namespace Sys2Proof.Machine

/-! The step-state area (R145, R146). -/

/-- Bytes of one step-state copy. -/
def copyBytes : Nat := 0x80000

/-- The addresses of the live copy and of the other one. -/
def State.liveCopy (s : State) : Nat × Nat :=
  let b := s.rd .stStateBase []
  let c0 := ofLe (s.mem.read (b + 8) 8)
  let c1 := ofLe (s.mem.read (b + copyBytes + 8) 8)
  if c0 < c1 then (b + copyBytes, b) else (b, b + copyBytes)

/-- The header of a copy: generation parity, commit number, step of the last commit, gradient scale, clean count. -/
def copyHeader (commit last : Nat) (gs : F32) (clean : Nat) : List Byte :=
  leBytes 8 (commit % 2) ++ leBytes 8 commit ++ leBytes 8 last ++ leBytes 4 gs.toNat ++ leBytes 4 clean ++ zeros 32

/-- Offset of monitor i's baseline in a copy. -/
def baselineOff (i : Nat) : Nat := 0x1000 + 16 * i
/-- Offset of entry e's scale history in a copy. -/
def historyOff (e : Nat) : Nat := 0x4000 + 64 * e

/-- The 16 amax values of an entry in a copy, newest first. -/
def historyAt (m : Mem) (copy e : Nat) : List F32 :=
  (List.range 16).map (fun i => BitVec.ofNat 32 (ofLe (m.read (copy + historyOff e + 4 * i) 4)))

/-- LEN of an entry in a register table. -/
def lenOf (regs : Tab Nat) (e : Nat) : Nat := Tab.get 7 regs (Reg.shLenM1.key [e]) + 1
/-- TARGET of an entry in a register table. -/
def targetOf (regs : Tab Nat) (e : Nat) : F32 := BitVec.ofNat 32 (Tab.get 0x45280000 regs (Reg.shTarget.key [e]))

/-- The byte range of the step-state area; none without one. -/
def State.stateArea (s : State) : List (Nat × Nat) := if s.rd .stStateBase [] = 0 then [] else [(s.rd .stStateBase [], 2 * copyBytes)]

/-- BASELINE and COUNT of a monitor: the live copy's (R181). -/
def State.baseline (s : State) (i : Nat) : F32 × Nat :=
  if s.rd .stStateBase [] = 0 then (BitVec.ofNat 32 (s.rd .monBaseline [i]), s.rd .monCount [i])
  else
    let a := s.liveCopy.1 + baselineOff i
    (BitVec.ofNat 32 (ofLe (s.mem.read a 4)), ofLe (s.mem.read (a + 4) 2))

/-- SCALE of an entry (R164, R165, R181): from the LEN newest amax values of the live copy; when they hold no non-zero finite
value, the scale as it was left. -/
def State.committedScale (s : State) (e : Nat) : F32 :=
  let kept := BitVec.ofNat 32 (s.rd .shScale [e])
  if s.rd .stStateBase [] = 0 then kept
  else (scaleFrom (targetOf s.regs e) ((historyAt s.mem s.liveCopy.1 e).take (lenOf s.regs e))).getD kept

/-- An entry's SCALE is kept for a change that leaves it as it was. -/
def State.keepScale (s : State) (e : Nat) : State := s.wr .shScale [e] (s.committedScale e).toNat

/-- The entries with an amax in the live copy. -/
def State.historyEntries (s : State) : List Nat :=
  ((s.mem.cells (s.liveCopy.1 + 0x4000) 0x40000).map (fun c => (c.1 - s.liveCopy.1 - 0x4000) / 64)).eraseDups

/-- Every SCALE is kept. -/
def State.keepScales (s : State) : State := if s.rd .stStateBase [] = 0 then s else s.historyEntries.foldl State.keepScale s

/-- A field of an array at a bit offset is that of a cold reset again. -/
def clearFields (regs : Tab Nat) (lsb off stride n : Nat) : Tab Nat :=
  regs.filter (fun p => !(p.1 % 32 == lsb && decide (off ≤ p.1 / 32) && decide (p.1 / 32 < off + stride * n) &&
    (p.1 / 32 - off) % stride == 0))

/-- A fresh area: every SCALE is 0x3F80_0000 until a commit records an amax (R146). -/
def State.freshScales (s : State) : State := { s with regs := clearFields s.regs 0 0x10400C 0x10 4096 }

/-- GRAD_SCALE and GS_CLEAN are those of the live copy (R145). -/
def State.loadLive (s : State) : State :=
  (s.wr .stGradScale [] (ofLe (s.mem.read (s.liveCopy.1 + 0x18) 4))).wr .stGsClean [] (ofLe (s.mem.read (s.liveCopy.1 + 0x1C) 4))

/-- Write a part of the live copy (R146): the bolts that the write could not merge. -/
def State.writeLive (s : State) (off : Nat) (bs : List Byte) : State × List Nat :=
  let a := s.liveCopy.1 + off
  s.writeMem (s.viaHome a) 0 a bs

/-- Write the next copy from the live one (R145, R165, R160): the baselines and histories that change, and the header
last; each SCALE is kept where its history gives none (R164). The bad bolts when the live copy cannot be read, or when the
next copy cannot be written. -/
def State.writeNextCopy (s : State) (last : Option Nat) (gs : F32) (clean : Nat) (baselines : List (Nat × F32 × Nat))
    (histories : List (Nat × List F32)) : State × List Nat :=
  let c := s.liveCopy
  let s := s.readTraffic (s.viaHome c.1) c.1 copyBytes
  let bad := s.badBolts c.1 copyBytes
  if !bad.isEmpty then (s.noteBads 0 bad, bad)
  else
    let s := histories.foldl (fun s h => s.keepScale h.1) s
    let commit := ofLe (s.mem.read (c.1 + 8) 8) + 1
    let lastStep := last.getD (ofLe (s.mem.read (c.1 + 16) 8))
    let m := Mem.move s.mem c.1 copyBytes c.2
    let m := baselines.foldl (fun m b =>
      m.write (c.2 + baselineOff b.1) (leBytes 4 b.2.1.toNat ++ leBytes 2 b.2.2)) m
    let m := histories.foldl (fun m h => m.write (c.2 + historyOff h.1) (h.2.map (fun v => leBytes 4 v.toNat)).flatten) m
    let s := s.writeTraffic (s.viaHome c.2) c.2 copyBytes
    let lost := (boltsOf c.2 copyBytes).filter s.overflowed
    let s := (s.badBolts c.2 copyBytes).foldl State.clearBolt { s with mem := m.write c.2 (copyHeader commit lastStep gs clean) }
    (s.loadLive.noteBads 0 lost, lost)

/-! Latched fields and scale histories. -/

/-- The register table of the attempt in force: latched in a step. -/
def State.attRegs (s : State) (inAttempt : Bool) : Tab Nat :=
  match s.step with
  | some t => if inAttempt then t.latched else s.regs
  | none => s.regs

/-- The indices of a one-bit field at bit 31 of an array of n words, spaced by `stride` bytes, that are 1 in a register
table. -/
def enabledIn (regs : Tab Nat) (off stride n : Nat) : List Nat :=
  (regs.filter (fun p => p.1 % 32 == 31 && decide (off ≤ p.1 / 32) && decide (p.1 / 32 < off + stride * n) &&
    (p.1 / 32 - off) % stride == 0 && p.2 == 1)).map (fun p => (p.1 / 32 - off) / stride)

/-- Enabled scale-history entries, ascending. -/
def enabledEntries (regs : Tab Nat) : List Nat := enabledIn regs 0x104004 0x10 4096
/-- Enabled monitors, ascending. -/
def enabledMonitors (regs : Tab Nat) : List Nat := enabledIn regs 0x101000 0x20 256

/-- The enabled scale-history entry that binds a tag: the lowest (R163). -/
def scaleEntry (regs : Tab Nat) (tag : Nat) : Option Nat :=
  (enabledEntries regs).find? (fun e => Tab.get 0 regs (Reg.shTag.key [e]) == tag)

/-- The attempt scale of an entry (R165). -/
def State.attemptScale (s : State) (e : Nat) : F32 :=
  match s.step with
  | some t => Tab.get (s.committedScale e) t.attScale e
  | none => s.committedScale e

/-- A descriptor's global scale as bound (R163): a packet of the attempt takes the attempt scale of its tag's entry,
any other packet the committed SCALE. -/
def State.boundScale (s : State) (inAttempt : Bool) (d : TDesc) : F32 :=
  if d.elem.isNarrowFp then
    match scaleEntry (s.attRegs inAttempt) d.tag with
    | some e => if inAttempt then s.attemptScale e else s.committedScale e
    | none => d.gscale
  else d.gscale

/-- A descriptor with its bound scale. -/
def State.bindDesc (s : State) (inAttempt : Bool) (d : TDesc) : TDesc := { d with gscale := s.boundScale inAttempt d }

/-- The gradient scale in force (R166). -/
def State.gradScale (s : State) : F32 :=
  match s.step with
  | some t => t.gs
  | none => BitVec.ofNat 32 (s.rd .stGradScale [])

/-! Loading the group table (R185–R187). -/

/-- Bytes of one element of a shard array. -/
def arrElem (bf16 : Bool) : Nat := if bf16 then 2 else 4
/-- Bytes of a shard array up to its 512-byte boundary. -/
def arrBytes (bf16 : Bool) (n : Nat) : Nat := alignUp (n * arrElem bf16) 512

/-- Address of a shard's master array. -/
def Shard.master (sh : Shard) : Nat := sh.base + 0x200
/-- Address of its first moment. -/
def Shard.m1 (sh : Shard) (g : ParamGroup) : Nat := sh.master + arrBytes g.masterBf16 sh.elems
/-- Address of its second moment. -/
def Shard.m2 (sh : Shard) (g : ParamGroup) : Nat := sh.m1 g + arrBytes g.momentBf16 sh.elems
/-- One past its last array. -/
def Shard.endAddr (sh : Shard) (g : ParamGroup) : Nat :=
  sh.m2 g + if g.opt = 0 then 0 else arrBytes g.momentBf16 sh.elems

/-- The stack of a stack-local address range inside its current extent, none otherwise. -/
def State.stackLocal (s : State) (a n : Nat) : Option Nat :=
  match regionOf a with
  | some (.stack st) => if s.inRegion a n then some st else none
  | _ => none

/-- A shard read from its header, and its check: 0, or the check code of R185. Where the spec assigns no code the model
chooses one (log 80): a GRAD or WORK outside the shard's stack is a bad descriptor, 3. -/
def State.readShard (s : State) (g : ParamGroup) (base : Nat) : Shard × Nat :=
  let h := s.mem.read base 512
  let f := fun o n => fieldLe h o n
  let work := TDesc.parse (slice h 0x40 64)
  let grad := TDesc.parse (slice h 0x80 64)
  let sh : Shard :=
    { base := base, elems := f 8 4, masterTag := f 0xC 4, m1Tag := f 0x10 4, m2Tag := f 0x14 4
      hasWork := (f 0x18 4).testBit 0, work := work, grad := grad }
  let st := s.stackLocal base 512
  let code :=
    if f 0x18 4 / 2 ≠ 0 ∨ !allZero (slice h 0x1C 0x24) ∨ !allZero (slice h 0xC0 0x140) ∨ sh.elems = 0 then 1
    else if s.stackLocal base (sh.endAddr g - base) = none then 2
    else if !(grad.legal && (grad.elem == .e4m3 || grad.elem == .e5m2 || grad.elem == .bf16 || grad.elem == .fp32) &&
        grad.jibMode == 0 && grad.rotSize == 0 && grad.elems == sh.elems &&
        s.stackLocal grad.base (grad.endAddr - grad.base) == st) then 3
    else if sh.hasWork && !(work.legal && !work.elem.isInt && work.rows == grad.rows && work.cols == grad.cols &&
        work.batch == grad.batch && s.stackLocal work.base (work.endAddr - work.base) == st &&
        (work.jibMode == 0 || s.stackLocal work.jibBase (work.jibEnd - work.jibBase) == st) &&
        (!work.elem.isNarrowFp || (decide (work.blockRows ≤ 128) && decide (work.rotLen ≤ work.cols)))) then 3
    else if !sh.hasWork && !allZero (slice h 0x40 64) then 1
    else 0
  (sh, code)

/-- A group descriptor and its shards: the group, and 0 or the check code of R185. Of several failing checks the model reports
the first in this order (log 80): the descriptor's fields, a nonzero SHARD_BASE beyond SHARDS among them; the placement; the
shards in turn; the program. -/
def State.readGroup (s : State) (num : Nat) (d : List Byte) : ParamGroup × Nat :=
  let w := fieldLe d 0 4
  let n := bitsOf w 24 20
  let opt := bitsOf w 5 4
  let bases := (List.range 20).map (fun i => fieldLe d (0x20 + 8 * i) 8)
  let prog := (List.range 32).map (fun i =>
    ofLe (s.mem.read (s.rd .seHyperBase [] + 0x800 + 128 * bitsOf w 9 7 + 4 * i) 4))
  let g0 : ParamGroup :=
    { num := num, ratioClass := bitsOf w 19 16, hyperSet := bitsOf w 15 10, opt := opt
      momentBf16 := bitsOf w 3 2 == 1, masterBf16 := bitsOf w 1 0 == 1, custom := bitsOf w 9 7
      program := if opt = 2 then prog else [], shards := [] }
  let shards := (bases.take n).map (fun b => s.readShard g0 b)
  let g := { g0 with shards := shards.map (fun p => p.1) }
  let offs := (bases.take n).map (fun b => s.stackLocal b 512)
  let fields := bitsOf w 30 25 == 0 && !w.testBit 6 && decide (opt < 3) && decide (bitsOf w 3 2 < 2) &&
    decide (bitsOf w 1 0 < 2) && (opt == 2 || bitsOf w 9 7 == 0) && allZero (slice d 4 28) && allZero (slice d 0xC0 64) &&
    decide (1 ≤ n) && decide (n ≤ 20) && bases.all (fun b => within b 48 && b % 512 == 0) &&
    (bases.drop n).all (fun b => b == 0)
  let code :=
    if !fields then 1
    else if offs.any (fun x => x.isNone) || !strictlyRising (offs.map (fun x => x.getD 0)) then 2
    else
      match shards.find? (fun p => p.2 != 0) with
      | some p => p.2
      | none => if opt = 2 && !programOk prog then 4 else 0
  (g, code)

/-- Every byte range that loading a table of valid groups reads: the table, the custom programs named, and the headers. -/
def groupRanges (base hyper : Nat) (gs : List ParamGroup) : List (Nat × Nat) :=
  (base, 1048576) :: (gs.map (fun g =>
    (if g.opt = 2 then [(hyper + 0x800 + 128 * g.custom, 128)] else []) ++ g.shards.map (fun sh => (sh.base, 512)))).flatten

/-- The valid groups of the table, each with its check code. -/
def State.readTable (s : State) : List (ParamGroup × Nat) :=
  let b := s.rd .seGroupTableBase []
  -- a descriptor with no listed byte is all zero, so not VALID
  let nums := ((s.mem.cells b 1048576).map (fun c => (c.1 - b) / 256)).eraseDups
  (nums.filter (fun g => (ofLe (s.mem.read (b + 256 * g) 4)).testBit 31)).map (fun g =>
    s.readGroup g (s.mem.read (b + 256 * g) 256))

/-! The update (R189–R192). -/

/-- One word of a master or moment array, widened (R189). -/
def arrValue (m : Mem) (bf16 : Bool) (a i : Nat) : F32 :=
  if bf16 then BitVec.ofNat 32 (ofLe (m.read (a + 2 * i) 2) * 65536) else BitVec.ofNat 32 (ofLe (m.read (a + 4 * i) 4))

/-- Element position of shard element i in a descriptor (R187). -/
def elemPos (d : TDesc) (i : Nat) : Nat × Nat × Nat := (i / (d.rows * d.cols), i / d.cols % d.rows, i % d.cols)

/-- The gradient value of shard element i (R189). -/
def gradAt (m : Mem) (d : TDesc) (gs : F32) (i : Nat) : F32 :=
  let p := elemPos d i
  let code := elemCode m d p.1 p.2.1 p.2.2
  if d.elem.isNarrowFp then gradValue (elemNum d.elem code) (blockScale m d p.1 p.2.1 p.2.2) d.gscale gs
  else gradValue (elemNum d.elem code) (some (1, 0)) f32One gs

/-- The hyperparameter set of a group in a copied area. -/
def hyperOf (area : List Byte) (set : Nat) : Hyper := Hyper.parse (slice area (32 * set) 32)

/-- The update of shard element i: its old master value and what the optimizer forms (R191, R194). -/
def deltaAt (m : Mem) (g : ParamGroup) (sh : Shard) (h : Hyper) (bias : F32 × F32) (grad : TDesc) (gs : F32) (i : Nat) :
    F32 × Delta :=
  let w := arrValue m g.masterBf16 sh.master i
  let v := if g.opt = 0 then f32Zero else arrValue m g.momentBf16 (sh.m2 g) i
  (w, updateElem g.opt h bias g.program (gradAt m grad gs i) w (arrValue m g.momentBf16 (sh.m1 g) i) v)

/-- Elements of a batch (R283). -/
def batchElems : Nat := 512
/-- The element numbers of batch n of a shard. -/
def Shard.batch (sh : Shard) (n : Nat) : List Nat :=
  (List.range (min batchElems (sh.elems - batchElems * n))).map (fun i => batchElems * n + i)
/-- Batches of a shard. -/
def Shard.batches (sh : Shard) : Nat := ceilDiv sh.elems batchElems

/-- The bytes an element's update stores (R192). -/
def storeElem (g : ParamGroup) (sh : Shard) (seed stepField : Nat) (i : Nat) (r : F32 × Delta) : List (Nat × List Byte) :=
  let w1 := fadd r.1 r.2.dw
  [(sh.master + arrElem g.masterBf16 * i, storeMoment g.masterBf16 seed stepField sh.masterTag i w1),
   (sh.m1 g + arrElem g.momentBf16 * i, storeMoment g.momentBf16 seed stepField sh.m1Tag i r.2.m1)] ++
  if g.opt = 0 then []
  else [(sh.m2 g + arrElem g.momentBf16 * i, storeMoment g.momentBf16 seed stepField sh.m2Tag i r.2.m2)]

/-- The writes of one batch. -/
def State.batchWrites (s : State) (g : ParamGroup) (sh : Shard) (h : Hyper) (bias : F32 × F32) (n : Nat) :
    List (Nat × List Byte) :=
  let grad := s.bindDesc true sh.grad
  ((sh.batch n).map (fun i =>
    storeElem g sh (s.rd .stRunSeed []) (s.rd .stCurrentStep []) i (deltaAt s.mem g sh h bias grad s.gradScale i))).flatten

/-- The words of a batch in an array: address and length. -/
def arrRange (bf16 : Bool) (a lo n : Nat) : Nat × Nat := (a + arrElem bf16 * lo, arrElem bf16 * n)

/-- The array ranges that batch n of a shard reads and writes. -/
def Shard.batchArrays (sh : Shard) (g : ParamGroup) (n : Nat) : List (Nat × Nat) :=
  let len := (sh.batch n).length
  [arrRange g.masterBf16 sh.master (batchElems * n) len, arrRange g.momentBf16 (sh.m1 g) (batchElems * n) len] ++
    if g.opt = 0 then [] else [arrRange g.momentBf16 (sh.m2 g) (batchElems * n) len]

/-- The bolts of the gradient that batch n reads, by matrix and number; none for a tensor that is not in bolts. -/
def Shard.batchBolts (sh : Shard) (n : Nat) : List (Nat × Nat) :=
  if sh.grad.elem.inBolts then
    ((sh.batch n).map (fun i => let p := elemPos sh.grad i; (p.1, (sh.grad.boltElem p.2.1 p.2.2).1))).eraseDups
  else []

/-- The gradient ranges that batch n reads. -/
def Shard.batchGrad (sh : Shard) (n : Nat) : List (Nat × Nat) :=
  if sh.grad.elem.inBolts then (sh.batchBolts n).map (fun p => (sh.grad.boltAddr p.1 p.2, 512))
  else (sh.batch n).map (fun i => let p := elemPos sh.grad i; (sh.grad.wideAddr p.1 p.2.1 p.2.2, sh.grad.elem.bytes))

/-- The bad bolts of what a batch reads (R172, R283). -/
def State.batchBad (s : State) (g : ParamGroup) (sh : Shard) (n : Nat) : List Nat :=
  (((sh.batchArrays g n ++ sh.batchGrad n).map (fun r => s.badBolts r.1 r.2)).flatten).eraseDups

/-- The gradient bolts of a batch that fail R55, with their check codes (R189). -/
def State.batchChecks (s : State) (sh : Shard) (n : Nat) : List (Nat × Nat) :=
  (sh.batchBolts n).filterMap (fun p =>
    let a := sh.grad.boltAddr p.1 p.2
    (boltCheck (s.mem.read a 512) (sh.grad.boltOffset p.1 p.2 % 65536) sh.grad.tag sh.grad.geometry sh.grad.format).map
      (fun c => (a, c)))

/-- The bad bolts of everything a group's update reads (R172). -/
def State.groupBad (s : State) (g : ParamGroup) : List Nat :=
  (g.shards.map (fun sh => s.badBolts sh.base (sh.endAddr g - sh.base) ++
    s.badBolts sh.grad.base (sh.grad.endAddr - sh.grad.base))).flatten

/-- The bolts of a tensor that fail R55, with their check codes; none for a tensor that is not in bolts. -/
def State.tensorChecks (s : State) (d : TDesc) : List (Nat × Nat) :=
  if d.elem.inBolts then
    ((List.range d.batch).map (fun b => (List.range d.bolts).filterMap (fun i =>
      let a := d.boltAddr b i
      (boltCheck (s.mem.read a 512) (d.boltOffset b i % 65536) d.tag d.geometry d.format).map (fun c => (a, c))))).flatten
  else []

/-- Log failing bolts with their check codes (R55). -/
def State.logChecks (s : State) (tag : Nat) (cs : List (Nat × Nat)) : State :=
  cs.foldl (fun s c => s.log 0x01 c.2 c.1 tag 0 0 0) s

/-- The ratio of a group before its update (R169). -/
def State.groupRatio (s : State) (g : ParamGroup) (h : Hyper) (bias : F32 × F32) : F32 :=
  let sums := g.shards.map (fun sh =>
    let grad := s.bindDesc true sh.grad
    let ds := (List.range sh.elems).map (fun i => deltaAt s.mem g sh h bias grad s.gradScale i)
    (vsum (ds.map (fun d => fmul d.1 d.1)), vsum (ds.map (fun d => fmul d.2.dw d.2.dw))))
  let join := fun (ps : List Pair) => total ((ps.drop 1).foldl (fun p q => (mergePair p q).1) (ps.headD Pair.zero))
  updateRatio (join (sums.map (fun p => p.2))) (join (sums.map (fun p => p.1)))

/-- How the update work of a stack reaches memory (R196): from a cluster of its channel while it runs as the update stream,
else by the stack engine. -/
def streamVia (stream : Bool) (st : Nat) : Via := if stream then .iface (st / 5) else .tsv

/-- A stack's part of the work in progress runs as the cluster-based update stream: of the commit, or of the rewrite. -/
def State.inStream (s : State) (st : Nat) : Bool :=
  match s.commit with | some c => c.stream.contains st | none => s.rewriteStream.contains st

/-- The bolts of a working copy that is written anew, as a part of another ring that reads them sees them (R195): each bolt
whole, old or new. -/
def mixBolts (new : Mem) : List Nat → Mem → State → Mem × State
  | [], m, s => (m, s)
  | b :: bs, m, s =>
    if (m.cells b 512).isEmpty then mixBolts new bs m s
    else
      let f := s.freeVal 1
      mixBolts new bs (if f.1 = 0 then m else m.write b (new.read b 512)) f.2

/-- Matrix-vector parts that run while a working copy is written (R195). -/
def State.mixParts (s : State) (bolts : List Nat) : State :=
  s.descs.foldl (fun t d =>
    match d.kind, d.phase with
    | .part _, .running _ =>
      let r := mixBolts t.mem bolts d.read t
      { r.2 with descs := r.2.descs.map (fun x => if x.id = d.id then { x with read := r.1 } else x) }
    | _, _ => t) s

/-- Write a shard's working copy from its stored master values (R192, R199, R432): the new state and the writer's flag
vector, or the status that the write meets, with the stack. -/
def State.writeWork (s : State) (g : ParamGroup) (sh : Shard) (stepField : Nat) (inAttempt : Bool) :
    Except (Status × State) (State × Nat) :=
  let st := stackWindow sh.base
  if !sh.hasWork then .ok (s, 0)
  else
    let d := s.bindDesc inAttempt (sh.work.reefed (s.reefedLayer sh.work.layer))
    let bad := s.badBolts sh.master (arrBytes g.masterBf16 sh.elems) ++
      if d.jibMode = 1 then s.badBolts d.jibBase 512 else []
    if !bad.isEmpty then .error (.memUncorrectable, s.noteBads 0 bad)
    else if d.jibMode = 1 && !jibTableOk d (s.mem.read d.jibBase 512) then
      .error (.faultCheck, s.logChecks 0 [(d.jibBase, 7)])
    else
      let vals := (List.range sh.elems).map (fun i => arrValue s.mem g.masterBf16 sh.master i)
      let o := writeTensor vals d (bandCtx d (s.rd .stRunSeed []) stepField 0)
        (if d.jibMode = 1 then jibChannels s.mem d else [])
      let via := streamVia (s.inStream st) st
      let s := s.readTraffic via sh.master (arrBytes g.masterBf16 sh.elems)
      let r := s.writeMems via 0 o.writes
      if r.2.isEmpty then .ok (r.1.mixParts ((o.writes.map (fun w => boltsOf w.1 w.2.length)).flatten), flagVector o.events) else .error (.memUncorrectable, r.1)

/-- The working copies of the shards in turn, their flag vectors joined; of a failure, the shard's stack too. -/
def State.writeWorks (s : State) (g : ParamGroup) (stepField : Nat) (inAttempt : Bool) :
    List Shard → Except (Status × State × Nat) (State × Nat)
  | [] => .ok (s, 0)
  | sh :: t =>
    match s.writeWork g sh stepField inAttempt with
    | .error e => .error (e.1, e.2, stackWindow sh.base)
    | .ok (s, v) => (s.writeWorks g stepField inAttempt t).map (fun r => (r.1, r.2 ||| v))

/-- The shards of layers, group by group, that a reef rewrite covers (R199). -/
def State.rewriteShards (s : State) (layers : List Nat) : List (ParamGroup × Shard) :=
  (s.groups.map (fun g => (g.shards.filter (fun sh => sh.hasWork && layers.contains sh.work.layer)).map
    (fun sh => (g, sh)))).flatten

/-- The working copies of shards become undefined: a rewrite of them has failed (R199). -/
def State.spoilWorks (s : State) (l : List (ParamGroup × Shard)) : State :=
  s.spoilTensors (l.map (fun p => p.2.work.reefed (s.reefedLayer p.2.work.layer)))

/-- A fault that stops a stack engine's work stands in its LAST_FAULT (R211), with the group that was being committed, 0xFFF
outside a commit. -/
def State.engineFault (s : State) (st : Nat) (e : Status) (group : Nat) : State :=
  if 20 ≤ st then s
  else ((s.wr .engValid [st / 5, st % 5] 1).wr .engStatus [st / 5, st % 5] e.code).wr .engGroup [st / 5, st % 5] group

/-- Rewrite working copies one by one, also after one that fails: the state, and the shards that failed with their status
(R199). -/
def State.rewriteAll (s : State) (stepField : Nat) (inAttempt : Bool) :
    List (ParamGroup × Shard) → State × List (Shard × Status)
  | [] => (s, [])
  | p :: t =>
    match s.writeWork p.1 p.2 stepField inAttempt with
    | .error e =>
      let st := stackWindow p.2.base
      let s := if s.inStream st then e.2 else e.2.engineFault st e.1 0xFFF
      let r := s.rewriteAll stepField inAttempt t
      (r.1, (p.2, e.1) :: r.2)
    | .ok r => r.1.rewriteAll stepField inAttempt t

/-- The group digest (R208): none when a read meets an uncorrectable error. -/
def State.groupDigest (s : State) (g : ParamGroup) : Option (List Byte) :=
  let rs := g.shards.map (fun sh => (sh.base, sh.endAddr g - sh.base))
  if rs.any (fun r => !(s.badBolts r.1 r.2).isEmpty) then none
  else some (digest256 (leBytes 2 g.num ++ leBytes 1 g.shards.length ++
    (rs.map (fun r => rangeDigest (s.mem.read r.1 r.2))).flatten))

end Sys2Proof.Machine
end

