-- ==== Sys2Proof/Machine/ShroudSend.lean ====
section
/-! DEFINITION. The source of a shroud copy: the image, its digests and manifest, and the cells it sends (R304, R305,
R310–R312, R314, R317, R318, R323). -/

namespace Sys2Proof.Machine

/-! Cells (R323). -/

/-- SHROUD_PATH of stack st. -/
def State.shroudPath (s : State) (st : Nat) : Nat :=
  let w := if st < 8 then s.rd .shrShroudPathA [] else if st < 16 then s.rd .shrShroudPathB [] else s.rd .shrShroudPathC []
  w / 16 ^ (st % 8) % 16

/-- The body of a SHROUD cell: sub-header and content. -/
def shroudBody (msg slot stack part bolt sourceId : Nat) (content : List Byte) : List Byte :=
  leBytes 1 msg ++ leBytes 1 slot ++ leBytes 1 stack ++ leBytes 1 part ++ leBytes 4 bolt ++ leBytes 8 sourceId ++ content

/-- Send a SHROUD cell by the route table. -/
def State.sendShroud (s : State) (dest msg slot stack part bolt sourceId : Nat) (content : List Byte) : State :=
  s.sendCell 2 dest 4 0 (shroudBody msg slot stack part bolt sourceId content)

/-- Send a source's cell for a stack: on the port of SHROUD_PATH when it names one. -/
def State.sendForStack (s : State) (dest msg slot stack part bolt : Nat) (content : List Byte) : State :=
  let body := shroudBody msg slot stack part bolt Config.moduleId.toNat content
  let p := s.shroudPath stack
  if p < 12 then
    s.queueCell p 2 (cellBytes { dest := dest, src := s.rd .grpNode [], kind := 4, stream := 0, body := body })
  else s.sendCell 2 dest 4 0 body

/-- A SHROUD report (R400): 1 abandoned, 2 holder lost, 3 forced, 4 state. -/
def State.reportShroud (s : State) (event cause step : Nat) : State :=
  s.report 0x04 (leBytes 1 event ++ leBytes 1 cause ++ leBytes 1 (s.rd .shrSrcState []) ++ zeros 1 ++
    leBytes 2 (s.rd .shrHolderNode []) ++ zeros 2 ++ leBytes 8 step)

/-- SRC_STATE becomes a value; a change is reported. -/
def State.setSrcState (s : State) (v : Nat) : State :=
  if s.rd .shrSrcState [] = v then s else (s.wr .shrSrcState [] v).reportShroud 4 0 0

/-! The image (R304, R305). -/

/-- The stack whose stack-local region holds STATE_BASE. -/
def State.stateStack (s : State) : Option Nat :=
  match regionOf (s.rd .stStateBase []) with
  | some (.stack st) => if s.rd .stStateBase [] = 0 then none else some st
  | _ => none

/-- The shards on a stack, in ascending group number. -/
def State.imageShards (s : State) (st : Nat) : List (ParamGroup × Shard) :=
  (s.groups.map (fun g => (g.shards.filter (fun sh => stackWindow sh.base == st)).map (fun sh => (g, sh)))).flatten

/-- The byte ranges of a stack's image: its shards, then the step-state copy. -/
def State.imageRanges (s : State) (st : Nat) : List (Nat × Nat) :=
  (s.imageShards st).map (fun p => (p.2.base, p.2.endAddr p.1 - p.2.base)) ++
  (if s.stateStack = some st then [(s.liveCopy.1, copyBytes)] else [])

/-- Length of a stack's image in bolts. -/
def State.imageBolts (s : State) (st : Nat) : Nat := ((s.imageRanges st).map (fun r => r.2)).foldl (· + ·) 0 / 512

/-- The bolts of a list of ranges, by address. -/
def rangeBolts (rs : List (Nat × Nat)) : List Nat := (rs.map (fun r => (List.range (r.2 / 512)).map (fun i => r.1 + 512 * i))).flatten

/-- The device address of each image bolt of a stack. -/
def State.imageAddrs (s : State) (st : Nat) : List Nat := rangeBolts (s.imageRanges st)

/-- IMAGE_BOLTS is computed anew (R305). -/
def State.computeImage (s : State) : State :=
  (List.range 20).foldl (fun s st => s.wr .shrAreaImageBolts [st] (s.imageBolts st)) s

/-- Image bolts of stacks 0–19. -/
def State.imageCounts (s : State) : List Nat := (List.range 20).map (fun st => s.rd .shrAreaImageBolts [st])

/-! Digests and manifest (R317, R318). -/

/-- Shard digest j of a stack over its image bolts. -/
def shardDigest (st j : Nat) (bolts : List (List Byte)) : List Byte :=
  digest256 (leBytes 4 st ++ leBytes 4 j ++ ((bolts.zipIdx.filter (fun p => p.2 % 32 == j)).map (fun p => p.1)).flatten)
/-- The 32 shard digests of a stack. -/
def shardDigests (st : Nat) (bolts : List (List Byte)) : List (List Byte) := (List.range 32).map (fun j => shardDigest st j bolts)
/-- The stack digest. -/
def stackDigest (st n : Nat) (shards : List (List Byte)) : List Byte := digest256 (leBytes 4 st ++ leBytes 4 n ++ shards.flatten)

/-- The manifest of a copy. -/
def State.manifest (s : State) (c : CopySt) (digests : List (List Byte)) : List Byte :=
  let m := leBytes 4 0x44524853 ++ leBytes 2 1 ++ leBytes 1 (s.rd .devNe []) ++ leBytes 1 (s.rd .shrSign []) ++
    leBytes 8 Config.moduleId.toNat ++ leBytes 8 c.step ++ s.mem.read (s.liveCopy.1 + 8) 8 ++
    leBytes 8 (s.rd .grpEpoch []) ++ leBytes 2 (s.rd .grpNode []) ++ leBytes 1 Config.feedId.val ++ zeros 5 ++
    leBytes 32 c.cursor ++ digest256 (s.groupTable.read 0 1048576) ++
    (s.imageCounts.map (leBytes 4)).flatten ++ digests.flatten ++ zeros 160
  m ++ digest256 m

/-! The copy (R310–R312). -/

/-- The key of image bolt i of stack st. -/
def imageKey (st i : Nat) : Nat := st * 2 ^ 32 + i

/-- Send one image bolt of the copy as two DATA cells, once; the bytes that leave are those that its digests cover (R311). -/
def State.sendBolt (s : State) (st i a : Nat) : State :=
  match s.copy with
  | none => s
  | some c =>
    if (Tab.find c.images (imageKey st i)).isSome then s
    else
      let bs := s.mem.read a 512
      let s := { s with copy := some { c with images := Tab.put c.images (imageKey st i) bs } }
      (s.sendForStack c.holder 0x03 c.slot st 0 i (bs.take 256)).sendForStack c.holder 0x03 c.slot st 1 i (bs.drop 256)

/-- Send the image bolts of a stack that satisfy a test on their address. -/
def State.sendStack (s : State) (st : Nat) (p : Nat → Bool) : State :=
  if (s.copy.map (fun c => c.accepted)).getD false then
    ((s.imageAddrs st).zipIdx.filter (fun e => p e.1)).foldl (fun s e => s.sendBolt st e.2 e.1) s
  else s

/-- A copy that a copying commit makes is open: its bolts leave as they are written (R311 step 2). -/
def State.copying (s : State) : Bool := match s.copy with | some c => c.accepted && c.pid.isNone && !c.sent | none => false

/-- The bolts of a shard's arrays that a batch has completed leave as they are written: those that lie in
what it wrote (R311 step 2). -/
def State.sendWritten (s : State) (sh : Shard) (rs : List (Nat × Nat)) : State :=
  if s.copying then
    s.sendStack (stackWindow sh.base) (fun a => rs.any (fun r => decide (r.1 ≤ a) && decide (a + 512 ≤ r.1 + r.2)))
  else s

/-- What is left of a group's shards leaves in a copying commit (R311 steps 2 and 3). -/
def State.sendGroupBolts (s : State) (g : ParamGroup) : State :=
  if s.copying then
    g.shards.foldl (fun s sh => s.sendStack (stackWindow sh.base) (fun a => decide (sh.base ≤ a) && decide (a < sh.endAddr g))) s
  else s

/-- The image bolts of a stack as they were sent. -/
def State.sentBolts (s : State) (c : CopySt) (st : Nat) : List (List Byte) :=
  (List.range (s.rd .shrAreaImageBolts [st])).map (fun i => Tab.get [] c.images (imageKey st i))

/-- The end of a copy (R311 steps 5 and 6): the shard digests of each stack, the manifest, and the manifest to sign. -/
def State.sendDigests (s : State) : State :=
  match s.copy with
  | none => s
  | some c =>
    if !c.accepted then s
    else
      let sums := (List.range 20).map (fun st => shardDigests st (s.sentBolts c st))
      let m := s.manifest c (sums.zipIdx.map (fun p => stackDigest p.2 (s.rd .shrAreaImageBolts [p.2]) p.1))
      let s := sums.zipIdx.foldl (fun s p =>
        (List.range 4).foldl (fun s q => s.sendForStack c.holder 0x04 c.slot p.2 q 0 ((p.1.drop (8 * q)).take 8).flatten) s) s
      let s := (List.range 4).foldl (fun s q => s.sendForStack c.holder 0x05 c.slot 0 q 0 (slice m (256 * q) 256)) s
      { s with copy := some { c with sent := true }
               signing := s.signing ++ if s.flag .shrSign [] then [{ holder := c.holder, slot := c.slot, manifest := m }] else [] }

/-- The step-state bolts and the end of the copy, once the commit has written the step-state copy (R311 step 4). -/
def State.sendCopyEnd (s : State) : State :=
  match s.copy, s.stateStack with
  | some c, some st =>
    if c.accepted ∧ c.pid.isNone ∧ !c.sent then
      (s.sendStack st (fun a => decide (s.liveCopy.1 ≤ a) && decide (a < s.liveCopy.1 + copyBytes))).sendDigests
    else s
  | _, _ => s

/-- A copy is abandoned: counted with its cause and reported (R312, R314). -/
def State.countAbandon (s : State) (cause step : Nat) : State :=
  ((s.count .shrCopiesAbandoned [] 1).wr .shrLastAbandon [] cause).reportShroud 1 cause step

/-- HELLO of a copy (R311 step 1). -/
def State.sendHello (s : State) (holder step : Nat) : State :=
  s.sendShroud holder 0x01 0 0 0 0 Config.moduleId.toNat ((s.imageCounts.map (leBytes 4)).flatten ++ leBytes 8 step)

/-- INTERVAL of the risk level in force. -/
def State.interval (s : State) : Nat :=
  match s.rd .intRisk [] with
  | 0 => s.rd .shrInterval0 [] | 1 => s.rd .shrInterval1 [] | 2 => s.rd .shrInterval2 [] | _ => s.rd .shrInterval3 []

/-- The commit that starts is a copying commit (R310, R322). -/
def State.copyingCommit (s : State) : Bool :=
  s.flag .shrEnable [] && s.rd .shrSrcState [] == 2 &&
  (s.copyDue || decide (s.interval ≤ s.rd .shrCommitsSince [] + 1))

/-- Begin a copy: HELLO to the holder, or abandoned at once when STATE_BASE lies outside every stack-local region
(R305, R311, R314). The Boolean says that a copy waits for ACCEPT. A copy whose cells have all been sent goes on waiting for
its COMPLETE beside it. -/
def State.beginCopy (s : State) (pid : Option Nat) (step : Nat) : State × Bool :=
  let s := { s with copyDue := false }
  if s.stateStack.isNone then (s.countAbandon 3 step, false)
  else
    let c : CopySt :=
      { pid := pid, holder := s.rd .shrHolderNode [], slot := 0, step := step
        cursor := if pid.isSome then s.rd .shrCursor [] else s.cursor
        accepted := false, sent := false, progress := s.aoNow, images := [] }
    let was := match s.copy with | some w => s.copyWas ++ [w] | none => s.copyWas
    ({ s with copy := some c, copyWas := was }.sendHello c.holder step, true)

/-- Bytes of shroud cells of a stack that wait for credit (R312). -/
def State.shroudBacklog (s : State) (st : Nat) : Nat :=
  (List.range 12).foldl (fun n p =>
    (s.port p).waiting.foldl (fun n c =>
      if c.1 = 2 ∧ (c.2.getD 10 0).toNat = st then n + c.2.length else n) n) 0

end Sys2Proof.Machine
end

