-- ==== Sys2Proof/Machine/StepOps.lean ====
section
/-! DEFINITION. Steps: attempts, reef changes, the close and its verdict, the commit phase, step records and counter
snapshots (R139, R142, R147–R181, R199, R369). -/

namespace Sys2Proof.Machine

/-! Reefs (R140, R142, R199). -/

/-- Layers whose bit in REEF_STATE is 1. -/
def State.reefState (s : State) : List Nat :=
  ((List.range 128).map (fun w =>
    let v := s.rd .olReefState [w]
    if v = 0 then [] else ((List.range 32).filter (fun i => v.testBit i)).map (fun i => 32 * w + i))).flatten

/-- Set or clear a layer's bit in REEF_STATE. -/
def State.setReef (on : Bool) (s : State) (layer : Nat) : State :=
  let w := layer / 32
  let v := s.rd .olReefState [w]
  let b := 2 ^ (layer % 32)
  if v.testBit (layer % 32) = on then s else s.wr .olReefState [w] (if on then v + b else v - b)

/-- A stack's engine may run update work (R184, R196): its STATE is READY, BUSY or OFF, and FORCE_CLUSTER is 0. -/
def State.enginePath (s : State) (st : Nat) : Bool :=
  !s.fenced (56 + st) && !s.flag .unitTesting [56 + st] && s.rd .stkTstate [st] != 2 && !(s.att .seForceCluster [] == 1)

/-- The stacks that hold shards of a list. -/
def stacksOf (shards : List Shard) : List Nat := (shards.map (fun sh => stackWindow sh.base)).eraseDups

/-- The engines of stacks wake for update work, but where the update stream runs it (R184). -/
def State.wakeEngines (s : State) (stream sts : List Nat) : State :=
  (sts.filter (fun st => !stream.contains st)).foldl (fun s st => s.wake (56 + st)) s

/-- The stacks without an available engine: their part of a commit phase or a rewrite runs as the cluster-based update
stream (R196, R199). -/
def State.streamStacks (s : State) : List Nat := (List.range 20).filter (fun st => !s.enginePath st)

/-- REEF_STATE takes effect (R142): every layer that changes gets its working copies rewritten. Every pending bit comes into
force, also one that the device set at a close and that a host write outside a step finds still pending (log 76). A rewrite
that begins chooses its path for each stack (R196, R199). -/
def State.applyReef (s : State) : State :=
  let want := s.reefState
  let changed := (want.filter (fun l => !s.reef.contains l)) ++ (s.reef.filter (fun l => !want.contains l))
  let todo := (s.rewrites ++ s.rewritesDue ++ changed).eraseDups
  let stream := if s.rewrites.isEmpty then s.streamStacks else s.rewriteStream
  let shards := (s.rewriteShards todo).map (fun (p : ParamGroup × Shard) => p.2)
  State.wakeEngines { s with reef := want, rewrites := todo, rewritesDue := [], rewriteStream := stream } stream (stacksOf shards)

/-- Update work of a stack may go on (R183, R184): the stack is not held, and its engine runs, or the update stream has the
slice's banks. -/
def State.workReady (s : State) (st : Nat) : Bool :=
  !s.stackHeld st && (if s.inStream st then !s.flag .arbFreeze [20 + st / 5] else s.rd .domDstate [56 + st] == 2)

/-- Update work of every shard of a list may go on. -/
def State.shardsReady (s : State) (shards : List Shard) : Bool := (stacksOf shards).all s.workReady

/-! Attempts (R150). -/

/-- A step with nothing done yet. -/
def StepSt.start (ring beginPid beginSlot nextSlot : Nat) (group : Bool) (budget : Nat) (hyper : List Byte) : StepSt :=
  { ring := ring, beginPid := beginPid, beginSlot := beginSlot, nextSlot := nextSlot, group := group, budget := budget
    aoBegin := 0, epoch := 0, collSeq := 0, orderFp := 0, latched := [], gs := f32One, hyper := hyper, attScale := []
    amax := [], pastAmax := [], doublings := [], overflow := [], feeds := [], reasons := 0, ops := []
    firstFault := none, replayOps := 0, logStart := 0, endPid := none, lossAddr := 0, digest := false, loss := none
    lossFault := none, verdict := none, deadline := 0, collEntries := [], groups := [], digests := []
    rewriteFault := none, stopped := false, resetWaits := false }

/-- The attempt scales of the enabled entries (R150 step 4, R165): SCALE, or in a further attempt the scale of the LEN
committed values together with every amax of the earlier attempts. -/
def State.attemptScales (s : State) (past : Tab (List F32)) : Tab F32 :=
  (enabledEntries s.regs).map (fun e =>
    (e, match Tab.find past e with
      | some l =>
        (scaleFrom (targetOf s.regs e) ((historyAt s.mem s.liveCopy.1 e).take (lenOf s.regs e) ++ l)).getD (s.committedScale e)
      | none => s.committedScale e))

/-- An attempt starts (R150): ATTEMPT, the latched fields, what it records, the attempt scales, the tokens' starting
values, and the reefs that take effect now. -/
def State.startAttempt (s : State) (n : Nat) : State :=
  match s.step with
  | none => s
  | some t =>
    let s := ((s.wr .stAttempt [] n).wr .stState [] 1).applyReef
    let s := (List.range 4).foldl (fun s c => s.countEvent c 0x49 1) s
    let s := (enabledMonitors s.regs).foldl (fun s i => ((s.wr .monJump [i] 0).wr .monMissing [i] 0).wr .monExtra [i] 0) s
    let seq := if n = 1 then s.rd .collCollSeq [] else t.collSeq
    let t' : StepSt :=
      { StepSt.start t.ring t.beginPid t.beginSlot t.nextSlot t.group t.budget t.hyper with
        aoBegin := s.aoNow, epoch := s.rd .grpEpoch [], collSeq := seq, orderFp := s.rd .grpOrderFp []
        latched := s.regs, gs := BitVec.ofNat 32 (s.rd .stGradScale []), pastAmax := t.pastAmax
        attScale := s.attemptScales (if n = 1 then [] else t.pastAmax)
        doublings := t.doublings, logStart := s.rd .intIlogWritten [] }
    ({ s.wr .collCollSeq [] seq with step := some t', tokBase := s.tokens, reserved := [] }).dropStale

/-! Reasons (R155). -/

/-- Raise reasons of the open attempt. -/
def State.raise (s : State) (bits : Nat) : State :=
  { s with step := s.step.map (fun t => { t with reasons := t.reasons ||| bits }) }

/-- The reasons that the flags of a product, write or collective raise (R155). -/
def flagReasons (backward : Bool) (v : Nat) : Nat :=
  let f := fun i => v.testBit i
  let nonfinite := f 0 || f 1 || f 2
  (if backward then (if nonfinite || f 3 || f 7 then 2 ^ 5 else 0)
   else (if nonfinite then 2 ^ 2 else 0) + (if f 3 then 2 ^ 3 else 0) + (if f 7 then 2 ^ 4 else 0)) +
  (if f 4 then 2 ^ 6 else 0) + (if f 5 then 2 ^ 7 else 0)

/-- The policy code of a reason whose field is number k of NUM_POLICY. -/
def policyOf (num k : Nat) : Nat := num / 4 ^ k % 4

/-- The action of each reason raised: 0 none, 1 REPLAY_STEP, 2 SKIP, 3 FAULT (R155); OUTLIER and BUDGET_SPENT are
judged by R156. -/
def reasonAction (num i : Nat) : Nat :=
  match i with
  | 0 => 3 | 1 => 3
  | 2 => policyOf num 0 | 3 => policyOf num 1 | 4 => policyOf num 2 | 5 => policyOf num 3
  | 6 => policyOf num 4 | 7 => policyOf num 5 | 8 => policyOf num 6
  | 10 => 1 | 11 => 2 | 12 => 3 | 13 => policyOf num 7 | 14 => 2
  | _ => 0

/-- The actions of a reason vector. -/
def actionsOf (num reasons : Nat) : List Nat :=
  ((List.range 16).filter (fun i => reasons.testBit i)).map (reasonAction num)

/-- The outlier policy at the close (R139): doublings for the next attempt, layers to reef, and whether it asks for
REPLAY. -/
structure OutlierPlan where
  doublings : List Nat
  reefs : List Nat
  replay : Bool
  deriving DecidableEq, Repr, Inhabited

/-- The plan for the attempt's overflowing tensors. -/
def State.outlierPlan (s : State) (t : StepSt) : OutlierPlan :=
  let mode := s.att .olMode []
  let cap := s.att .olDoublings []
  let widen := fun (o : Nat × Nat × Nat × Nat) =>
    let d := Tab.get 0 t.doublings o.1
    mode == 1 && decide (d < cap) && decide (o.2.2.1 * 2 ^ d < o.2.2.2)
  if mode = 0 then { doublings := [], reefs := [], replay := false }
  else
    let grow := t.overflow.filter widen
    let rest := t.overflow.filter (fun o => !widen o)
    let fresh := fun (l : List (Nat × Nat × Nat × Nat)) =>
      ((l.map (fun o => o.2.1)).filter (fun x => x != 0xFFFF && !(s.reefState.contains x) && decide (x < 4096))).eraseDups
    let want := !grow.isEmpty || !(fresh rest).isEmpty
    if want && decide (1 ≤ t.budget) then
      { doublings := (grow.map (fun o => o.1)).eraseDups, reefs := fresh rest, replay := true }
    else { doublings := [], reefs := fresh t.overflow, replay := false }

/-- The local verdict (R156): 0 COMMIT, 1 REPLAY, 2 SKIP, 3 FAULT, and BUDGET_SPENT when it is added. -/
def localVerdict (num reasons budget : Nat) (outlierReplay : Bool) : Nat × Bool :=
  let acts := actionsOf num reasons
  if acts.contains 3 then (3, false)
  else if acts.contains 2 then (2, false)
  else if (acts.contains 1 || outlierReplay) && decide (1 ≤ budget) then (1, false)
  else if acts.contains 1 then (2, true)
  else (0, false)

/-! Counter snapshots (R369). -/

/-- A 1 KiB snapshot: source 0 for a step record, 1 for COUNTER_SNAPSHOT. -/
def State.snapshot (s : State) (source : Nat) : List Byte :=
  let fixed := fun e => ((List.range 192).map (fun k => s.rd .fixFixed [k / 48, k % 48, e])).foldl (· + ·) 0
  leBytes 8 s.aoNow ++ leBytes 2 1 ++ leBytes 1 source ++ zeros 5 ++
  ((List.range 4).map (fun c => leBytes 8 (s.cycleNow c))).flatten ++
  ((List.range 4).map (fun c => leBytes 8 (s.rd .sampSamplesWritten [c]))).flatten ++ zeros 48 ++
  ((List.range 48).map (fun e => leBytes 8 (fixed e))).flatten ++
  ((List.range 4).map (fun c => ((List.range 16).map (fun i => leBytes 8 (s.rd .progValue [c, i]))).flatten)).flatten

/-! Step records (R174, R175). -/

/-- 16 bytes of a position. -/
def posBytes (p : Pos) : List Byte := leBytes 4 p.matrix ++ leBytes 4 p.row ++ leBytes 4 p.col ++ leBytes 4 p.kblock

/-- COUNT of a flag in a set. -/
def FlagSet.countOf (t : FlagSet) (f : Nat) : Nat := ((Tab.find t f).map (fun x => x.count)).getD 0
/-- First position of a flag; zero when it has no event. -/
def FlagSet.firstOf (t : FlagSet) (f : Nat) : Pos := ((Tab.find t f).map (fun x => x.first)).getD default

/-- Operations of the attempt in fetch order. -/
def sortOps (ops : List OpEntry) : List OpEntry :=
  ops.foldl (fun l o => (l.takeWhile (fun x => decide (x.pid < o.pid))) ++ o :: (l.dropWhile (fun x => decide (x.pid < o.pid)))) []

/-- FLAG[f] of the fixed part. -/
def flagTotal (ops : List OpEntry) (f : Nat) : List Byte :=
  let n := ops.foldl (fun n o => satAdd 32 n (FlagSet.countOf o.flags f)) 0
  match ops.find? (fun o => FlagSet.countOf o.flags f != 0) with
  | some o => leBytes 4 n ++ leBytes 4 o.tag ++ posBytes (FlagSet.firstOf o.flags f) ++ zeros 8
  | none => zeros 32

/-- An entry of the variable area (R175). -/
def varEntry (type : Nat) (content : List Byte) : List Byte :=
  leBytes 2 type ++ leBytes 2 (content.length + 8) ++ zeros 4 ++ content

/-- An OPERATION entry. -/
def opEntryBytes (o : OpEntry) : List Byte :=
  varEntry 1 (leBytes 4 o.tag ++ leBytes 1 o.shape ++ leBytes 1 (FlagSet.vector o.flags) ++ zeros 2 ++
    ((List.range 8).map (fun f => leBytes 4 (FlagSet.countOf o.flags f))).flatten ++
    ((List.range 8).map (fun f => posBytes (FlagSet.firstOf o.flags f))).flatten)

/-- An INTEGRITY entry (R301). -/
def integrityEntry (e : LogEntry) : List Byte :=
  varEntry 6 (leBytes 8 e.seq ++ leBytes 1 e.type ++ leBytes 1 e.code ++ leBytes 2 (e.uclass * 4096 + e.uindex % 4096) ++
    leBytes 4 e.tag ++ leBytes 8 (e.addr % 2 ^ 48))

/-- Take the entries that fit, in order; the Boolean says whether later ones were dropped (R174). -/
def fitEntries : List (List Byte) → Nat → List (List Byte) × Bool
  | [], _ => ([], false)
  | e :: es, room =>
    if e.length ≤ room then let r := fitEntries es (room - e.length); (e :: r.1, r.2) else ([], true)

/-- A bit vector of 256 bits from the monitors that satisfy a test. -/
def monitorBits (p : Nat → Bool) : Nat := ((List.range 256).filter p).foldl (fun n i => n + 2 ^ i) 0

/-- What the record of a close states besides the attempt's own data. -/
structure CloseInfo where
  verdict : Nat
  reasons : Nat
  commitStatus : Nat
  final : Bool
  gs : F32
  clean : Nat
  deriving DecidableEq, Repr, Inhabited

/-- COLLECTIVE entries in the order of their packets' fetch (R279). -/
def sortColls (es : List (Nat × List Byte)) : List (List Byte) :=
  (es.foldl (fun l e =>
    (l.takeWhile (fun x => decide (x.1 ≤ e.1))) ++ e :: (l.dropWhile (fun x => decide (x.1 ≤ e.1)))) ([] : List (Nat × List Byte))).map
    (fun e => e.2)

/-- The bytes of a step record with sequence number `seq`, within `room` bytes (R174, R175). SCALE entries stand for the
enabled scale-history entries that received an amax, TELLTALE entries for the monitors that were fed, and COMMIT_DONE is 0
in a record without a commit phase: the spec leaves these open (log 78). -/
def State.recordBytes (s : State) (t : StepSt) (c : CloseInfo) (seq room : Nat) : List Byte :=
  let ops := sortOps t.ops
  let log := s.ilog.filter (fun e => decide (t.logStart < e.seq))
  let mons := enabledMonitors t.latched
  let fed := fun i => (Tab.find t.feeds i).isSome
  let scales := (enabledEntries t.latched).filter (fun e => (Tab.find t.amax e).isSome)
  let entries :=
    ops.map opEntryBytes ++
    scales.map (fun e => varEntry 2 (leBytes 4 (Tab.get 0 t.latched (Reg.shTag.key [e])) ++ leBytes 2 e ++ zeros 2 ++
      leBytes 4 (s.attemptScale e).toNat ++ leBytes 4 (Tab.get f32Zero t.amax e).toNat)) ++
    (t.feeds.map (fun p => varEntry 3 (leBytes 2 p.1 ++ leBytes 1 p.2.policy ++ zeros 1 ++ leBytes 4 p.2.n.toNat ++
      leBytes 4 p.2.q.toNat ++ zeros 4))) ++
    t.groups.map (fun g => varEntry 4 (leBytes 2 g.group ++ leBytes 1 g.status ++ leBytes 1 g.flags ++ leBytes 4 g.ratio.toNat)) ++
    t.digests.map (fun d => varEntry 5 (leBytes 2 d.1 ++ zeros 6 ++ d.2)) ++
    log.map integrityEntry ++ (sortColls t.collEntries).map (varEntry 7)
  let v := fitEntries entries (room - 0x1000)
  let area := v.1.flatten
  let w18 := c.reasons % 65536 * 65536 + c.verdict % 4 * 2 ^ 14 + c.commitStatus % 4 * 2 ^ 12 + b2n c.final * 2 ^ 11 +
    b2n v.2 * 2 ^ 10 + b2n t.group * 2 ^ 9 + s.rd .shrForced [] * 2 ^ 8 + s.rd .stAttempt [] % 256
  let word := fun (o : Nat) =>
    -- a latched word of the step-control block, assembled from its fields
    match o with
    | 0x40 => s.att .stReplayBudget [] * 65536 + s.att .stNumPolicy []
    | 0x800 => s.att .olDoublings [] * 4 + s.att .olMode []
    | 0x80 => t.gs.toNat
    | 0x88 => s.att .stGsBackoff [] | 0x8C => s.att .stGsInterval [] | 0x90 => Tab.get 0 t.latched (Reg.stGsClean.key [])
    | 0x94 => s.att .stGsMin [] | 0x98 => s.att .stGsMax [] | _ => 0
  let fixed :=
    leBytes 8 (2 ^ 48 + area.length) ++ leBytes 8 (s.rd .stCurrentStep []) ++ leBytes 8 seq ++ leBytes 4 w18 ++
    leBytes 4 (s.rd .devNe []) ++ leBytes 8 t.aoBegin ++ leBytes 8 s.aoNow ++ leBytes 16 (s.rd .stRunSeed []) ++
    leBytes 8 t.epoch ++ leBytes 8 t.collSeq ++ leBytes 16 t.orderFp ++ leBytes 4 t.gs.toNat ++ leBytes 4 c.gs.toNat ++
    leBytes 4 c.clean ++ leBytes 4 ((t.loss.getD f32Zero).toNat) ++
    leBytes 4 (b2n t.loss.isSome * 65536 + (if c.commitStatus = 0 then 0 else s.rd .stDone [])) ++
    leBytes 4 (s.rd .intIlogWritten [] - t.logStart) ++
    leBytes 4 (v.1.filter (fun e => fieldLe e 0 2 == 1)).length ++ leBytes 4 t.replayOps ++
    ((List.range 8).map (flagTotal ops)).flatten ++
    ((List.range 128).map (fun w => leBytes 4
      (((s.reef.filter (fun l => l / 32 == w)).foldl (fun n l => n + 2 ^ (l % 32)) 0)))).flatten ++
    leBytes 32 (monitorBits (fun i => ((Tab.find t.feeds i).map (fun f => f.jump)).getD false)) ++
    leBytes 32 (monitorBits (fun i => mons.contains i && !fed i)) ++
    leBytes 32 (monitorBits (fun i => ((Tab.find t.feeds i).map (fun f => f.resolved)).getD false)) ++ zeros 32 ++
    ((List.range 256).map (fun i => leBytes 4 (((Tab.find t.feeds i).map (fun f => f.n.toNat)).getD 0))).flatten ++
    s.snapshot 0 ++
    ((([0x40, 0x80, 0x84, 0x88, 0x8C, 0x90, 0x94, 0x98, 0x800] : List Nat)).map (fun o => leBytes 4 (word o))).flatten
  fixed ++ zeros (0x1000 - fixed.length) ++ area

/-- Write the attempt's step record (R174): a record whose slot lies outside every region is lost, counted and
logged. -/
def State.writeStepRecord (s : State) (c : CloseInfo) : State :=
  match s.step with
  | none => s
  | some t =>
    let seq := s.rd .stRecordsWritten [] + 1
    let size := s.att .stSlotKib [] * 1024
    let a := s.rd .stRecordBase [] + size * ((seq - 1) % max 1 (s.rd .stSlots []))
    let bs := s.recordBytes t c seq size
    let s := s.wr .stRecordsWritten [] seq
    if s.inRegion a size then (s.writeMem (s.viaHome a) 0 a bs).1 else s.log 0x0E 0 a 0 0 0 0

/-! The close (R152, R153, R158). -/

/-- The detail of a STEP_END record (R158). -/
def stepEndDetail (reasons attempt verdict : Nat) : Nat := reasons % 65536 + attempt % 256 * 2 ^ 16 + verdict % 4 * 2 ^ 24

/-- The step closes for good (R152 step 8): NEXT_STEP, IDLE, and the ring's slots are consumed. -/
def State.leaveStep (s : State) : State :=
  match s.step with
  | none => s
  | some t =>
    let s := (s.wr .stNextStep [] (s.rd .stCurrentStep [] + 1)).wr .stState [] 0
    let s := { s with step := none, commit := none }
    s.wr .ringRingHead [t.ring] (s.rd .ringRingFetched [t.ring])

/-- End STEP_END with a status: its record is written or waits for room (R349). -/
def State.endStepEnd (s : State) (st : Status) (reasons verdict : Nat) : State :=
  match s.step.bind (fun t => t.endPid) with
  | none => s
  | some pid => (s.endPacket pid st (stepEndDetail reasons (s.rd .stAttempt []) verdict)).finishPacket pid

/-- The device ranges that a close reads and writes: the loss, the step-state area, and the record's slot. -/
def State.closeRanges (s : State) : List (Nat × Nat) :=
  (match s.step with | some t => if t.lossAddr = 0 then [] else [(t.lossAddr, 4)] | none => []) ++ s.stateArea ++
  [(s.rd .stRecordBase [] + s.att .stSlotKib [] * 1024 * (s.rd .stRecordsWritten [] % max 1 (s.rd .stSlots [])),
    s.att .stSlotKib [] * 1024)]

/-- A close waits for a stack at CRIT (R177, R230). -/
def State.closeHeld (s : State) : Bool := s.closeRanges.any (fun r => s.heldIn r.1 r.2)

/-- An enabled monitor without a feed in the attempt records MISSING (R159). -/
def State.noteMissing (s : State) : State :=
  match s.step with
  | none => s
  | some t => ((enabledMonitors t.latched).filter (fun i => (Tab.find t.feeds i).isNone)).foldl (fun s i => s.wr .monMissing [i] 1) s

/-- An attempt closes: the risk estimate keeps its jumps not RESOLVED and its HALT, for the last 64 attempts (R316). -/
def State.noteAttempt (s : State) : State :=
  match s.step with
  | none => s
  | some t =>
    { s with attJumps := (((t.feeds.filter (fun f => f.2.jump && !f.2.resolved)).length, t.reasons.testBit 12) :: s.attJumps).take 64 }

/-- A step closes with FAULT and ABORTED, without a STEP_END record; a fetched STEP_END signals its token with FAULTED set
(R153). -/
def State.closeAborted (s : State) : State :=
  match s.step with
  | none => s
  | some t =>
    let s := s.noteMissing.raise 2
    let info : CloseInfo :=
      { verdict := 3, reasons := (s.step.map (fun t => t.reasons)).getD 0, commitStatus := 0, final := true
        gs := t.gs, clean := s.rd .stGsClean [] }
    let s := s.writeStepRecord info
    let s := match t.endPid.bind s.packet with
      | some p => (if p.sigEn then (s.raiseToken p.signal 1).setFaulted p.signal true else s).dropPacket p.pid
      | none => s
    s.leaveStep

/-- A close by a reset, before step 1 of the close has ended (R153). -/
def State.abortStep (s : State) : State := s.noteAttempt.closeAborted

/-- A DEVICE_SOFT_RESET waits for the close of the step (R392). -/
def State.softWaits (s : State) : Bool :=
  s.flight.any (fun p => match p.op, p.phase with | .deviceSoftReset, .running => true | _, _ => false)

/-- The ring of the open step is being reset, or the device is to be. -/
def State.stepRingResets (s : State) : Bool :=
  match s.step with
  | some t => s.rd .ringRingState [t.ring] == 3 || s.softWaits
  | none => false

/-- A REPLAY close (R152 step 6): the record, the REPLAYED status, the fetch position, the next attempt; when the ring
is being reset the step closes instead (R153). -/
def State.closeReplay (s : State) (reasons : Nat) (plan : OutlierPlan) : State :=
  match s.step with
  | none => s
  | some t =>
    let info : CloseInfo :=
      { verdict := 1, reasons := reasons, commitStatus := 0, final := false, gs := t.gs, clean := s.rd .stGsClean [] }
    let sig := t.endPid.bind s.packet
    let s := (s.writeStepRecord info).endStepEnd .replayed reasons 1
    if s.stepRingResets then
      -- a further record with FINAL = 1; STEP_END signals once more with FAULTED set
      let s := { s with step := s.step.map (fun (t : StepSt) => { t with endPid := none }) }.closeAborted
      match sig with
      | some p => if p.sigEn then (s.raiseToken p.signal 1).setFaulted p.signal true else s
      | none => s
    else
      let past := t.amax.foldl (fun (p : Tab (List F32)) a => Tab.upd [] p a.1 (fun l => l ++ [a.2])) t.pastAmax
      let dbl := plan.doublings.foldl (fun d tag => Tab.upd 0 d tag (fun n => n + 1)) t.doublings
      let s := s.wr .ringRingFetched [t.ring] t.nextSlot
      let s := { s with step := some { t with pastAmax := past, doublings := dbl, budget := t.budget - 1, endPid := none } }
      s.startAttempt (s.rd .stAttempt [] + 1)

/-- A close that ends the step with a verdict and status; the ring goes on after STEP_END. -/
def State.closeFinal (s : State) (info : CloseInfo) (st : Status) : State :=
  ((s.writeStepRecord info).endStepEnd st info.reasons info.verdict).leaveStep

/-- The status of a FAULT close (R158): with CMD_FAULT the first faulted packet's, else the failed loss read's or
rewrite's; otherwise the status given. -/
def faultStatus (t : StepSt) (reasons : Nat) (other : Status) : Status :=
  if reasons.testBit 0 then
    match t.firstFault, t.lossFault, t.rewriteFault with
    | some f, _, _ => f.2
    | none, some st, _ => st
    | none, none, some st => st
    | none, none, none => other
  else other

/-! The commit phase (R168–R172, R196). -/

/-- The reason vector of the open attempt. -/
def State.reasons (s : State) : Nat := (s.step.map (fun t => t.reasons)).getD 0

/-- Every attempt flag counted is zero: DONE rather than DONE_FLAGGED (R158). -/
def StepSt.flagged (t : StepSt) : Bool := t.ops.any (fun o => !o.flags.isEmpty)

/-- The commit phase stops partial (R172): DONE is the group in progress, which has failed; after the last group, when the
step-state copy cannot be written, DONE stays and no group has. A fault that stops a stack engine stands in LAST_FAULT. -/
def State.commitStop (s : State) (st : Status) (stack : Option Nat) : State :=
  match s.step, s.commit with
  | some t, some c =>
    let g := c.todo.headD (s.rd .stDone [])
    let entry := fun n status => ({ group := n, status := status, flags := 0, ratio := if status = 3 then c.ratio else f32Zero } : GroupEntry)
    let t := { t with groups := t.groups ++ (c.todo.take 1).map (fun n => entry n 3) ++ (c.todo.drop 1).map (fun n => entry n 2) }
    let s := { s with step := some t, commit := none }
    let s := (((s.wr .stActive [] 0).wr .stPartial [] 1).wr .stBroken [] 1).wr .stDone [] g
    let s := match stack with
      | some k => if c.stream.contains k then s else s.engineFault k st g
      | none => s
    s.closeFinal { verdict := 0, reasons := t.reasons, commitStatus := 2, final := true, gs := t.gs, clean := s.rd .stGsClean [] } st
  | _, _ => s

/-- The commit phase completes (R171): baselines, histories, gradient scale and the new copy; then the record and
STEP_END. It waits for a stack at CRIT that it writes to. -/
def State.commitDone (s : State) : State :=
  match s.step, s.commit with
  | some t, some c =>
    if s.closeHeld then { s with commit := some { c with todo := [], waiting := true } }
    else
      let live := s.liveCopy.1
      let g := gsCommit t.gs (BitVec.ofNat 32 (s.att .stGsMax [])) (s.rd .stGsClean []) (s.att .stGsInterval [])
      let base := if c.held then []
        else ((enabledMonitors t.latched).filterMap (fun i =>
          match Tab.find t.feeds i with
          | some f =>
            if f32IsFin f.n then
              let b := s.baseline i
              some (i, newBaseline f.n b.1 b.2 (s.att .monAlphaK [i]), min (b.2 + 1) 65535)
            else none
          | none => none))
      let hist := (enabledEntries t.latched).filterMap (fun e =>
        (Tab.find t.amax e).map (fun a =>
          let old := historyAt s.mem live e
          let n := lenOf t.latched e
          (e, a :: old.take (n - 1) ++ old.drop n)))
      let r := s.writeNextCopy (some (s.rd .stCurrentStep [])) g.1 g.2 base hist
      if !r.2.isEmpty then r.1.commitStop .memUncorrectable none
      else
        let s := { (r.1.sendCopyEnd.wr .stActive [] 0).wr .stPartial [] 0 with commit := none }
        let s := s.wr .shrCommitsSince [] (s.rd .shrCommitsSince [] + 1)
        s.closeFinal { verdict := 0, reasons := t.reasons, commitStatus := 1, final := true, gs := g.1, clean := g.2 }
          (if t.flagged then .doneFlagged else .done)
  | _, _ => s

/-- The bad bolts, failed checks or unavailability that stop a group before it starts (R172, R189). -/
def State.groupStop (s : State) (g : ParamGroup) : Option (State × Status × Option Nat) :=
  match g.shards.find? (fun sh => match s.homeChannel sh.base with | some c => !s.channelUp c | none => true) with
  | some sh => some (s, .faultUnit, s.stackOf sh.base)
  | none =>
    let bad := s.groupBad g
    if !bad.isEmpty then
      some (s.noteBads 0 bad, .memUncorrectable, s.stackOf (lowest bad))
    else
      let cs := (g.shards.map (fun sh => s.tensorChecks sh.grad)).flatten
      match cs with
      | [] => none
      | c :: _ => some (s.logChecks 0 cs, .faultCheck, s.stackOf c.1)

/-- A group's shards are read whole: its arrays, and its gradients when its ratio is formed first (R170, R311). -/
def State.readGroupTraffic (s : State) (g : ParamGroup) : State :=
  g.shards.foldl (fun s sh =>
    let st := stackWindow sh.base
    s.readsTraffic (streamVia (s.inStream st) st) [(sh.base, sh.endAddr g - sh.base), (sh.grad.base, sh.grad.endAddr - sh.grad.base)]) s

/-- Start the groups of a list in turn: a group outside its ratio class under HOLD is held and passed over, which leaves DONE
(log 79), the first other one is in progress, and the phase completes after the last (R168, R170). A group waits for stacks
at CRIT and for engines that wake (R184). -/
def State.startGroups (s : State) : List Nat → State
  | [] => s.commitDone
  | n :: rest =>
    match s.step, s.commit, s.groups.find? (fun g => g.num == n) with
    | some t, some c, some g =>
      if !s.shardsReady g.shards then { s with commit := some { c with todo := n :: rest, waiting := true } }
      else
      let s := { s with commit := some { c with todo := n :: rest, written := [], withheld := [], ratio := f32Zero } }
      match s.groupStop g with
      | some (s', st, k) => s'.commitStop st k
      | none =>
        let h := hyperOf t.hyper g.hyperSet
        let cnt := ofLe (s.mem.read ((g.shards.headD default).base) 8) + 1
        let bias := biasFactors h cnt
        let ratio := s.groupRatio g h bias
        let lo : F32 := BitVec.ofNat 32 (s.att .ratioLo [g.ratioClass])
        let hi : F32 := BitVec.ofNat 32 (s.att .ratioHi [g.ratioClass])
        let hold := s.att .ratioPolicy [g.ratioClass] == 1
        let s := if hold then s.readGroupTraffic g else s
        if hold && ratioOutside ratio lo hi then
          let t := { t with groups := t.groups ++ [{ group := n, status := 1, flags := 0, ratio := ratio }] }
          -- a held group's shards are read and sent unchanged (R311)
          let s := (if s.copying then s.readGroupTraffic g else s).sendGroupBolts g
          State.startGroups { s with step := some t, commit := some { c with todo := rest, held := true } } rest
        else
          let c' : CommitSt :=
            { c with todo := n :: rest, count := cnt, bias := bias, ratio := ratio, written := [], withheld := [] }
          { s with commit := some c' }
    | _, _, _ => s

/-- A copying commit waits for ACCEPT (R311). -/
def State.awaitsAccept (s : State) : Bool := match s.copy with | some c => c.pid.isNone && !c.accepted | none => false

/-- A waiting commit goes on as far as ACCEPT, stacks at CRIT and waking engines let it. -/
def State.resumeCommit (s : State) : State :=
  match s.commit with
  | some c => if c.waiting && !s.awaitsAccept then State.startGroups { s with commit := some { c with waiting := false } } c.todo else s
  | none => s

/-- The commit phase starts after a COMMIT verdict (R168, R196); the engines that it needs wake. -/
def State.startCommit (s : State) : State :=
  let stream := s.streamStacks
  let s := (((s.wr .stState [] 3).wr .stActive [] 1).wr .stPartial [] 0).wr .stDone [] 0
  let s := (List.range 20).foldl (fun s k => s.wr .engFallback [k / 5, k % 5] (b2n (stream.contains k))) s
  let s := s.wakeEngines stream (stacksOf ((s.groups.map (fun g => g.shards)).flatten))
  let todo := s.groups.map (fun g => g.num)
  let c : CommitSt :=
    { todo := todo, stream := stream, held := false, count := 0, bias := (f32One, f32One), ratio := f32Zero
      written := [], waiting := false, withheld := [] }
  let k := if s.copyingCommit then s.beginCopy none (s.rd .stCurrentStep []) else (s, false)
  -- a copying commit waits for ACCEPT before its first group (R311)
  if k.2 then { k.1 with commit := some { c with waiting := true } }
  else State.startGroups { k.1 with commit := some c } todo

/-- The commit phase of a SKIP (R144, R145, R167): only the gradient scale and the clean count, in a new copy. When the copy
cannot be written the spec says nothing: STEP_END ends MEM_UNCORRECTABLE with verdict SKIP and COMMIT_STATUS 2, and PARTIAL and
BROKEN are set, as R172 has it for a COMMIT (log 79). -/
def State.commitSkip (s : State) (reasons : Nat) : State :=
  match s.step with
  | none => s
  | some t =>
    let s := ((s.wr .stState [] 3).wr .stPartial [] 0).wr .stDone [] 0
    let g := gsSkip t.gs (BitVec.ofNat 32 (s.att .stGsMin [])) (BitVec.ofNat 32 (s.att .stGsBackoff []))
    let r := s.writeNextCopy none g.1 g.2 [] []
    if !r.2.isEmpty then
      ((r.1.wr .stPartial [] 1).wr .stBroken [] 1).closeFinal
        { verdict := 2, reasons := reasons, commitStatus := 2, final := true, gs := t.gs, clean := s.rd .stGsClean [] }
        .memUncorrectable
    else
      r.1.closeFinal { verdict := 2, reasons := reasons, commitStatus := 1, final := true, gs := g.1, clean := g.2 } .skipped

/-- The verdict is applied (R152 steps 6–8). `other` is the status of a FAULT without CMD_FAULT. -/
def State.applyVerdict (s : State) (verdict reasons : Nat) (plan : OutlierPlan) (other : Status) : State :=
  match s.step with
  | none => s
  | some t =>
    let s := { s with step := some { t with reasons := reasons, verdict := none } }
    match verdict with
    | 0 => s.startCommit
    | 1 => s.closeReplay reasons plan
    | 2 => s.commitSkip reasons
    | _ =>
      s.closeFinal
        { verdict := 3, reasons := reasons, commitStatus := 0, final := true, gs := t.gs, clean := s.rd .stGsClean [] }
        (faultStatus t reasons other)

/-- The loss is read (R152 step 2). -/
def State.readLoss (s : State) : State :=
  match s.step with
  | none => s
  | some t =>
    if t.lossAddr = 0 then s
    else if !s.inRegion t.lossAddr 4 then
      ({ s with step := some { t with lossFault := some .limitExceeded } }.log 0x0E 1 t.lossAddr 0 0 0 0).raise 1
    else
      let bad := s.badBolts t.lossAddr 4
      if !bad.isEmpty then
        ({ s with step := some { t with lossFault := some .memUncorrectable } }.noteBads 0 bad).raise 1
      else
        let v : F32 := BitVec.ofNat 32 (ofLe (s.mem.read t.lossAddr 4))
        let s := s.readTraffic (s.viaHome t.lossAddr) t.lossAddr 4
        let s := { s with step := some { t with loss := some v } }
        if f32IsFin v then s else s.raise (2 ^ 8)

/-- The peers' first verdict messages, one of each other rank; none while some rank has sent none (R154). -/
def firstPeers (peers : List VerdictMsg) (others : List Nat) : Option (List VerdictMsg) :=
  others.foldr (fun r acc =>
    match acc, peers.find? (fun m => m.rank == r) with
    | some l, some m => some (m :: l)
    | _, _ => none) (some [])

/-- The group's verdict once every member's message is there (R154), and no stack that the close needs is at CRIT. -/
def State.agreeVerdict (s : State) : State :=
  match s.step with
  | none => s
  | some t =>
    match (if s.closeHeld then none else t.verdict) with
    | none => s
    | some v =>
      let others := (List.range (s.rd .grpMembers [])).filter (fun r => r != s.rd .grpRank [])
      match firstPeers s.verdicts others with
      | none => s
      | some ms =>
        let s := { s with verdicts := ms.foldl (fun (l : List VerdictMsg) m => l.erase m) s.verdicts }
        let plan := s.outlierPlan t
        let budget := s.att .stReplayBudget []
        let reasons := ms.foldl (fun r m => r ||| m.reasons) t.reasons
        if ms.any (fun m => m.budget != budget || m.attempt != s.rd .stAttempt []) then
          s.applyVerdict 3 reasons plan .collMismatch
        else s.applyVerdict (ms.foldl (fun n m => max n m.verdict) v) reasons plan .faultCheck

/-- The bytes of a VERDICT message. -/
def verdictBytes (verdict reasons budget attempt : Nat) : List Byte :=
  leBytes 1 verdict ++ leBytes 1 budget ++ leBytes 2 reasons ++ leBytes 1 attempt ++ zeros 3

/-- Steps 2–5 of the close, once every packet of the attempt has ended (R152). -/
def State.closeAttempt (s : State) : State :=
  let s := s.readLoss.noteMissing.noteAttempt
  match s.step with
  | none => s
  | some t =>
    let plan := s.outlierPlan t
    let s := plan.reefs.foldl (State.setReef true) s
    let reasons := if t.overflow.isEmpty then t.reasons else t.reasons ||| 2 ^ 9
    let v := localVerdict (s.att .stNumPolicy []) reasons t.budget plan.replay
    let reasons := if v.2 then reasons ||| 2 ^ 14 else reasons
    let s := { s with step := some { t with reasons := reasons } }
    let m := s.rd .grpMembers []
    if t.group ∧ 1 < m then
      let budget := s.att .stReplayBudget []
      let s := { s with step := some { t with reasons := reasons, verdict := some v.1
                                              deadline := s.aoNow + msTicks (s.att .collWatchdogMs []) } }
      let s := ((List.range m).filter (fun r => r != s.rd .grpRank [])).foldl (fun s r =>
        s.sendGroup (s.rankNodes.getD r 0) 0x0C (s.rd .grpEpoch [])
          (verdictBytes v.1 reasons budget (s.rd .stAttempt []))) s
      s.agreeVerdict
    else s.applyVerdict v.1 reasons plan .faultCheck

/-- Packets of the open attempt that have not yet written their status records (R152 step 1). -/
def State.attemptPending (s : State) : Bool := s.flight.any (fun p => p.inAttempt)

end Sys2Proof.Machine
end

