-- ==== Sys2Proof/Machine/ProductOps.lean ====
section
/-! DEFINITION. Launches on the clusters and stack engines: what a packet binds and checks when it starts, its
descriptors, their start, release and end, their counters and sample records, preemption, and the write that ends a
launch (R22, R27, R69–R137, R163, R164, R203–R206, R282–R285, R353, R360, R366–R368). -/

namespace Sys2Proof.Machine

/-! What a packet binds (R163) and how it writes. -/

/-- The packet's descriptors with the global scales bound at its start (R163). -/
def Packet.bound (p : Packet) : List TDesc := (p.descs.zip p.scales).map (fun q => { q.1 with gscale := q.2 })
/-- The output descriptor. -/
def Packet.outDesc (p : Packet) : TDesc := p.bound.getD (outIndex p.op) default
/-- The segments of a launch with their bound scales. -/
def Packet.segments (p : Packet) : List Segment := opSegments p.op p.bound
/-- The tile shape of a launch: a MATVEC and a vector operation write in row bands of 128 rows (R114). -/
def Packet.shape (p : Packet) : Shape :=
  match p.op with
  | .product _ _ sh _ => (shapeOf sh).getD { tm := 128, tn := 128, ranks := 1 }
  | _ => { tm := 128, tn := p.outDesc.cols, ranks := 1 }
/-- The SHAPE byte of the packet's OPERATION entry (R175, R204): 0xFE for a vector opcode. -/
def Packet.shapeByte (p : Packet) : Nat :=
  match p.op with
  | .product _ _ sh _ => sh
  | .matvec _ parts => 0x80 + parts.length
  | _ => 0xFE
/-- The operation runs on clusters or stack engines through descriptors. -/
def isCompute : Op → Bool
  | .product .. => true | .matvec .. => true | .softmax .. => true | .rmsnorm .. => true | .layernorm .. => true
  | .xent .. => true | .vprog .. => true | _ => false

/-- What the packet's write depends on (R113, R136, R139). -/
def State.writeCtx (s : State) (p : Packet) : WriteCtx :=
  { seed := p.seed, stepField := s.stepField p.inAttempt, tm := p.shape.tm, tn := p.shape.tn
    doublings := match s.step with
      | some t => if p.inAttempt then Tab.get 0 t.doublings p.outDesc.tag else 0
      | none => 0 }

/-- The channel table of an output in DESIGNATED mode, as the packet read it once when it started (R121). -/
def Packet.outTable (p : Packet) : List Nat := if p.outDesc.jibMode = 1 then jibChannels p.held p.outDesc else []

/-! Vector operations (R353). -/

/-- Rows of a tensor over all matrices. -/
def rowsOf (d : TDesc) : Nat := d.batch * d.rows
/-- Row t of a BF16 or FP32 tensor, rows counted over all matrices. -/
def wideRow (m : Mem) (d : TDesc) (t : Nat) : List F32 :=
  (List.range d.cols).map (fun x => wideElem m d (t / d.rows) (t % d.rows) x)

/-- The ranges outside descriptors that a vector operation reads. -/
def rawReads (op : Op) (ds : List TDesc) : List (Nat × Nat) :=
  match op with
  | .xent _ t _ _ _ => [(t, 4 * rowsOf (ds.getD 0 default))]
  | .vprog prog c _ _ => [(prog, 128), (c, 32)]
  | _ => []
/-- The ranges outside descriptors that it writes. -/
def rawWrites (op : Op) (ds : List TDesc) : List (Nat × Nat) :=
  match op with
  | .xent _ _ l m _ => (l, 4 * rowsOf (ds.getD 0 default)) :: if m = 0 then [] else [(m, 4)]
  | _ => []

/-- The 32 words of a program in memory. -/
def programAt (m : Mem) (a : Nat) : List Nat := (List.range 32).map (fun i => ofLe (m.read (a + 4 * i) 4))
/-- The target position of row t. -/
def targetAt (m : Mem) (a t : Nat) : Nat := ofLe (m.read (a + 4 * t) 4)

/-- The stage-1 values, from the operands in `m` and the bytes read at the start in `h`, that a vector operation writes through its output descriptor, row-major (R120, R353). -/
def vectorValues (m h : Mem) (gs : F32) (op : Op) (ds : List TDesc) : List F32 :=
  let d := fun i => ds.getD i default
  let rows := fun (o : TDesc) (f : Nat → List F32) => ((List.range (rowsOf o)).map f).flatten
  match op with
  | .softmax .. => rows (d 1) (fun t => softmaxRow (wideRow m (d 0) t))
  | .rmsnorm _ _ _ eps => rows (d 1) (fun t => rmsnormRow (wideRow m (d 0) t) (wideRow m (d 2) 0) (BitVec.ofNat 32 eps))
  | .layernorm _ _ _ _ eps =>
    rows (d 1) (fun t => layernormRow (wideRow m (d 0) t) (wideRow m (d 2) 0) (wideRow m (d 3) 0) (BitVec.ofNat 32 eps))
  | .xent _ tgt _ _ g =>
    if g = 0 then []
    else
      let c := fmul gs (frecip (f32OfNat (rowsOf (d 0))))
      rows (d 0) (fun t => seedGrad (wideRow m (d 0) t) (targetAt h tgt t) c)
  | .vprog prog c _ ins =>
    let ws := programAt h prog
    let k := (List.range 8).map (fun i => (BitVec.ofNat 32 (ofLe (h.read (c + 4 * i) 4)) : F32))
    rows (d 0) (fun t => (List.range (d 0).cols).map (fun x =>
      let v := ins.zipIdx.map (fun p => if p.1 = 0 then f32Zero else wideElem m (d (p.2 + 1)) (t / (d 0).rows) (t % (d 0).rows) x)
      (programRun ws (v ++ k ++ [f32Zero, f32Zero, f32Zero, f32Zero])).getD 14 f32Zero))
  | _ => []

/-- The writes of a vector operation outside its output descriptor: XENT's losses and mean loss. -/
def vectorRaw (m h : Mem) (op : Op) (ds : List TDesc) : List (Nat × List Byte) :=
  match op with
  | .xent _ tgt loss mean _ =>
    let d := ds.getD 0 default
    let ls := (List.range (rowsOf d)).map (fun t => xentRow (wideRow m d t) (targetAt h tgt t))
    (loss, (ls.map (fun v => leBytes 4 v.toNat)).flatten) :: if mean = 0 then [] else [(mean, leBytes 4 (meanLoss ls).toNat)]
  | _ => []

/-- The operation has an output tensor: XENT with a zero GRAD has none. -/
def hasOut : Op → Bool
  | .xent _ _ _ _ g => g != 0
  | _ => true

/-- The byte ranges that a packet of this operation writes in device memory. -/
def Packet.dests (p : Packet) : List (Nat × Nat) :=
  match p.op with
  | .copy d _ n f => if f.testBit 1 then [] else [(d, n)]
  | .fill d n _ => [(d, n)]
  | .digest _ _ d => [(d, 32)]
  | .counterSnapshot d => [(d, 1024)]
  | op => if isCompute op then (if hasOut op then p.outDesc.extent else []) ++ rawWrites op p.descs else []

/-- The destination of a packet that did not end well is undefined (R116). -/
def State.spoilPacket (s : State) (p : Packet) : State :=
  if isCompute p.op then (if hasOut p.op then s.spoilTensor p.outDesc else s).spoils (rawWrites p.op p.descs)
  else s.spoils p.dests

/-- The destination of packet pid is undefined. -/
def State.spoilDest (s : State) (pid : Nat) : State :=
  match s.packet pid with
  | some p => s.spoilPacket p
  | none => s

/-! Units. -/

/-- The channel of a unit. -/
def ExecUnit.channel : ExecUnit → Nat
  | .cluster k => k / 48
  | .engine st => st / 5
/-- The health unit of a unit, and its domain index, which is the same (R281, R372). -/
def ExecUnit.health : ExecUnit → Nat
  | .cluster k => k / 4
  | .engine st => 56 + st

/-- The first due or running test of the quads of channel c (R292). -/
def State.quadTest (s : State) (c : Nat) : Option TestSt := s.tests.find? (fun t => decide (t.unit < 48) && t.unit / 12 == c)
/-- Quad q runs its test slot, or a test is due that starts no new pass on it (R294). -/
def State.quadHeld (s : State) (q : Nat) : Bool := match s.quadTest (q / 12) with | some t => t.unit == q | none => false
/-- A unit test is running on a health unit. -/
def State.underTest (s : State) (u : Nat) : Bool := s.tests.any (fun t => t.unit == u && t.running)
/-- Issue on a domain stops for a droop (R378). -/
def State.droopStops (s : State) (dom : Nat) : Bool := s.drooped.contains dom || (s.drooped.contains 255 && decide (dom < 48))

/-- The unit is powered, in service and not stopped by a running test or a droop. -/
def State.unitServes (s : State) (u : ExecUnit) : Bool :=
  (match u with | .cluster k => decide (k < 192) | .engine st => decide (st < 20)) && !s.underTest u.health &&
  s.rd .domDstate [u.health] == 2 && s.rd .domDstate [48 + u.channel] == 2 && !s.fenced u.health &&
  s.channelUp u.channel && !s.droopStops u.health

/-- The unit may start a descriptor: it serves, and no test that is due holds it. -/
def State.unitUsable (s : State) (u : ExecUnit) : Bool :=
  s.unitServes u && (match u with | .cluster k => !s.quadHeld (k / 4) | .engine _ => true)

/-- A descriptor runs, or its output is held, on the unit. -/
def Desc.on (d : Desc) (u : ExecUnit) : Bool := d.phase == .running u
/-- A re-execution waits on the unit, ahead of every ready descriptor (R285). -/
def Retry.on (r : Retry) (u : ExecUnit) : Bool :=
  (r.kind == 0 && (r.u1 == u || r.u2 == u)) || (r.kind == 1 && r.u1 == u) || (r.kind == 2 && r.u2 == u)
/-- The unit may take a descriptor now (R22, R285). -/
def State.unitFree (s : State) (u : ExecUnit) : Bool :=
  s.unitUsable u && !s.descs.any (fun d => d.on u) && !s.retries.any (fun r => r.on u)

/-- Every quad of the device is fenced. -/
def State.noQuad (s : State) : Bool := (List.range 48).all s.fenced

/-- The channel controller of channel c wakes the lowest gated quad that is not fenced, when no powered cluster is free
(R374). -/
def State.wakeQuad (s : State) (c : Nat) : State :=
  if (List.range 48).any (fun k => s.unitFree (.cluster (48 * c + k))) then s
  else
    match (List.range 12).find? (fun j => s.rd .domDstate [12 * c + j] == 0 && !s.fenced (12 * c + j)) with
    | some j => s.wake (12 * c + j)
    | none => s

/-! Ends with a fault. -/

/-- Cycles of channel c at an AO tick. -/
def State.cycleAt (s : State) (c tick : Nat) : Nat := 21 * (tick - Tab.get 0 s.cycleBase c)

/-- What the sample record of a descriptor on a unit names (R367). -/
def Packet.sampled (p : Packet) (d : Desc) (u : ExecUnit) : Sampled :=
  { id := d.id, tag := p.tag
    kind := match d.kind with | .tile .. => 0 | .vector => 1 | .part _ => 3
    index := match u with | .cluster k => k | .engine st => st
    operand := match d.kind with
      | .part q => (p.segments.getD q default).a.d.base
      | .tile .. => (p.segments.headD default).a.d.base
      | .vector => (p.bound.getD (if outIndex p.op = 0 then 1 else 0) default).base }

/-- The sample record of a descriptor on a unit (R367, R368). -/
def State.writeSample (s : State) (d : Desc) (u : ExecUnit) (fault : Bool) : State :=
  match s.packet d.pid with
  | none => s
  | some p =>
    let c := u.channel
    s.putSample c (p.sampled d u) (s.cycleAt c d.issue) (s.cycleAt c d.start) (s.cycleNow c)
      (min (21 * d.suspendedFor) 0xFFFFFF * 256 + b2n d.tested * 8 + b2n fault * 4 + b2n d.checkedAgain * 2 + b2n d.preempted)

/-- The unit a started descriptor is on. -/
def Desc.unit (d : Desc) : Option ExecUnit :=
  match d.phase with
  | .running u => some u
  | .released u => some u
  | .withheld u => some u
  | .suspended k => some (.cluster k)
  | _ => none

/-- A launch ends with a fault: its packet ends, its started descriptors write their sample records, and its
descriptors that no shadow comparison still names are gone (R116). -/
def State.failCompute (s : State) (pid : Nat) (st : Status) (detail : Nat) : State :=
  let mine := s.descs.filter (fun d => d.pid == pid)
  let s := mine.foldl (fun s d => match d.unit with
    | some u => if d.selected then s.writeSample d u true else s
    | none => s) s
  -- SKIPPED before any descriptor has started leaves the destination (R162)
  let s := (if st = .skipped ∧ mine.all (fun d => d.phase == .queued) then s else s.spoilDest pid).endPacket pid st detail
  let keep := fun (id : Nat) => s.retries.any (fun r => r.kind != 0 && r.what == .desc id)
  { s with
    retries := s.retries.filter (fun r => !(r.kind == 0 && mine.any (fun d => r.what == .desc d.id)))
    descs := (s.descs.filter (fun d => d.pid != pid || keep d.id)).map (fun d => if d.pid = pid then { d with phase := .done } else d) }

/-! The start of a launch. -/

/-- The descriptors of a launch (R69): one for each output tile, one for each part, one for a vector operation. -/
def Packet.kinds (p : Packet) (w : WriteCtx) : List DescKind :=
  match p.op with
  | .product .. =>
    let o := p.outDesc
    ((List.range o.batch).map (fun b => (List.range (tilesOf o w)).map (fun t => DescKind.tile b t))).flatten
  | .matvec _ parts => (List.range parts.length).map DescKind.part
  | _ => [.vector]

/-- A descriptor placed on a queue. -/
def Desc.fresh (id pid ring issue channel : Nat) (k : DescKind) : Desc :=
  { id := id, pid := pid, ring := ring, kind := k, phase := .queued, selected := false, preempted := false
    checkedAgain := false, tested := false, shadowed := false, issue := issue, start := 0, suspendedFor := 0
    suspendedAt := 0, flags := [], channel := channel, read := [], context := none, status := 0 }

/-- The unit that a started launch needs is out of service: no quad for a cluster's work, a fenced engine for a part,
or an unavailable channel (R184, R298). -/
def State.computeBlocked (s : State) (p : Packet) : Bool :=
  (match p.op with
   | .matvec .. => p.segments.any (fun g => s.fenced (56 + stackWindow g.a.d.base))
   | _ => false) ||
  s.noQuad || p.descs.any (fun d => s.unavailIn d.base (d.endAddr - d.base)) ||
  (rawReads p.op p.descs ++ rawWrites p.op p.descs).any (fun r => s.unavailIn r.1 r.2)

/-- The channels that home some byte of a range. -/
def State.homesOf (s : State) (a n : Nat) : List Nat :=
  match regionOf a with
  | some .device => ((boltsOf a n).filterMap s.homeChannel).eraseDups
  | _ => (s.homeChannel a).toList

/-- A channel has a quad in service. -/
def State.hasQuad (s : State) (c : Nat) : Bool := (List.range 12).any (fun j => !s.fenced (12 * c + j))

/-- The channels whose queues take a launch's cluster work (R26): those that hold its operands or its output and have a
quad in service, the output's first; else the ring's. -/
def State.launchChannels (s : State) (p : Packet) : List Nat :=
  let out := if hasOut p.op then p.outDesc.extent else rawWrites p.op p.descs
  let ins := (p.bound.zipIdx.filter (fun e => e.2 != outIndex p.op && e.1.rows != 0)).map (fun e => (e.1.base, e.1.endAddr - e.1.base))
  let cs := (((out ++ ins).map (fun r => s.homesOf r.1 r.2)).flatten).eraseDups.filter s.hasQuad
  if cs.isEmpty then [p.ring % 4] else cs

/-- The channel whose queues take descriptor number i of a launch: a part goes to its stack's channel, the others in
turn to the launch's channels. -/
def State.queueOf (s : State) (p : Packet) (i : Nat) (k : DescKind) : Nat :=
  match k with
  | .part q => stackWindow (p.segments.getD q default).a.d.base / 5
  | _ =>
    let cs := s.launchChannels p
    cs.getD (i % cs.length) 0

/-- Wake what a launch's descriptors need (R374): the engine of each part, a quad of each channel that holds a queued
one. -/
def State.wakeFor (s : State) (p : Packet) : State :=
  match p.op with
  | .matvec .. => p.segments.foldl (fun s g => s.wake (56 + stackWindow g.a.d.base)) s
  | _ => ((s.descs.filter (fun d => d.pid == p.pid && d.phase == .queued)).map (fun d => d.channel)).eraseDups.foldl State.wakeQuad s

/-- Place a running packet's descriptors on the queues (R26). -/
def State.placeDescs (s : State) (p : Packet) : State :=
  let ks := p.kinds (s.writeCtx p)
  let ds := ks.zipIdx.map (fun q => Desc.fresh (s.nextId + q.2) p.pid p.ring s.aoNow (s.queueOf p q.2 q.1) q.1)
  let s := { s with descs := s.descs ++ ds, nextId := s.nextId + ds.length }
  (s.countEvent (p.ring % 4) 0x42 ds.length).wakeFor p

/-- The scales of a packet that runs again under REPLAY_OP (R161, R163): the tensors of the entry that R161 has set take
its new attempt scale, and the others keep what was bound when the packet started. -/
def State.reboundScales (s : State) (p : Packet) : List F32 :=
  match s.step with
  | none => p.scales
  | some t =>
    let e := scaleEntry t.latched p.outDesc.tag
    (p.descs.zip p.scales).map (fun q =>
      if e.isSome && scaleEntry t.latched q.1.tag == e then s.boundScale p.inAttempt q.1 else q.2)

/-- A compute packet starts (R72, R121, R163, R203, R353): scales bound, the checks of the start, its descriptors. -/
def State.startCompute (s : State) (pid : Nat) : State :=
  match s.packet pid with
  | none => s
  | some p0 =>
    let scales := if p0.redone then s.reboundScales p0 else p0.descs.map (s.boundScale p0.inAttempt)
    let raw := rawReads p0.op p0.descs
    let o := ((p0.descs.zip scales).map (fun q => { q.1 with gscale := q.2 })).getD (outIndex p0.op) default
    let table := hasOut p0.op && o.jibMode == 1
    let p : Packet :=
      { p0 with scales := scales, vals := [], flags := [], report := none
                held := s.mem.keep (raw ++ if table then [(o.jibBase, 512)] else []) }
    let s := s.setPacket p
    let bad := (raw.map (fun r => s.badBolts r.1 r.2)).flatten
    if !gscalesAgree p.segments then s.endPacket pid .badParam 0
    else if (raw ++ rawWrites p.op p.descs).any (fun r => !s.inRegion r.1 r.2) then s.endPacket pid .limitExceeded 0
    else if s.computeBlocked p then s.endPacket pid .faultUnit 0
    else if !bad.isEmpty then (s.spoilPacket p).endBad pid p.tag bad
    else
      let wrong := match p.op with
        | .vprog prog _ _ _ => !programOk (programAt p.held prog)
        | .xent _ t _ _ _ =>
          let d := p.descs.getD 0 default
          (List.range (rowsOf d)).any (fun i => decide (d.cols ≤ targetAt p.held t i))
        | _ => false
      if wrong then s.endPacket pid .badParam 0
      else if table && !(s.badBolts o.jibBase 512).isEmpty then
        s.endBad pid p.tag (s.badBolts o.jibBase 512)
      else if table && !jibTableOk o (p.held.read o.jibBase 512) then
        (s.logChecks p.tag [(o.jibBase, 7)]).endPacket pid .faultCheck (faultDetail 7 0 o.jibBase)
      else s.placeDescs p

/-! The start of a descriptor (R22, R23, R55, R284, R366). -/

/-- The byte ranges that reading matrix b of a tensor covers. -/
def TDesc.ranges (d : TDesc) (m : Mem) (b : Nat) : List (Nat × Nat) :=
  let lo := d.wideAddr b 0 0
  (if d.elem.inBolts then (d.boltAddr b 0, 512 * d.bolts)
   else (lo, d.wideAddr b (d.rows - 1) (d.cols - 1) + d.elem.bytes - lo)) ::
  (if d.jibMode = 0 then [] else
    (if d.jibMode = 1 then [(d.jibBase, 512)] else []) ++ [(d.jibList b, 512 * jibReadBolts m d b)])

/-- The failing bolts of matrix b of a tensor with their check codes (R55, R61, R64). -/
def TDesc.checks (d : TDesc) (m : Mem) (b : Nat) : List (Nat × Nat) :=
  (if d.elem.inBolts then
     (List.range d.bolts).filterMap (fun i =>
       let a := d.boltAddr b i
       (boltCheck (m.read a 512) (d.boltOffset b i % 65536) d.tag d.geometry d.format).map (fun c => (a, c)))
   else []) ++
  (if d.jibMode = 0 then []
   else if d.jibMode = 1 && !jibTableOk d (m.read d.jibBase 512) then [(d.jibBase, 7)]
   else
     match jibListCheck d (if d.jibMode = 1 then jibChannels m d else []) (jibSlots m d b) none false false 0 0 with
     | some f => [(d.jibList b + 512 * (f.2 / 64), f.1)]
     | none => [])

/-- The tensors and matrices that a descriptor reads. -/
def Packet.reads (p : Packet) (k : DescKind) : List (TDesc × Nat) :=
  match k with
  | .tile b _ => (p.segments.map (fun g => [(g.a.d, g.a.matrixOf b), (g.b.d, g.b.matrixOf b)])).flatten
  | .part q => let g := p.segments.getD q default; [(g.a.d, 0), (g.b.d, 0)]
  | .vector =>
    let used := p.bound.zipIdx.filter (fun e => e.2 != outIndex p.op && e.1.rows != 0)
    (used.map (fun e => (List.range e.1.batch).map (fun b => (e.1, b)))).flatten

/-- The ranges that a descriptor reads. -/
def Packet.readRanges (p : Packet) (m : Mem) (k : DescKind) : List (Nat × Nat) :=
  ((p.reads k).map (fun r => r.1.ranges m r.2)).flatten

/-- A descriptor waits for a stack at CRIT (R183, R184, R230): one that it reads, or one that its launch writes. -/
def State.descHeld (s : State) (d : Desc) : Bool :=
  match s.packet d.pid with
  | some p => (p.readRanges s.mem d.kind ++ p.dests).any (fun r => s.heldIn r.1 r.2)
  | none => false

/-- The destination that a descriptor writes first has credit (R22): the merge buffer of the slice that homes it has room
(R226). A part's destination is the join at the output's home channel, which always has. -/
def State.descCredit (s : State) (d : Desc) : Bool :=
  match d.kind, s.packet d.pid with
  | .part _, _ => true
  | _, some p => p.dests.all (fun r => s.mergeRoom r.1)
  | _, none => true

/-- The descriptor is ready (R22): its packet runs, so its tokens have been reached; its first destination has credit; no
stack at CRIT holds it, and no HALT holds the attempt (R162). -/
def State.ready (s : State) (d : Desc) : Bool :=
  d.phase == .queued && !s.descHeld d && s.descCredit d &&
  match s.packet d.pid with
  | some p => p.phase == .running && !(p.inAttempt && (s.step.map (fun t => t.stopped)).getD false)
  | none => false

/-- Descriptor a comes before b: higher PRIORITY, lower ring, older by the fetch of its packet and its place in it (R23,
R334). -/
def State.before (s : State) (a b : Desc) : Bool :=
  let pa := s.rd .ringPriority [a.ring]
  let pb := s.rd .ringPriority [b.ring]
  decide (pb < pa) || (pa == pb && (decide (a.ring < b.ring) || (a.ring == b.ring &&
    (decide (a.pid < b.pid) || (a.pid == b.pid && decide (a.id < b.id))))))

/-- The descriptor stands on a queue of the unit: a cluster takes the tiles and vector work of its channel, and of a channel
whose quads are all fenced; an engine takes the parts of its own stack (R22, R26). -/
def State.suits (s : State) (u : ExecUnit) (d : Desc) : Bool :=
  match u, d.kind with
  | .cluster _, .part _ => false
  | .cluster k, _ => d.channel == k / 48 || !s.hasQuad d.channel
  | .engine st, .part q =>
    (match s.packet d.pid with | some p => stackWindow (p.segments.getD q default).a.d.base == st | none => false)
  | .engine _, _ => false

/-- The descriptor that a unit takes next (R23). -/
def State.nextDesc (s : State) (u : ExecUnit) : Option Desc :=
  (s.descs.filter (fun d => s.ready d && s.suits u d)).foldl (fun best d =>
    match best with
    | none => some d
    | some b => if s.before d b then some d else some b) none

/-- Replace a descriptor. -/
def State.setDesc (s : State) (d : Desc) : State := { s with descs := s.descs.map (fun e => if e.id = d.id then d else e) }
/-- A descriptor by number. -/
def State.desc (s : State) (id : Nat) : Option Desc := s.descs.find? (fun d => d.id == id)

/-- Count a dispatched pass or part and decide its shadow (R284). -/
def State.dispatch (s : State) (u : ExecUnit) (k : DescKind) : State × Bool :=
  let h := s.rd .unitHstate [u.health]
  let counts := s.flag .intShadowEnable [] && (match k, u with | .tile .., _ => true | .part _, _ => h == 1 | _, _ => false)
  if !counts then (s, false)
  else
    let n := Tab.get 0 s.dispatched u.health + 1
    let k := if h = 1 then s.rd .intShadowShiftSuspect [] else s.rd .intShadowShift []
    ({ s with dispatched := Tab.put s.dispatched u.health n }, n % 2 ^ k == 0)

/-- A fixed event of the unit, when it is a cluster. -/
def State.countUnit (s : State) (u : ExecUnit) (e n : Nat) : State :=
  match u with | .cluster k => s.countCluster k e n | .engine _ => s

/-- How a unit reaches an address it reads: an engine its own stack by the TSV path, everything else over the fabric. -/
def ExecUnit.via (u : ExecUnit) (a : Nat) : Via :=
  match u with
  | .cluster k => .iface (k / 48)
  | .engine st => if stackWindow a = st then .tsv else .iface (st / 5)

/-- A unit reads ranges: their traffic. -/
def State.unitReads (s : State) (u : ExecUnit) (rs : List (Nat × Nat)) : State :=
  rs.foldl (fun s r => s.readTraffic (u.via r.1) r.1 r.2) s

/-- A unit starts its next ready descriptor (R22, R23): its operands are checked as it reads them (R55, R56, R219); a
failing one ends the command. -/
def State.startDesc (s : State) (u : ExecUnit) : State :=
  if !s.unitFree u then s
  else
    match s.nextDesc u with
    | none => s
    | some d =>
      match s.packet d.pid with
      | none => s
      | some p =>
        let rs := p.readRanges s.mem d.kind
        let bad := (rs.map (fun g => s.badBolts g.1 g.2)).flatten
        let cs := (((p.reads d.kind).map (fun r => r.1.checks s.mem r.2)).flatten).filter (fun c => !bad.contains c.1)
        let q := s.dispatch u d.kind
        let w := q.1.sampleStart u.channel
        let d' := { d with phase := .running u, start := s.aoNow, shadowed := q.2, selected := w.2, read := s.mem.keep rs }
        let s := (((w.1.setDesc d').countUnit u 45 1).countEvent u.channel 0x43 1).unitReads u rs
        if bad.isEmpty ∧ cs.isEmpty then s.wakeFor p
        else
          -- every bolt read is examined; the record names the lowest of those logged (R56)
          let a := lowest (bad ++ cs.map (fun c => c.1))
          let code := ((cs.find? (fun c => c.1 == a)).map (fun c => c.2)).getD 0
          ((s.noteBads p.tag bad).logChecks p.tag cs).failCompute p.pid (if bad.isEmpty then .faultCheck else .memUncorrectable)
            (faultDetail code 0 a)

/-! Release (R94, R101, R102, R110, R360). -/

/-- K-elements per output per cycle, doubled (R101). -/
def rate2 (sh : Shape) (e : Elem) : Nat :=
  (match e with | .fp4 => 8 | .int4 => 8 | .bf16 => 1 | .fp32 => 1 | _ => 4) * (if sh.ranks = 4 then 4 else sh.ranks)
/-- Issue cycles of a segment (R102). -/
def issueCycles (sh : Shape) (g : Segment) : Nat :=
  ceilDiv (2 * g.kLen) (rate2 sh g.a.d.elem) * (if g.common = 1 && g.a.d.elem.isNarrowFp then 4 else 1)
/-- Tail cycles of a shape (R101). -/
def tailCycles (sh : Shape) : Nat := if sh.ranks = 1 then 40 else if sh.ranks = 4 then 64 else 52
/-- The ISSUE event of an operand pair (R360). -/
def issueEvent (e : Elem) : Nat :=
  match e with | .fp4 => 13 | .e4m3 => 14 | .e5m2 => 14 | .int4 => 15 | .int8 => 16 | _ => 17

/-- Outlier terms of a tile (R83). -/
def outlierTerms (m : Mem) (segs : List Segment) (b : Nat) (es : List (Nat × Nat)) : Nat :=
  segs.foldl (fun n g =>
    let js := g.jibs m b
    if js.1.isEmpty && js.2.isEmpty then n
    else
      es.foldl (fun n e => n + ((List.range g.kLen).filter (fun k =>
        (g.a.jib js.1 e.1 k).isSome || (g.b.jib js.2 e.2 k).isSome)).length) n) 0

/-- A pass before its first term (R105): fresh cells for n elements. -/
def Context.fresh (ranks n id : Nat) : Context :=
  { progress := .block 0, cells := List.replicate n (ArrayCell.fresh ranks), status := 0, flags := [], desc := id }

/-- The pass of a tile goes on to a progress (R104): its context there. -/
def Context.run (x : Context) (m : Mem) (ranks : Nat) (segs : List Segment) (b : Nat) (es : List (Nat × Nat)) (q : Progress) :
    Context :=
  let r := (es.zip x.cells).map (fun e => cellRun m ranks segs b e.1.1 e.1.2 e.2 x.progress q)
  let f := x.flags.join (FlagSet.ofEvents ((r.map (fun v => v.2)).flatten))
  { x with progress := q, cells := r.map (fun v => v.1), flags := f, status := tileStatus f 0 }

/-- The values of a tile by row-major element index from a context on, and its dot-product events from there on. -/
def tileValues (x : Context) (m : Mem) (sh : Shape) (segs : List Segment) (o : TDesc) (b : Nat) (es : List (Nat × Nat)) :
    List (Nat × F32) × List Event :=
  let r := (es.zip x.cells).map (fun e =>
    ((b * o.rows + e.1.1) * o.cols + e.1.2, cellFinish m sh.ranks segs b e.1.1 e.1.2 e.2 x.progress))
  (r.map (fun q => (q.1, q.2.1)), (r.map (fun q => q.2.2)).flatten)

/-- The writer events of a tile with its widened blocks, from the values of the tensor as far as they are known (R123,
R124, R129, R130). -/
def tileWriter (vals : List F32) (o : TDesc) (w : WriteCtx) (table : List Nat) (b t : Nat) : List Event × Nat :=
  if o.elem.isNarrowFp then
    let r := (writeNarrow vals o w table b).2
    let ev := r.1.filter (fun e => tileOf o w e.pos.row e.pos.col == t)
    (ev, (ev.filter (fun e => e.flag == .outlierOvf)).length)
  else ([], 0)

/-- The values of a packet as one list. -/
def Packet.valueList (p : Packet) : List F32 := (List.range p.outDesc.elems).map (fun i => Tab.get f32Zero p.vals i)

/-- Elements of a matrix extracted in a tile. -/
def tileExtracted (vals : List F32) (o : TDesc) (w : WriteCtx) (table : List Nat) (b t : Nat) : Nat :=
  ((extracted vals o w table b).filter (fun e => tileOf o w (e.1 / o.cols) (e.1 % o.cols) == t)).length
/-- Blocks whose first element lies in a tile. -/
def tileBlocks (o : TDesc) (w : WriteCtx) (t : Nat) : Nat :=
  if o.elem.isNarrowFp then
    ((List.range o.nBlocks).filter (fun n => tileOf o w (blockFirst o n).1 (blockFirst o n).2 == t)).length
  else 0

/-- The flag events of a set, counted in the fixed counters of a cluster (R360). -/
def State.countFlags (s : State) (u : ExecUnit) (f : FlagSet) : State :=
  f.foldl (fun s p => s.countUnit u (18 + p.1) p.2.count) s

/-- Writer counts of a tile: elements, blocks, extracted elements and widened blocks. -/
def State.countWriter (s : State) (u : ExecUnit) (elems blocks jib wide : Nat) : State :=
  (((s.countUnit u 36 elems).countUnit u 37 blocks).countUnit u 39 jib).countUnit u 40 wide

/-- The elements of the tile that a descriptor computes. -/
def Packet.tileOfDesc (p : Packet) (w : WriteCtx) (d : Desc) : List (Nat × Nat) :=
  match d.kind with
  | .tile _ t => tileElems p.outDesc w t
  | _ => []

/-- Issue cycles of a matrix-vector part (R206). -/
def partCycles (g : Segment) : Nat :=
  ceilDiv (g.b.d.rows * g.kLen) (if g.a.d.elem = .fp4 then 2048 else 1024) * (if g.common = 1 then 4 else 1)

/-- What an execution of a tile pass or of a part counts on its unit as it latches, released or not (R359, R360). The cycles of
a part that a cluster executes again are not stated: a free value (log 6). -/
def State.countPass (s : State) (d : Desc) (p : Packet) (u : ExecUnit) : State :=
  match d.kind, u with
  | .tile b _, _ =>
    let segs := p.segments
    let issue := segs.foldl (fun n g => n + issueCycles p.shape g) 0
    let quarter := (segs.filter (fun g => g.common == 1 && g.a.d.elem.isNarrowFp)).foldl (fun n g => n + issueCycles p.shape g) 0
    let s := ((s.countUnit u 1 issue).countUnit u 5 (tailCycles p.shape)).countUnit u 6 quarter
    let s := (s.countUnit u (7 + p.shapeByte % 8) 1).countUnit u (issueEvent (segs.headD default).a.d.elem) issue
    s.countUnit u 26 (outlierTerms d.read segs b (p.tileOfDesc (s.writeCtx p) d))
  | .part q, .engine st =>
    let n := partCycles (p.segments.getD q default)
    (s.bump .engMvCycles [st / 5, st % 5] n).stackEvent st 12 n
  | .part _, _ => let f := s.freeVal 32; f.2.countUnit u 1 f.1
  | .vector, _ => s

/-- A tile's pass has passed its checks, or the majority procedure releases it: its values, from its operands as they were
read and its saved context, go to the writer path (R94, R106, R110, R111), and its tile status word is formed (R88, R130). -/
def State.releaseTile (s : State) (d : Desc) (u : ExecUnit) (p : Packet) (b t : Nat) : State :=
  let o := p.outDesc
  let w := s.writeCtx p
  let segs := p.segments
  let es := tileElems o w t
  let x := d.context.getD (Context.fresh p.shape.ranks es.length d.id)
  let r := tileValues x d.read p.shape segs o b es
  let p1 := { p with vals := r.1.foldl (fun v (q : Nat × F32) => Tab.put v q.1 q.2) p.vals }
  let table := p.outTable
  let tw := tileWriter p1.valueList o w table b t
  let f := x.flags.join (FlagSet.ofEvents (r.2 ++ tw.1))
  let p1 := { p1 with flags := p1.flags.join f }
  let s := (s.setPacket p1).setDesc { d with phase := .released u, flags := f, status := tileStatus f tw.2 }
  (s.countFlags u f).countWriter u es.length (tileBlocks o w t) (tileExtracted p1.valueList o w table b t) tw.2

/-- A matrix-vector part has passed its checks (R204, R205). -/
def State.releasePart (s : State) (d : Desc) (st : Nat) : State := s.setDesc { d with phase := .released (.engine st) }

/-- The row-major element indices of a unit of a tensor: the live elements of a bolt's blocks, or 512 bytes of words
(R53, R258). -/
def unitIndices (d : TDesc) (u : Nat) : List Nat :=
  if d.elem.inBolts then
    (((List.range d.blocksPerBolt).filter (fun k => decide (u % d.bolts * d.blocksPerBolt + k < d.nBlocks))).map (fun k =>
      (blockElems d (u % d.bolts * d.blocksPerBolt + k)).map (fun e =>
        (u / d.bolts * d.rows + e.2.1) * d.cols + e.2.2))).flatten
  else (List.range (unitElems d)).map (fun i => u * unitElems d + i)

/-- The collective that a product streams into. -/
def State.productColl (s : State) (pid : Nat) : Option CollSt := s.colls.find? (fun c => c.stream == some pid)

/-- The unit of a tensor that a write of it belongs to. -/
def unitAt (o : TDesc) (w : Nat × List Byte) : Nat := (w.1 - o.base) / 512

/-- Units of a streaming product's output that its released tiles complete are written, and leave for their reducers
(R115, R271). -/
def State.streamOut (s : State) (pid : Nat) (u : ExecUnit) : State :=
  match s.packet pid, s.productColl pid with
  | some p, some c =>
    let o := p.outDesc
    let now := (List.range (unitsOf o)).filter (fun n =>
      !c.avail.contains n && (unitIndices o n).all (fun i => (Tab.find p.vals i).isSome))
    if now.isEmpty then s
    else
      let ws := (writeTensor p.valueList o (s.writeCtx p) []).writes.filter (fun w => now.contains (unitAt o w))
      let r := s.writeMems (.iface u.channel) p.tag ws
      if r.2.isEmpty then r.1.advance { c with avail := c.avail ++ now } else r.1
  | _, _ => s

/-- Release a descriptor's output. -/
def State.releaseDesc (s : State) (d : Desc) (u : ExecUnit) : State :=
  match s.packet d.pid, d.kind, u with
  | some p, .tile b t, _ => (s.releaseTile d u p b t).streamOut p.pid u
  | some _, .part _, .engine st => s.releasePart d st
  | _, _, _ => s

/-- The cluster that runs a second execution for cluster k (R285): of the lowest-numbered HEALTHY quad of its channel
that is not under test, else of another channel, else of the lowest-numbered SUSPECT quad, else of its own quad; `not`
lists quads already used. -/
def State.otherCluster (s : State) (k : Nat) (used : List Nat) : Nat :=
  let fit := fun (q : Nat) => s.rd .unitHstate [q] == 0 && !used.contains q && !s.underTest q
  let c := k / 48
  let quad :=
    match ((List.range 12).map (fun j => 12 * c + j)).find? fit with
    | some q => q
    | none =>
      match (List.range 48).find? fit with
      | some q => q
      | none => ((List.range 48).find? (fun q => s.rd .unitHstate [q] == 1 && !used.contains q)).getD (k / 4)
  if 4 * quad = k then 4 * quad + 1 else 4 * quad

/-- A cluster of a channel for an engine's second execution (R285). -/
def State.homeCluster (s : State) (c : Nat) : Nat :=
  4 * (((List.range 12).map (fun j => 12 * c + j)).find? (fun q => !s.fenced q)).getD (12 * c)

/-- The unit of E2 (R285). -/
def State.secondUnit (s : State) (u : ExecUnit) : ExecUnit :=
  match u with
  | .cluster k => .cluster (s.otherCluster k [k / 4])
  | .engine st => .cluster (s.homeCluster (st / 5))

/-- A check event (R282): logged, counted, attributed to the unit that ran the execution (0 E0, 1 E1, 2 E2, 3 shadow). -/
def State.checkEvent (s : State) (u : ExecUnit) (code addr tag execution : Nat) : State :=
  let s := (match u with
    | .cluster k => s.log 0x06 code addr tag 10 k execution
    | .engine st => s.log 0x06 code addr tag 4 (56 + st) execution)
  (s.count .intCheckEvents [] 1).countUnit u 27 1

/-- A majority procedure begins over what a unit withheld (R285). -/
def State.addRetry (s : State) (what : RetryFor) (u0 u1 u2 : ExecUnit) (kind : Nat) : State :=
  { s with retries := s.retries ++ [{ id := s.nextId, what := what, u0 := u0, u1 := u1, u2 := u2, kind := kind }], nextId := s.nextId + 1 }

/-- What a check of an execution of a descriptor saw makes the check fail (R108, R109, R205): the checksum lane when the sum
that the array formed is not the right side of the identity, a residue check when the residues of its two sides differ. -/
def State.checkFails (s : State) (d : Desc) (c : CheckSeen) : Bool :=
  match s.packet d.pid, d.kind with
  | some p, .tile b t =>
    let es := tileElems p.outDesc (s.writeCtx p) t
    if c.code = 1 then
      checksumFails d.read p.segments b c.row c.block ((es.filter (fun e => e.1 == c.row)).map (fun e => e.2)) c.seen
    else decide (c.code ≤ 4) && residue c.seen != 0
  | some p, .part q =>
    let g := p.segments.getD q default
    if c.code = 1 then checksumFails d.read [g] 0 c.row c.block (List.range g.b.outLen) c.seen
    else decide (c.code ≤ 4) && residue c.seen != 0
  | _, _ => false

/-- The check event of an execution, when what was seen makes the check fail (R282). -/
def State.checkAgain (s : State) (d : Desc) (u : ExecUnit) (tag execution : Nat) (c : Check) : State :=
  match c with
  | some c => if s.checkFails d c then s.checkEvent u c.code (c.position) tag execution else s
  | none => s

/-- A tile pass or a part latches its readout (R110): it is released when no check fails, else withheld with a check
event and the majority procedure begins (R282, R285). It waits while a stack that it reads is at CRIT (R184, R230). -/
def State.latchDesc (s : State) (id : Nat) (check : Check) : State :=
  match s.desc id with
  | none => s
  | some d =>
    match d.phase, d.kind with
    | .running _, .vector => s
    | .running u, _ =>
      if s.descHeld d then s
      else
      let s := match s.packet d.pid with | some p => s.countPass d p u | none => s
      match check.filter (s.checkFails d) with
      | none =>
        let s := s.releaseDesc d u
        if d.shadowed then (s.addRetry (.desc id) u (s.secondUnit u) (s.secondUnit u) 1).setDesc { (s.desc id).getD d with checkedAgain := true }
        else s
      | some c =>
        let tag := ((s.packet d.pid).map (fun p => p.tag)).getD 0
        let s := s.checkEvent u c.code c.position tag 0
        (s.setDesc { d with phase := .withheld u, checkedAgain := true }).addRetry (.desc id) u u (s.secondUnit u) 0
    | _, _ => s

/-! The end of a launch (R89, R125, R137, R164). -/

/-- Bolts of a tensor that its writes assembled, counted in the slices that home them (R115, R362). -/
def State.countBolts (s : State) (o : TDesc) : State :=
  if o.elem.inBolts then
    (List.range (o.batch * o.bolts)).foldl (fun s i =>
      match s.homeChannel (o.boltAddr (i / o.bolts) (i % o.bolts)) with
      | some c => s.countEvent c 0x145 1
      | none => s) s
  else s

/-- The operand bytes that the descriptors of a packet read. -/
def State.packetRead (s : State) (pid : Nat) : Mem :=
  (s.descs.filter (fun d => d.pid == pid)).foldl (fun m d => d.read.foldl (fun m c => Mem.setByte m c.1 c.2) m) []

/-- Write a launch's output and end its packet: every bolt and byte, the feed and the amax of its attempt, the flag
vector as the status' detail (R89, R130). What is written counts as coming from the channel of the unit that ended last
(log 75). -/
def State.finishCompute (s : State) (pid : Nat) (u : ExecUnit) : State :=
  match s.packet pid with
  | none => s
  | some p =>
    let o := p.outDesc
    let w := s.writeCtx p
    let table := p.outTable
    let m := s.packetRead pid
    let mv : List F32 × List Event := match p.op with | .matvec .. => matvecValues m p.segments o.rows o.cols | _ => ([], [])
    let vals := match p.op with
      | .product .. => p.valueList
      | .matvec .. => mv.1
      | op => vectorValues m p.held s.gradScale op p.bound
    let out := if hasOut p.op then writeTensor vals o w table else { writes := [], events := [], widened := 0, feed := f32Zero }
    let flags := match p.op with
      | .product .. => p.flags
      | _ => FlagSet.ofEvents (mv.2 ++ out.events)
    let rep : Option WriteReport :=
      if p.inAttempt && hasOut p.op then
        some { tag := o.tag, layer := o.layer, telltale := o.telltale, backward := o.traffic != 0, feed := out.feed
               amax := writeAmax vals o w table, overflow := (Tab.find flags Flag.outlierOvf.bit).isSome }
      else none
    let raw := vectorRaw m p.held p.op p.bound
    -- what has streamed into a collective is written already (R271)
    let early := match s.productColl pid with | some c => c.avail | none => []
    let r := s.writeMems (.iface u.channel) p.tag (out.writes.filter (fun w => !early.contains (unitAt o w)) ++ raw)
    let s := r.1.updPacket pid (fun p => { p with flags := flags, report := rep, vals := [] })
    let v := FlagSet.vector flags
    if !r.2.isEmpty then (s.spoilPacket p).endPacket pid .memUncorrectable (faultDetail 0 0 (lowest r.2))
    else (if hasOut p.op then s.countBolts p.outDesc else s).endPacket pid (if v = 0 then .done else .doneFlagged) v

/-- Capture records of a cluster: each flag of a completed descriptor overwrites its record (R90). -/
def State.capture (s : State) (k tag id : Nat) (f : FlagSet) : State :=
  f.foldl (fun s e =>
    let i := [k / 48, k % 48, e.1]
    let p := e.2.first
    let s := (((s.wr .capValid i 1).wr .capEvents i (min e.2.count 65535)).wr .capTag i tag).wr .capDescId i id
    (((s.wr .capMatrix i p.matrix).wr .capRow i p.row).wr .capCol i p.col).wr .capKblock i p.kblock) s

/-- The flags and writer counts of a vector operation on its cluster. -/
def State.vectorFlags (s : State) (u : ExecUnit) (p : Packet) (d : Desc) : FlagSet × State :=
  if hasOut p.op then
    let o := p.outDesc
    let w := s.writeCtx p
    let table := p.outTable
    let vals := vectorValues d.read p.held s.gradScale p.op p.bound
    let out := writeTensor vals o w table
    let f := FlagSet.ofEvents out.events
    let jib := (List.range o.batch).foldl (fun n b => n + (extracted vals o w table b).length) 0
    (f, (s.countFlags u f).countWriter u o.elems (if o.elem.isNarrowFp then o.batch * o.nBlocks else 0) jib out.widened)
  else ([], s)

/-- The special-function results of a vector operation and its elements entered into VSUM, as the pseudocode of R120 and
R353 and the program of R194 call them (R360). -/
def vectorWork (m h : Mem) (op : Op) (ds : List TDesc) : Nat × Nat :=
  let d := ds.getD 0 default
  let t := rowsOf d
  let n := d.cols
  let open_ := ((List.range t).filter (fun r => rowMax (wideRow m d r) != f32InfS true)).length
  match op with
  | .softmax .. => (open_ * (n + 1), open_ * n)
  | .rmsnorm .. => (2 * t, t * n)
  | .layernorm .. => (2 * t, 2 * t * n)
  | .xent _ _ _ mean g =>
    let a := if mean = 0 then (0, 0) else (1, t)
    let b := if g = 0 then (0, 0) else (open_ * (n + 1) + 1, open_ * n)
    (t * (n + 1) + a.1 + b.1, t * n + a.2 + b.2)
  | .vprog prog _ _ _ =>
    (t * n * ((programWords (programAt h prog)).filter (fun w => decide (7 ≤ bitsOf w 31 28) && decide (bitsOf w 31 28 ≤ 10))).length, 0)
  | _ => (0, 0)

/-- A descriptor completes (R90, R366): its capture records and sample record are written; the last one of a launch
writes the launch's output. It waits while a stack that the launch writes is at CRIT (R230). -/
def State.endDesc (s : State) (id : Nat) : State :=
  match s.desc id with
  | none => s
  | some d =>
    match s.packet d.pid with
    | none => s
    | some p =>
      let go := fun (s : State) (u : ExecUnit) (f : FlagSet) =>
        let s := s.countUnit u 46 1
        let s := match u with | .cluster k => s.capture k p.tag d.id f | .engine _ => s
        let s := if d.selected then s.writeSample d u false else s
        let s := s.setDesc { d with phase := .done, flags := f }
        if s.descs.all (fun e => e.pid != p.pid || e.phase == .done) then s.finishCompute p.pid u else s
      if s.descHeld d then s
      else
      match d.phase, d.kind with
      | .released u, _ => go s u d.flags
      | .running u, .vector =>
        let r := s.vectorFlags u p d
        let w := vectorWork d.read p.held p.op p.bound
        go ((r.2.countUnit u 34 w.1).countUnit u 35 w.2) u r.1
      | _, _ => s

/-! Preemption (R27, R104–R106). -/

/-- Suspended contexts of a cluster. -/
def State.contexts (s : State) (k : Nat) : Nat := (s.descs.filter (fun d => d.phase == .suspended k)).length

/-- Passes that run on a cluster: one, or two while it drains a context (R294). -/
def State.passesOn (s : State) (k : Nat) : Nat := (s.descs.filter (fun d => d.on (.cluster k))).length

/-- The common blocks, or the groups of an integer product, of a launch. -/
def Packet.commonBlocks (p : Packet) : Nat :=
  if segInt p.segments then segGroups p.segments else segBlocks p.segments

/-- A pass may be suspended at a progress (R104): at a common block not yet started that is a multiple of the shape's rank
count, any group of an integer product; or in the outlier phase, before an outlier position; never before the progress it
was restored at. -/
def Packet.mayStop (p : Packet) (d : Desc) (q : Progress) : Bool :=
  Progress.le ((d.context.map (fun x => x.progress)).getD (.block 0)) q &&
  match q with
  | .block j => decide (j < p.commonBlocks) && (segInt p.segments || j % p.shape.ranks == 0)
  | .outlier k => !segInt p.segments && decide (k < segK p.segments)

/-- A cluster is preempted in its tile pass (R104): the context at that progress is saved (R105). A cluster with four
suspended contexts is not preempted, nor one that drains a context until that has ended (R294). -/
def State.preempt (s : State) (k : Nat) (q : Progress) : State :=
  match s.descs.find? (fun d => d.on (.cluster k)) with
  | none => s
  | some d =>
    match s.packet d.pid, d.kind with
    | some p, .tile b _ =>
      if 4 ≤ s.contexts k ∨ s.passesOn k ≠ 1 ∨ p.mayStop d q = false then s
      else
        let es := p.tileOfDesc (s.writeCtx p) d
        let x := (d.context.getD (Context.fresh p.shape.ranks es.length d.id)).run d.read p.shape.ranks p.segments b es q
        let s := s.setDesc { d with phase := .suspended k, context := some x, preempted := true, suspendedAt := s.aoNow }
        ((s.countCluster k 30 1).countCluster k 32 8448).countEvent (k / 48) 0x4C 1
    | _, _ => s

/-- A cluster whose four contexts keep its current pass from being preempted for the test that is due may run one of them to
its end beside that pass (R294 step 4). -/
def State.drainsContext (s : State) (k : Nat) : Bool :=
  s.unitServes (.cluster k) && s.contexts k == 4 && s.passesOn k == 1 &&
  (match s.quadTest (k / 48) with | some t => t.unit == k / 4 && t.expired | none => false)

/-- A suspended pass resumes on the cluster that saved it, from its context (R106). -/
def State.resume (s : State) (id : Nat) : State :=
  match s.desc id with
  | none => s
  | some d =>
    match d.phase with
    | .suspended k =>
      if s.unitFree (.cluster k) ∨ s.drainsContext k then
        let d := { d with phase := .running (.cluster k), suspendedFor := d.suspendedFor + (s.aoNow - d.suspendedAt) }
        ((s.setDesc d).countCluster k 31 1).countCluster k 32 8448
      else s
    | _ => s

end Sys2Proof.Machine
end

