-- ==== Sys2Proof/Machine/UnitOps.lean ====
section
/-! DEFINITION. Power domains of units, link-port enables, health states, fences, unit tests, and the majority procedure
(R20, R107, R184, R196, R237, R281–R299, R374, R402). -/

namespace Sys2Proof.Machine

/-! Domains (R372, R374). -/

/-- Set a domain's state; its fast clocks run only while it is ON. -/
def State.setDomain (s : State) (d st : Nat) : State := (s.wr .domDstate [d] st).wr .domClocksStopped [d] (b2n (st != 2))

/-- A waking domain is running (R375); a channel's cycle count restarts with its uncore (R356). -/
def State.domainOn (s : State) (d : Nat) : State :=
  let s := s.setDomain d 2
  if 48 ≤ d ∧ d < 52 then ({ s with cycleBase := Tab.put s.cycleBase (d - 48) s.aoNow }).wr .diePllLocked [d - 48] 1 else s

/-- The link-port group domain of a port. -/
def portGroup (p : Nat) : Nat := if p < 6 then 76 else 77

/-! Link-port enables (R237). -/

/-- ENABLE of a port becomes 1: a new LINK_SESSION; its group domain wakes, and it trains once the domain runs. A fenced
port ignores it (R298). -/
def State.enablePort (s : State) (p : Nat) : State :=
  if s.flag .portEnable [p] ∨ s.fenced (82 + p) then s
  else
    let s := (s.wr .portEnable [p] 1).bump .portLinkSession [p] 1
    let s := s.setPort p { PortSt.empty with waiting := (s.port p).waiting }
    (s.wake (portGroup p)).wr .portPstate [p] psTraining

/-- ENABLE of a port becomes 0: lanes idle, retry buffer, partial cells and credits discarded, while a cell not yet begun waits
on; the group domain is gated when the group has no enabled port (R237, R374). -/
def State.disablePort (s : State) (p : Nat) : State :=
  if !s.flag .portEnable [p] then s
  else
    let s := (s.discardPort p).wr .portEnable [p] 0
    let s := s.wr .portPstate [p] psIdle
    let g := portGroup p
    if s.flag .pwrAutoGate [] ∧ (List.range 6).all (fun i => !s.flag .portEnable [6 * (g - 76) + i]) then s.setDomain g 0 else s

/-! Replies of the management port (R401). -/

/-- REPLY to a command. -/
def State.reply (s : State) (seq : Nat) (st : Status) (detail : Nat) : State :=
  let m := mgmtMessage s.key 0xC0 seq s.aoNow (leBytes 1 st.code ++ zeros 7 ++ leBytes 8 detail)
  if s.flag .mgmtPortUp [] then s.emit (.mgmt m) else s

/-- Answer who asked for a test or a join. -/
def State.answer (s : State) (a : Asker) (st : Status) (detail : Nat) : State :=
  match a with
  | .none => s
  | .packet pid => s.endPacket pid st detail
  | .command seq => s.reply seq st detail

/-! Fences (R298). -/

/-- A retry's re-executions on a quad that is fenced before they latch are dispatched again by the rule of the first
choice, from E0's unit (R107, R285). -/
def State.repick (s : State) (q : Nat) (r : Retry) : Retry :=
  let again := fun (u : ExecUnit) =>
    match u with
    | .cluster k => if k / 4 = q then s.secondUnit r.u0 else u
    | e => e
  { r with u1 := again r.u1, u2 := again r.u2 }

/-- A descriptor on a fenced quad starts again from its first term elsewhere (R107). -/
def Desc.requeue (q : Nat) (d : Desc) : Desc :=
  match d.phase with
  | .running (.cluster k) => if k / 4 = q then { d with phase := .queued, context := none } else d
  | .suspended k => if k / 4 = q then { d with phase := .queued, context := none } else d
  | _ => d

/-- Packets of a list end with FAULT_UNIT. -/
def State.failPackets (s : State) (ps : List Packet) : State := ps.foldl (fun s p => s.failCompute p.pid .faultUnit 0) s

/-- Running launches that the units in service can no longer finish end with FAULT_UNIT (R298). -/
def State.failBlocked (s : State) : State :=
  s.failPackets (s.flight.filter (fun p => p.phase == .running && isCompute p.op && s.computeBlocked p &&
    s.descs.any (fun d => d.pid == p.pid && d.phase != .done)))

/-- A stack engine works on a commit phase or a reef rewrite now (R196). -/
def State.engineBusy (s : State) (st : Nat) : Bool :=
  (match s.commit with
   | some c => !c.stream.contains st && (stacksOf ((s.groups.map (fun g => g.shards)).flatten)).contains st
   | none => false) ||
  (!s.rewriteStream.contains st && (stacksOf ((s.rewriteShards s.rewrites).map (fun p => p.2))).contains st)

/-- Between-job units that a packet still tests. -/
def State.bjLeft (s : State) (a : Asker) : Bool := s.tests.any (fun t => t.asker == a)

/-- A unit of a BETWEEN_JOB_TEST is done, its test already off the list: the command ends with the count of failing units,
and fetching resumes, when it was the last (R295). -/
def State.bjUnitDone (s : State) (pid : Nat) (failed : Bool) : State :=
  let n := Tab.get 0 s.testFails pid + b2n failed
  if s.bjLeft (.packet pid) then { s with testFails := Tab.put s.testFails pid n }
  else
    let s := { s with testFails := Tab.del s.testFails pid, fetchHold := s.fetchHold.filter (fun x => x != pid) }
    s.endPacket pid (if n = 0 then .done else .faultUnit) (n % 256)

/-- The hold on fetching that an UNFENCE of a between-job unit by a management command takes; packets are numbered from 1. -/
def mgmtHold : Nat := 0

/-- A test ends for who asked for it (R295, R299). -/
def State.answerTest (s : State) (t : TestSt) (failed cut : Bool) : State :=
  match t.asker with
  | .packet pid =>
    if 56 ≤ t.unit ∧ !t.unfence then s.bjUnitDone pid failed
    else ({ s with fetchHold := s.fetchHold.filter (fun x => x != pid) }).endPacket pid
      (if failed then .faultUnit else .done) (if cut then 256 else 0)
  | .command seq =>
    ({ s with fetchHold := if 56 ≤ t.unit then s.fetchHold.erase mgmtHold else s.fetchHold }).reply seq
      (if failed then .faultUnit else .done) (if cut then 256 else 0)
  | .none => s

/-- Tests of a unit fail when it is fenced while they wait or run (R402). -/
def State.dropTests (s : State) (u : Nat) : State :=
  let mine := s.tests.filter (fun t => t.unit == u)
  let s := { s with tests := s.tests.filter (fun t => t.unit != u) }
  mine.foldl (fun s t => s.answerTest t true false) (s.wr .unitTesting [u] 0)

/-- The effects of FENCED on a unit (R298). -/
def State.fenceEffects (s : State) (u : Nat) : State :=
  let s := s.dropTests u
  if u < 48 then
    let s := s.setDomain u 3
    let s := { s with descs := s.descs.map (Desc.requeue u), retries := s.retries.map (s.repick u) }
    s.failBlocked
  else if u < 56 then (s.setDomain u 3).failBlocked
  else if u < 76 then
    let st := u - 56
    let s := if s.engineBusy st then s else s.setDomain u 3
    -- a launch whose part on the engine has been released needs it no more
    s.failPackets (s.flight.filter (fun p => p.phase == .running &&
      s.descs.any (fun d => d.pid == p.pid &&
        (match d.kind with | .part q => stackWindow (p.segments.getD q default).a.d.base == st | _ => false) &&
        (match d.phase with | .released _ => false | .done => false | _ => true))))
  else if 82 ≤ u ∧ u < 94 then s.disablePort (u - 82)
  else s

/-- Engines fenced during a commit phase or rewrite leave service when it ends (R196). -/
def State.settleFences (s : State) : State :=
  (List.range 20).foldl (fun s st =>
    if s.fenced (56 + st) ∧ s.rd .domDstate [56 + st] ≠ 3 ∧ !s.engineBusy st then s.setDomain (56 + st) 3 else s) s

/-- Seconds since cold reset. -/
def State.seconds (s : State) : Nat := s.aoNow / 50000000

/-! Health states (R296, R297). -/

/-- The health summary follows the unit entries (R303). -/
def State.refreshHealth (s : State) : State :=
  let n := fun v => ((List.range 96).filter (fun u => s.rd .unitHstate [u] == v)).length
  let q := ((List.range 48).filter (fun u => !s.fenced u)).length
  let s := ((s.wr .intClustersInService [] (4 * q)).wr .intSuspectCount [] (n 1)).wr .intFencedCount [] (n 2)
  s.wr .intWithheldAny [] (b2n ((List.range 96).any (fun u => s.flag .unitWithheld [u])))

/-- Units whose fence takes effect only by management command (R297). -/
def withheldClass (u : Nat) : Bool := (decide (48 ≤ u) && decide (u < 56)) || u == 94 || u == 95

/-- A health-state change: logged with its cause (1 test, 2 majority, 3 management, 4 host, 5 unfence), reported, and
with its effects (R296, R298, R300). -/
def State.setHealth (s : State) (u h cause : Nat) : State :=
  if s.rd .unitHstate [u] = h ∧ h ≠ 1 then s
  else
    let was := s.rd .unitHstate [u]
    let s := s.wr .unitHstate [u] h
    let s := if h = 1 ∧ u < 48 then ({ s with testClock := Tab.put s.testClock u s.seconds }) else s
    let s := if h = 1 then s.wr .unitClean [u] 0 else s
    let s := if h = 1 then s else s.wr .unitWithheld [u] 0
    let s := s.wr .unitFenceSource [u] (if h = 2 then cause else 0)
    let s := s.log 0x0A h 0 0 (unitClass u) u cause
    let s := if h = 2 then s.fenceEffects u else if was = 2 ∧ u < 76 then s.setDomain u (if u < 48 ∨ 56 ≤ u then 0 else 1) else s
    s.refreshHealth

/-- The rules want a unit FENCED: a unit of R297 stays SUSPECT with WITHHELD set. -/
def State.autoFence (s : State) (u cause : Nat) : State :=
  if withheldClass u then
    let s := if s.rd .unitHstate [u] = 0 then s.setHealth u 1 cause else s
    (s.wr .unitWithheld [u] 1).refreshHealth
  else
    let s := if cause = 1 then s.noteRisk 9 1 else s
    s.setHealth u 2 cause

/-- A unit is involved in, or in the minority of, a majority outcome (R286, R296). -/
def State.involve (s : State) (u : Nat) : State :=
  match s.rd .unitHstate [u] with
  | 0 => s.setHealth u 1 2
  | 1 => s.autoFence u 2
  | _ => s

/-- A test of a unit ended: result 0 pass, 1 failed at nominal conditions, 2 failed only at a corner, 3 CUT; `clean` is
CLEAN_TO_HEALTHY as it stood when the test fell due (R296, R303). -/
def State.testHealth (s : State) (u result clean : Nat) : State :=
  match s.rd .unitHstate [u], result with
  | 0, 1 => s.autoFence u 1
  | 0, 2 => s.setHealth u 1 1
  | 1, 0 =>
    let n := s.rd .unitClean [u] + 1
    let s := s.wr .unitClean [u] n
    if clean ≤ n then s.setHealth u 0 1 else s
  | 1, 1 => s.autoFence u 1
  | 1, 2 => s.autoFence u 1
  | _, _ => s

/-! Unit tests (R289–R295, R299). -/

/-- The corner that a slot of the unit runs next with CORNERS as given: NEXT_CORNER when it is enabled and applies, else the next that is,
3 for none (R290, R291). -/
def cornerFrom (corners u c : Nat) : Nat :=
  let ok := fun (x : Nat) => corners.testBit x && (decide (u < 48) || x == 0)
  if 56 ≤ u then 3
  else ([c % 3, (c + 1) % 3, (c + 2) % 3].find? ok).getD 3

/-- A test that falls due now: the fields that hold for it are those of this moment (R303). -/
def State.newTest (s : State) (u : Nat) (a : Asker) (unfence : Bool) : TestSt :=
  { unit := u, due := s.aoNow, asker := a, unfence := unfence, running := false, expired := false
    deferMs := s.rd .intMaxDeferMs [], corners := s.rd .intCorners [], clean := s.rd .intCleanToHealthy []
    cut := false, logFrom := 0, corrected := 0, reportFrom := 0 }

/-- A test is queued (R292, R299); tests wait in order of their due time. A gated domain of the unit wakes for it. -/
def State.queueTest (s : State) (u : Nat) (a : Asker) (unfence : Bool) : State :=
  let s := { s with tests := s.tests ++ [s.newTest u a unfence] }
  if u < 80 ∧ !s.fenced u then s.wake u else s

/-- Replace the first test of a unit. -/
def State.setTest (s : State) (t : TestSt) : State :=
  { s with tests := s.tests.map (fun x => if x.unit = t.unit ∧ x.due = t.due ∧ x.asker = t.asker then t else x) }

/-- The next test of a unit. -/
def State.testOf (s : State) (u : Nat) : Option TestSt := s.tests.find? (fun t => t.unit == u)

/-- Every cluster of a quad is parked (R294). -/
def State.parked (s : State) (q : Nat) : Bool := (List.range 4).all (fun i => !s.descs.any (fun d => d.on (.cluster (4 * q + i))))

/-- MAX_DEFER_MS passes: every cluster not yet parked is preempted at the progress given for it (R294 steps 3 and 4). A
cluster with four contexts stays; the command comes again once one of them has ended. -/
def State.deferExpiry (s : State) (u : Nat) (places : List Progress) : State :=
  match s.testOf u with
  | none => s
  | some t =>
    if t.running ∨ 48 ≤ u ∨ !s.quadHeld u ∨ s.aoNow < t.due + msTicks t.deferMs then s
    else
      let s := s.setTest { t with expired := true }
      (List.range 4).foldl (fun s i => s.preempt (4 * u + i) (places.getD i (.block 0))) s

/-- The unit's slot may start: it is the first test of its quad's channel, its clusters are parked and its domain is
powered, or it is FENCED; tests that need no parking start when none of their kind runs (R292, R294, R295, R299). -/
def State.slotReady (s : State) (t : TestSt) : Bool :=
  !t.running &&
  -- a between-job test: every started packet has written its status record
  (decide (t.unit < 56) || s.flight.all (fun p => t.asker == .packet p.pid || p.isWaiting)) &&
  (if t.unit < 48 then
     (match s.quadTest (t.unit / 12) with | some x => x == t | none => false) && s.parked t.unit &&
       (s.fenced t.unit || s.rd .domDstate [t.unit] == 2)
   else if t.unit = 95 then s.tests.all (fun x => x.unit == 95)
   else if 76 ≤ t.unit ∧ t.unit < 82 then !s.tests.any (fun x => x.running && decide (76 ≤ x.unit) && decide (x.unit < 82))
   else true)

/-- A test slot starts (R291, R294). The slot of UNIT_UNFENCE runs every enabled corner and leaves NEXT_CORNER (R299). -/
def State.slotStart (s : State) (u : Nat) : State :=
  match s.testOf u with
  | none => s
  | some t =>
    if !s.slotReady t then s
    else
      let late := decide (u < 48) && decide (t.due + msTicks t.deferMs + 500 < s.aoNow)
      let s := s.setTest { t with running := true, logFrom := s.rd .intIlogWritten []
                                  corrected := s.rd .llsLlsCorrected [u - 52], reportFrom := s.reportSeq }
      let s := ((s.wr .unitTesting [u] 1).wr .unitLastTestS [u] s.seconds).wr .unitLate [u] (b2n late)
      let s := if t.unfence then s else s.wr .unitNextCorner [u] (cornerFrom t.corners u (s.rd .unitNextCorner [u]))
      let s := if late then
          (s.count .intTestsLate [] 1).log 0x0B 0 0 0 (unitClass u) u
            (min ((s.aoNow - t.due - msTicks t.deferMs) / 50000) 65535)
        else s
      { s with descs := s.descs.map (fun d =>
          match d.phase with
          | .suspended k => if k / 4 = u then { d with tested := true } else d
          | _ => d) }

/-- Errors that the checks of a domain reported while its Winter slot ran (R291): log entries that name the unit, and words
that its slice corrected. -/
def State.slotErrors (s : State) (t : TestSt) : Bool :=
  decide (48 ≤ t.unit) && decide (t.unit < 56) && s.rd .unitNextCorner [t.unit] == 0 && t.corners.testBit 0 &&
  (s.ilog.any (fun e => decide (t.logFrom < e.seq) && e.uclass == unitClass t.unit && e.uindex == t.unit) ||
    (decide (52 ≤ t.unit) && s.rd .llsLlsCorrected [t.unit - 52] != t.corrected))

/-- The result of a slot (R291): what the kernels gave, but a corner pass that was cut short gives CUT, and an error of the
domain's own checks during a Winter slot fails it. -/
def State.slotResult (s : State) (t : TestSt) (result : Nat) : Nat :=
  if result = 1 then 1 else if s.slotErrors t then 2 else if t.cut then 3 else result

/-- The registers of a test's end (R289, R291, R300). A test of UNIT_UNFENCE runs every corner: at which of them a kernel
failed is open. -/
def State.testRegs (s : State) (t : TestSt) (result kernel skipped : Nat) : State :=
  let u := t.unit
  let c := if t.unfence then s.freeVal 2 else (s.rd .unitNextCorner [u], s)
  let corner := c.1
  let s := c.2
  let s := (s.wr .unitTesting [u] 0).wr .unitLastResult [u] (if result = 0 then 1 else if result = 3 then 3 else 2)
  let s := (s.bump .unitTestsRun [u] 1).count .intSkippedWindows [] skipped
  let failed := result == 1 || result == 2
  let s := if failed then (s.bump .unitTestsFailed [u] 1).wr .unitLastKernel [u] kernel else s
  let s := if result ≠ 3 ∧ u < 56 ∧ !t.unfence then s.wr .unitNextCorner [u] (cornerFrom t.corners u (corner + 1)) else s
  let shown := if corner < 3 ∧ result ≠ 1 then corner + 1 else 0
  s.log 0x09 (if result = 0 then 1 else if result = 3 then 3 else 2) 0 0 (unitClass u) u
    (shown + if failed then kernel % 256 * 256 else 0)

/-- The reports that queued while the management controller was under test leave (R295). -/
def State.sendQueued (s : State) (t : TestSt) : State :=
  if t.unit = 95 then
    (s.reports.filter (fun r => decide (t.reportFrom < r.1))).foldl (fun s r => s.sendDatagram r.2) s
  else s

/-- HBM channels of a stack whose failure in a between-job test of its engine lane repair cannot cover become PENDING with
CAUSE 3 (R222). -/
def State.testChannels (s : State) (u : Nat) (channels : List Nat) : State :=
  (channels.filter (fun x => decide (56 ≤ u) && decide (u < 76) && x / 32 == u - 56)).foldl (fun s x => s.makePending x 3) s

/-- A test slot ends (R222, R291, R294–R296, R299): its registers, the unit's health state, and the answer to who asked. -/
def State.slotEnd (s : State) (u result kernel skipped : Nat) (channels : List Nat) : State :=
  match s.testOf u with
  | none => s
  | some t =>
    if !t.running then s
    else
      let result := s.slotResult t result
      let s := { s with tests := s.tests.erase t }
      let s := ((s.testRegs t result kernel skipped).sendQueued t).testChannels u channels
      let failed := result == 1 || result == 2
      let s := if !t.unfence then s.testHealth u result t.clean else if result = 0 then s.setHealth u 1 5 else s
      s.answerTest t failed (result == 3)

/-- The refusals of BETWEEN_JOB_TEST for a set of units (R295). -/
def State.bjRefusal (s : State) (units : List Nat) (unfence : Bool) : Option Status :=
  if s.stepOpen ∨ !s.colls.isEmpty then some .notEnabled
  else if units.isEmpty ∨ units.any (fun u => (decide (82 ≤ u) && decide (u < 94) && s.flag .portEnable [u - 82]) ||
      (!unfence && s.fenced u)) then some .badParam
  else if units.any (fun u => decide (56 ≤ u) && decide (u < 76) && s.rd .stkTstate [u - 56] == 2) then some .thermalHold
  else none

/-- BETWEEN_JOB_TEST (R295). -/
def State.betweenJob (s : State) (pid mask : Nat) : State :=
  let units := ((List.range 40).filter (fun b => mask.testBit b)).map (fun b => 56 + b)
  if 2 ^ 40 ≤ mask then s.endPacket pid (if s.stepOpen ∨ !s.colls.isEmpty then .notEnabled else .badParam) 0
  else
    match s.bjRefusal units false with
    | some st => s.endPacket pid st 0
    | none => units.foldl (fun s u => s.queueTest u (.packet pid) false) { s with fetchHold := s.fetchHold ++ [pid] }

/-- UNIT_TEST and TEST_NOW (R299). -/
def State.unitTest (s : State) (a : Asker) (u : Nat) : State :=
  if 56 ≤ u then s.answer a .badParam 0 else s.queueTest u a false

/-- UNIT_FENCE (cause 4) and FENCE (cause 3): the classes of R297 only by management, MGMT never (R297, R299, R401). -/
def State.unitFence (s : State) (a : Asker) (u cause : Nat) : State :=
  if 95 ≤ u ∨ (cause = 4 ∧ withheldClass u) then s.answer a .badParam 0
  else (s.setHealth u 2 cause).answer a .done 0

/-- UNIT_UNFENCE and UNFENCE (R299). -/
def State.unitUnfence (s : State) (a : Asker) (u : Nat) : State :=
  if 95 < u ∨ !s.fenced u then s.answer a .badParam 0
  else if 56 ≤ u then
    match s.bjRefusal [u] true with
    | some st => s.answer a st 0
    | none =>
      let hold := match a with | .packet pid => pid | _ => mgmtHold
      ({ s with fetchHold := s.fetchHold ++ [hold] }).queueTest u a true
  else s.queueTest u a true

/-- BJ_OVERDUE (R293). -/
def State.overdueCheck (s : State) : State :=
  let due := s.rd .intBjDueHours [] * 3600
  let due40 := (List.range 40).any (fun b => decide (s.rd .unitLastTestS [56 + b] + due < s.seconds))
  if due40 = s.flag .intBjOverdue [] then s
  else (s.wr .intBjOverdue [] (b2n due40)).report 0x06
    ([if due40 then 2 else 3, 0xFF] ++ leBytes 2 (s.rd .pwrInputMv []) ++ zeros 4)

/-! The majority procedure (R284–R287). -/

/-- The phase is an end with a fault status. -/
def Phase.isFault : Phase → Bool
  | .ended st _ _ => st.isFault
  | _ => false

/-- A packet that has been released ends with FAULT_CHECK over its earlier end (R287). -/
def State.overrideEnd (s : State) (pid : Nat) (outcome : Nat) : State :=
  match s.packet pid with
  | none => s
  | some p =>
    if p.isEnded then
      if p.phase.isFault then s
      else s.updPacket pid (fun p => { p with phase := .ended .faultCheck (faultDetail 0 outcome 0) false })
    else s.failCompute pid .faultCheck (faultDetail 0 outcome 0)

/-- A batch of the group in progress is written (R192, R283). What it reads is checked as it is read: a bolt with an error, or a
gradient bolt that fails R55, stops the commit with nothing of the batch written (R172, R189). Its bolts join a shroud copy as
they are written (R311). -/
def State.writeBatch (s : State) (sh n : Nat) : State :=
  match s.step, s.commit with
  | some t, some c =>
    match s.groups.find? (fun g => g.num == c.todo.headD 0) with
    | none => s
    | some g =>
      match g.shards[sh]? with
      | none => s
      | some x =>
        if x.batches ≤ n ∨ c.written.contains (sh, n) then s
        else
          let k := stackWindow x.base
          let via := streamVia (c.stream.contains k) k
          let s := s.readsTraffic via (x.batchArrays g n ++ x.batchGrad n)
          let bad := s.batchBad g x n
          let cs := s.batchChecks x n
          if !bad.isEmpty then (s.noteBads 0 bad).commitStop .memUncorrectable (some k)
          else if !cs.isEmpty then (s.logChecks 0 cs).commitStop .faultCheck (some k)
          else
            let r := s.writeMems via 0 (s.batchWrites g x (hyperOf t.hyper g.hyperSet) c.bias n)
            let c := { c with written := c.written ++ [(sh, n)], withheld := c.withheld.filter (fun w => w != (sh, n)) }
            let s := { r.1 with commit := some c }
            let s := s.sampleOnce (k / 5) 2 k x.master 0
            let s := (s.bump .engElemsUpdated [k / 5, k % 5] (x.batch n).length).stackEvent k 11 (x.batch n).length
            if r.2.isEmpty then s.sendWritten x (x.batchArrays g n) else s.commitStop .memUncorrectable (some k)
  | _, _ => s

/-- The packet that a retry's execution belongs to, and its descriptor. -/
def State.retryPacket (s : State) (r : Retry) : Option (Desc × Packet) :=
  match r.what with
  | .desc id => (s.desc id).bind (fun d => (s.packet d.pid).map (fun p => (d, p)))
  | .batch .. => none

/-- Involve each health unit of a list once. -/
def State.involveAll (s : State) (us : List ExecUnit) : State := ((us.map ExecUnit.health).eraseDups).foldl State.involve s

/-- The outcome code of R286 from the agreements of E2 with E0 and with E1. -/
def outcomeOf (e0e2 e1e2 : Bool) : Nat := if e0e2 then 1 else if e1e2 then 2 else 3

/-- The parts of an outcome that every majority shares (R286, R287): its count, its log entry, the reason
INTEGRITY_RESOLVED, the risk estimate, and the units' health states. -/
def State.noteOutcome (s : State) (r : Retry) (tag : Nat) (inAttempt : Bool) (e1e2 : Bool) (outcome : Nat) : State :=
  let s := match outcome with
    | 1 => s.count .intCheckerWrong [] 1
    | 2 => (s.count .intResultWrong [] 1).noteRisk 9 1
    | _ => (s.count .intNoMajority [] 1).noteRisk 10 1
  let s := s.log 0x07 outcome 0 tag (unitClass r.u0.health) r.u0.health r.u2.health
  let s := if outcome < 3 ∧ inAttempt then s.raise (2 ^ 13) else s
  match outcome with
  | 1 => s.involveAll (if e1e2 then [r.u0] else [r.u0, r.u1])
  | 2 => s.involveAll [r.u0]
  | _ =>
    let s := s.involveAll [r.u0, r.u1, r.u2]
    ([r.u0, r.u1, r.u2].map ExecUnit.health).eraseDups.foldl (fun s u =>
      if u < 48 ∧ !s.fenced u ∧ s.flag .intTestEnable [] then s.queueTest u .none false else s) s

/-- A check event of a re-execution or a shadow, when what was seen makes the check fail (R282, R285). -/
def State.retryCheck (s : State) (r : Retry) (u : ExecUnit) (execution : Nat) (c : Check) : State :=
  match s.retryPacket r, c with
  | some q, some k => if s.checkFails q.1 k then s.checkEvent u k.code k.position q.2.tag execution else s
  | none, some k => if residue k.seen ≠ 0 then s.checkEvent u k.code k.position 0 execution else s
  | _, none => s

/-- A shadow execution or a re-execution counts every event that it causes (R359). -/
def State.countAgain (s : State) (r : Retry) (u : ExecUnit) : State :=
  match s.retryPacket r with | some q => s.countPass q.1 q.2 u | none => s

/-- What a majority releases (R286, R287): the withheld result of a descriptor, or a batch; nothing when no majority was
reached, and nothing anew after a shadow disagreement. -/
def State.releaseMajority (s : State) (r : Retry) (o : Nat) : State :=
  match r.what with
  | .desc did =>
    match s.desc did with
    | none => s
    | some d => if r.kind = 0 ∧ o ≠ 3 then s.releaseDesc d r.u0 else s
  | .batch sh n => if o = 3 then s else s.writeBatch sh n

/-- What a majority ends (R287): the command of a tile without a majority, the command of a released tile whose result was
wrong, and the commit of a batch without a majority. -/
def State.failMajority (s : State) (r : Retry) (o : Nat) : State :=
  match r.what with
  | .desc did =>
    match s.desc did with
    | none => s
    | some d =>
      if r.kind = 0 then (if o = 3 then s.failCompute d.pid .faultCheck (faultDetail 0 3 0) else s)
      else if o = 1 then s
      else s.overrideEnd d.pid o
  | .batch sh _ =>
    match s.commit with
    | none => s
    | some c =>
      if o = 3 then
        s.commitStop .faultCheck
          ((s.groups.find? (fun g => g.num == c.todo.headD 0)).bind (fun g => (g.shards[sh]?).bind (fun x => s.stackOf x.base)))
      else s

/-- E1 and E2 complete (R286): `c1` and `c2` are what their own checks saw. What is released goes out before the units'
health states change, exactly as without the check event (R287). -/
def State.majority (s : State) (id : Nat) (e0e2 e1e2 : Bool) (c1 c2 : Check) : State :=
  match s.retries.find? (fun r => r.id == id) with
  | none => s
  | some r =>
    if r.kind = 1 then s
    else
      let x := s.retryPacket r
      let tag := match x with | some q => q.2.tag | none => 0
      let att := match x with | some q => q.2.inAttempt | none => true
      let s := if r.kind = 0 then ((s.retryCheck r r.u1 1 c1).countAgain r r.u1).countUnit r.u1 29 1 else s
      let s := ((s.retryCheck r r.u2 2 c2).countAgain r r.u2).countUnit r.u2 29 1
      let o := outcomeOf e0e2 e1e2
      let s := { s with retries := s.retries.filter (fun q => q.id != id) }
      ((s.releaseMajority r o).noteOutcome r tag att e1e2 o).failMajority r o

/-- A shadow execution completes (R284): an agreement without a check event ends it; a disagreement, or a failing check of
the shadow (R282), starts a third execution chosen as E2 is, and the majority procedure decides. -/
def State.shadowDone (s : State) (id : Nat) (agree : Bool) (c : Check) : State :=
  match s.retries.find? (fun r => r.id == id) with
  | none => s
  | some r =>
    if r.kind ≠ 1 then s
    else
      let s := ((s.count .intShadowPasses [] 1).countAgain r r.u1).countUnit r.u1 28 1
      let failed := match s.retryPacket r, c with | some q, some k => s.checkFails q.1 k | _, _ => false
      let s := s.retryCheck r r.u1 3 c
      if agree ∧ !failed then { s with retries := s.retries.filter (fun q => q.id != id) }
      else
        let tag := match s.retryPacket r with | some q => q.2.tag | none => 0
        let s := if agree then s
          else (s.log 0x08 0 0 tag (unitClass r.u0.health) r.u0.health r.u1.health).count .intShadowMismatches [] 1
        { s with retries := s.retries.map (fun q => if q.id = id then { q with kind := 2, u2 := s.secondUnit r.u0 } else q) }

end Sys2Proof.Machine
end

