-- ==== Sys2Proof/Machine/MemOps.lean ====
section
/-! DEFINITION. Memory events: errors and scrub, map-out and rebuild, scratchpad partitions, stack temperature, and
arbiters (R214–R234). -/

namespace Sys2Proof.Machine

/-! Device addresses of HBM channel offsets: the inverse of locate (R216). -/

/-- The region that an offset of HBM channel x belongs to, and the offset within its share. -/
def State.regionAt (s : State) (x o : Nat) : Region × Nat :=
  let c := x / 160
  let d := s.dShare * unit64M
  let e := d + s.cShareOf c * unit64M
  if o < d then (.device, o) else if o < e then (.channel c, o - d) else (.stack (x / 32), o - e)

/-- The device address of an offset of HBM channel x; none for a mapped-out channel. -/
def State.addrOf (s : State) (x o : Nat) : Option Nat :=
  let r := s.regionAt x o
  let hl := s.healthyList r.1
  let n := hl.length
  match hl.findIdx? (fun y => y == x) with
  | none => none
  | some i =>
    let q := r.2 / 512
    let h := (q ^^^ (q >>> 16) ^^^ (q >>> 32)) % 65536
    some (r.1.base + (q * n + (i + n - h % n) % n) * 512 + o % 512)

/-! Errors (R218–R220, R228). -/

/-- A bolt of HBM memory holds an uncorrectable error from now on (R219). -/
def State.hbmUpset (s : State) (b : Nat) : State := if s.ue.contains b then s else { s with ue := s.ue ++ [b] }

/-- A correctable burst of a bolt stays in its array until scrub or a write repairs it (R218); a bolt has sixteen. -/
def State.burstUpset (s : State) (b : Nat) : State := { s with ce := Tab.upd 0 s.ce b (fun n => min 16 (n + 1)) }

/-- An uncorrectable error in a dirty line: the bolt enters the lost-bolt table; a 65th entry sets LOST_OVERFLOW
(R228). -/
def State.loseBolt (s : State) (b : Nat) : State :=
  match s.homeChannel b with
  | none => s
  | some c =>
    let n := s.rd .llsLostCount [c]
    let s := (s.countEvent c 0x14B 1).noteRisk 2 1
    if (List.range n).any (fun k => s.rd .llsLostAddr [c, k] == b) then s
    else if n < 64 then (s.wr .llsLostAddr [c, n] b).wr .llsLostCount [c] (n + 1)
    else (s.wr .llsLostOverflow [c] 1).log 0x03 3 b 0 3 (52 + c) n

/-- An uncorrectable error in a clean line, or in a line being filled: it is logged, and the line fetched again (R228). -/
def State.dropLine (s : State) (b : Nat) : State :=
  let c := (s.homeChannel b).getD 0
  (s.noteRisk 2 1).log 0x03 0 b 0 3 (52 + c) (s.rd .llsLostCount [c])

/-- What an access meets in the memory path (R218, R219, R228): 0 nothing new; 1 an uncorrectable error in a clean LLS line;
2 in a dirty line, which a stack-local line never is (R226); 3 in scratchpad; 4 an uncorrectable HBM error; 5 a corrected
LLS word; 6 a correctable HBM burst. An error that the address cannot have does not occur. -/
def State.upset (s : State) (b code : Nat) : State :=
  match code, regionOf b with
  | 1, some (.lls _) => s
  | 1, some _ => s.dropLine b
  | 2, some (.lls _) => s
  | 2, some (.stack _) => s.dropLine b
  | 2, some _ => s.loseBolt b
  | 3, some (.lls _) => s.hbmUpset b
  | 4, some (.lls _) => s
  | 4, some _ => s.hbmUpset b
  | 5, some _ =>
    match s.homeChannel b with
    | some c => (s.count .llsLlsCorrected [c] 1).countEvent c 0x14A 1
    | none => s
  | 6, some (.lls _) => s
  | 6, some _ => s.burstUpset b
  | _, _ => s

/-- LOST_CLEAR empties a slice's lost-bolt table (R228). -/
def State.lostClear (s : State) (c : Nat) : State :=
  let s := (List.range 64).foldl (fun s k => s.wr .llsLostAddr [c, k] 0) s
  (s.wr .llsLostCount [c] 0).wr .llsLostOverflow [c] 0

/-- Bolts of an HBM channel. -/
def channelBolts : Nat := 4194304

/-- Where patrol scrub stands on a stack (R220): the bolt that it reads next, by HBM channel of the stack and offset, channels
mapped out passed over; none when the pass of this period is complete. -/
def State.scrubNext (s : State) (st : Nat) : Option Nat :=
  let pos := Tab.get 0 s.patrol.pos st
  match ((List.range 32).drop (pos / channelBolts)).find? (fun h => !s.mappedOut (32 * st + h)) with
  | none => none
  | some h => some (max pos (h * channelBolts))

/-- Patrol scrub reads its next bolt on a stack (R218, R220): corrected bursts, those known and `bursts` new ones, are counted
and written back; an uncorrectable error is noted and left. With scrub off, or a pass that is complete, nothing happens; at
CRIT it pauses. -/
def State.scrubAccess (s : State) (st bursts : Nat) (uncorrectable : Bool) : State :=
  if 20 ≤ st ∨ s.flag .memScrubEnable [] = false then s
  else if s.stackHeld st then
    { s with patrol := { s.patrol with held := if s.patrol.held.contains st then s.patrol.held else s.patrol.held ++ [st] } }
  else
    match s.scrubNext st with
    | none => s
    | some p =>
      let x := 32 * st + p / channelBolts
      let s := { s with patrol := { s.patrol with pos := Tab.put s.patrol.pos st (p + 1), last := s.aoNow } }
      let s := (s.wakeStack x).stackEvent st 6 1
      match s.addrOf x (p % channelBolts * 512) with
      | none => s
      | some b =>
        let s := s.corrected x (min 16 (Tab.get 0 s.ce b + bursts))
        let s := { s with ce := Tab.del s.ce b }
        let s := if uncorrectable then s.hbmUpset b else s
        if s.ue.contains b then s.noteBad 0 b else s

/-- Patrol scrub reaches a bolt of HBM channel x (R220). It goes in ascending order on each stack, so it reaches the next bolt
there and no other; a stack that is held pauses it wherever it stands. -/
def State.scrubReaches (s : State) (x bolt bursts : Nat) (uncorrectable : Bool) : State :=
  let st := x / 32
  if s.stackHeld st ∨ (bolt < channelBolts ∧ s.scrubNext st = some (x % 32 * channelBolts + bolt)) then
    s.scrubAccess st bursts uncorrectable
  else s

/-- AO ticks of a scrub period (R220). -/
def State.scrubTicks (s : State) : Nat := s.rd .memScrubHours [] * 3600 * 50000000

/-- A scrub period is over (R220): patrol scrub runs, SCRUB_HOURS have passed, and every stack's pass is complete. -/
def State.scrubOver (s : State) : Bool :=
  s.flag .memScrubEnable [] && decide (s.patrol.since + s.scrubTicks ≤ s.aoNow) &&
  (List.range 20).all (fun st => (s.scrubNext st).isNone)

/-- A pause at CRIT drew the scrub period out (R220). -/
def State.scrubDrawn (s : State) : Bool := !s.patrol.held.isEmpty && decide (s.patrol.since + s.scrubTicks < s.patrol.last)

/-- A scrub period ends (R220, R222), late or not as it went: the corrected-burst counts restart; a late period is counted in
SCRUB_LATE. -/
def State.scrubPeriodEnd (s : State) (late : Bool) : State :=
  if s.scrubOver ∧ s.scrubDrawn = late then
    let s := (List.range 640).foldl (fun s x => s.wr .hbmCeCount [x] 0) s
    let s := s.bump .memScrubPasses [] 1
    let s := if late then s.bump .memScrubLate [] 1 else s
    { s with patrol := { pos := [], held := [], since := s.aoNow, last := s.aoNow } }
  else s

/-! Rebuild (R223, R224). -/

/-- A channel becomes MAPPED_OUT: logged, reported, in the flash list (R221, R222). -/
def State.mapOut (s : State) (x cause : Nat) : State :=
  let s := ((s.wr .hbmState [x] 2).wr .hbmCause [x] cause).log 0x0D 2 0 0 9 x cause
  ({ s with flashMap := insertRising x s.flashMap }).noteRisk 1 1

/-- C_SHARE as written, by channel. -/
def State.cShareWritten (s : State) : List Nat := (List.range 4).map (fun c => s.rd .memCShare [] / 2 ^ (8 * c) % 64)
/-- The written shares fit 32 units (R234). -/
def State.sharesFit (s : State) : Bool := s.cShareWritten.all (fun c => decide (s.rd .memDShare [] + c ≤ 32))

/-- The HBM regions of the device. -/
def hbmRegions : List Region :=
  .device :: ((List.range 4).map Region.channel ++ (List.range 20).map Region.stack)

/-- Bytes of a region's window. -/
def Region.window : Region → Nat
  | .device => 0x020000000000 | .channel _ => 0x008000000000 | .stack _ => 0x001000000000 | .lls _ => 0x20000000

/-- The state after steps 2 and 3: PENDING channels mapped out and the written shares in force. -/
def State.applyShares (s : State) : State :=
  let s := ((List.range 640).filter (fun x => s.rd .hbmState [x] == 1)).foldl (fun s x => s.mapOut x (s.rd .hbmCause [x])) s
  { s with dShare := s.rd .memDShare [], cShare := s.cShareWritten }

/-- The regions that a rebuild would rebuild, judged against the state after steps 2 and 3: those whose members or
share change. -/
def State.rebuilt (s new : State) : List Region :=
  hbmRegions.filter (fun r => s.healthyList r != new.healthyList r || s.shareOf r != new.shareOf r)

/-- Stacks that hold a member channel of a region. -/
def regionStacks : Region → List Nat
  | .device => List.range 20
  | .channel c => (List.range 5).map (fun i => 5 * c + i)
  | .stack st => [st]
  | .lls _ => []

/-- The refusal of REGION_REBUILD (R223). -/
def State.rebuildRefusal (s : State) : Option Status :=
  if s.stepOpen then some .notEnabled
  else if !s.sharesFit then some .badParam
  else
    let rs := s.rebuilt s.applyShares
    if ((rs.map regionStacks).flatten).any (fun st => s.rd .stkTstate [st] == 2) then some .thermalHold else none

/-- Whole bolts become zero: their bytes, their errors and their lost-bolt entries are gone (R219, R228). -/
def State.zeroRange (s : State) (a n : Nat) : State :=
  let within := fun (b : Nat) => decide (a ≤ b) && decide (b < a + n)
  let lost := ((List.range 4).map (fun c =>
    ((List.range (s.rd .llsLostCount [c])).map (fun k => s.rd .llsLostAddr [c, k])).filter within)).flatten
  let s := lost.foldl State.clearBolt s
  { s with mem := s.mem.zero a n, ue := s.ue.filter (fun b => !within b), ce := s.ce.filter (fun p => !within p.1) }

/-- The stack engines write a region's whole new extent through their TSV paths (R223). -/
def State.zeroTraffic (s : State) (r : Region) : State :=
  (List.range 20).foldl (fun s st =>
    let n := ((s.healthyList r).filter (fun x => x / 32 == st)).length * (s.shareOf r).2
    if n = 0 then s else (s.stackEvent st 3 n).countBw st true n) s

/-- A region becomes zero (R223). -/
def State.zeroRegion (s : State) (r : Region) : State := (s.zeroTraffic r).zeroRange r.base r.window

/-- Steps 2 to 5 of a rebuild: the new state and the regions rebuilt. -/
def State.rebuild (s : State) : State × List Region :=
  let new := s.applyShares
  let rs := s.rebuilt new
  let s := rs.foldl State.zeroRegion new
  let s := if rs.any (fun r => match r with | .stack _ => true | _ => false) then
      ({ s with groups := [], groupTable := [] }).wr .seGroupsLoaded [] 0
    else s
  (s, rs)

/-! Scratchpad partitions (R227). -/

/-- UNIT_FREE follows the held partitions. -/
def State.refreshUnits (s : State) (c : Nat) : State :=
  s.wr .llsUnitFree [c] (((List.range 16).filter (fun u => !s.unitHeld c u)).foldl (fun n u => n + 2 ^ u) 0)

/-- The lowest run of n free units of slice c. -/
def State.freeRun (s : State) (c n : Nat) : Option Nat :=
  (List.range (17 - n)).find? (fun u => (List.range n).all (fun i => !s.unitHeld c (u + i)))

/-- Take a partition when a run is free: its first unit (R227). -/
def State.takePartition (s : State) (c n : Nat) : Option (Nat × State) :=
  (s.freeRun c n).map (fun u =>
    let s := ({ s with partitions := s.partitions ++ [(c, u, n)] }).zeroRange ((Region.lls c).base + u * unit32M) (n * unit32M)
    (u, s.refreshUnits c))

/-- LLS_PARTITION at its start: refused, taken, or waiting for units (R21, R27, R227, R351). -/
def State.partition (s : State) (pid c n : Nat) : State :=
  if n = 0 ∨ 3 < c then s.endPacket pid .badParam 0
  else if 16 < n then s.endPacket pid .noResource 0
  else if s.channelUp c = false then s.endPacket pid .faultUnit 0
  else
    match s.takePartition c n with
    | some r => r.2.endPacket pid .done r.1
    | none => s

/-- Waiting LLS_PARTITION packets take units in the order of their fetch. -/
def State.settlePartitions (s : State) : State :=
  (s.flight.filter (fun p => p.phase == .running)).foldl (fun s p =>
    match p.op with
    | .llsPartition c n => s.partition p.pid c n
    | _ => s) s

/-- A partition holds the staging of its slice, and a collective is in flight (R270). -/
def State.stagingBusy (s : State) (c u n : Nat) : Bool :=
  !s.colls.isEmpty && s.rd .stageUnits [c] != 0 && decide (u < s.rd .stageFirst [c] + s.rd .stageUnits [c]) &&
  decide (s.rd .stageFirst [c] < u + n)

/-- LLS_RELEASE (R5, R21, R227, R270): the units return to the cache and their content is discarded. -/
def State.releasePartition (s : State) (pid c u : Nat) : State :=
  match s.partitions.find? (fun p => p.1 == c && p.2.1 == u) with
  | none => s.endPacket pid .badParam 0
  | some p =>
    if s.stagingBusy c u p.2.2 then s.endPacket pid .badParam 0
    else if s.channelUp c = false then s.endPacket pid .faultUnit 0
    else
      let s := ({ s with partitions := s.partitions.erase p }).zeroRange ((Region.lls c).base + u * unit32M) (p.2.2 * unit32M)
      ((s.refreshUnits c).endPacket pid .done 0).settlePartitions

/-! Stack temperature (R229). -/

/-- A THERMAL report (R400): source, state, temperature. -/
def State.reportThermal (s : State) (source st temp : Nat) : State :=
  s.report 0x02 (leBytes 1 source ++ leBytes 1 st ++ leBytes 1 temp ++ zeros 5)

/-- The thermal state that a reading gives, from the one in force (R229): 0 NORMAL, 1 WARN, 2 CRIT. -/
def thermalNext (now temp : Nat) : Nat :=
  if 105 ≤ temp then 2
  else if now = 2 then (if temp < 100 then 1 else 2)
  else if now = 1 then (if temp < 92 then 0 else 1)
  else if 95 ≤ temp then 1 else 0

/-- A stack's reading takes effect (R229): its state, its entry counts, THROTTLED, the report and the risk estimate. A SLOW
notice goes out at once (R278); a commit phase that waited for the stack goes on (R184). -/
def State.stackTemp (s : State) (st temp : Nat) : State :=
  let was := s.rd .stkTstate [st]
  let now := thermalNext was temp
  let s := s.wr .stkTemp [st] temp
  if was = now then s
  else
    let s := (s.wr .stkTstate [st] now).wr .engThrottled [st / 5, st % 5] (b2n (now == 1))
    let warn := now == 1 && was != 1 || (now == 2 && was == 0)
    let s := if warn then (s.bump .stkWarnEntries [st] 1).noteRisk 3 1 else s
    let s := if now = 2 then (s.bump .stkCritEntries [st] 1).noteRisk 4 1 else s
    let s := (s.reportThermal (5 + st) now temp).slowCheck
    if was = 2 then s.resumeCommit else s

/-- One AO tick at CRIT for every stack there (R234). -/
def State.critTick (s : State) : State :=
  if s.anyCrit then
    (List.range 20).foldl (fun s st =>
      if s.rd .stkTstate [st] = 2 then
        let n := Tab.get 0 s.critTicks st + 1
        ({ s with critTicks := Tab.put s.critTicks st n }).wr .stkCritTicks [st] (min (n / 65536) (2 ^ 32 - 1))
      else s) s
  else s

/-! Arbiters (R231, R233). -/

/-- FREEZE of an arbiter instance is written (R233). -/
def State.freeze (s : State) (a : Nat) (on : Bool) : State :=
  let s := s.wr .arbFreeze [a] (b2n on)
  if on then s else s.wr .arbDrained [a] 0

/-- Every transfer granted before a freeze has completed (R233): none is left to deliver. -/
def State.drained (s : State) (a : Nat) : State :=
  if s.flag .arbFreeze [a] && (s.arb a).next.isNone then s.wr .arbDrained [a] 1 else s

end Sys2Proof.Machine
end

