-- ==== Sys2Proof/Machine/ShroudOps.lean ====
section
/-! DEFINITION. Shroud copies and restore as received: a source's answers, the holder's slots, serving a FETCH, RESTORE,
pairing, and the risk estimate (R306–R316, R319–R323). -/

namespace Sys2Proof.Machine

/-! The source (R310–R315). -/

/-- Release the fetching that a packet holds. -/
def State.releaseFetch (s : State) (pid : Nat) : State := { s with fetchHold := s.fetchHold.filter (fun x => x != pid) }

/-- The cells of a copy that have not begun to leave are sent no more, and its manifest is not signed (R312). -/
def State.dropCells (s : State) (c : CopySt) : State :=
  let s := { s with signing := s.signing.filter (fun g => !(g.holder == c.holder && g.slot == c.slot)) }
  (List.range 12).foldl (fun s p =>
    let q := s.port p
    let keep := q.waiting.filter (fun w => !s.copyCell c w.2)
    if keep.length = q.waiting.length then s else s.setPort p { q with waiting := keep }) s

/-- A copy is abandoned (R312, R314, R315): counted with its cause, and its SHROUD_COPY ends. -/
def State.dropCopy (cause : Nat) (s : State) (c : CopySt) : State :=
  let s := (s.dropCells c).countAbandon cause c.step
  match c.pid with
  | some pid => (s.releaseFetch pid).endPacket pid .partnerLost cause
  | none => s

/-- Every copy not yet complete, oldest first. -/
def State.copies (s : State) : List CopySt := s.copyWas ++ s.copy.toList

/-- The copies that satisfy a test are abandoned (R312, R314): no further cell of them is sent, and a commit goes on without
its copy. -/
def State.abandonCopies (s : State) (cause : Nat) (p : CopySt → Bool) : State :=
  let gone := s.copies.filter p
  if gone.isEmpty then s
  else
    let s := { s with copyWas := s.copyWas.filter (fun c => !p c), copy := s.copy.filter (fun c => !p c) }
    (gone.foldl (State.dropCopy cause) s).resumeCommit

/-- SHROUD_COPY (R315): refused, or begun. While another copy is still being read and sent, it waits (log 77). -/
def State.shroudCopy (s : State) (pid : Nat) : State :=
  if s.flag .shrEnable [] = false ∨ s.rd .shrSrcState [] ≠ 2 ∨ s.stepOpen then s.endPacket pid .notEnabled 0
  else if (s.copy.map (fun c => c.sent)) = some false then s
  else if ((List.range 20).map s.imageRanges).flatten.any (fun r => s.unavailIn r.1 r.2) then s.endPacket pid .faultUnit 0
  else
    let r := s.beginCopy (some pid) ((s.rd .stNextStep [] + 2 ^ 64 - 1) % 2 ^ 64)
    if r.2 then { r.1 with fetchHold := r.1.fetchHold ++ [pid] } else r.1.endPacket pid .partnerLost 3

/-- The image of an accepted SHROUD_COPY is read and sent, once no stack of it is held (R230, R315); a bolt that cannot be
read ends the command (R219, log 77). -/
def State.readCopy (s : State) : State :=
  match s.copy with
  | none => s
  | some c =>
    match c.pid with
    | none => s
    | some pid =>
      let rs := ((List.range 20).map s.imageRanges).flatten
      if c.accepted = false ∨ c.sent ∨ rs.any (fun r => s.heldIn r.1 r.2) then s
      else
        let bad := (rs.map (fun r => s.badBolts r.1 r.2)).flatten
        let tag := ((s.packet pid).map (fun p => p.tag)).getD 0
        if bad.isEmpty then
          let s := (List.range 20).foldl (fun s st => s.sendStack st (fun _ => true)) (s.readsTraffic .tsv rs)
          s.sendDigests.releaseFetch pid
        else
          ((({ s with copy := none }).dropCells c).releaseFetch pid).endBad pid tag bad

/-- SHROUD_COPY packets that waited for another copy begin. -/
def State.startCopies (s : State) : State :=
  (s.flight.filter (fun p => p.phase == .running && p.op == .shroudCopy &&
    !s.copies.any (fun c => c.pid == some p.pid))).foldl (fun s p => s.shroudCopy p.pid) s

/-- Copies outside a step go on as far as they may. -/
def State.goCopies (s : State) : State := s.readCopy.startCopies

/-- Ask the assigned holder whether it accepts (R309): a HELLO outside every copy. -/
def State.probeHolder (s : State) : State :=
  if s.flag .shrEnable [] ∧ s.copy.isNone ∧ s.rd .shrHolderNode [] ≠ noNode ∧ s.rd .shrSrcState [] = 1 then
    s.sendHello (s.rd .shrHolderNode []) (s.rd .stNextStep [])
  else s

/-- ACCEPT (R309, R312): result 0 accepts; a copy in progress sends what it may, another result abandons it. -/
def State.takeAccept (s : State) (src result slot : Nat) : State :=
  if src ≠ s.rd .shrHolderNode [] then s
  else
    let s := s.wr .shrRefuseCause [] result
    match s.copy with
    | none => s.setSrcState (if result = 0 then 2 else 3)
    | some c =>
      if c.accepted then s
      else if result ≠ 0 then
        -- a slot being fetched refuses this copy alone
        let s := if result = 5 then s else s.setSrcState 3
        s.abandonCopies (if result = 5 then 5 else 2) (fun x => x == c)
      else
        let s := { s with copy := some { c with accepted := true, slot := slot, progress := s.aoNow } }
        if c.pid.isNone then s.resumeCommit else s.goCopies

/-- The copy that COMPLETE or INCOMPLETE of a holder answers: the oldest that it has not answered. -/
def State.answered (s : State) (src : Nat) : Option CopySt := s.copies.find? (fun c => c.holder == src)

/-- COMPLETE (R313). -/
def State.takeComplete (s : State) (src : Nat) : State :=
  match s.answered src with
  | none => s
  | some c =>
    if c.sent then
      let s := { s with copyWas := s.copyWas.filter (fun x => x != c), copy := s.copy.filter (fun x => x != c) }
      let s := ((s.wr .shrLastCopyStep [] c.step).bump .shrCopiesDone [] 1).wr .shrCommitsSince [] 0
      match c.pid with
      | some pid => s.endPacket pid .done 0
      | none => s
    else s

/-- INCOMPLETE: the copy is abandoned with cause 2 (R312, R314). -/
def State.takeIncomplete (s : State) (src : Nat) : State :=
  match s.answered src with
  | none => s
  | some c => s.abandonCopies 2 (fun x => x == c)

/-- The holder is reported LOST (R312, R322). -/
def State.holderLost (s : State) : State :=
  if s.rd .shrSrcState [] = 0 ∨ s.rd .shrSrcState [] = 4 then s
  else ((s.setSrcState 4).reportShroud 2 0 0).abandonCopies 4 (fun _ => true)

/-- LOST: the holder's area was lost by a rebuild; the next COMMIT copies (R322), and a copy in progress is abandoned. -/
def State.takeLost (s : State) (src : Nat) : State :=
  if src ≠ s.rd .shrHolderNode [] then s else ({ s with copyDue := true }).abandonCopies 4 (fun _ => true)

/-- The oldest manifest's signature is ready: it follows the copy (R311 step 6). -/
def State.signatureDone (s : State) : State :=
  match s.signing with
  | [] => s
  | g :: rest =>
    let sig := slice (Config.slhDsaSign g.manifest) 0 29792
    (List.range 117).foldl (fun s q => s.sendForStack g.holder 0x06 g.slot 0 q 0 (slice sig (256 * q) 256)) { s with signing := rest }

/-! The holder (R308, R309, R313, R321, R322). -/

/-- SHROUD_BASE of stack st; 0 for no area. -/
def State.areaBase (s : State) (st : Nat) : Nat := s.rd .shrAreaShroudBase [st]
/-- SLOT_BYTES of stack st (R308). -/
def State.slotBytes (s : State) (st : Nat) : Nat :=
  let m := s.rd .shrAreaShroudMib [st]
  if m = 0 then 0 else (m - 1) * 2 ^ 20 / 2 / 512 * 512
/-- Address of the header of slot k on stack st. -/
def State.slotHeader (s : State) (st k : Nat) : Nat := s.areaBase st + 0x1000 * k
/-- Address of the image of slot k on stack st. -/
def State.slotImage (s : State) (st k : Nat) : Nat := s.areaBase st + 0x100000 + k * s.slotBytes st
/-- Stacks with an area. -/
def State.areas (s : State) : List Nat := (List.range 20).filter (fun st => s.areaBase st != 0)

/-- A write waits for a stack at CRIT (R230). -/
def State.holdWrite (s : State) (kind a : Nat) (bs : List Byte) : State :=
  { s with heldWrites := s.heldWrites ++ [{ kind := kind, addr := a, data := bs }] }

/-- A write through a stack's port by a partner or a restore (R217, R308): it waits while the stack is held (R230), and behind
those that wait. -/
def State.writeArea (s : State) (a : Nat) (bs : List Byte) : State :=
  if s.heldIn a bs.length ∨ s.heldWrites.any (fun w => w.kind == 2) then
    s.holdWrite 2 a bs
  else (s.writeMem .partner 0 a bs).1

/-- Slot k holds a COMPLETE copy. -/
def State.slotComplete (s : State) (k : Nat) : Bool := s.rd .shrSlotSlotState [k] == 2

/-- The slot with the newest COMPLETE copy, the one that became COMPLETE last (R309). -/
def State.newestSlot (s : State) : Option Nat :=
  if s.slotComplete 0 ∧ s.slotComplete 1 then some (s.newest.getD 0)
  else if s.slotComplete 0 then some 0 else if s.slotComplete 1 then some 1 else none

/-- The slot that does not hold the newest COMPLETE copy (R309). -/
def State.targetSlot (s : State) : Nat := match s.newestSlot with | some k => 1 - k | none => 0

/-- A FETCH is being served: cells of the copy to its recipient still wait to leave (R321). -/
def State.isServing (s : State) : Bool :=
  match s.serve with
  | none => false
  | some v => (List.range 12).any (fun p => (s.port p).waiting.any (fun c =>
      let h := fieldLe c.2 0 8
      bitsOf h 23 16 == 4 && bitsOf h 63 50 == v.dest && bitsOf h 49 36 == s.rd .grpNode [] && fieldLe c.2 16 8 == v.source))

/-- The answer to HELLO (R309, R321): 0, or the first cause of refusal, with its stack. -/
def State.helloResult (s : State) (sourceId : Nat) (bolts : List Nat) : Nat × Nat :=
  if !s.flag .shrHoldEnable [] then (3, 0)
  else if s.rd .shrHoldState [] = 3 ∧ s.rd .shrHeldSourceId [] ≠ sourceId then (2, 0)
  else
    match (List.range 20).find? (fun st => bolts.getD st 0 != 0 &&
        (s.areaBase st == 0 || decide (s.slotBytes st < 512 * bolts.getD st 0))) with
    | some st => (1, st)
    | none => if s.isServing ∧ (s.serve.map (fun v => v.slot)) = some s.targetSlot then (5, 0) else (0, 0)

/-- HELLO (R309): the holder answers, and prepares to take the copy. -/
def State.takeHello (s : State) (src sourceId step : Nat) (bolts : List Nat) : State :=
  let r := s.helloResult sourceId bolts
  let k := s.targetSlot
  let s := if r.1 = 0 then
      let h : HoldSt := { slot := k, source := sourceId, sourceNode := src, step := step, bolts := bolts, received := []
                          halves := [], parts := [], filled := false, ended := false }
      { s with hold := some h }
    else s
  s.sendShroud src 0x02 k r.2 0 0 sourceId (leBytes 1 r.1)

/-- The slot becomes FILLING before its first image bolt is written (R308, R309); what the layout of its areas gives as zero is
zero. -/
def State.fillSlot (s : State) (h : HoldSt) : State :=
  if h.filled then s
  else
    let k := h.slot
    let s := s.areas.foldl (fun s st =>
      let s := (s.zeroRange (s.areaBase st + 0x20000) 0xE0000).zeroRange (s.areaBase st + 0x10000 + 0x8000 * k + 29792) 2976
      s.writeArea (s.slotHeader st k) (leBytes 4 (1 * 2 ^ 30) ++ leBytes 4 (h.bolts.getD st 0) ++ leBytes 8 h.step ++
        leBytes 8 h.source ++ zeros (0x1000 - 24))) { s with hold := some { h with filled := true } }
    let s := ((s.wr .shrSlotSlotState [k] 1).wr .shrSlotSlotSigned [k] 0).wr .shrSlotSlotStep [k] h.step
    ((s.wr .shrSlotSlotSourceId [k] h.source).wr .shrHoldState [] 2).wr .shrHeldSourceId [] h.source

/-- The holder's part of a message from its source for its slot. -/
def State.holdFor (s : State) (src slot : Nat) : Option HoldSt := s.hold.filter (fun h => h.sourceNode == src && h.slot == slot)

/-- Half of an image bolt at the holder (R313): the whole bolt is written and counted in RECEIVED. -/
def State.holdData (s : State) (h : HoldSt) (stack part bolt : Nat) (content : List Byte) : State :=
  let s := s.fillSlot h
  let h := { h with filled := true }
  let key := imageKey stack bolt
  if part = 0 then { s with hold := some { h with halves := Tab.put h.halves key (slice content 0 256) } }
  else
    match Tab.find h.halves key with
    | none => s
    | some lo =>
      if s.areaBase stack = 0 ∨ s.slotBytes stack < 512 * (bolt + 1) then s
      else
        let n := Tab.get 0 h.received stack + 1
        let s := s.writeArea (s.slotImage stack h.slot + 512 * bolt) (lo ++ slice content 0 256)
        let s := s.writeArea (s.slotHeader stack h.slot + 0x18) (leBytes 4 n)
        { s with hold := some { h with halves := Tab.del h.halves key, received := Tab.put h.received stack n } }

/-- Eight shard digests of a stack at the holder. -/
def State.holdShards (s : State) (h : HoldSt) (stack part : Nat) (content : List Byte) : State :=
  let s := s.fillSlot h
  if s.areaBase stack = 0 then s else s.writeArea (s.slotHeader stack h.slot + 0x400 + 256 * (part % 4)) (slice content 0 256)

/-- A part of the manifest at the holder: on the last one the counts are checked and the slot completes (R313). -/
def State.holdManifest (s : State) (h : HoldSt) (part : Nat) (content : List Byte) : State :=
  let s := s.fillSlot h
  let h := { h with filled := true, parts := Tab.put h.parts (part % 4) (slice content 0 256) }
  if h.parts.length < 4 then { s with hold := some h }
  else
    let m := (h.parts.map (fun p => p.2)).flatten
    let n := fun st => fieldLe m (0x70 + 4 * st) 4
    let k := h.slot
    let s := { s with hold := some { h with ended := true } }
    if (List.range 20).all (fun st => Tab.get 0 h.received st == n st) then
      let s := s.areas.foldl (fun s st => s.writeArea (s.areaBase st + 0x2000 + 0x400 * k) m) s
      let s := s.areas.foldl (fun s st => s.writeArea (s.slotHeader st k) (leBytes 4 (2 * 2 ^ 30))) { s with newest := some k }
      ((s.wr .shrSlotSlotState [k] 2).wr .shrSlotSlotStep [k] (fieldLe m 16 8)).sendShroud h.sourceNode 0x07 k 0 0 0 h.source []
    else s.sendShroud h.sourceNode 0x08 k 0 0 0 h.source []

/-- A part of the signature at the holder; the last one sets SIGNED (R313). -/
def State.holdSignature (s : State) (h : HoldSt) (part : Nat) (content : List Byte) : State :=
  let k := h.slot
  let s := s.areas.foldl (fun s st => s.writeArea (s.areaBase st + 0x10000 + 0x8000 * k + 256 * part) (slice content 0 256)) s
  if part < 116 then s
  else
    let st := if s.rd .shrSlotSlotState [k] = 2 then 2 else 1
    let s := s.areas.foldl (fun s a => s.writeArea (s.slotHeader a k) (leBytes 4 (st * 2 ^ 30 + 2 ^ 29))) s
    s.wr .shrSlotSlotSigned [k] 1

/-- The slot that a FETCH asks for: the newest COMPLETE copy of the source, or the older one (R320). -/
def State.fetchSlot (s : State) (sourceId : Nat) (older : Bool) : Option Nat :=
  let c := fun k => s.slotComplete k && s.rd .shrSlotSlotSourceId [k] == sourceId
  if c 0 && c 1 then some (if older then s.targetSlot else 1 - s.targetSlot)
  else if older then none
  else if c 0 then some 0 else if c 1 then some 1 else none

/-- The header of slot k of a stack that has no area: an empty image with its digests (R308, R317, log 77). -/
def State.noHeader (s : State) (st k : Nat) : List Byte :=
  leBytes 4 (2 * 2 ^ 30 + s.rd .shrSlotSlotSigned [k] * 2 ^ 29) ++ zeros 4 ++ leBytes 8 (s.rd .shrSlotSlotStep [k]) ++
    leBytes 8 (s.rd .shrSlotSlotSourceId [k]) ++ zeros (0x400 - 24) ++ (shardDigests st []).flatten ++ zeros 0x800

/-- FETCH (R320, R321): the reply, the slot headers, the manifest, the signature when present, and the image. -/
def State.takeFetch (s : State) (src sourceId : Nat) (older : Bool) : State :=
  match s.fetchSlot sourceId older with
  | none => s.sendShroud src 0x0A 0 0 0 0 sourceId (leBytes 1 2)
  | some k =>
    let s := { s with serve := some { dest := src, source := sourceId, slot := k } }.sendShroud src 0x0A k 0 0 0 sourceId (leBytes 1 0)
    let area := (s.areas.headD 0)
    let s := (List.range 20).foldl (fun s st =>
      let header := if s.areaBase st = 0 then s.noHeader st k else s.mem.read (s.slotHeader st k) 4096
      (List.range 16).foldl (fun s q => s.sendShroud src 0x0A k st (q + 1) 0 sourceId (slice header (256 * q) 256)) s) s
    let s := (List.range 4).foldl (fun s q =>
      s.sendShroud src 0x05 k 0 q 0 sourceId (s.mem.read (s.areaBase area + 0x2000 + 0x400 * k + 256 * q) 256)) s
    let s := if s.flag .shrSlotSlotSigned [k] then
        (List.range 117).foldl (fun s q =>
          s.sendShroud src 0x06 k 0 q 0 sourceId (s.mem.read (s.areaBase area + 0x10000 + 0x8000 * k + 256 * q) 256)) s
      else s
    s.areas.foldl (fun s st =>
      let n := ofLe (s.mem.read (s.slotHeader st k + 4) 4)
      (List.range n).foldl (fun s i =>
        let a := s.slotImage st k + 512 * i
        (s.sendShroud src 0x03 k st 0 i sourceId (s.mem.read a 256)).sendShroud src 0x03 k st 1 i sourceId
          (s.mem.read (a + 256) 256)) (s.readTraffic .tsv (s.slotImage st k) (512 * n))) s

/-- Every slot becomes EMPTY. -/
def State.emptySlots (s : State) : State :=
  let s := s.areas.foldl (fun s st => (s.writeArea (s.slotHeader st 0) (leBytes 4 0)).writeArea (s.slotHeader st 1) (leBytes 4 0)) s
  ([0, 1] : List Nat).foldl (fun s k =>
    (((s.wr .shrSlotSlotState [k] 0).wr .shrSlotSlotSigned [k] 0).wr .shrSlotSlotStep [k] 0).wr .shrSlotSlotSourceId [k] 0)
    { s with hold := none, newest := none }

/-- A rebuild lost the shroud area of a rebuilt stack-local region: the slots are EMPTY and the source is told
(R322). -/
def State.areaRebuilt (s : State) (rs : List Region) : State :=
  if s.areas.any (fun st => rs.contains (.stack st)) then
    let src := s.rd .shrHeldSourceNode []
    let s := s.emptySlots
    if src = noNode then s else s.sendShroud src 0x0B 0 0 0 0 (s.rd .shrHeldSourceId []) []
  else s

/-- SHROUD_RELEASE (R322, R351). -/
def State.shroudRelease (s : State) (pid : Nat) : State :=
  if s.isServing then s.endPacket pid .notEnabled 0
  else
    let s := (s.emptySlots.wr .shrHoldState [] 0).wr .shrHeldSourceId [] 0
    (s.wr .shrHeldSourceNode [] noNode).endPacket pid .done 0

/-- The source of this holder left the epoch or is LOST: both slots are retained, and a copy that was arriving ends (R322). -/
def State.retain (s : State) : State :=
  match s.rd .shrHoldState [] with
  | 2 => { s with hold := none }.wr .shrHoldState [] 3
  | 1 => ((s.wr .shrHoldState [] 0).wr .shrHeldSourceNode [] noNode).wr .shrHeldSourceId [] 0
  | _ => s

/-- PARTNER (R306, R307, R322, R323): the member's holder and the source it holds for. -/
def State.takePartner (s : State) (holder source : Nat) (forced : Bool) (refuse sourceId : Nat) : State :=
  let same := s.rd .shrHolderNode [] == holder && s.rd .shrSrcState [] == 2
  let s := ((s.wr .shrHolderNode [] holder).wr .shrForced [] (b2n forced)).wr .shrRefuseCause [] refuse
  let s := if forced then s.reportShroud 3 0 0 else s
  let s :=
    if holder = noNode then s.setSrcState (if refuse = 0 then 0 else 3)
    else if same then s
    else (s.setSrcState 1).probeHolder
  if source = noNode then s.retain
  else if s.rd .shrHoldState [] = 3 ∧ s.rd .shrHeldSourceId [] ≠ sourceId then s
  else
    let s := if s.rd .shrHeldSourceId [] = sourceId ∧ 2 ≤ s.rd .shrHoldState [] then s.wr .shrHoldState [] 2
      else s.wr .shrHoldState [] 1
    (s.wr .shrHeldSourceNode [] source).wr .shrHeldSourceId [] sourceId

/-! Pairing at a group manager (R306, R307). -/

/-- FEED_ID of a node of this manager's group. -/
def State.feedOf (s : State) (node : Nat) : Nat :=
  if node = s.rd .grpNode [] then Config.feedId.val else s.rd .mbrFeedId [node % 128]
/-- MODULE_ID of a node of this manager's group. -/
def State.idOf (s : State) (node : Nat) : Nat :=
  if node = s.rd .grpNode [] then Config.moduleId.toNat else Tab.get 0 s.memberIds (node % 128)

/-- Insert a node by FEED_ID and then by address. -/
def pairInsert (feed : Nat → Nat) (n : Nat) : List Nat → List Nat
  | [] => [n]
  | m :: t => if feed n < feed m ∨ (feed n = feed m ∧ n < m) then n :: m :: t else m :: pairInsert feed n t

/-- The list L of R306. -/
def pairList (feed : Nat → Nat) (nodes : List Nat) : List Nat := nodes.foldl (fun l n => pairInsert feed n l) []
/-- The shift d of R306. -/
def pairShift (feed : Nat → Nat) (l : List Nat) : Nat :=
  let c := l.foldl (fun c a => max c (l.filter (fun b => feed b == feed a)).length) 0
  if 2 * c ≤ l.length then c else l.length / 2

/-- A pairing of R307: the holder of place i of L, or none with its refusal cause. -/
def pairOf (feed : Nat → Nat) (force : Bool) (l : List Nat) (i : Nat) : Nat × Nat × Bool :=
  if l.length ≤ 1 then (noNode, 0, false)
  else
    let h := l.getD ((i + pairShift feed l) % l.length) noNode
    if feed h = feed (l.getD i noNode) then (if force then (h, 0, true) else (noNode, 4, false)) else (h, 0, false)

/-- Send PARTNER to every ACTIVE member of the group (R306). -/
def State.sendPartners (s : State) : State :=
  if !s.isManager then s
  else
    let nodes := s.rankNodes.filter (fun a => a / 128 == s.rd .grpNode [] / 128)
    let l := pairList s.feedOf nodes
    let ps := (List.range l.length).map (fun i => pairOf s.feedOf (s.flag .shrForcePairing []) l i)
    (List.range l.length).foldl (fun s i =>
      let node := l.getD i noNode
      let p := ps.getD i (noNode, 0, false)
      let src := match (List.range l.length).find? (fun j => (ps.getD j (noNode, 0, false)).1 == node) with
        | some j => l.getD j noNode
        | none => noNode
      s.sendGroup node 0x0D (s.rd .grpEpoch [])
        (leBytes 2 p.1 ++ leBytes 2 src ++ leBytes 1 (b2n p.2.2 + 16 * p.2.1) ++ zeros 3 ++
          leBytes 8 (if src = noNode then 0 else s.idOf src))) s

/-! RESTORE (R319, R320). -/

/-- RESTORE ends: fetching resumes. -/
def State.endRestore (s : State) (pid : Nat) (st : Status) (detail : Nat) : State :=
  ({ s with restore := none }.releaseFetch pid).endPacket pid st detail

/-- RESTORE begins once every packet already started has written its record (R320): the first refusal of the table, or
FETCH. -/
def State.restoreBegin (s : State) (pid sourceId expect dest : Nat) (older override : Bool) (holder : Nat) : State :=
  let h := if holder = noNode then s.rd .shrHolderNode [] else holder
  let src := if sourceId = 0 then Config.moduleId.toNat else sourceId
  if s.stepOpen ∨ s.commit.isSome ∨ !s.colls.isEmpty ∨ !s.copies.isEmpty then s.endRestore pid .notEnabled 0
  else if s.rd .seGroupsLoaded [] = 0 ∨ s.stateStack.isNone then s.endRestore pid .notEnabled 0
  else if dest % 1024 ≠ 0 then s.endRestore pid .badParam 0
  else if !s.inRegion dest 32768 then s.endRestore pid .limitExceeded 0
  else if s.unavailIn dest 32768 ∨ ((List.range 20).map s.imageRanges).flatten.any (fun r => s.unavailIn r.1 r.2) then
    s.endRestore pid .faultUnit 0
  else if h = noNode then s.endRestore pid .partnerLost 3
  else if s.route h = 15 ∨ h = s.rd .grpNode [] then s.endRestore pid .partnerLost 4
  else
    let r : RestoreSt :=
      { pid := pid, holder := h, source := src, expect := expect, dest := dest, override := override, serving := false
        headers := [], manifest := [], signature := [], checked := false, halves := [], bolts := [], live := s.liveCopy.1
        heard := s.aoNow }
    { s with restore := some r }.sendShroud h 0x09 0 0 0 0 src (leBytes 1 (b2n older))

/-- The slot header of a stack as received. -/
def RestoreSt.header (r : RestoreSt) (st : Nat) : List Byte := ((List.range 16).map (fun q => Tab.get [] r.headers (16 * st + q))).flatten
/-- The manifest as received. -/
def RestoreSt.man (r : RestoreSt) : List Byte := (r.manifest.map (fun p => p.2)).flatten
/-- The signature follows the slot. -/
def RestoreSt.signed (r : RestoreSt) : Bool := (List.range 20).any (fun st => (fieldLe (r.header st) 0 4).testBit 29)
/-- Everything that precedes the image has arrived. -/
def RestoreSt.ready (r : RestoreSt) : Bool :=
  r.headers.length == 320 && r.manifest.length == 4 && (!r.signed || r.signature.length == 117)
/-- Received shard digests of a stack. -/
def RestoreSt.shards (r : RestoreSt) (st : Nat) : List (List Byte) := (List.range 32).map (fun j => slice (r.header st) (0x400 + 32 * j) 32)

/-- The checks of step 3 (R320): the first that fails. -/
def State.restoreCheck (s : State) (r : RestoreSt) : Option (Status × Nat) :=
  let m := r.man
  if digest256 (slice m 0 0x3E0) ≠ slice m 0x3E0 32 then some (.restoreDigest, 0xFF)
  else if fieldLe m 6 1 ≠ s.rd .devNe [] then some (.restoreSkew, 2)
  else if slice m 0x50 32 ≠ digest256 (s.groupTable.read 0 1048576) ∨
      (List.range 20).any (fun st => fieldLe m (0x70 + 4 * st) 4 != s.rd .shrAreaImageBolts [st]) then some (.badParam, 1)
  else if fieldLe m 16 8 ≠ r.expect ∧ !r.override then some (.restoreSkew, 1)
  else none

/-- Every image bolt has arrived. -/
def State.imageHere (s : State) (r : RestoreSt) : Bool := r.bolts.length == (s.imageCounts).foldl (· + ·) 0

/-- The image bolts of a stack as received. -/
def State.receivedBolts (s : State) (r : RestoreSt) (st : Nat) : List (List Byte) :=
  (List.range (s.rd .shrAreaImageBolts [st])).map (fun i => Tab.get [] r.bolts (st * 2 ^ 32 + i))

/-- The digest checks of step 5 (R320), stack by stack; an empty image has its digests too (R317). -/
def State.restoreDigests (s : State) (r : RestoreSt) : Option (Status × Nat) :=
  let sts := List.range 20
  match sts.find? (fun st => stackDigest st (s.rd .shrAreaImageBolts [st]) (r.shards st) != slice r.man (0xC0 + 32 * st) 32) with
  | some st => some (.restoreDigest, st + 0xFF * 256)
  | none =>
    sts.findSome? (fun st =>
      let own := shardDigests st (s.receivedBolts r st)
      ((List.range 32).find? (fun j => own.getD j [] != (r.shards st).getD j [])).map (fun j => (Status.restoreDigest, st + j * 256)))

/-- How a restore writes to a stack (R320): its engine through the TSV path, or the HBM4 interface without one. -/
def State.restoreVia (s : State) (st : Nat) : Via := streamVia (!s.enginePath st) st

/-- Steps 6 to 8 (R320): the step-state image in both copies, NEXT_STEP, the working copies, DONE. -/
def State.restoreFinish (s : State) (r : RestoreSt) : State :=
  let step := fieldLe r.man 16 8
  let st := s.stateStack.getD 0
  let all := s.receivedBolts r st
  let state := (all.drop (all.length - 1024)).flatten
  let b := s.rd .stStateBase []
  let s := s.keepScales
  let s := ((s.writeMem (s.restoreVia st) 0 b state).1.writeMem (s.restoreVia st) 0 (b + copyBytes) state).1.loadLive
  let s := ((s.wr .stNextStep [] (step + 1)).wr .stPartial [] 0).wr .stBroken [] 0
  let todo := (s.groups.map (fun g => (g.shards.filter (fun sh => sh.hasWork)).map (fun sh => (g, sh)))).flatten
  let w := State.rewriteAll { s with rewriteStream := s.streamStacks } step false todo
  let s := { w.1 with rewriteStream := [] }
  match w.2 with
  | [] => s.endRestore r.pid .done 0
  | e :: _ => ((s.spoilTensors (w.2.map (fun x => x.1.work.reefed (s.reefedLayer x.1.work.layer)))).wr .stBroken [] 1).endRestore
      r.pid e.2 0

/-- The image's writes have all reached their stacks, and no stack that the restore still touches is held (R230). -/
def State.restoreFree (s : State) : Bool :=
  !s.heldWrites.any (fun w => w.kind == 2) &&
  !((List.range 20).any (fun st => s.stackHeld st && s.rd .shrAreaImageBolts [st] != 0))

/-- Go on with a restore as far as what has arrived allows. -/
def State.restoreGo (s : State) : State :=
  match s.restore with
  | none => s
  | some r =>
    if !r.checked then
      if r.ready = false ∨ s.heldIn r.dest 32768 then s
      else
        let sig := (r.signature.map (fun p => p.2)).flatten
        let w := s.writeMems (s.viaHome r.dest) 0 ([(r.dest, r.man)] ++ if r.signed then [(r.dest + 0x400, slice sig 0 29792)] else [])
        let s := w.1
        if !w.2.isEmpty then s.endRestore r.pid .memUncorrectable (faultDetail 0 0 (lowest w.2))
        else
          match s.restoreCheck r with
          | some e => s.endRestore r.pid e.1 e.2
          | none =>
            -- no protected byte has changed until here
            { s.wr .stBroken [] 1 with restore := some { r with checked := true } }
    else if s.imageHere r = false ∨ s.restoreFree = false then s
    else
      match s.restoreDigests r with
      | some e => s.endRestore r.pid e.1 e.2
      | none => s.restoreFinish r

/-- A restore that takes messages from a sender. -/
def State.restoreFrom (s : State) (src : Nat) : Option RestoreSt := s.restore.filter (fun r => r.holder == src)

/-- FETCH_REPLY (R320): the result, then pieces of the slot headers. -/
def State.takeFetchReply (s : State) (src stack part : Nat) (content : List Byte) : State :=
  match s.restoreFrom src with
  | none => s
  | some r =>
    let r := { r with heard := s.aoNow }
    if part = 0 then
      if fieldLe content 0 1 = 0 then { s with restore := some { r with serving := true } }
      else s.endRestore r.pid .partnerLost 2
    else State.restoreGo { s with restore := some { r with headers := Tab.put r.headers (16 * stack + (part - 1) % 16) (slice content 0 256) } }

/-- Half of an image bolt at a restoring module: the whole bolt goes to the address it came from (R320 step 4), a step-state
bolt to the copy that is live. -/
def State.restoreData (s : State) (r : RestoreSt) (stack part bolt : Nat) (content : List Byte) : State :=
  let key := imageKey stack bolt
  let r := { r with heard := s.aoNow }
  if !r.checked ∨ s.rd .shrAreaImageBolts [stack] ≤ bolt then { s with restore := some r }
  else if part = 0 then { s with restore := some { r with halves := Tab.put r.halves key (slice content 0 256) } }
  else
    match Tab.find r.halves key with
    | none => { s with restore := some r }
    | some lo =>
      let bs := lo ++ slice content 0 256
      let own := rangeBolts ((s.imageShards stack).map (fun p => (p.2.base, p.2.endAddr p.1 - p.2.base)) ++
        if s.stateStack = some stack then [(r.live, copyBytes)] else [])
      let s := match own[bolt]? with
        | some a =>
          if s.heldIn a 512 then s.holdWrite 2 a bs
          else (s.writeMem (s.restoreVia stack) 0 a bs).1
        | none => s
      State.restoreGo { s with restore := some { r with halves := Tab.del r.halves key, bolts := Tab.put r.bolts key bs } }

/-- SHROUD_TIMEOUT (R312, R320): a copy without credit or a restore without an answer for SHROUD_TIMEOUT_MS ends. -/
def State.shroudTimeout (s : State) : State :=
  let lim := msTicks (s.rd .shrShroudTimeoutMs [])
  let s := s.abandonCopies 1 (fun c => decide (c.progress + lim ≤ s.aoNow))
  match s.restore with
  | some r => if r.heard + lim ≤ s.aoNow then s.endRestore r.pid .partnerLost 1 else s
  | none => s

/-! The risk estimate (R316). -/

/-- Ticks of one hour. -/
def hourTicks : Nat := 180000000000

/-- Sum of the events of a kind within a window. -/
def State.riskSum (s : State) (kind window : Nat) : Nat :=
  ((s.riskEvents.filter (fun e => e.kind == kind && decide (s.aoNow < e.tick + window))).map (fun e => e.n)).foldl (· + ·) 0

/-- The level that cause bit i demands (R316). -/
def State.riskLevel (s : State) (i : Nat) : Nat :=
  let h := fun k => s.riskSum k hourTicks
  let d := fun k => s.riskSum k (24 * hourTicks)
  let sus := s.rd .intSuspectCount []
  let jumps := (s.attJumps.map (fun p => p.1)).foldl (· + ·) 0
  match i with
  | 0 => if 65536 ≤ h 0 then 2 else if 4096 ≤ h 0 then 1 else 0
  | 1 => if 1 ≤ d 1 then 2 else 0
  | 2 => if 2 ≤ d 2 then 3 else if 1 ≤ d 2 then 2 else 0
  | 3 => if 3 ≤ h 4 then 3 else if 1 ≤ h 4 then 2 else if 1 ≤ h 3 then 1 else 0
  | 4 => if 1 ≤ h 6 ∨ s.rd .pwrDieThrottled [] ≠ 0 then 2 else if 1 ≤ h 5 then 1 else 0
  | 5 => if 8 ≤ h 7 then 2 else if 1 ≤ h 7 then 1 else 0
  | 6 => if 1 ≤ h 8 then 1 else 0
  | 7 => if 3 ≤ sus then 2 else if 1 ≤ sus then 1 else 0
  | 8 => if 1 ≤ d 9 then 2 else 0
  | 9 => if 1 ≤ d 10 then 3 else 0
  | 10 => if s.attJumps.any (fun p => p.2) then 3 else if 8 ≤ jumps then 2 else if 1 ≤ jumps then 1 else 0
  | 11 => if 2 ≤ h 11 then 3 else if 1 ≤ h 11 then 2 else 0
  | _ => 0

/-- The risk level is recomputed, once a second (R316). -/
def State.riskRecompute (s : State) : State :=
  let s := { s with riskEvents := s.riskEvents.filter (fun e => decide (s.aoNow < e.tick + 24 * hourTicks)) }
  let levels := (List.range 12).map s.riskLevel
  let cand := max (levels.foldl max 0) (s.rd .shrRiskFloor [])
  let now := s.rd .intRisk []
  let quiet := s.riskQuiet + 1
  let next := if now < cand then cand else if cand < now ∧ s.rd .shrRiskHoldS [] ≤ quiet then now - 1 else now
  let s := { s with riskQuiet := if now ≤ cand ∨ next ≠ now then 0 else quiet }
  let cause := ((List.range 12).filter (fun i => decide (0 < next) && decide (next ≤ levels.getD i 0))).foldl (fun n i => n + 2 ^ i) 0
  let s := ((s.wr .intRisk [] next).wr .shrRisk [] next).wr .shrRiskCause [] cause
  if next = now then s else s.report 0x03 (leBytes 1 next ++ zeros 1 ++ leBytes 2 cause ++ zeros 4)

end Sys2Proof.Machine
end

