-- ==== Sys2Proof/Machine/PowerOps.lean ====
section
/-! DEFINITION. Power, temperature, start-up and resets (R372–R395, R406, R419–R422, R431). -/

namespace Sys2Proof.Machine

/-! The attestation log (R406). -/

/-- Append an entry: KIND, 32 bytes and 24 bytes of content; a full log takes no further entry and sets LOG_FULL. -/
def State.attest (s : State) (kind : Nat) (d content : List Byte) : State :=
  if s.attLog.length < 256 then
    { s with attLog := s.attLog ++
        [leBytes 4 s.attLog.length ++ leBytes 2 kind ++ zeros 2 ++ slice d 0 32 ++ slice content 0 24] }
  else s.wr .mgmtLogFull [] 1

/-- Mapped-out HBM channels. -/
def State.mappedList (s : State) : List Nat := (List.range 640).filter s.mappedOut

/-- The 80-byte map of mapped-out channels. -/
def State.mappedMap (s : State) : List Byte := leBytes 80 (s.mappedList.foldl (fun n x => n + 2 ^ x) 0)

/-- The shares in force as the bytes D_SHARE and C_SHARE. -/
def State.shareBytes (s : State) : List Byte :=
  leBytes 1 s.dShare ++ ((List.range 4).map (fun c => leBytes 1 (s.cShareOf c))).flatten

/-- The measurements before any firmware runs (R386): ROM, image, configuration. -/
def State.measure (s : State) (area : Nat) : State :=
  let s := s.attest 1 [] (leBytes 4 Config.romVersion.toNat)
  let s := s.attest 2 s.running.digest (leBytes 1 area)
  s.attest 3 (digest256 s.mappedMap)
    (leBytes 1 Config.feedId.val ++ leBytes 1 Config.slotId.val ++ leBytes 1 (s.rd .pwrLastReset []) ++ s.shareBytes ++
      leBytes 4 (s.rd .mgmtSvnMin []) ++ leBytes 2 s.mappedList.length)

/-- The measurement of the health states before READY (R386). -/
def State.measureHealth (s : State) : State :=
  s.attest 4 [] (leBytes 24 ((List.range 96).foldl (fun n u => n + s.rd .unitHstate [u] * 4 ^ u) 0))

/-! What the resets keep (R392, R393). -/

/-- The field owns a key of the register table. -/
def Reg.owns (r : Reg) (key : Nat) : Bool :=
  key % 32 == r.lsb && (match r.at (key / 32) with | some (_, 0) => true | _ => false)

/-- Fields of the persistent flash area and the fuses: kept across every reset (R381, R382, R397, R399). -/
def flashRegs : List Reg :=
  [.mgmtKeyState, .mgmtDeviceAddr, .mgmtCollectorAddr, .mgmtCollectorPort, .mgmtMgmtPort, .mgmtLastCmdSeq, .mgmtSvnMin,
   .pwrTripCount, .pwrTripSource, .pwrTripTemp, .pwrPendingImage]

/-- Fields kept across every reset but a cold one: those of R393, the health entries, the counter values, and the
management port's counters and link. -/
def keptRegs : List Reg :=
  flashRegs ++
  [.stRecordsWritten, .engElemsUpdated, .engMvCycles, .engDigestBytes, .unitHstate, .unitWithheld, .unitFenceSource,
   .unitClean, .unitTestsRun, .unitTestsFailed, .unitLastTestS, .intIlogWritten, .stBroken, .stPartial, .stDone,
   .intRisk, .shrRisk, .shrRiskCause, .memDShare, .memCShare, .hbmState, .hbmCause, .pwrDroopEvents, .dieDieTempMax,
   .fixFixed, .progValue, .ctrSelectIgnored, .ctrWindowSeq, .ctrWindowEndTick, .sampSamplesWritten, .sampDescCounted,
   .bwTotalOut, .bwTotalIn, .mgmtPortUp, .mgmtReportsSent, .mgmtReportsDropped, .mgmtCmdsAccepted, .mgmtCmdsRejected]

/-- Fields that a function-level reset also keeps, since it runs no start-up: the power domains, the area booted and
BOOT_ERROR. -/
def flrRegs : List Reg :=
  keptRegs ++ [.domDstate, .domClocksStopped, .domPowerDw, .diePllLocked, .pwrBootArea, .devBootError, .devFwMajor, .devFwMinor]

/-- Ring, status, token and DEVICE_ENABLE fields (R392). -/
def ringRegs : List Reg :=
  [.devDeviceEnable, .devToken, .devAmount, .ringRingBase, .ringEnable, .ringLoc, .ringPriority, .ringRingLog2, .ringRingTail,
   .ringRingFetched, .ringRingHead, .ringRingState, .ringStopCode, .ringRingReset, .ringStatusBase, .ringStatusLog2,
   .ringStatusHead, .ringStatusTail, .ringInFlight, .queryQueryToken, .queryQueryValue, .queryQueryFaulted,
   .queryQueryResult, .tokTokenValue, .tokFaultedMap, .slotValid, .slotRefs, .slotVariant]

/-- Keep the listed fields of the register table and return the others to their reset values. -/
def State.keepRegs (s : State) (rs : List Reg) : State :=
  { s with regs := s.regs.filter (fun p => rs.any (fun r => r.owns p.1)) }

/-- The shares in force are read back in their fields (R393). -/
def State.showShares (s : State) : State :=
  (s.wr .memDShare [] s.dShare).wr .memCShare [] ((List.range 4).foldl (fun n c => n + s.cShareOf c * 2 ^ (8 * c)) 0)

/-- A commit phase that runs stops partial, with no record (R172, R392): DONE is the group in progress. -/
def State.stopCommit (s : State) : State :=
  match s.commit with
  | some c =>
    (((s.wr .stBroken [] 1).wr .stPartial [] 1).wr .stActive [] 0).wr .stDone [] (c.todo.headD (s.rd .stDone []))
  | none => s

/-- Every scratchpad partition is lost (R392). -/
def State.loseScratch (s : State) : State :=
  let s := { s with partitions := [] }
  (List.range 4).foldl (fun s c => s.zeroRegion (.lls c)) s

/-- What runs is stopped by a reset: the destinations of running packets and of collectives are undefined (R116, R275). -/
def State.stopWrites (s : State) : State :=
  ((s.flight.filter (fun p => p.phase == .running)).foldl State.spoilPacket s).spoils ((s.colls.map CollSt.dests).flatten)

/-- Rings, tokens and packets in flight are gone (R392). -/
def State.clearRings (s : State) : State :=
  { s with tokens := [], tokFaulted := [], tokBase := [], flight := [], lateRecords := [], fetchHold := [], fetchBuf := [], hostReads := []
           descs := [], retries := [], slots := [], testFails := [], joins := [], restore := none
           tests := s.tests.filter (fun t => match t.asker with | .packet _ => false | _ => true) }

/-- The units of a list are no longer under test. -/
def State.dropTesting (s : State) (before : List TestSt) : State :=
  before.foldl (fun s t => if s.tests.any (fun x => x.unit == t.unit) then s else s.wr .unitTesting [t.unit] 0) s

/-- What a warm, function-level or management reset does to the state (R392): register fields but those listed return
to their reset values; HBM content, health states, log, counters and flash are kept. Grants and bytes count from the cold reset
(R234, R363); a write that waits for a stack at CRIT is lost (log 50), and patrol scrub begins anew. -/
def State.resetCore (s : State) (kind : Nat) (keep : List Reg) : State :=
  let s := (s.stopWrites.stopCommit.loseScratch.clearRings).keepRegs keep
  let s :=
    { s with
      heldWords := [], heldReads := [], heldWrites := []
      arbiters := s.arbiters.map (fun (p : Nat × ArbSt) => (p.1, { p.2 with ptr := 0, used := 0, next := none }))
      patrol := { pos := [], held := [], since := s.aoNow, last := s.aoNow }, step := none, commit := none, groups := [], groupTable := []
      reef := [], rewrites := [], rewritesDue := [], rewriteStream := [], heldOut := [], ports := [], delivered := [], rankNodes := []
      colls := [], endedColls := [], reserved := [], heldMsgs := [], verdicts := [], prep := none, top := none, lastEpoch := 0
      sysMembers := [], chunkRule := 0, memberIds := [], memberHealth := [], heard := [], mgrHeard := false, mgrMissed := 0, tests := []
      dispatched := [], llsTest := [], duty := 16, powerLog := [], critTicks := [], recovery := [], copy := none, copyWas := []
      copyDue := false, cursor := 0, signing := [], hold := none, newest := none, serve := none, resetting := none, bwStart := 0
      bwWindow := [] }
  (s.showShares.refreshHealth).wr .pwrLastReset [] kind

/-! Start-up (R384–R391). -/

/-- Domains at READY (R374, R391): quads, stack engines and link-port groups gated, the others running; FENCED units
out of service. -/
def State.idleDomains (s : State) : State :=
  (List.range 80).foldl (fun s d =>
    if d < 76 ∧ s.fenced d then s.setDomain d 3
    else if 48 ≤ d ∧ d < 56 then s.domainOn d
    else if 78 ≤ d then s.setDomain d 2
    else s.setDomain d 0) s

/-- Only the always-on domain, the uncore of channel 0 and the host interface run (R390). -/
def State.bootDomains (s : State) : State :=
  (List.range 80).foldl (fun s d => if d = 48 then s.domainOn d else s.setDomain d (if 78 ≤ d then 2 else 0)) s

/-- A start-up ends with a BOOT_ERROR (R385, R390). -/
def State.bootFail (s : State) (code : Nat) : State :=
  ({ s with startDone := false }.wr .devBootError [] code).wr .pwrPendingImage [] 0

/-- The image in a flash area. -/
def State.imageIn (s : State) (area : Nat) : FwImage := if area = 0 then s.areaA else s.areaB

/-- The area that the ROM boots (R384): the staged one first when PENDING is set, then the other; none when both
fail. -/
def State.bootArea (s : State) (r : BootReport) : Option Nat :=
  let ok := fun (a : Nat) => (if a = 0 then r.areaA else r.areaB) && decide (s.rd .mgmtSvnMin [] ≤ (s.imageIn a).svn)
  let first := if s.flag .pwrPendingImage [] then 1 - s.active else s.active
  [first, 1 - first].find? ok

/-- The result of self-check for a unit: 0 pass, else a failure at nominal conditions (1) or at a corner (2), with
its kernel. -/
def selfResult (r : BootReport) (u : Nat) : Nat × Nat :=
  match r.fails.find? (fun f => f.1 == u) with
  | some f => (if f.2.1 = 2 then 2 else 1, f.2.2)
  | none => (0, 0)

/-- Self-check tests every unit (R389, R390, R296). -/
def State.selfCheckUnit (r : BootReport) (s : State) (u : Nat) : State :=
  let q := selfResult r u
  let s := ((s.bump .unitTestsRun [u] 1).wr .unitLastTestS [u] s.seconds).wr .unitLastResult [u] (if q.1 = 0 then 1 else 2)
  let s := if q.1 = 0 then s
    else ((s.bump .unitTestsFailed [u] 1).wr .unitLastKernel [u] q.2).log 0x09 2 0 0 (unitClass u) u (q.2 % 256 * 256)
  s.testHealth u q.1 (s.rd .intCleanToHealthy [])

/-- The mapped-out list of the flash is applied; the cause of a channel listed there is not kept: a free value of the
causes of R222. -/
def State.applyFlashMap (s : State) : State :=
  s.flashMap.foldl (fun s x =>
    let c := s.freeVal 2
    ((c.2.wr .hbmState [x] 2).wr .hbmCause [x] (c.1 + 1))) s

/-- Start-up (R387): the image, its measurements, the stacks, self-check and the idle state. READY follows once the
host link is up. `cold` runs the HBM test and applies the flash list. -/
def State.startUp (s : State) (cold : Bool) (r : BootReport) : State :=
  let s := { s with attLog := [], reportSeq := 0, startDone := false, recovery := [], pwrGood := true
                    samples := [], identityKey := r.identity }
  let s := if cold then s.applyFlashMap else s
  let s := s.bootDomains
  if r.error = 2 ∨ r.error = 3 then s.bootFail r.error
  else
    match s.bootArea r with
    | none => s.bootFail 1
    | some a =>
      let img := s.imageIn a
      let s := ({ s with running := img }.wr .pwrBootArea [] a)
      -- a staged image that fails is no longer PENDING
      let s := if a = s.active then s.wr .pwrPendingImage [] 0 else s
      let s := ((s.wr .devFwMajor [] img.major).wr .devFwMinor [] img.minor).measure a
      let s := if cold then (r.failing.filter (fun x => decide (x < 640) && !s.mappedOut x)).foldl (fun s x => s.mapOut x 3) s else s
      let s := ((List.range 96).foldl (State.selfCheckUnit r) s).refreshHealth
      if s.noQuad then s.bootFail 4
      else if r.error = 5 then s.bootFail 5
      else { s.measureHealth.idleDomains with startDone := true }

/-- READY becomes 1 once start-up is done and the host link is up; a staged image that reaches it is ACTIVE (R385,
R387, R421). -/
def State.setReady (s : State) : State :=
  if s.startDone ∧ s.pcieUp ∧ s.rd .devBootError [] = 0 ∧ s.resetting.isNone then
    let s := s.wr .devReady [] 1
    if s.flag .pwrPendingImage [] ∧ s.rd .pwrBootArea [] ≠ s.active then
      { s with active := s.rd .pwrBootArea [] }.wr .pwrPendingImage [] 0
    else s
  else s

/-! The five resets (R392). -/

/-- A cold reset: everything but flash, fuses, pins and the queue of commands returns to its value after reset, and
start-up runs in full. -/
def State.coldReset (s : State) (r : BootReport) : State :=
  let f := s.keepRegs flashRegs
  State.startUp
    { State.reset with
      pending := s.pending, regs := f.regs, key := s.key, flashMap := s.flashMap, areaA := s.areaA, areaB := s.areaB
      active := s.active, perst := s.perst, refclk := s.refclk, out := s.out, free := s.free } true r

/-- A warm reset, by PERST#. -/
def State.warmReset (s : State) (r : BootReport) : State :=
  ({ s.resetCore 1 keptRegs with perst := true, pcieUp := false, cfg := ConfigSpace.reset }).startUp false r

/-- A management reset: the link drops and retrains (R388, R392). -/
def State.mgmtReset (s : State) (r : BootReport) : State :=
  ({ s.resetCore 4 keptRegs with pcieUp := false, cfg := ConfigSpace.reset }).startUp false r

/-- A function-level reset: no start-up; READY reads 0 until it completes (R392, R431). -/
def State.flr (s : State) : State :=
  let s := { s.resetCore 2 flrRegs with resetting := some 2, cfg := { ConfigSpace.reset with mps := s.cfg.mps } }
  (s.setDomain 76 0).setDomain 77 0

/-- The step of a device soft reset closes as by a reset of its ring (R153, R392). -/
def State.softReset (s : State) : State :=
  let s := (s.copies.filter (fun c => c.pid.isSome)).foldl State.dropCells s
  let s := (s.stopWrites.abortStep.clearRings).dropTesting s.tests
  let s := { s with regs := s.regs.filter (fun p => !ringRegs.any (fun r => r.owns p.1)), colls := [], endedColls := []
                    reserved := [], heldReads := [], heldOut := [], copy := s.copy.filter (fun c => c.pid.isNone)
                    copyWas := s.copyWas.filter (fun c => c.pid.isNone)
                    resetting := some 3 }
  (s.wr .devReady [] 0).wr .pwrLastReset [] 3

/-- The close of the open step has passed step 1 of R152, and its ring was not reset before (R153). -/
def State.closing (s : State) : Bool :=
  s.rd .stState [] == 3 ||
  (s.rd .stState [] == 2 && !s.attemptPending && !(s.step.map (fun t => t.resetWaits)).getD false)

/-- A DEVICE_SOFT_RESET that waits for a close acts once no step is open (R392). -/
def State.settleSoft (s : State) : State :=
  if s.softWaits ∧ s.closing = false then s.softReset else s

/-- What an event may let go on: a verdict whose close waited for a stack, a commit, copies and a restore that waited, fences,
and a soft reset (R154, R184, R196, R230, R392). -/
def State.settle (s : State) : State := s.agreeVerdict.resumeCommit.goCopies.restoreGo.settleFences.settleSoft

/-- A function-level or device soft reset completes (R431). -/
def State.resetComplete (s : State) : State :=
  if s.resetting.isSome then ({ s with resetting := none }).setReady else s

/-! Supply and temperature (R377–R381). -/

/-- The average of a list, zero for none. -/
def average (l : List Nat) : Nat := if l.isEmpty then 0 else l.foldl (· + ·) 0 / l.length

/-- The input measurement of a millisecond with the powers of the domains (R377). -/
def State.powerSample (s : State) (mv w : Nat) (domains : List (Nat × Nat)) : State :=
  let was := s.rd .pwrInputW []
  let log := (s.powerLog ++ [(mv, w)]).drop (s.powerLog.length - 9)
  let avg := average (log.map (fun p => p.2))
  let limit := s.rd .pwrPowerLimitW []
  let low := fun (x : Nat) => decide (100 * x < 97 * limit)
  let duty := if limit < avg then max 4 (s.duty - 1) else if low was ∧ low avg then min 16 (s.duty + 1) else s.duty
  let s := { s with powerLog := log, duty := duty }
  let s := domains.foldl (fun s d => if d.1 < 80 then s.wr .domPowerDw [d.1] d.2 else s) s
  (((s.wr .pwrInputMv [] (average (log.map (fun p => p.1)))).wr .pwrInputW [] avg).wr .pwrPowerThrottled []
    (b2n (decide (duty < 16)))).slowCheck

/-- The issue duty of the quads of channel c, in sixteenths (R377, R380): halved while its die is throttled. -/
def State.issueDuty (s : State) (c : Nat) : Nat := if (s.rd .pwrDieThrottled []).testBit c then s.duty / 2 else s.duty

/-- The corner passes of running slots of some units are cut short (R291). -/
def State.cutTests (s : State) (units : Nat → Bool) : State :=
  { s with tests := s.tests.map (fun t => if t.running && units t.unit then { t with cut := true } else t) }

/-- A droop event of a domain, 255 for the input (R378). -/
def State.droop (s : State) (d : Nat) : State :=
  let s := if s.drooped.contains d then s else { s with drooped := s.drooped ++ [d] }
  let s := s.cutTests (fun u => (decide (d < 76) && u == d) || d == 255)
  ((s.count .pwrDroopEvents [] 1).report 0x06 (leBytes 1 1 ++ leBytes 1 d ++ leBytes 2 (s.rd .pwrInputMv []) ++ zeros 4)).noteRisk 11 1

/-- A supply is back in regulation (R378). -/
def State.droopEnd (s : State) (d : Nat) : State := { s with drooped := s.drooped.filter (fun x => x != d) }

/-- Turn every switched domain off but the always-on domain; every rail of the stacks goes with them, and the host link
is down (R379, R381). -/
def State.domainsOff (s : State) (always : Nat) : State :=
  let s := (List.range 80).foldl (fun s d => s.setDomain d (if d = 79 then always else 0)) s
  let s := (List.range 4).foldl (fun s c => s.wr .diePllLocked [c] 0) s
  { s with pwrGood := false, pcieUp := false }

/-- Brown-out (R379): THERMTRIP# is released (R420). -/
def State.brownOut (s : State) : State := { s.domainsOff 0 with power := 0, thermtrip := false }

/-- A thermal trip (R381, R420). -/
def State.trip (s : State) (source temp : Nat) : State :=
  let s := (s.count .pwrTripCount [] 1).wr .pwrTripSource [] source
  let s := (s.wr .pwrTripTemp [] temp).reportThermal source 4 temp
  { (s.domainsOff 2).wr .devReady [] 0 with power := 2, thermtrip := true }

/-- A junction reading of channel c (R380, R381, R316). -/
def State.dieTemp (s : State) (c temp : Nat) : State :=
  let bit := 2 ^ c
  let v := s.rd .pwrDieThrottled []
  let was := v.testBit c
  let now := decide (100 ≤ temp) || (was && decide (97 ≤ temp))
  let s := (s.wr .dieDieTemp [c] temp).wr .dieDieTempMax [c] (max temp (s.rd .dieDieTempMax [c]))
  let s := if 95 ≤ temp then s.noteRisk 5 1 else s
  let s := if was = now then s
    else
      let s := (s.wr .pwrDieThrottled [] (if now then v + bit else v - bit)).reportThermal (c + 1) (if now then 3 else 0) temp
      (if now then s.noteRisk 6 1 else s).slowCheck
  let s := if 100 ≤ temp then s.cutTests (fun u => decide (u < 48) && u / 12 == c) else s
  if 115 ≤ temp then s.trip (c + 1) temp else s

/-- A reading of a stack (R229, R381): at CRIT and 110 °C or above it trips. -/
def State.stackReading (s : State) (st temp : Nat) : State :=
  let s := s.stackTemp st temp
  if s.rd .stkTstate [st] = 2 ∧ 110 ≤ temp then s.trip (5 + st) temp else s

/-! Gating (R374, R375). -/

/-- Quad q has nothing that keeps it powered: no descriptor, context or re-execution on its clusters, and no test. -/
def State.quadIdle (s : State) (q : Nat) : Bool :=
  s.rd .domDstate [q] == 2 && !s.tests.any (fun t => t.unit == q) &&
  (List.range 4).all (fun i =>
    !s.descs.any (fun d => d.phase != .done && d.unit == some (.cluster (4 * q + i))) &&
    !s.retries.any (fun r => r.on (.cluster (4 * q + i))))

/-- A quad idle for QUAD_IDLE_US is gated. -/
def State.gateQuad (s : State) (q : Nat) : State :=
  if q < 48 ∧ s.flag .pwrAutoGate [] ∧ s.quadIdle q then s.setDomain q 0 else s

/-- A stack engine idle for STACK_IDLE_US is gated. -/
def State.gateStack (s : State) (st : Nat) : State :=
  if st < 20 ∧ s.flag .pwrAutoGate [] ∧ s.rd .domDstate [56 + st] = 2 ∧ !s.engineBusy st ∧
    !s.tests.any (fun t => t.unit == 56 + st) ∧
    !s.descs.any (fun d => d.phase != .done && d.unit == some (.engine st)) ∧ !s.retries.any (fun r => r.on (.engine st))
  then s.setDomain (56 + st) 0 else s

/-- A woken domain is running (R375). -/
def State.wakeDone (s : State) (d : Nat) : State := if d < 80 ∧ s.rd .domDstate [d] = 1 then s.domainOn d else s

end Sys2Proof.Machine
end

