-- ==== Sys2Proof/Machine/MgmtOps.lean ====
section
/-! DEFINITION. The management port: authentication, commands, reports, recovery, sideband and attestation; and the
join and leave of a group, which host and management share (R248, R249, R382–R385, R396–R408). -/

namespace Sys2Proof.Machine

/-! Join and leave (R248, R249). -/

/-- GROUP_ENABLE becomes 1: JOIN goes to MANAGER_NODE. -/
def State.joinGroup (s : State) : State :=
  if s.flag .grpGroupEnable [] then s
  else ({ s with mgrMissed := 0, mgrHeard := false, heard := [] }.wr .grpGroupEnable [] 1).sendJoin

/-- What keeps GROUP_ENABLE from being cleared (R249). -/
def State.leaveBlocked (s : State) : Bool :=
  s.stepOpen || !s.colls.isEmpty || !s.copies.isEmpty || s.hold.any (fun h => !h.ended) || s.isServing

/-- GROUP_ENABLE becomes 0, with the effects of leaving (R249). -/
def State.leaveGroup (s : State) : State :=
  let s := if s.flag .grpInEpoch [] then s.sendGroup (s.rd .grpManagerNode []) 0x03 (s.rd .grpEpoch []) [] else s
  ((s.wr .grpInEpoch [] 0).setSrcState 0).retain.wr .grpGroupEnable [] 0

/-- GROUP_JOIN, from a packet or a management command (R248, R351, R401). -/
def State.groupJoin (s : State) (a : Asker) : State :=
  if s.stepOpen then s.answer a .notEnabled 0
  else if s.flag .grpGroupEnable [] then s.answer a .done 256
  else { s.joinGroup with joins := s.joins ++ [{ asker := a, since := s.aoNow }] }

/-- GROUP_LEAVE (R248, R249): one that is blocked counts in IGNORED. -/
def State.groupLeave (s : State) (a : Asker) : State :=
  if s.flag .grpGroupEnable [] ∧ s.leaveBlocked then (s.count .grpIgnored [] 1).answer a .notEnabled 0
  else if s.stepOpen then s.answer a .notEnabled 0
  else if s.flag .grpGroupEnable [] = false then s.answer a .done 256
  else s.leaveGroup.answer a .done 0

/-- JOIN_REPLY reaches those who wait for it. -/
def State.joinAnswered (s : State) (result : Nat) : State :=
  s.joins.foldl (fun s j => s.answer j.asker .done (result % 8)) { s with joins := [] }

/-- Joins that wait for longer than 10 × HEARTBEAT_MS end with PARTNER_LOST (R351). -/
def State.joinTimeout (s : State) : State :=
  let late := fun (j : JoinWait) => decide (j.since + msTicks (10 * s.rd .grpHeartbeatMs []) ≤ s.aoNow)
  (s.joins.filter late).foldl (fun s j => s.answer j.asker .partnerLost 0) { s with joins := s.joins.filter (fun j => !late j) }

/-- ROLE_SET (R248, R351): ROLE and the node fields, from a packet or a management command; while GROUP_ENABLE is 1 it is
ignored and counted. -/
def State.roleSet (s : State) (a : Asker) (role : Nat) (nodes : List (Reg × Nat)) : State :=
  if s.flag .grpGroupEnable [] then (s.count .grpIgnored [] 1).answer a .notEnabled 0
  else if s.stepOpen then s.answer a .notEnabled 0
  else if 2 < role ∨ nodes.any (fun n => decide (0x3FFF < n.2)) then s.answer a .badParam 0
  else (nodes.foldl (fun s n => s.wr n.1 [] n.2) (s.wr .grpRole [] role)).answer a .done 0

/-! Authentication (R398, R399). -/

/-- Bytes 0x0060_0100–0x0060_0107 of the integrity block. -/
def State.healthWord (s : State) : Nat :=
  s.rd .intClustersInService [] * 2 ^ 24 + s.rd .intSuspectCount [] * 2 ^ 16 + s.rd .intFencedCount [] * 2 ^ 8 +
  s.rd .intRisk [] * 2 ^ 6 + s.rd .intBjOverdue [] * 2 ^ 5 + s.rd .intWithheldAny [] * 2 ^ 4

/-- The tag of a received message verifies. -/
def State.tagOk (s : State) (h : MgmtHeader) (type : Nat) (body : List Byte) : Bool :=
  let hd := leBytes 4 (0x01 * 2 ^ 24 + type * 2 ^ 16 + body.length) ++ zeros 4 ++ leBytes 8 h.moduleId ++ leBytes 8 h.seq ++
    leBytes 8 h.tick
  h.tag == kmac256 s.key (hd ++ body) mgmtCustom

/-- A message for this module under its key; any other is discarded and counted (R399). -/
def State.messageOk (s : State) (h : MgmtHeader) (type : Nat) (body : List Byte) : Bool :=
  s.rd .mgmtKeyState [] == 1 && h.moduleId == Config.moduleId.toNat && s.tagOk h type body

/-- A command arrives (R399, R403): discarded, answered with AUTH_FAIL, refused while BOOT_ERROR is 0x01, or run. -/
def State.command (s : State) (h : MgmtHeader) (type : Nat) (body : List Byte) (f : State → State) : State :=
  if !s.flag .mgmtPortUp [] then s
  else if !s.messageOk h type body then s.count .mgmtCmdsRejected [] 1
  else if h.seq ≤ s.rd .mgmtLastCmdSeq [] then (s.count .mgmtCmdsRejected [] 1).reply h.seq .authFail 0
  else
    let s := (s.wr .mgmtLastCmdSeq [] h.seq).count .mgmtCmdsAccepted [] 1
    if s.rd .devBootError [] = 1 ∧ type ≠ 0x40 ∧ type ≠ 0x4B ∧ type ≠ 0x44 then s.reply h.seq .notEnabled 0 else f s

/-! Reports (R400). -/

/-- A SUMMARY report. -/
def State.summary (s : State) : State :=
  s.report 0x07 (leBytes 8 s.healthWord ++ leBytes 2 (s.rd .pwrInputW []) ++ leBytes 1 (s.rd .devBootError []) ++
    leBytes 1 (s.rd .stState []) ++ leBytes 8 (s.rd .grpEpoch []))

/-- Every unacknowledged report is sent again. -/
def State.resend (s : State) : State := s.reports.foldl (fun s r => s.sendDatagram r.2) s

/-- ACK removes the oldest report with its SEQ. -/
def State.ack (s : State) (seq : Nat) : State :=
  match s.reports.find? (fun r => r.1 == seq) with
  | some r => { s with reports := s.reports.erase r }
  | none => s

/-! Firmware images (R383, R384). -/

/-- The largest BODY_LENGTH. -/
def bodyLimit : Nat := 28 * 1048576 - 0x9000

/-- The checks of R384 on an image whose bytes `m` reads by offset and length, of which `room` are present. -/
def imageOk (svnMin room : Nat) (m : Nat → Nat → List Byte) : Bool :=
  let f := fun o n => ofLe (m o n)
  let len := f 0x10 8
  f 0 4 == 0x3032344B && f 4 2 == 1 && f 7 1 == 0 && f 0xA 2 == 0 && allZero (m 0x18 8) && allZero (m 0x80 0xF80) &&
  allZero (m (0x1000 + 29792) (0x8000 - 29792)) && decide (len ≤ bodyLimit) && decide (0x9000 + len ≤ room) &&
  digest256 (m 0x20 64) == Config.imageKeyHash && decide (svnMin ≤ f 0xC 4) && f 6 1 == 1 &&
  Config.slhDsaVerify (m 0x20 64) (m 0 0x1000) (m 0x1000 29792) && digest256 (m 0x9000 len) == m 0x60 32

/-- What the flash keeps of an image. -/
def imageOf (m : Nat → Nat → List Byte) : FwImage :=
  { major := ofLe (m 9 1), minor := ofLe (m 8 1), svn := ofLe (m 0xC 4), digest := digest256 (m 0 0x1000) }

/-- Write an image to an area of flash. -/
def State.putImage (s : State) (area : Nat) (i : FwImage) : State :=
  if area = 0 then { s with areaA := i } else { s with areaB := i }

/-- FIRMWARE_STAGE (R351, R385). -/
def State.firmwareStage (s : State) (pid tag src bytes : Nat) : State :=
  if 64 * 1048576 < bytes ∨ !s.inRegion src bytes then s.endPacket pid .limitExceeded 0
  else if s.unavailIn src bytes then s.endPacket pid .faultUnit 0
  else if !(s.badBolts src bytes).isEmpty then s.endBad pid tag (s.badBolts src bytes)
  else
    let m := fun o n => s.mem.read (src + o) n
    let s := s.readTraffic (s.viaHome src) src bytes
    if imageOk (s.rd .mgmtSvnMin []) bytes m then
      ((s.putImage (1 - s.active) (imageOf m)).wr .pwrPendingImage [] 1).endPacket pid .done 0
    else s.endPacket pid .authFail 0

/-- A RECOVERY chunk (R403); one answered AUTH_FAIL counts in CMDS_REJECTED (R408). -/
def State.recover (s : State) (seq offset : Nat) (data : List Byte) : State :=
  if s.rd .devBootError [] ≠ 1 then s.reply seq .notEnabled 0
  else if offset = 0xFFFFFFFF ∧ data.isEmpty then
    let m := fun o n => s.recovery.read o n
    if imageOk (s.rd .mgmtSvnMin []) (28 * 1048576) m then
      (({ s.putImage 0 (imageOf m) with active := 0 }).wr .pwrPendingImage [] 0).reply seq .done 0
    else (s.count .mgmtCmdsRejected [] 1).reply seq .authFail 0
  else if 28 * 1048576 < offset + data.length then s.reply seq .limitExceeded 0
  else { s with recovery := s.recovery.write offset data }.reply seq .done 0

/-! The commands of R401. -/

/-- STATUS_QUERY. -/
def State.statusQuery (s : State) (seq : Nat) : State := (s.reply seq .done s.healthWord).summary

/-- RESET: the reply leaves before the reset acts (R401, R420). -/
def State.mgmtResetCommand (s : State) (seq : Nat) (r : BootReport) : State :=
  if s.thermtrip then s.reply seq .thermalHold 0 else (s.reply seq .done 0).mgmtReset r

/-- MAPOUT. -/
def State.mapoutCommand (s : State) (seq x : Nat) : State :=
  if 640 ≤ x then s.reply seq .badParam 0 else (s.makePending x 4).reply seq .done 0

/-- MAPOUT_CLEAR: the channel returns at the next cold reset (R221). -/
def State.mapoutClear (s : State) (seq x : Nat) : State :=
  if s.flashMap.contains x then { s with flashMap := s.flashMap.filter (fun y => y != x) }.reply seq .done 0
  else s.reply seq .badParam 0

/-- SVN_RAISE. -/
def State.svnRaise (s : State) (seq svn : Nat) : State :=
  let now := s.rd .mgmtSvnMin []
  if svn < now ∨ s.running.svn < svn then s.reply seq .badParam 0
  else
    let s := if svn = now then s else (s.wr .mgmtSvnMin [] svn).attest 5 [] (leBytes 4 svn)
    s.reply seq .done 0

/-- KEY_SET: the reply is tagged with the old key. -/
def State.keySet (s : State) (seq : Nat) (key : List Byte) : State :=
  let s := s.reply seq .done 0
  { s with key := slice key 0 32 }.attest 6 [] (leBytes 8 seq)

/-- GROUP. -/
def State.groupCommand (s : State) (seq action : Nat) : State :=
  if action = 1 then s.groupJoin (.command seq)
  else if action = 2 then s.groupLeave (.command seq)
  else s.reply seq .badParam 0

/-! IPv6 addresses (R396). -/

/-- The link-local address formed from the MAC address by modified EUI-64. -/
def linkLocal : Nat :=
  let id := Config.moduleId.toNat % 2 ^ 40
  0xFE80 * 2 ^ 112 + (id / 2 ^ 24) * 2 ^ 40 + 0xFFFE * 2 ^ 24 + id % 2 ^ 24

/-- An address of the device. -/
def State.ownAddress (s : State) (a : Nat) : Bool :=
  a == linkLocal || (s.rd .mgmtDeviceAddr [] != 0 && a == s.rd .mgmtDeviceAddr [])

/-- Neighbor Solicitation. -/
def State.solicited (s : State) (target source : Nat) : State :=
  if s.flag .mgmtPortUp [] ∧ s.ownAddress target then s.emit (.neighborAdvert target source) else s

/-- ICMPv6 Echo Request. -/
def State.echoed (s : State) (dest source : Nat) (data : List Byte) : State :=
  if s.flag .mgmtPortUp [] ∧ s.ownAddress dest then s.emit (.echoReply source data) else s

/-! The sideband (R404). -/

/-- The FRU record: part number with its variant suffix, MODULE_ID, HW_REV, release, NE, FEED_ID and SLOT_ID. -/
def State.fruRecord (s : State) : List Byte :=
  ([0x4B, 0x34, 0x32, 0x30, 0x2D, 0x4D, 0x31, 0x32, 0x38, 0x30, 0x2D, 0x4C] : List Nat).map (BitVec.ofNat 8) ++
  [Config.variant] ++ leBytes 8 Config.moduleId.toNat ++ leBytes 1 (s.rd .devHwRev []) ++ leBytes 1 (s.rd .devFwMajor []) ++
  leBytes 1 (s.rd .devFwMinor []) ++ leBytes 1 (s.rd .devNe []) ++ leBytes 1 Config.feedId.val ++ leBytes 1 Config.slotId.val

/-- The answer to a request. -/
def State.mcAnswer (s : State) : McRequest → List Byte
  | .setEndpoint e => leBytes 1 e
  | .getEndpoint => leBytes 1 s.eid
  | .messageTypes => [0x00, 0x01]
  | .dieTemp c => leBytes 1 (s.rd .dieDieTemp [c % 4])
  | .stackTemp st => leBytes 1 (s.rd .stkTemp [st % 20])
  | .inputW => leBytes 2 (s.rd .pwrInputW [])
  | .inputMv => leBytes 2 (s.rd .pwrInputMv [])
  | .thermtrip => leBytes 1 (b2n s.thermtrip)
  | .dieThrottled => leBytes 1 (b2n (s.rd .pwrDieThrottled [] != 0))
  | .stackCrit => leBytes 1 (b2n s.anyCrit)
  | .fru => s.fruRecord

/-- A request is answered; only endpoint ID assignment changes state. -/
def State.mcRequest (s : State) (q : McRequest) : State :=
  let t := s.emit (.mctp (s.mcAnswer q))
  match q with
  | .setEndpoint e => { t with eid := e % 256 }
  | _ => t

/-! Attestation (R405–R407). -/

/-- The 1 KiB report. -/
def State.attReport (s : State) (nonce : List Byte) : List Byte :=
  leBytes 4 0x5241344B ++ leBytes 1 1 ++ leBytes 1 (s.rd .devNe []) ++ leBytes 1 (s.rd .pwrLastReset []) ++
  leBytes 1 (s.rd .devBootError []) ++ leBytes 8 Config.moduleId.toNat ++ slice nonce 0 32 ++ leBytes 8 s.aoNow ++
  leBytes 4 s.running.svn ++ leBytes 4 (s.rd .mgmtSvnMin []) ++ digest256 s.attLog.flatten ++ leBytes 4 s.attLog.length ++
  leBytes 8 s.healthWord ++ leBytes 2 s.mappedList.length ++ leBytes 1 Config.feedId.val ++ leBytes 1 Config.slotId.val ++
  leBytes 8 (s.rd .grpEpoch []) ++ leBytes 2 (s.rd .grpNode []) ++ zeros 902

/-- ATTEST. -/
def State.attestTo (s : State) (pid tag : Nat) (nonce : List Byte) (dest : Nat) : State :=
  if !s.identityKey then s.endPacket pid .authFail 0
  else if !s.inRegion dest (192 * 1024) then s.endPacket pid .limitExceeded 0
  else if s.unavailIn dest (192 * 1024) then s.endPacket pid .faultUnit 0
  else
    let r := s.attReport nonce
    let cert := fun (c : List Byte) => leBytes 4 c.length ++ c
    let bs := r ++ slice (Config.slhDsaSign r) 0 29792 ++ cert Config.deviceCertificate ++ cert Config.caCertificate
    let w := s.writeMem (s.viaHome dest) tag dest bs
    if w.2.isEmpty then w.1.endPacket pid .done 0
    else (w.1.spoil dest bs.length).endPacket pid .memUncorrectable (faultDetail 0 0 (lowest w.2))

/-- MEASUREMENT_LOG. -/
def State.measurementLog (s : State) (pid tag dest bytes : Nat) : State :=
  let l := s.attLog.flatten
  let data := l.take bytes
  if !s.inRegion dest data.length then s.endPacket pid .limitExceeded 0
  else if s.unavailIn dest data.length then s.endPacket pid .faultUnit 0
  else
    let w := s.writeMem (s.viaHome dest) tag dest data
    if w.2.isEmpty then w.1.endPacket pid .done l.length
    else (w.1.spoil dest data.length).endPacket pid .memUncorrectable (faultDetail 0 0 (lowest w.2))

end Sys2Proof.Machine
end

