-- ==== Sys2Proof/Machine/HostPort.lean ====
section
/-! DEFINITION. The host interface: BAR0 writes by access code, range, lock and latch rules, the writes that act, BAR0
reads with their views, BAR2, host reads, and configuration space (R13, R14, R142, R146, R181, R325–R336, R341, R345,
R355, R429, R431). -/

namespace Sys2Proof.Machine

/-- The host link is up and the device is powered (R431). -/
def State.linked (s : State) : Bool := s.power == 1 && s.pcieUp

/-- The host interface takes writes (R326, R431): linked, in D0, with no reset in progress. -/
def State.hostOk (s : State) : Bool := s.linked && s.resetting.isNone && !s.cfg.d3hot

/-! Writes that act. -/

/-- Reset a ring (R336, R153): fetching stops, ENABLE becomes 0, packets that have not started end SKIPPED. -/
def State.ringReset (s : State) (r : Nat) : State :=
  if s.rd .ringRingState [r] = 3 then s
  else
    let s := (s.wr .ringEnable [r] 0).wr .ringRingState [r] 3
    { s with
      flight := s.flight.map (fun p => if p.ring = r ∧ p.isWaiting then { p with phase := .ended .skipped 0 false } else p)
      hostReads := s.hostReads.filter (fun h => h.what != .ring r)
      fetchBuf := Tab.del s.fetchBuf r
      step := s.step.map (fun t => if t.ring = r then { t with resetWaits := t.resetWaits || !s.closing } else t) }

/-- Every packet of a resetting ring has written its status record, and no close of a step on it is past step 1 of
R152. -/
def State.ringQuiet (s : State) (r : Nat) : Bool :=
  s.rd .ringRingState [r] == 3 && (s.lateOf r).isNone &&
  s.flight.all (fun p => p.ring != r || (p.phase == .running && match p.op with | .stepEnd .. => true | _ => false)) &&
  (match s.step with
   | some t => t.ring != r || (!s.closing && s.retries.all (fun q => match q.what with | .batch .. => false | _ => true))
   | none => true)

/-- A resetting ring has drained (R336): an open step on it closes by R153, and the ring becomes IDLE. -/
def State.ringDrained (s : State) (r : Nat) : State :=
  if !s.ringQuiet r then s
  else
    let s := match s.step with
      | some t => if t.ring = r then s.abortStep else s
      | none => s
    let tail := s.rd .ringRingTail [r]
    ((s.wr .ringRingFetched [r] tail).wr .ringRingHead [r] tail).wr .ringRingState [r] 0 |>.wr .ringStopCode [r] 0

/-- TOKEN_ADD (R341, R343). -/
def State.tokenAdd (s : State) (t n : Nat) : State := (s.raiseToken t n).setFaulted t false

/-- DEVICE_ENABLE (R331, R390). -/
def State.deviceEnable (s : State) (on : Bool) : State :=
  if s.rd .devBootError [] ≠ 0 ∨ (on ∧ s.rd .devReady [] = 0) then s else s.wr .devDeviceEnable [] (b2n on)

/-- REEF_SET and REEF_CLEAR (R142): at once when no step is open. -/
def State.reefWrite (s : State) (on : Bool) (w bits : Nat) : State :=
  let s := ((List.range 32).filter (fun i => bits.testBit i)).foldl (fun s i => s.setReef on (32 * w + i)) s
  if s.stepOpen then s else s.applyReef

/-- DEFAULTS (R155, R180): the default reason policies, a telltale POLICY of RECORD for every monitor, and outlier MODE
WIDEN_THEN_REEF. -/
def State.installDefaults (s : State) (num : Nat) : State :=
  let s := (s.wr .stNumPolicy [] num).wr .olMode [] 1
  { s with regs := clearFields s.regs 16 0x101000 0x20 256 }

/-- Count a write ignored by R181. -/
def State.ignore181 (s : State) : State := s.count .stIgnoredWrites [] 1

/-- FP32 bits are positive, finite and normal. -/
def posNormal (v : Nat) : Bool := RegRule.posNormal.ok v

/-- GS_SET (R146, R167): outside a step, into the live copy at once. -/
def State.gsSet (s : State) (v : Nat) : State :=
  if s.stepOpen ∨ !posNormal v then s.ignore181
  else if s.rd .stStateBase [] = 0 then (s.wr .stGradScale [] v).wr .stGsClean [] 0
  else
    let r := s.writeLive 0x18 (leBytes 4 v ++ leBytes 4 0)
    if r.2.isEmpty then (r.1.wr .stGradScale [] v).wr .stGsClean [] 0 else r.1.ignore181

/-- BASELINE_SET of monitor i (R146, R180). -/
def State.baselineSet (s : State) (i v : Nat) : State :=
  if s.stepOpen then s.ignore181
  else if s.rd .stStateBase [] = 0 then (s.wr .monBaseline [i] v).wr .monCount [i] 1
  else
    let r := s.writeLive (baselineOff i) (leBytes 4 v ++ leBytes 2 1)
    if r.2.isEmpty then r.1 else r.1.ignore181

/-- A scale-history field of entry e (R146, R164): applied with SCALE as the live copy's history gives it; a history that gives
none leaves SCALE as it was. -/
def State.historySet (s : State) (r : Reg) (e v : Nat) : State :=
  if s.stepOpen then (if s.rd r [e] = v then s else s.ignore181)
  else if s.rd .stStateBase [] = 0 then s.wr r [e] v
  else
    let q := s.writeLive (historyOff e) (s.mem.read (s.liveCopy.1 + historyOff e) 64)
    if q.2.isEmpty then (q.1.keepScale e).wr r [e] v else q.1.ignore181

/-- STATE_BASE (R145, R146, R394): a fresh area gets its copy 0 at once, also where the field held that address before. -/
def State.stateBaseSet (s : State) (v : Nat) : State :=
  let was := s.rd .stStateBase []
  if s.stepOpen then (if was = v then s else s.ignore181)
  else if v = 0 then s.wr .stStateBase [] 0
  else if !s.inRegion v 0x100000 then s.ignore181
  else
    let bad := s.badBolts v 64 ++ s.badBolts (v + copyBytes) 64
    if !bad.isEmpty then (s.noteBads 0 bad).ignore181
    else
      let fresh := ofLe (s.mem.read (v + 8) 8) == 0 && ofLe (s.mem.read (v + copyBytes + 8) 8) == 0
      let via := s.viaHome v
      let s := s.readsTraffic via [(v, 64), (v + copyBytes, 64)]
      if fresh then
        let gs : F32 := BitVec.ofNat 32 (s.rd .stGradScale [])
        let w := s.writeMem via 0 v (copyHeader 1 (2 ^ 64 - 1) gs 0 ++ zeros (copyBytes - 64))
        if w.2.isEmpty then (w.1.wr .stStateBase [] v).freshScales.loadLive else w.1.ignore181
      else (if was = v then s else (s.wr .stStateBase [] v).freshScales).loadLive

/-- CLEAR_BROKEN (R173): the gradient scale in force is the live copy's, which software may have restored. -/
def State.clearBroken (s : State) : State :=
  let s := s.wr .stBroken [] 0
  if s.rd .stStateBase [] = 0 then s else s.loadLive

/-- A capture record is cleared (R90). -/
def State.captureClear (s : State) (i j f : Nat) : State :=
  ([Reg.capValid, Reg.capEvents, Reg.capTag, Reg.capDescId, Reg.capMatrix, Reg.capRow, Reg.capCol, Reg.capKblock]).foldl
    (fun s r => s.wr r [i, j, f] 0) s

/-- LAST_FAULT of stack engine j of channel i is cleared (R211). -/
def State.lastFaultClear (s : State) (i j : Nat) : State :=
  ((s.wr .engValid [i, j] 0).wr .engStatus [i, j] 0).wr .engGroup [i, j] 0

/-- RING_BASE, LOC or RING_LOG2 of ring r (R332, R333), judged against the state before the write. -/
def State.ringConfig (s0 s : State) (r : Reg) (k v : Nat) : State :=
  if s0.rd r [k] = v then s
  else if (r = .ringRingBase ∧ !r.rule.ok v) then s.count .devConfigIgnored [] 1
  else if !r.rule.ok v then s
  else if s0.flag .ringEnable [k] ∨ s0.rd .ringRingTail [k] ≠ s0.rd .ringRingHead [k] then s.count .devConfigIgnored [] 1
  else (((s.wr r [k] v).wr .ringRingTail [k] 0).wr .ringRingFetched [k] 0).wr .ringRingHead [k] 0

/-- STATUS_BASE or STATUS_LOG2 of ring r (R333, R346). -/
def State.statusConfig (s0 s : State) (r : Reg) (k v : Nat) : State :=
  if s0.rd r [k] = v then s
  else if (r = .ringStatusBase ∧ !r.rule.ok v) then s.count .devConfigIgnored [] 1
  else if !r.rule.ok v then s
  else if s0.flag .ringEnable [k] ∨ s0.rd .ringRingTail [k] ≠ s0.rd .ringRingHead [k] then s.count .devConfigIgnored [] 1
  else (((s.wr r [k] v).wr .ringStatusHead [k] 0).wr .ringStatusTail [k] 0).flushStops k

/-- The management key is complete (R408): it takes effect only while KEY_STATE is UNSET. -/
def State.keyWrite (s : State) (v : Nat) : State :=
  if s.rd .mgmtKeyState [] = 0 then { s with key := leBytes 32 v }.wr .mgmtKeyState [] 1 else s

/-! Fields of a register write (R327, R429). -/

/-- The word of a write of `len` bytes at `off` that covers word offset w. -/
def wordOf (off val w : Nat) : Nat := val / 2 ^ (8 * (w - off)) % 2 ^ 32
/-- The write covers the word at w. -/
def coversWord (off len w : Nat) : Bool := decide (off ≤ w) && decide (w + 4 ≤ off + len)

/-- The fields that a write touches, each with its indices. -/
def fieldsAt (off len : Nat) : List (Reg × List Nat) :=
  (((List.range (len / 4)).map (fun i => allRegs.filterMap (fun r => (r.at (off + 4 * i)).map (fun p => (r, p.1))))).flatten).eraseDups

/-- The value that a write gives a field, none when it only holds words of it (R327). -/
def State.fieldValue (s : State) (r : Reg) (idx : List Nat) (off len val : Nat) : Option Nat :=
  let base := r.off + strideSum r.dims idx
  let n := r.span / 4
  if n = 1 then some (bitsOf (wordOf off val base) (r.lsb + r.width - 1) r.lsb)
  else if r.acc = .wo ∧ r ≠ .mgmtKey then
    if off = base ∧ len = 8 then some (bitsOf val (r.lsb + r.width - 1) r.lsb) else none
  else if coversWord off len (base + 4 * (n - 1)) then
    let word := fun (i : Nat) =>
      let w := base + 4 * i
      if coversWord off len w then wordOf off val w
      else Tab.get (if r.acc = .wo then 0 else bitsOf (s.rd r idx) (32 * i + 31) (32 * i)) s.heldWords w
    some ((List.range n).foldl (fun v i => v + word i * 2 ^ (32 * i)) 0)
  else none

/-- Hold the words of a wide field that a write below its highest word carries. -/
def State.holdWords (s : State) (r : Reg) (idx : List Nat) (off len val : Nat) : State :=
  let base := r.off + strideSum r.dims idx
  let n := r.span / 4
  if r.acc = .ro ∨ (r.acc = .wo ∧ r ≠ .mgmtKey) then s
  else
    let put := fun (t : Tab Nat) (i : Nat) => Tab.put t (base + 4 * i) (wordOf off val (base + 4 * i))
    { s with heldWords := ((List.range n).filter (fun i => coversWord off len (base + 4 * i))).foldl put s.heldWords }

/-- A field has taken a value: none of its words is held. -/
def State.dropHeld (s : State) (r : Reg) (idx : List Nat) : State :=
  let base := r.off + strideSum r.dims idx
  if s.heldWords.isEmpty then s
  else { s with heldWords := s.heldWords.filter (fun p => decide (p.1 < base) || decide (base + r.span ≤ p.1)) }

/-- Fields of the step-control block that change only while no step is open (R181, R210). -/
def stepLocked : List Reg :=
  [.stRunSeed, .stRecordBase, .stSlots, .seGroupTableBase, .seHyperBase, .seVariantTableBase]
/-- Fields that change only while GROUP_ENABLE is 0 (R248). -/
def groupLocked : List Reg := [.grpRole, .grpNode, .grpTopNode, .grpManagerNode, .grpStandby0, .grpStandby1, .grpTopStandby]
/-- Fields of a scale-history entry. -/
def historyFields : List Reg := [.shTag, .shEnable, .shLenM1, .shTarget]
/-- Enables and states, which take effect after the other fields of the same write (R429). -/
def enableFields : List Reg :=
  [.devDeviceEnable, .ringEnable, .ringRingReset, .stEnable, .monEnable, .shEnable, .grpGroupEnable, .portEnable, .collEnable,
   .shrEnable, .shrHoldEnable, .ctrBwEnable, .arbFreeze]
/-- The field is in the step-control block. -/
def Reg.inStepBlock (r : Reg) : Bool := decide (0x100000 ≤ r.off) && decide (r.off < 0x300000)

/-- A plain RW field takes a value (R13): ignored, and in the step-control block counted, outside its range (R181). -/
def State.plainWrite (s : State) (r : Reg) (idx : List Nat) (v : Nat) : State :=
  if !r.rule.ok v then (if r.inStepBlock then s.ignore181 else s)
  else (s.wr r idx v).dropHeld r idx

/-- One field of a BAR0 write takes a value; conditions are judged against `s0`, the state before the write (R429). -/
def State.fieldWrite (s0 s : State) (r : Reg) (idx : List Nat) (v : Nat) : State :=
  let k := idx.headD 0
  match r.acc with
  | .ro => s
  | .w1s => s
  | .w1c =>
    if v = 0 then s
    else if r = .capValid then s.captureClear k (idx.getD 1 0) (idx.getD 2 0)
    else if r = .engValid then s.lastFaultClear k (idx.getD 1 0)
    else s.wr r idx 0
  | .wo =>
    if r = .mgmtKey then s.keyWrite v
    else if r = .stGsSet then s.gsSet v
    else if r = .monBaselineSet then s.baselineSet k v
    else if r = .olReefSet then s.reefWrite true k v
    else if r = .olReefClear then s.reefWrite false k v
    else if r = .memMapoutRequest then (if v < 640 then s.makePending v 4 else s)
    else if v = 0 then s
    else if r = .stDefaults then s.installDefaults defaultPolicies
    else if r = .stClearBroken then s.clearBroken
    else if r = .llsLostClear then s.lostClear k
    else if r = .ringRingReset then s.ringReset k
    else if r = .progClear then s.counterClear k (idx.getD 1 0)
    else s
  | .rw =>
    if r = .devDeviceEnable then s.deviceEnable (v == 1)
    else if r = .devBar2Base then
      let size := 2 ^ (30 + s.cfg.bar2Log2)
      if v % size = 0 ∧ v + size ≤ 2 ^ 48 then (s.wr r idx v).dropHeld r idx else s
    else if r = .ringRingBase ∨ r = .ringLoc ∨ r = .ringRingLog2 then (s0.ringConfig s r k v).dropHeld r idx
    else if r = .ringStatusBase ∨ r = .ringStatusLog2 then (s0.statusConfig s r k v).dropHeld r idx
    else if r = .queryQueryToken ∨ r = .queryQueryValue then (s.plainWrite r idx v).wr .queryQueryResult [k] 0
    else if r = .ringStatusHead then (s.plainWrite r idx v).flushStops k
    else if r = .stStateBase then
      if !r.rule.ok v then s.ignore181 else (s.stateBaseSet v).dropHeld r idx
    else if stepLocked.contains r ∧ s0.stepOpen then (if s.rd r idx = v then s else s.ignore181)
    else if historyFields.contains r then (if !r.rule.ok v then s.ignore181 else s.historySet r k v)
    else if r = .stGsMin ∨ r = .stGsMax then
      let lo := if r = .stGsMin then v else s.rd .stGsMin []
      let hi := if r = .stGsMax then v else s.rd .stGsMax []
      if hi < lo then s.ignore181 else s.plainWrite r idx v
    else if groupLocked.contains r ∧ s0.flag .grpGroupEnable [] then (if s.rd r idx = v then s else s.count .grpIgnored [] 1)
    else if r = .grpGroupEnable then
      if v = 1 then s.joinGroup
      else if !s.flag .grpGroupEnable [] then s
      else if s.leaveBlocked then s.count .grpIgnored [] 1
      else s.leaveGroup
    else if r = .portEnable then (if v = 1 then s.enablePort k else s.disablePort k)
    else if r = .shrAreaShroudBase ∨ r = .shrAreaShroudMib then
      if s0.rd .shrHoldState [] ≠ 0 ∨ (r = .shrAreaShroudBase ∧ v ≠ 0 ∧ regionOf v ≠ some (.stack k)) then s
      else s.plainWrite r idx v
    else if r = .shrEnable then (let t := s.wr r [] v; if v = 1 ∧ !s.flag .shrEnable [] then t.probeHolder else t)
    else if r = .ctrBwEnable then s.bwEnable (v == 1)
    else if r = .ctrWindowTicks ∧ s0.flag .ctrBwEnable [] then s
    else if r = .arbFreeze then s.freeze k (v == 1)
    else s.plainWrite r idx v
where
  /-- NUM_POLICY in the Default column of R155. -/
  defaultPolicies : Nat := 0x2096

/-- A host write of a BAR0 word or pair of words (R327, R429). -/
def State.hostWrite (s : State) (off len val : Nat) : State :=
  let fs := fieldsAt off len
  if off = 0x20 then
    if len = 8 then s.tokenAdd (val / 2 ^ 48) (val % 2 ^ 48) else s
  else
    match fs.find? (fun f => f.1 == .progEvent || f.1 == .stageUnits) with
    | some (r, idx) =>
      let g := fun (x : Reg) => (s.fieldValue x idx off len val).getD 0
      if r = .progEvent then
        let s := s.selectWrite (idx.headD 0) (idx.getD 1 0) (g .progEvent) (g .progFilter) (g .progEnable == 1)
        -- an 8-byte write also carries CLEAR
        if len = 8 ∧ (val / 2 ^ 32).testBit 0 then s.counterClear (idx.headD 0) (idx.getD 1 0) else s
      else
        let one := fun (s : State) (c w : Nat) =>
          if bitsOf w 3 0 + bitsOf w 8 4 ≤ 16 then (s.wr .stageFirst [c] (bitsOf w 3 0)).wr .stageUnits [c] (bitsOf w 8 4) else s
        let s := one s (idx.headD 0) (val % 2 ^ 32)
        if len = 8 then one s (idx.headD 0 + 1) (val / 2 ^ 32) else s
    | none =>
      let vals := fs.map (fun f => (f, s.fieldValue f.1 f.2 off len val))
      let s1 := vals.foldl (fun t f => match f.2 with
        | none => t.holdWords f.1.1 f.1.2 off len val
        | some v => if enableFields.contains f.1.1 then t else s.fieldWrite t f.1.1 f.1.2 v) s
      vals.foldl (fun t f => match f.2 with
        | some v => if enableFields.contains f.1.1 then s.fieldWrite t f.1.1 f.1.2 v else t
        | none => t) s1

/-- A BAR0 access has a legal size and alignment (R327). -/
def bar0Legal (off len : Nat) : Bool := (len == 4 || len == 8) && off % len == 0 && decide (off + len ≤ 0x4000000)

/-! Posted writes that wait (R230). -/

/-- A slice's merge buffer is full with writes to stacks at CRIT: the device withholds posted-write credit (R230). -/
def State.postedFull (s : State) : Bool := !s.heldWrites.isEmpty && (List.range 4).any (fun c => decide (2048 < s.mergeUsed c))

/-- A BAR0 write from the host link: its data bytes count at port 32. -/
def State.bar0Write (s : State) (off len val : Nat) : State :=
  if !bar0Legal off len then s
  else if s.postedFull then s.holdWrite 0 off (leBytes len val)
  else (s.tlpIn len).hostWrite off len (val % 2 ^ (8 * len))

/-- The indices name an entry of the field. -/
def Reg.has (r : Reg) (idx : List Nat) : Bool :=
  idx.length == r.dims.length && (r.dims.zip idx).all (fun p => decide (p.2 < p.1.1))

/-- A field takes a value that a host write carries; the bytes of its word or words count at the host port. -/
def State.fieldTake (s : State) (r : Reg) (idx : List Nat) (v : Nat) : State :=
  let s := s.tlpIn r.span
  s.fieldWrite s r idx v

/-- A host write of one register field (R13, R327): the value is cut to the field. -/
def State.hostField (s : State) (r : Reg) (idx : List Nat) (v : Nat) : State :=
  if !r.has idx then s
  else if s.postedFull then s.holdWrite 3 (r.key idx) (leBytes 32 (v % 2 ^ r.width))
  else s.fieldTake r idx (v % 2 ^ r.width)

/-- A write through BAR2 that has credit and reaches memory. -/
def State.bar2Take (s : State) (a : Nat) (data : List Byte) : State :=
  if s.unavailIn a data.length then s else (s.writeMem (.iface 0) 0 a data).1

/-- A write that waited is taken, or waits on (R230). -/
def State.takeWrite (s : State) (w : HeldWrite) : State :=
  match w.kind with
  | 0 => s.bar0Write w.addr w.data.length (ofLe w.data)
  | 1 =>
    if s.postedFull ∨ s.heldIn w.addr w.data.length then s.holdWrite 1 w.addr w.data else s.bar2Take w.addr w.data
  | 2 => s.writeArea w.addr w.data
  | _ =>
    if s.postedFull then s.holdWrite 3 w.addr w.data
    else
      match (fieldsAt (w.addr / 32) 4).find? (fun f => f.1.key f.2 == w.addr) with
      | some f => s.fieldTake f.1 f.2 (ofLe w.data)
      | none => s

/-- The writes that wait are taken in their order, as far as stacks at CRIT let them. -/
def State.takeWrites (s : State) : State := s.heldWrites.foldl State.takeWrite { s with heldWrites := [] }

/-! BAR0 reads (R13, R14, R345). -/

/-- ENGINE_STATE (R184): 0 OFF, 1 READY, 2 BUSY, 3 UNDER_TEST, 4 FENCED, 5 HELD. -/
def State.engineState (s : State) (st : Nat) : Nat :=
  if s.fenced (56 + st) && !s.engineBusy st then 4
  else if s.underTest (56 + st) then 3
  else if s.rd .stkTstate [st] = 2 then 5
  else if s.engineBusy st || s.descs.any (fun d => d.unit == some (.engine st)) then 2
  else if s.rd .domDstate [56 + st] = 2 then 1 else 0

/-- What a read of a field returns: WO fields zero, and the fields that follow the state of the module. -/
def State.view (s : State) (r : Reg) (idx : List Nat) : Nat :=
  let k := idx.headD 0
  if r.acc = .wo then 0
  else if r = .devAoNow then s.aoNow
  else if r = .ringRingState then (if s.rd r idx = 0 then s.rd .ringEnable idx else s.rd r idx)
  else if r = .ringInFlight then (s.flight.filter (fun p => p.ring == k && !p.deferred)).length
  else if r = .queryQueryFaulted then b2n (s.tokenFaulted (s.rd .queryQueryToken [k]))
  else if r = .queryQueryResult then (if s.rd r idx = 2 ∨ s.token (s.rd .queryQueryToken [k]) < s.rd .queryQueryValue [k] then 2 else 0)
  else if r = .tokTokenValue then s.token k
  else if r = .tokFaultedMap then (List.range 32).foldl (fun n i => n + b2n (s.tokenFaulted (32 * k + i)) * 2 ^ i) 0
  else if r = .olReefCount then s.reefState.length
  else if r = .memRebuildDue then
    b2n ((List.range 640).any (fun x => s.rd .hbmState [x] == 1)) +
      2 * b2n (s.rd .memDShare [] != s.dShare || s.cShareWritten != s.cShare)
  else if r = .memDeviceSpreadSize then (if s.startDone then s.regionSize .device else 0)
  else if r = .memChannelSpreadSize then (if s.startDone then s.regionSize (.channel k) else 0)
  else if r = .memStackLocalSize then (if s.startDone then s.regionSize (.stack k) else 0)
  else if r = .arbGrants then (s.arb k).grants % 2 ^ 64
  else if r = .arbEmptyGrants then (s.arb k).empty % 2 ^ 64
  else if r = .monBaseline then (s.baseline k).1.toNat
  else if r = .monCount then (s.baseline k).2
  else if r = .shScale then (s.committedScale k).toNat
  else if r = .bwTotalOut then Tab.get 0 s.bwTotals (2 * k) % 2 ^ 64
  else if r = .bwTotalIn then Tab.get 0 s.bwTotals (2 * k + 1) % 2 ^ 64
  else if r = .bwLastOut then Tab.get 0 s.bwLast (2 * k) % 2 ^ 64
  else if r = .bwLastIn then Tab.get 0 s.bwLast (2 * k + 1) % 2 ^ 64
  else if r = .engEngineState then s.engineState (5 * k + idx.getD 1 0)
  else if r = .collInFlight then s.colls.length
  else if r = .collHeld then s.heldMsgs.length
  else if r = .sampCycleNow then s.cycleNow k
  else s.rd r idx

/-- One word of BAR0: its fields, the integrity-log window, a sample buffer, or zero. -/
def State.bar0Word (s : State) (off : Nat) : Nat :=
  if 0x610000 ≤ off ∧ off < 0x630000 then
    let i := (off - 0x610000) / 32
    match s.ilog.find? (fun e => (e.seq + 4095) % 4096 == i && decide (s.rd .intIlogWritten [] < e.seq + 4096)) with
    | some e => fieldLe e.bytes ((off - 0x610000) % 32) 4
    | none => 0
  else if 0x1000000 ≤ off ∧ 0x800000 ≤ (off - 0x1000000) % 0xC00000 ∧ off < 0x4000000 then
    let o := (off - 0x1000000) % 0xC00000 - 0x800000
    fieldLe (Tab.get [] s.samples ((off - 0x1000000) / 0xC00000 * 65536 + o / 64)) (o % 64) 4
  else
    (fieldsAt off 4).foldl (fun w f =>
      let i := (off - (f.1.off + strideSum f.1.dims f.2)) / 4
      let v := s.view f.1 f.2 * 2 ^ f.1.lsb
      w + bitsOf v (32 * i + 31) (32 * i)) 0

/-- A BAR0 read (R14, R327): none for Unsupported Request. -/
def State.bar0Read (s : State) (off len : Nat) : Option Nat :=
  if bar0Legal off len then
    some ((List.range (len / 4)).foldl (fun v i => v + s.bar0Word (off + 4 * i) * 2 ^ (32 * i)) 0)
  else none

/-! BAR2 (R29, R215, R217, R228, R230, R328). -/

/-- Complete a BAR2 read with data. -/
def State.bar2Data (s : State) (a n : Nat) : State :=
  let bad := s.badBolts a n
  let s := s.readTraffic (.iface 0) a n
  if bad.isEmpty then (s.tlpOut n).emit (.readData (s.mem.read a n))
  else ((s.noteBads 0 bad).log 0x04 0 (lowest bad) 0 0 0 0).emit .readCA

/-- A read through BAR2 of n bytes at offset o. -/
def State.bar2Read (s : State) (o n : Nat) : State :=
  let a := s.rd .devBar2Base [] + o
  let s := s.countEvent 0 0x1E2 1
  if !s.startDone ∨ !s.inRegion a n then (s.log 0x04 1 a 0 0 0 0).emit .readUR
  else if s.unavailIn a n then
    let f := s.freeVal 1
    f.2.emit (if f.1 = 0 then .readUR else .readCA)
  else if s.heldIn a n then
    { s with heldReads := s.heldReads ++ [{ id := s.nextId, addr := a, len := n, since := s.aoNow }], nextId := s.nextId + 1 }
  else s.bar2Data a n

/-- A write through BAR2: one to a stack at CRIT waits in its slice's merge buffer, and behind a full one (R230). -/
def State.bar2Write (s : State) (o : Nat) (data : List Byte) : State :=
  let a := s.rd .devBar2Base [] + o
  let s := (s.countEvent 0 0x1E3 1).tlpIn data.length
  let s := if a % 512 = 0 ∧ data.length % 512 = 0 then s else s.countEvent 0 0x1E4 1
  if !s.startDone ∨ !s.inRegion a data.length then s.log 0x04 1 a 0 0 0 0
  else s.takeWrite { kind := 1, addr := a, data := data }

/-- The access lies inside the BAR. -/
def State.bar2Inside (s : State) (o n : Nat) : Bool := decide (0 < n) && decide (o + n ≤ 2 ^ (30 + s.cfg.bar2Log2))

/-- A held read reaches BAR2_HOLD_LIMIT (R230). -/
def State.holdExpiry (s : State) (id : Nat) : State :=
  match s.heldReads.find? (fun h => h.id == id) with
  | none => s
  | some h =>
    if s.aoNow < h.since + msTicks (s.rd .memBar2HoldLimit []) then s
    else
      let st := ((boltsOf h.addr h.len).filterMap s.stackOf).find? (fun k => s.rd .stkTstate [k] == 2)
      let s := { s with heldReads := s.heldReads.erase h }
      (s.log 0x05 (st.getD 0) h.addr 0 0 0 ((s.aoNow - h.since) / 50000)).emit .readCA

/-- Once stacks have left CRIT, or arbiters are no longer frozen, what waited goes on: writes first, then reads. -/
def State.releaseHeld (s : State) : State :=
  let s := s.takeWrites
  s.heldReads.foldl (fun t h =>
    if t.heldIn h.addr h.len then t else ({ t with heldReads := t.heldReads.erase h }).bar2Data h.addr h.len) s

/-- What a frozen arbiter held goes on when a write has returned its FREEZE to 0 (R233). -/
def State.thaw (s was : State) : State :=
  if (List.range 37).any (fun a => was.flag .arbFreeze [a] && !s.flag .arbFreeze [a]) then s.releaseHeld else s

/-! Configuration space (R325, R326). -/

/-- The Completion Timeout codes of Device Control 2 that the base specification does not reserve (log 10). -/
def timeoutCodes : List Nat := [0, 1, 2, 5, 6, 9, 10, 13, 14]

/-- Configuration space presents the capability (R326). -/
def capabilityPresent : Capability → Bool
  | .pciExpress | .functionLevelReset | .powerManagement | .advancedErrorReporting | .resizableBar | .deviceSerialNumber
  | .dataLinkFeature | .physicalLayer16 | .physicalLayer32 | .physicalLayer64 | .flitLogging | .laneMargining => true
  | .msi | .msiX | .srIov | .ats | .pasid | .pri | .ptm | .acs | .atomicCompleter => false

/-- A configuration request: a read answers a value; a write of a value the manual does not allow is ignored. The link
capability is 64 GT/s, code 6, ×16, with no ASPM; the status is the speed and width trained; 5-bit, 10-bit and 14-bit tags are
supported; PME, ASPM and L0p are not (R325). -/
def State.configure (s : State) (q : ConfigReq) : State :=
  let ok := fun (c : ConfigSpace) => { s with cfg := c }
  match q with
  | .readId => s.emit (.config (0x0420 * 65536 + Config.vendorId.toNat))
  | .readHeaderType => s.emit (.config 0)
  | .readCapability c => s.emit (.config (b2n (capabilityPresent c)))
  | .readClass => s.emit (.config 0x120000)
  | .readRevision => s.emit (.config 0xA2)
  | .readInterruptPin => s.emit (.config 0)
  | .readSerial => s.emit (.config Config.moduleId.toNat)
  | .readBar2Size => s.emit (.config s.cfg.bar2Log2)
  | .readPower => s.emit (.config (if s.cfg.d3hot then 3 else 0))
  | .readLinkCapability => s.emit (.config (6 + 16 * 16))
  | .readLinkStatus => s.emit (.config (s.cfg.speed + 16 * s.cfg.width))
  | .readTags => s.emit (.config 7)
  | .readPowerSupport => s.emit (.config 0)
  | .readControl => s.emit (.config (s.cfg.mps + s.cfg.mrrs * 16 + s.cfg.timeout * 256 + b2n s.cfg.errors * 4096))
  | .bar2Size g => if g ≤ 6 then ok { s.cfg with bar2Log2 := g } else s
  | .power d => ok { s.cfg with d3hot := d }
  | .payload p => if 7 ≤ p ∧ p ≤ 9 then ok { s.cfg with mps := p } else s
  | .readRequest p => if 7 ≤ p ∧ p ≤ 12 then ok { s.cfg with mrrs := p } else s
  | .timeout c => if timeoutCodes.contains c then ok { s.cfg with timeout := c } else s
  | .errorReporting on => ok { s.cfg with errors := on }

/-! The link (R388, R421, R422). -/

/-- The host link is up (R325, R422): what waited for it leaves, and READY may follow. At which speed, of codes 1 to 6, and at
which width of a ×16 Endpoint it trained is a free value (log 10). -/
def State.linkUp (s : State) : State :=
  if s.pcieUp ∨ s.perst ∨ !s.pwrGood ∨ s.thermtrip then { s with refclk := true }
  else
    let held := s.heldOut
    let v := s.freeVal 3
    let w := v.2.freeVal 3
    let s := w.2
    let s := { s with pcieUp := true, refclk := true, heldOut := [], cfg := { s.cfg with speed := 1 + v.1 % 6, width := 2 ^ (w.1 % 5) } }
    (held.foldl State.emitHost s).setReady

/-- REFCLK is lost: the link goes down and no other state changes. -/
def State.refclkLost (s : State) : State := { s with refclk := false, pcieUp := false }

/-- Start-up did not finish within 20 s of PERST# deassertion (R390, R421). -/
def State.startupTimeout (s : State) : State :=
  if !s.perst ∧ s.rd .devReady [] = 0 ∧ s.rd .devBootError [] = 0 ∧ s.resetting.isNone then s.bootFail 6 else s

end Sys2Proof.Machine
end

