-- ==== Sys2Proof/Machine/Run.lean ====
section
/-! DEFINITION. The channel controllers at work: the start of a packet and what each opcode does, collective launches,
ring fetches, host reads, the end of a packet with its telltale judgement, and the group-by-group commit (R149–R168,
R199–R209, R255–R272, R283, R329–R352, R366–R370). -/

namespace Sys2Proof.Machine

/-! Ranges that packets name. -/

/-- Why a command may not touch a list of device ranges: one leaves its region, or lies on an unavailable channel. -/
def State.rangeRefusal (s : State) (rs : List (Nat × Nat)) : Option Status :=
  if rs.any (fun r => !s.inRegion r.1 r.2) then some .limitExceeded
  else if rs.any (fun r => s.unavailIn r.1 r.2) then some .faultUnit else none

/-- End a packet after its device writes: MEM_UNCORRECTABLE over the bolts that could not be merged, with its destination
undefined (R116, R217). -/
def State.endWritten (r : State × List Nat) (pid : Nat) (detail : Nat) : State :=
  if r.2.isEmpty then r.1.endPacket pid .done detail
  else (r.1.spoilDest pid).endPacket pid .memUncorrectable (faultDetail 0 0 (lowest r.2))

/-- The device ranges that a packet reads or writes (R230). -/
def Packet.touches (p : Packet) : List (Nat × Nat) :=
  (p.descs ++ p.collDescs).map (fun d => (d.base, d.endAddr - d.base)) ++ rawReads p.op p.descs ++ rawWrites p.op p.descs ++
  match p.op with
  | .copy d sr n f => (if f.testBit 1 then [] else [(d, n)]) ++ (if f.testBit 0 then [] else [(sr, n)])
  | .fill d n _ => [(d, n)]
  | .digest a n d => [(a, n), (d, 32)]
  | .counterSnapshot d => [(d, 1024)]
  | .attest _ d => [(d, 192 * 1024)]
  | .measurementLog d n => [(d, n)]
  | .firmwareStage a n => [(a, n)]
  | _ => []

/-- How the controller of a packet's ring reaches memory. -/
def Packet.via (p : Packet) : Via := .iface (p.ring % 4)

/-! COPY, FILL, DIGEST and COUNTER_SNAPSHOT (R209, R351, R370). -/

/-- Two ranges of n bytes overlap. -/
def overlaps (a b n : Nat) : Bool := decide (a < b + n) && decide (b < a + n)

/-- Issue a read of host memory (R330). -/
def State.askHost (s : State) (a n : Nat) (what : ReadFor) : State :=
  let h : HostRead := { rid := s.nextId, addr := a, len := n, what := what }
  let t : State := { s with hostReads := s.hostReads ++ [h], nextId := s.nextId + 1 }
  t.emitHost (.hostRead s.nextId a n)

/-- The data of a COPY reaches its destination. -/
def State.copyWrite (s : State) (p : Packet) (dst : Nat) (toHost : Bool) (data : List Byte) : State :=
  if toHost then (s.emitHost (.hostWrite dst data)).endPacket p.pid .done 0
  else State.endWritten (s.writeMem p.via p.tag dst data) p.pid 0

/-- COPY. A source in host memory is read first. -/
def State.copyRun (s : State) (p : Packet) (dst src bytes flags : Nat) : State :=
  let fromHost := flags.testBit 0
  let toHost := flags.testBit 1
  let own := (if toHost then [] else [(dst, bytes)]) ++ (if fromHost then [] else [(src, bytes)])
  if bytes = 0 ∨ 2 ^ 40 < bytes then s.endPacket p.pid .badParam 0
  else if !fromHost ∧ !toHost ∧ overlaps dst src bytes then s.endPacket p.pid .badParam 0
  else
    match s.rangeRefusal own with
    | some st => s.endPacket p.pid st 0
    | none =>
      if fromHost then s.askHost src bytes (.packet p.pid)
      else
        let bad := s.badBolts src bytes
        let data := s.mem.read src bytes
        let s := s.readTraffic p.via src bytes
        if !bad.isEmpty then (s.spoilDest p.pid).endBad p.pid p.tag bad else s.copyWrite p dst toHost data

/-- FILL. -/
def State.fillRun (s : State) (p : Packet) (dst bytes pattern : Nat) : State :=
  if bytes % 8 ≠ 0 ∨ dst % 8 ≠ 0 ∨ bytes < 8 ∨ 2 ^ 40 < bytes then s.endPacket p.pid .badParam 0
  else
    match s.rangeRefusal [(dst, bytes)] with
    | some st => s.endPacket p.pid st 0
    | none =>
      State.endWritten (s.writeMem p.via p.tag dst ((List.replicate (bytes / 8) (leBytes 8 pattern)).flatten)) p.pid 0

/-- Digests of stack st run on the controller's Keccak cores: its engine is FENCED or under test (R184, R209). -/
def State.digestCores (s : State) (st : Nat) : Bool := s.fenced (56 + st) || s.flag .unitTesting [56 + st]

/-- Bytes of stack st are read and digested: on its engine, or on the controller's Keccak cores (R209, R362). -/
def State.countDigest (s : State) (st a n : Nat) : State :=
  let s := s.bump .engDigestBytes [st / 5, st % 5] n
  if s.digestCores st then (s.readTraffic (.iface (st / 5)) a n).countEvent (st / 5) 0x4D n
  else (s.readTraffic .tsv a n).countEvent (st / 5) (0x80 + 0x10 * (st % 5) + 13) n

/-- DIGEST (R184, R207, R209): it wakes a gated engine and waits for it. -/
def State.digestRun (s : State) (p : Packet) (start bytes dest : Nat) : State :=
  match s.stackLocal start bytes with
  | none => s.endPacket p.pid .badParam 0
  | some st =>
    if bytes = 0 ∨ dest % 64 ≠ 0 then s.endPacket p.pid .badParam 0
    else
      match s.rangeRefusal [(start, bytes), (dest, 32)] with
      | some e => s.endPacket p.pid e 0
      | none =>
        if s.digestCores st = false ∧ s.rd .domDstate [56 + st] ≠ 2 then s.wake (56 + st)
        else
          let bad := s.badBolts start bytes
          if !bad.isEmpty then
            let s := if s.digestCores st then s else s.engineFault st .memUncorrectable 0xFFF
            (s.spoilDest p.pid).endBad p.pid p.tag bad
          else
            let s := (s.countDigest st start bytes).sampleOnce (st / 5) 4 st start p.tag
            State.endWritten (s.writeMem p.via p.tag dest (rangeDigest (s.mem.read start bytes))) p.pid 0

/-- DIGEST packets that wait for their engine go on once it runs, or once it is out of service (R184). -/
def State.settleDigests (s : State) : State :=
  (s.flight.filter (fun p => p.phase == .running)).foldl (fun s p =>
    match p.op with
    | .digest a n d => s.digestRun p a n d
    | _ => s) s

/-- COUNTER_SNAPSHOT. -/
def State.snapshotRun (s : State) (p : Packet) (dest : Nat) : State :=
  if dest % 1024 ≠ 0 then s.endPacket p.pid .badParam 0
  else
    match s.rangeRefusal [(dest, 1024)] with
    | some e => s.endPacket p.pid e 0
    | none => State.endWritten (s.writeMem p.via p.tag dest (s.snapshot 1)) p.pid 0

/-! The group table and adapter variants (R185, R200, R201). -/

/-- PARAM_GROUPS_LOAD (R185). -/
def State.loadGroups (s : State) (p : Packet) : State :=
  let base := s.rd .seGroupTableBase []
  let hyper := s.rd .seHyperBase []
  if s.stepOpen then s.endPacket p.pid .notEnabled 0
  else
    let gs := s.readTable
    let rs := groupRanges base hyper (gs.map (fun g => g.1))
    let bad := (rs.map (fun r => s.badBolts r.1 r.2)).flatten
    if !s.inRegion base 1048576 then s.endPacket p.pid .limitExceeded 0
    else if rs.any (fun r => s.unavailIn r.1 r.2) then s.endPacket p.pid .faultUnit 0
    else if !bad.isEmpty then s.endBad p.pid p.tag bad
    else
      let s := s.readsTraffic p.via rs
      match gs.find? (fun g => g.2 != 0) with
      | some g => s.endPacket p.pid .badParam (g.1.num + g.2 * 4096)
      | none =>
        let table := (s.mem.cells base 1048576).map (fun c => (c.1 - base, c.2))
        let t : State := { s with groups := gs.map (fun g => g.1), groupTable := table }
        (t.wr .seGroupsLoaded [] gs.length).computeImage.endPacket p.pid .done 0

/-- The slot that a variant is bound to. -/
def State.boundSlot (s : State) (v : Nat) : Option Nat :=
  (List.range 64).find? (fun k => s.flag .slotValid [k] && s.rd .slotVariant [k] == v)

/-- The adapter list that a variant descriptor names: its address and its number of entries. -/
def State.variantList (s : State) (a : Nat) : Nat × Nat :=
  (fieldLe (s.mem.read a 64) 8 8, fieldLe (s.mem.read a 64) 0 4 % 65536)

/-- The variant descriptor at an address and its adapter list: the entries' descriptor addresses, or the status with the bad
bolts met. -/
def State.readVariant (s : State) (a : Nat) : Except (Status × List Nat) (List Nat) :=
  let w := fieldLe (s.mem.read a 64) 0 4
  let list := (s.variantList a).1
  let n := (s.variantList a).2
  match s.readFault a 64 with
  | some e => .error e
  | none =>
    if !w.testBit 31 || bitsOf w 30 16 != 0 || n == 0 || decide (1024 < n) || !allZero (slice (s.mem.read a 64) 4 4) ||
        !allZero (slice (s.mem.read a 64) 16 48) || !within list 48 || list % 16 != 0 then .error (.badParam, [])
    else
      match s.readFault list (16 * n) with
      | some e => .error e
      | none =>
        let es := (List.range n).map (fun i => s.mem.read (list + 16 * i) 16)
        if es.any (fun e => !allZero (slice e 4 4) || !within (fieldLe e 8 8) 48) then .error (.badParam, [])
        else .ok (es.map (fun e => fieldLe e 8 8))

/-- The descriptor address of a variant. -/
def State.variantAddr (s : State) (v : Nat) : Nat := s.rd .seVariantTableBase [] + 64 * v

/-- VARIANT_BIND (R201): it waits while no slot is free. -/
def State.bindVariant (s : State) (p : Packet) (v : Nat) : State :=
  if 4096 ≤ v then s.endPacket p.pid .noResource 0
  else
    match s.boundSlot v with
    | some k =>
      let n := s.rd .slotRefs [k]
      if n = 255 then s.endPacket p.pid .limitExceeded 0 else (s.wr .slotRefs [k] (n + 1)).endPacket p.pid .done k
    | none =>
      match (List.range 64).find? (fun k => !s.flag .slotValid [k]) with
      | none => s
      | some k =>
        let a := s.variantAddr v
        match s.readVariant a with
        | .error e => if e.2.isEmpty then s.endPacket p.pid e.1 0 else s.endBad p.pid p.tag e.2
        | .ok l =>
          let s := s.readsTraffic p.via [(a, 64), ((s.variantList a).1, 16 * l.length)]
          let s := ((s.wr .slotValid [k] 1).wr .slotRefs [k] 1).wr .slotVariant [k] v
          { s with slots := Tab.put s.slots k { entries := l } }.endPacket p.pid .done k

/-- VARIANT_RELEASE (R201). -/
def State.releaseVariant (s : State) (pid k : Nat) : State :=
  let n := s.rd .slotRefs [k]
  if 64 ≤ k ∨ n = 0 then s.endPacket pid .badParam 0 else (s.wr .slotRefs [k] (n - 1)).endPacket pid .done 0

/-- A slot without references, which no packet holds, is free; VARIANT_BIND packets that wait go on in the order of
their fetch (R201, R202). -/
def State.freeSlot (s : State) (k : Nat) : State :=
  if k < 64 ∧ s.flag .slotValid [k] ∧ s.rd .slotRefs [k] = 0 ∧ s.flight.all (fun p => !p.slots.contains k) then
    let s := { (s.wr .slotValid [k] 0).wr .slotVariant [k] 0 with slots := Tab.del s.slots k }
    (s.flight.filter (fun p => p.phase == .running)).foldl (fun s p =>
      match p.op with
      | .variantBind v => s.bindVariant p v
      | _ => s) s
  else s

/-! Collective launches (R255, R256, R261, R268–R272). -/

/-- The key of a packet's collective (R276). -/
def State.collKey (s : State) (p : Packet) : CollKey :=
  { epoch := s.rd .grpEpoch [], step := s.stepField p.inAttempt
    attempt := if p.inAttempt then s.rd .stAttempt [] else 0, seq := p.collSeq }

/-- Bolts, or 512-byte units, of one matrix. -/
def matrixUnits (d : TDesc) : Nat := if d.elem.inBolts then d.bolts else ceilDiv (d.rows * d.cols * d.elem.bytes) 512

/-- An FP32 power of two. -/
def isPow2 (g : F32) : Bool := posNormal g.toNat && g.toNat % 2 ^ 23 == 0

/-- A pair obeys R261. -/
def pairOk (reduce : Bool) (p : TDesc × TDesc) : Bool :=
  let one := fun (d : TDesc) =>
    (!d.elem.isFp8 || isPow2 d.gscale) && d.rotSize == 0 && d.jibMode == 0 && d.telltale == 0xFFFF && d.layer == 0xFFFF
  p.1.format == p.2.format && p.1.geometry == p.2.geometry && one p.1 && one p.2 &&
  (!reduce || p.1.elem.isFp8 || p.1.elem == .bf16 || p.1.elem == .fp32) &&
  (p.1.batch ≤ 1 || p.1.stride == matrixUnits p.1) &&
  (p.1.elem.inBolts ||
    (p.1.rowPitch == p.1.cols * p.1.elem.bytes && p.1.batch * p.1.rows * p.1.cols * p.1.elem.bytes % 512 == 0))

/-- The window W of a launch (R270). -/
def State.launchWindow (s : State) (op : Nat) (pairs : List (TDesc × TDesc)) : Nat :=
  if op ≤ 2 then
    s.stagingWindow ((s.homeChannel (pairs.headD default).2.base).getD 0) (s.rd .grpMembers []) (s.chunkRule % 16)
  else 0

/-- The staging partition of the channel that homes a launch's destination is held, unit by unit (R270). -/
def State.stagingHeld (s : State) (pairs : List (TDesc × TDesc)) : Bool :=
  let c := (s.homeChannel (pairs.headD default).2.base).getD 0
  (List.range (s.att .stageUnits [c])).all (fun i => s.unitHeld c (s.att .stageFirst [c] + i))

/-- Two ranges have a byte in common: an empty one has none. -/
def meets (a b : Nat × Nat) : Bool :=
  decide (0 < a.2) && decide (0 < b.2) && decide (a.1 < b.1 + b.2) && decide (b.1 < a.1 + a.2)

/-- The status that refuses a launch (R5, R255, R261, R270, R276, R298). A descriptor that breaks R261 and also the room of
R65 is answered for R261, BAD_PARAM: the spec gives no order (log 81). -/
def State.launchRefusal (s : State) (p : Packet) (d : CollDesc) (pairs : List (TDesc × TDesc)) : Option Status :=
  let m := s.rd .grpMembers []
  let r := launchRanges d.op (s.rd .grpRank []) m pairs
  let total := (pairs.map (fun q => unitsOf q.1)).foldl (· + ·) 0
  if s.att .collEnable [] = 0 ∨ !s.flag .grpGroupEnable [] ∨ s.rd .grpEpoch [] = 0 ∨ !s.flag .grpInEpoch [] then
    some .notEnabled
  else if p.inAttempt && (match s.step with | some t => t.epoch != s.rd .grpEpoch [] | none => false) then some .epochStale
  else if !d.legal m || pairs.any (fun q => !pairOk (d.op ≤ 2) q) || (d.op == 5 && total % max 1 m != 0) ||
      r.1.any (fun a => r.2.any (meets a)) then some .badParam
  else
    match s.rangeRefusal (r.1 ++ r.2) with
    | some st => some st
    | none =>
      if 2 < d.op then none
      else if s.launchWindow d.op pairs = 0 then some .noResource
      else if s.stagingHeld pairs then none else some .badParam

/-- The collective of a launch that passed its checks (R267–R270). -/
def State.newColl (s : State) (p : Packet) (d : CollDesc) (pairs : List (TDesc × TDesc)) (streams : Bool) : CollSt :=
  let src := (pairs.headD default).1
  let own : LaunchMsg :=
    { op := d.op + b2n d.bundle * 32768, redop := d.redop
      type := if d.op = 6 then 0 else src.format % 256 + src.geometry % 256 * 256, root := d.root
      count := (pairs.map (fun q => unitsOf q.1)).foldl (· + ·) 0, digest := collDigest d pairs
      limit := s.launchWindow d.op pairs }
  let ms := if d.watchdogMs = 0 then s.att .collWatchdogMs [] else d.watchdogMs
  { key := s.collKey p, pid := if streams then none else some p.pid, stream := if streams then some p.pid else none
    tag := p.tag, own := own, pairs := pairs, members := s.rd .grpMembers [], rank := s.rd .grpRank []
    chunkShift := s.chunkRule % 16, watchdogMs := ms, slowLimitMs := s.att .collSlowLimitMs []
    stepField := s.stepField p.inAttempt, seed := p.seed, begun := p.fetched, progress := s.aoNow
    deadline := s.aoNow + msTicks ms, matched := [], limits := [], sent := [], gathered := [], got := [], half := []
    staged := [], combined := 0, chunkFlags := [], flags := [], flagsRx := [], released := false, copied := false
    avail := [], slowMs := s.att .collSlowIntervalMs [], slowAt := none }

/-- Members that a launch sends LAUNCH to (R269 step 1). -/
def CollSt.audience (c : CollSt) : List Nat :=
  match c.op with
  | 4 => if c.rank = c.own.root then [] else [c.own.root]
  | 6 => if c.rank = 0 then [] else [0]
  | _ => c.others

/-- A held message acts at the launch of its collective (R275–R277). -/
def State.takeHeld (s : State) (m : HeldMsg) : State :=
  match s.coll m.key, s.rankOf m.src with
  | some c, some k =>
    match m.body with
    | .launch l => s.takeLaunch c k l
    | .abort cause field rank => s.takeAbort c cause field rank
    | .slow => s.setColl (c.slowed m.tick)
  | _, _ => s

/-- A streamed product whose collective another member aborted ends with COLL_ABORTED (R351). -/
def State.settleStreams (s : State) : State :=
  (s.flight.filter (fun p => p.phase == .running && (match p.op with | .product _ c _ _ => c != 0 | _ => false))).foldl
    (fun s p =>
      match s.endedColls.find? (fun e => e.1 == s.collKey p && e.2.1 == .collAborted) with
      | some e => s.failCompute p.pid .collAborted e.2.2
      | none => s) s

/-- A collective enters flight: LAUNCH messages, a SLOW notice when its cause stands already, the messages held for it, and
what they allow (R269, R278). -/
def State.beginColl (s : State) (c : CollSt) : State :=
  let s := ({ s with colls := s.colls ++ [c] }).groupEvent 0 1
  let s := (c.audience.foldl (fun s r => s.sendColl c r 1 0 1 c.own.bytes) s).slowCheck
  let mine := s.heldMsgs.filter (fun m => m.key == c.key)
  let s := mine.foldl State.takeHeld { s with heldMsgs := s.heldMsgs.filter (fun m => m.key != c.key) }
  match s.coll c.key with
  | some c => s.advance c
  | none => s

/-- The product that streams into a collective has not started (R271). -/
def State.streamWaits (s : State) (p : Packet) : Bool :=
  s.flight.any (fun q => q.isWaiting && s.collKey q == s.collKey p &&
    match q.op with | .product _ c _ _ => c != 0 | _ => false)

/-- COLL_LAUNCH (R255–R272): it joins the collective that its product has launched, waits for a product that has not started,
or launches. -/
def State.collLaunch (s : State) (p : Packet) : State :=
  let key := s.collKey p
  match s.coll key, s.endedColls.find? (fun e => e.1 == key) with
  | some c, _ => s.setColl { c with pid := some p.pid, tag := p.tag }
  | none, some e => { s with endedColls := s.endedColls.erase e }.endPacket p.pid e.2.1 e.2.2
  | none, none =>
    match p.coll with
    | none => s.endPacket p.pid .badParam 0
    | some d =>
      if s.streamWaits p then s
      else
        let pairs := pairUp (p.collDescs.map (s.bindDesc p.inAttempt))
        match s.launchRefusal p d pairs with
        | some st => s.endPacket p.pid st (if st = .epochStale then collDetail 4 0 noNode else 0)
        | none => s.beginColl (s.newColl p d pairs false)

/-- COLL_LAUNCH packets that waited for their product go on (R271). -/
def State.settleLaunches (s : State) : State :=
  (s.flight.filter (fun p => p.phase == .running)).foldl (fun s p =>
    match p.op with
    | .collLaunch _ => if s.colls.any (fun c => c.pid == some p.pid) then s else s.collLaunch p
    | _ => s) s

/-- A PRODUCT starts; one that streams launches its REDUCE_SCATTER or ALL_REDUCE with it (R271). -/
def State.productRun (s : State) (p : Packet) : State :=
  match p.coll with
  | none => s.startCompute p.pid
  | some d =>
    let pairs := pairUp (p.collDescs.map (s.bindDesc p.inAttempt))
    match s.launchRefusal p d pairs with
    | some st => s.endPacket p.pid st 0
    | none =>
      if 2 < d.op ∨ d.bundle then s.endPacket p.pid .badParam 0
      else
        let s := s.startCompute p.pid
        if (s.packet p.pid).any Packet.isEnded then s
        else (s.beginColl (s.newColl p d pairs true)).settleStreams.settleLaunches

/-- A streaming product has ended with a fault before it launched its collective (R271): its member floods ABORT with
CAUSE 3, and the COLL_LAUNCH ends as the collective does. -/
def State.abortStream (s : State) (p : Packet) : State :=
  match p.op, p.coll with
  | .product .., some d =>
    let pairs := pairUp (p.collDescs.map (s.bindDesc p.inAttempt))
    let key := s.collKey p
    if (s.coll key).isSome ∨ s.endedColls.any (fun e => e.1 == key) ∨ (s.launchRefusal p d pairs).isSome then s
    else s.failCheck (s.newColl p d pairs true)
  | _, _ => s

/-! STEP_BEGIN and STEP_END (R148–R152). -/

/-- The refusals of STEP_BEGIN in the order of R149, with the bad bolts met; of what cannot be read, FAULT_UNIT for a channel
that is not available (R21). -/
def State.stepRefusal (s : State) (step expect : Nat) (group setStep : Bool) : Option (Status × List Nat) :=
  let live := s.liveCopy.1
  let hyper := s.rd .seHyperBase []
  if !s.flag .stEnable [] ∨ s.rd .stStateBase [] = 0 ∨ s.rd .stSlots [] = 0 then some (.notEnabled, [])
  else if s.flag .stBroken [] ∨ s.flag .stHalted [] then some (.notEnabled, [])
  else if s.stepOpen then some (.badParam, [])
  else if step = 2 ^ 64 - 1 ∨ (step ≠ s.rd .stNextStep [] ∧ !setStep) then some (.badParam, [])
  else if expect ≠ 0 ∧ expect ≠ s.rd .grpEpoch [] then some (.epochStale, [])
  else if group ∧ (!s.flag .grpGroupEnable [] ∨ !s.flag .grpInEpoch []) then some (.notEnabled, [])
  else if !s.inRegion hyper 2048 ∨ !s.inRegion live copyBytes then some (.limitExceeded, [])
  else if s.unavailIn hyper 2048 ∨ s.unavailIn live copyBytes then some (.faultUnit, [])
  else
    let bad := s.badBolts hyper 2048 ++ s.badBolts live copyBytes
    if bad.isEmpty then none else some (.memUncorrectable, bad)

/-- STEP_BEGIN: refused, or the step opens with its first attempt. -/
def State.stepBegin (s : State) (p : Packet) (step expect : Nat) (group setStep : Bool) : State :=
  match s.stepRefusal step expect group setStep with
  | some (st, bad) => if bad.isEmpty then s.endPacket p.pid st 0 else s.endBad p.pid p.tag bad
  | none =>
    let t := StepSt.start p.ring p.pid p.slot ((p.slot + p.length) % 2 ^ 32) group (s.rd .stReplayBudget [])
      (s.mem.read (s.rd .seHyperBase []) 2048)
    let s := s.readsTraffic p.via [(s.rd .seHyperBase [], 2048), (s.liveCopy.1, copyBytes)]
    let s := { s with step := some t }.wr .stCurrentStep [] step
    (s.startAttempt 1).endPacket p.pid .done 0

/-- What fetching a STEP_END does (R149, R152 step 1): the close of the open attempt begins, or it ends with BAD_PARAM and
closes nothing. -/
def State.stepEndFetched (s : State) (pid : Nat) : State :=
  match s.packet pid, s.step with
  | some p, some t =>
    match p.op with
    | .stepEnd loss digest =>
      if !p.isWaiting then s
      else if p.inAttempt ∧ p.waits.isEmpty ∧ loss % 4 = 0 then
        let s := s.updPacket pid (fun p => { p with phase := .running, inAttempt := false, started := s.aoNow })
        { s with step := some { t with endPid := some pid, lossAddr := loss, digest := digest }
                 cursor := s.rd .shrCursor [] }.wr .stState [] 2
      else s.endPacket pid .badParam 0
    | _ => s
  | some p, none =>
    match p.op with
    | .stepEnd .. => s.endPacket pid .badParam 0
    | _ => s
  | none, _ => s

/-! The start of a packet (R342–R344, R351). -/

/-- The device ranges that a packet reads or writes, those that registers place among them (R230). -/
def State.touches (s : State) (p : Packet) : List (Nat × Nat) :=
  p.touches ++
  match p.op with
  | .paramGroupsLoad => groupRanges (s.rd .seGroupTableBase []) (s.rd .seHyperBase []) (s.readTable.map (fun g => g.1))
  | .variantBind v =>
    let a := s.variantAddr v
    [(a, 64), ((s.variantList a).1, 16 * (s.variantList a).2)]
  | .stepBegin .. => [(s.rd .seHyperBase [], 2048), (s.liveCopy.1, copyBytes)]
  | .shroudCopy => (List.range 20).map (fun st => ((Region.stack st).base, s.regionSize (.stack st)))
  | .restore .. => s.stateArea
  | .collLaunch _ =>
    match p.coll with
    | some d =>
      let r := launchRanges d.op (s.rd .grpRank []) (s.rd .grpMembers []) (pairUp p.collDescs)
      r.1 ++ r.2
    | none => []
  | _ => []

/-- What holds a packet whose waits are satisfied: pending reef rewrites of its attempt (R199), a prepared epoch (R252),
16 collectives in flight (R256), a stack at CRIT (R230). -/
def State.startHeld (s : State) (p : Packet) : Bool :=
  let begins := match p.op with | .stepBegin .. => true | _ => false
  (p.inAttempt && !s.rewrites.isEmpty) ||
  ((isCollective p.op || begins) && s.flag .grpPrepared []) ||
  (isCollective p.op && decide (16 ≤ s.colls.length) && (s.coll (s.collKey p)).isNone) ||
  (s.anyHeld && (s.touches p).any (fun r => s.heldIn r.1 r.2))

/-- REGION_REBUILD and RESTORE go on once no other packet is started (R223, R320); what would refuse a rebuild is judged again
then. -/
def State.settleHolds (s : State) : State :=
  s.fetchHold.foldl (fun s pid =>
    match s.packet pid with
    | none => s
    | some p =>
      if s.flight.any (fun q => q.pid != pid && !q.isWaiting) ∨ p.isEnded then s
      else
        match p.op with
        | .regionRebuild =>
          match s.rebuildRefusal with
          | some st => (s.releaseFetch pid).endPacket pid st 0
          | none =>
            let r := s.rebuild
            (((r.1.areaRebuilt r.2).computeImage).releaseFetch pid).endPacket pid .done 0
        | .restore src expect dest older override holder =>
          if s.restore.isSome then s else s.restoreBegin pid src expect dest older override holder
        | _ => s) s

/-- What a started packet does, by its opcode (R351). -/
def State.runOp (s : State) (p : Packet) : State :=
  let pid := p.pid
  match p.op with
  | .nop => s.endPacket pid .done 0
  | .regWrite off v =>
    if off % 4 ≠ 0 ∨ off < 0x100000 then s.endPacket pid .badParam 0 else ((s.hostWrite off 4 v).thaw s).endPacket pid .done 0
  | .ringReset r =>
    if 15 < r ∨ r = p.ring then s.endPacket pid .badParam 0 else (s.ringReset r).endPacket pid .done 0
  | .deviceSoftReset => if s.closing then s else s.softReset
  | .copy d sr n f => s.copyRun p d sr n f
  | .fill d n v => s.fillRun p d n v
  | .regionRebuild =>
    match s.rebuildRefusal with
    | some st => s.endPacket pid st 0
    | none => { s with fetchHold := s.fetchHold ++ [pid] }.settleHolds
  | .llsPartition c n => s.partition pid c n
  | .llsRelease c u => s.releasePartition pid c u
  | .digest a n d => s.digestRun p a n d
  | .product .. => s.productRun p
  | .matvec .. => s.startCompute pid
  | .softmax .. => s.startCompute pid
  | .rmsnorm .. => s.startCompute pid
  | .layernorm .. => s.startCompute pid
  | .xent .. => s.startCompute pid
  | .vprog .. => s.startCompute pid
  | .paramGroupsLoad => s.loadGroups p
  | .variantBind v => s.bindVariant p v
  | .variantRelease k => s.releaseVariant pid k
  | .collLaunch _ => s.collLaunch p
  | .roleSet role node manager top =>
    s.roleSet (.packet pid) role [(.grpNode, node), (.grpManagerNode, manager), (.grpTopNode, top)]
  | .groupJoin => s.groupJoin (.packet pid)
  | .groupLeave => s.groupLeave (.packet pid)
  | .stepBegin step expect group setStep => s.stepBegin p step expect group setStep
  | .stepEnd .. => s
  | .betweenJobTest mask => s.betweenJob pid mask
  | .unitTest u => s.unitTest (.packet pid) u
  | .unitFence u => s.unitFence (.packet pid) u 4
  | .unitUnfence u => s.unitUnfence (.packet pid) u
  | .shroudCopy => s.shroudCopy pid
  | .restore .. =>
    if s.stepOpen then s.endPacket pid .notEnabled 0 else { s with fetchHold := s.fetchHold ++ [pid] }.settleHolds
  | .shroudRelease => if s.stepOpen then s.endPacket pid .notEnabled 0 else s.shroudRelease pid
  | .counterSnapshot d => s.snapshotRun p d
  | .sampleControl en k =>
    if 1 < en ∨ 20 < k then s.endPacket pid .badParam 0 else (s.sampleControl (en == 1) k).endPacket pid .done 0
  | .attest nonce d => s.attestTo pid p.tag nonce d
  | .measurementLog d n => s.measurementLog pid p.tag d n
  | .firmwareStage a n => s.firmwareStage pid p.tag a n
  | .undefinedOp _ => s.endPacket pid .badOpcode 0
  | .malformed _ => s.endPacket pid .badParam 0

/-- A packet starts once its waits are satisfied and nothing holds it (R342); one that waits on a FAULTED token ends
SKIPPED (R344), and so does one of an attempt that a HALT has stopped (R162). A packet that must read its descriptors again
does so first. -/
def State.startPacket (s : State) (pid : Nat) : State :=
  match s.packet pid with
  | none => s
  | some p =>
    if !p.isWaiting then s.settleHolds
    else if p.inAttempt ∧ (s.step.map (fun t => t.stopped)).getD false then s.endPacket pid .skipped 0
    else if !p.waits.all s.waitMet then s
    else if p.waits.any (fun w => s.tokenFaulted w.token) then
      s.updPacket pid (fun p => { p with phase := .ended .skipped 1 true })
    else if p.again ∧ s.refsHeld p.op then s
    else
      let s := if p.again then s.readsTraffic p.via (s.refRanges p.op) else s
      let q := if p.again then s.reread p else (p, none)
      match q.2 with
      | some (st, bs) => (s.noteBads p.tag bs).endPacket pid st (expansionDetail st bs)
      | none =>
        if s.startHeld q.1 then s
        else
          let p := { q.1 with phase := .running, started := s.aoNow }
          (s.setPacket p).runOp p

/-! Fetching (R331, R334, R337, R340). -/

/-- A slot of the packet being fetched, or its read, is outstanding. -/
def State.midFetch (s : State) (r : Nat) : Bool :=
  !(Tab.get [] s.fetchBuf r).isEmpty || s.hostReads.any (fun h => h.what == .ring r)

/-- A fetched packet enters flight; a STEP_END begins the close. -/
def State.arrive (s : State) (h : PktHdr) (op : Op) : State := (s.fetchPacket h op).stepEndFetched s.nextId

/-- A packet whose header is legal is read from the next published slots of its ring and starts at once when it may. -/
def State.packetIn (s : State) (h : PktHdr) (op : Op) : State :=
  if s.power = 1 ∧ s.canFetch h.ring ∧ !s.midFetch h.ring ∧ 1 ≤ h.length ∧ h.length ≤ 64 ∧ h.waits.length ≤ 4 ∧
      h.length ≤ s.unfetched h.ring then
    (s.arrive h op).startPacket s.nextId
  else s

/-- The bytes of a whole packet have been read from ring r. -/
def State.admitBytes (s : State) (r : Nat) (bs : List Byte) : State :=
  let h := RawHeader.parse bs
  let q := parsePacket h bs
  s.arrive { ring := r, tag := h.tag, length := h.length, sigEn := h.sigEn, signal := h.signal, waits := q.2 } q.1

/-- Device or host bus address of slot count c of ring r. -/
def State.slotAddr (s : State) (r c : Nat) : Nat := s.rd .ringRingBase [r] + 64 * (c % 2 ^ s.rd .ringRingLog2 [r])

/-- The first slot of a list, at device addresses, that cannot be read stops the ring (R337), as one on a channel that is not
available does with FAULT_UNIT (R21). The CODE of the log entry of a slot outside every region is not stated: a free value. -/
def State.slotFault (s : State) (r : Nat) : List Nat → Option State
  | [] => none
  | a :: t =>
    if !s.inRegion a 64 then
      let f := s.freeVal 8
      some ((f.2.log 0x0E f.1 a 0 0 0 0).stopRing r 0 0xFFFF .limitExceeded 0)
    else if s.unavailIn a 64 then some (s.stopRing r 0 0xFFFF .faultUnit 0)
    else
      let bad := s.badBolts a 64
      if bad.isEmpty then s.slotFault r t
      else some ((s.noteBads 0 bad).stopRing r 0 0xFFFF .memUncorrectable (faultDetail 0 0 (lowest bad)))

/-- A ring in device memory: the next packet is read whole. Slots on a stack at CRIT are read once it has cooled (R230). -/
def State.fetchDevice (s : State) (r : Nat) : State :=
  let c := s.rd .ringRingFetched [r]
  if s.heldIn (s.slotAddr r c) 64 then s
  else
    match s.slotFault r [s.slotAddr r c] with
    | some t => t
    | none =>
      let h := RawHeader.parse (s.mem.read (s.slotAddr r c) 64)
      if !h.ok then s.stopRing r h.tag h.opcode .badParam 1
      else if s.unfetched r < h.length then s
      else
        let as := (List.range h.length).map (fun i => s.slotAddr r (c + i))
        if as.any (fun a => s.heldIn a 64) then s
        else
          match s.slotFault r as with
          | some t => t
          | none => (s.readsTraffic (.iface (r % 4)) (as.map (fun a => (a, 64)))).admitBytes r ((as.map (fun a => s.mem.read a 64)).flatten)

/-- Read the next slot of a ring in host memory. -/
def State.readSlot (s : State) (r : Nat) : State :=
  let n := (Tab.get [] s.fetchBuf r).length / 64
  if s.hostReads.any (fun h => h.what == .ring r) ∨ s.unfetched r ≤ n then s
  else
    s.askHost (s.slotAddr r (s.rd .ringRingFetched [r] + n)) 64 (.ring r)

/-- The controller of ring r fetches: the next packet of a ring in device memory, the next slot of one in host memory. A
packet begun is finished whatever stops further fetching (R331). -/
def State.fetchRing (s : State) (r : Nat) : State :=
  if s.power ≠ 1 ∨ (!s.canFetch r ∧ (Tab.get [] s.fetchBuf r).isEmpty) ∨ s.unfetched r = 0 then s
  else if s.flag .ringLoc [r] then s.fetchDevice r
  else s.readSlot r

/-- The bytes of a slot arrive from host memory. -/
def State.slotArrived (s : State) (r : Nat) (data : List Byte) : State :=
  let buf := Tab.get [] s.fetchBuf r ++ slice data 0 64
  let h := RawHeader.parse buf
  if !h.ok then { s with fetchBuf := Tab.del s.fetchBuf r }.stopRing r h.tag h.opcode .badParam 1
  else if buf.length < 64 * h.length then { s with fetchBuf := Tab.put s.fetchBuf r buf }.readSlot r
  else { s with fetchBuf := Tab.del s.fetchBuf r }.admitBytes r buf

/-! Host reads (R330). -/

/-- An outstanding read fails with a cause of R330: it is not retried. -/
def State.readFailed (s : State) (h : HostRead) (cause : Nat) : State :=
  let s := { s with hostReads := s.hostReads.filter (fun x => x.rid != h.rid) }.count .devHostTimeouts [] 1
  match h.what with
  | .ring r => { s with fetchBuf := Tab.del s.fetchBuf r }.stopRing r 0 0xFFFF .hostTimeout cause
  | .packet pid => (s.spoilDest pid).endPacket pid .hostTimeout cause

/-- An outstanding read completes with data. -/
def State.readDone (s : State) (h : HostRead) (data : List Byte) : State :=
  let s := { s with hostReads := s.hostReads.filter (fun x => x.rid != h.rid) }.tlpIn h.len
  match h.what with
  | .ring r => s.slotArrived r data
  | .packet pid =>
    match s.packet pid with
    | some p =>
      match p.op with
      | .copy d _ n f => s.copyWrite p d (f.testBit 1) (slice data 0 n)
      | _ => s
    | none => s

/-- A completion arrives for read rid: status 0 data, 2 Unsupported Request, 3 Completer Abort, 4 poisoned data. -/
def State.completion (s : State) (rid status : Nat) (data : List Byte) : State :=
  match s.hostReads.find? (fun h => h.rid == rid) with
  | none => s
  | some h =>
    if !s.pcieUp then s
    else if status = 0 ∧ data.length = h.len then s.readDone h data
    else if 2 ≤ status ∧ status ≤ 4 then s.readFailed h status
    else s

/-- The Completion Timeout passes for read rid. -/
def State.readTimeout (s : State) (rid : Nat) : State :=
  match s.hostReads.find? (fun h => h.rid == rid) with
  | none => s
  | some h => s.readFailed h 1

/-! The end of a packet (R89, R138, R155–R164, R347). -/

/-- Update the open step. -/
def State.updStep (s : State) (f : StepSt → StepSt) : State := { s with step := s.step.map f }

/-- A HALT stops the attempt (R162): packets that have not started, and launches with descriptors that have not started,
end SKIPPED. -/
def State.haltAttempt (s : State) : State :=
  let s := (s.updStep (fun t => { t with stopped := true })).wr .stHalted [] 1
  let skip := fun (p : Packet) => if p.inAttempt ∧ p.isWaiting then { p with phase := .ended .skipped 0 false } else p
  let s : State := { s with flight := s.flight.map skip }
  (s.flight.filter (fun p => p.inAttempt && p.phase == .running && isCompute p.op &&
    s.descs.any (fun d => d.pid == p.pid && d.phase == .queued))).foldl (fun s p => s.failCompute p.pid .skipped 0) s

/-- The policy of a monitor's jump (R155, R161, R162): the reasons it raises, a HALT, or a re-execution of the packet
with a scale fitted to its amax. The Boolean asks for the re-execution. -/
def State.onJump (s : State) (t : StepSt) (policy tag : Nat) (amax : F32) : State × Bool :=
  match policy with
  | 1 =>
    match scaleEntry t.latched tag with
    | none => (s.raise (2 ^ 11), false)
    | some e =>
      if t.budget = 0 then (s.raise (2 ^ 11 + 2 ^ 14), false)
      else
        let scales := match scaleFrom (targetOf t.latched e) [amax] with
          | some g => Tab.put t.attScale e g
          | none => t.attScale
        (s.updStep (fun t => { t with budget := t.budget - 1, replayOps := t.replayOps + 1, attScale := scales }), true)
  | 2 => (s.raise (2 ^ 10), false)
  | 3 => (s.raise (2 ^ 11), false)
  | 4 => ((s.raise (2 ^ 12)).haltAttempt, false)
  | _ => (s, false)

/-- A monitor judges a write's feed (R138, R159, R161) against the baseline of the live copy (R181). Which feed a monitor keeps
when it has a further one is not defined: a free value. LAST_NORM changes with a feed alone: of a monitor without one in the
last attempt, for which R180 names no n, it keeps the n of its last feed (log 83). -/
def State.judgeFeed (s : State) (t : StepSt) (redone : Bool) (r : WriteReport) : State × Bool :=
  let i := r.telltale
  if !(enabledMonitors t.latched).contains i then (s, false)
  else
    let s := s.countEvent (i / 64) 0x4B 1
    let more := (Tab.find t.feeds i).isSome && !redone
    let k := if more then (s.wr .monExtra [i] 1).freeVal 1 else (1, s)
    let s := k.2
    if k.1 = 0 then (s, false)
    else
      let f := fun (x : Reg) => s.att x [i]
      let n := normOf r.feed
      let c := s.baseline i
      let b := c.1
      let jump := isJump n b (BitVec.ofNat 32 (f .monThrHi)) (BitVec.ofNat 32 (f .monThrLo)) c.2 (f .monWarmup)
      let e : FeedEntry :=
        { n := n, q := normRatio n b, policy := f .monPolicy, jump := jump, resolved := jump && redone, extra := more }
      let s := ((s.wr .monLastNorm [i] n.toNat).wr .monJump [i] (b2n jump)).updStep (fun t => { t with feeds := Tab.put t.feeds i e })
      if jump && !redone then s.onJump t (f .monPolicy) r.tag r.amax else (s, false)

/-- Backward traffic (R155); of a collective, by its destinations (R265). -/
def Packet.backward (p : Packet) : Bool :=
  match p.op with
  | .collLaunch _ => (pairUp p.collDescs).any (fun q => q.2.traffic != 0)
  | _ => (hasOut p.op && p.outDesc.traffic != 0) || p.descs.zipIdx.any (fun q => q.2 != outIndex p.op && q.1.traffic == 1)

/-- The SHAPE of an OPERATION entry (R175). -/
def Packet.opShape (p : Packet) : Nat := match p.op with | .collLaunch _ => 0xFF | _ => p.shapeByte

/-- What the end of a packet of the attempt leaves in the step (R89, R139, R155, R164, R175). -/
def State.noteEnd (s : State) (p : Packet) (st : Status) : State :=
  match s.step with
  | none => s
  | some t =>
    if !p.inAttempt then s
    else
      let isProduct := match p.op with | .product .. => true | .matvec .. => true | _ => false
      let s := if st.isFault then
          (s.raise 1).updStep (fun t =>
            match t.firstFault with
            | some f => if f.1 ≤ p.pid then t else { t with firstFault := some (p.pid, st) }
            | none => { t with firstFault := some (p.pid, st) })
        else s
      let s := s.raise (flagReasons p.backward (FlagSet.vector p.flags))
      let e : OpEntry := { pid := p.pid, tag := p.tag, shape := p.opShape, flags := p.flags, isProduct := isProduct }
      let s := if isProduct || !p.flags.isEmpty then s.updStep (fun t => { t with ops := t.ops ++ [e] }) else s
      match p.report with
      | none => s
      | some r =>
        let o := p.outDesc
        let s := if r.overflow then
            s.updStep (fun t => { t with overflow := t.overflow ++ [(r.tag, r.layer, o.jibBudget, o.jibCapacity)] })
          else s
        match scaleEntry t.latched r.tag with
        | some e => s.updStep (fun t => { t with amax := Tab.upd f32Zero t.amax e (fun a => fmax a r.amax) })
        | none => s

/-- The re-execution of a whole packet under REPLAY_OP (R161): its scales are bound anew only where R161 set one (R163). -/
def State.redo (s : State) (p : Packet) : State :=
  let p := { p with phase := .running, redone := true }
  ({ s with descs := s.descs.filter (fun d => d.pid != p.pid) }.setPacket p).startCompute p.pid

/-- A descriptor of the packet is still named by a majority procedure or a shadow comparison. -/
def State.retrying (s : State) (pid : Nat) : Bool :=
  s.retries.any (fun r => match r.what with | .desc id => (s.desc id).any (fun d => d.pid == pid) | .batch .. => false)

/-- What goes on once a packet has left flight: the collectives that its product streamed into, commands that hold
fetching, and a STEP_BEGIN's ring slots (R271, R335). -/
def State.afterPacket (s : State) (p : Packet) : State :=
  if (s.packet p.pid).isSome then s
  else
    let fault := p.phase.isFault
    let s := match s.colls.find? (fun c => c.stream == some p.pid) with
      | some c => if fault then s.failCheck c else s.advance c
      | none => if fault then s.abortStream p else s
    s.settleLaunches.settleHolds.settleSoft

/-- The device ranges that a packet writes (R24). -/
def State.writesOf (s : State) (p : Packet) : List (Nat × Nat) :=
  match p.op, p.coll with
  | .attest _ d, _ => [(d, 30824 + Config.deviceCertificate.length + Config.caCertificate.length)]
  | .measurementLog d n, _ => [(d, min n s.attLog.flatten.length)]
  | .collLaunch _, some d => (launchRanges d.op (s.rd .grpRank []) (s.rd .grpMembers []) (pairUp p.collDescs)).2
  | _, _ => p.dests

/-- The bytes that are in ranges of both lists. -/
def commonRanges (a b : List (Nat × Nat)) : List (Nat × Nat) :=
  (a.map (fun x => b.filterMap (fun y =>
    if max x.1 y.1 < min (x.1 + x.2) (y.1 + y.2) then
      some (max x.1 y.1, min (x.1 + x.2) (y.1 + y.2) - max x.1 y.1)
    else none))).flatten

/-- The ranges of the descriptors that a packet names (R69, R260). -/
def State.namedRanges (s : State) (p : Packet) : List (Nat × Nat) :=
  let refs : List Nat := match p.coll with | some d => ((d.refs s.mem).map (fun (r : Nat × Nat) => [r.1, r.2])).flatten | none => []
  s.refRanges p.op ++ refs.filterMap (fun r => match s.resolveRef r with | .ok q => some (q.1, 64) | .error _ => none) ++
    (match p.coll with | some d => if d.bundle then [(d.segTable, 16 * d.segments)] else [] | none => [])

/-- A packet in flight waits for a token of a list (R342). -/
def State.awaits (s : State) (ts : List Nat) (q : Packet) : Bool :=
  q.phase == .waiting && q.waits.any (fun w => ts.contains w.token && !s.waitMet w)

/-- The tokens that chains lead to from a list of tokens, through packets that wait for one and signal another (R24), at most
`n` packets long. -/
def State.chainTokens (s : State) : Nat → List Nat → List Nat
  | 0, ts => ts
  | n + 1, ts => s.chainTokens n (ts ++ (s.flight.filter (fun q => q.sigEn && s.awaits ts q && !ts.contains q.signal)).map (fun q => q.signal))

/-- A chain of tokens leads from packet p to packet q, which has not started (R24). -/
def State.chained (s : State) (p q : Packet) : Bool :=
  p.sigEn && s.awaits (s.chainTokens s.flight.length [p.signal]) q

/-- Packet q, when packet p writes its record. A packet that a chain of tokens leads to from p is ordered after it, and reads
its descriptors again if p wrote some of them (R69). Any other packet in flight is ordered neither way: it takes p's writes
down (R24), and uses its descriptors as it read them when it was expanded (R69). -/
def State.takesDown (s : State) (p q : Packet) : Packet :=
  if q.pid = p.pid then q
  else if s.chained p q then
    { q with again := q.again || !(commonRanges (s.namedRanges q) (s.writesOf p)).isEmpty }
  else { q with raced := q.raced ++ s.writesOf p }

/-- What R24 says of a packet's writes as its record is written: bytes that an unordered packet wrote too are
undefined, and the packets in flight that are not ordered after it take its writes down. A packet that was refused
has written nothing. -/
def State.raceWrites (s : State) (p : Packet) : State :=
  match p.phase with
  | .ended st _ _ =>
    if (st = .done ∨ st = .doneFlagged ∨ st.isFault) ∧ !(s.writesOf p).isEmpty then
      let t := s.spoils (commonRanges p.raced (s.writesOf p))
      { t with flight := t.flight.map (s.takesDown p) }
    else s
  | _ => s

/-- A packet's end (R347): its feed is judged, its status record is written and its token signalled. It waits while a
majority procedure over one of its passes is open (R287) and while its status ring has no room for it (R349). Bytes that an unordered
packet wrote too become undefined (R24). -/
def State.packetEnd (s : State) (pid : Nat) : State :=
  match s.packet pid with
  | none => s
  | some p =>
    match p.phase with
    | .ended st _ _ =>
      if p.deferred ∨ s.retrying pid then s
      else
        let j := match s.step, p.report with
          | some t, some r => if p.inAttempt then s.judgeFeed t p.redone r else (s, false)
          | _, _ => (s, false)
        if j.2 then (j.1.countEvent (p.ring % 4) 0x4A 1).redo p
        else
          let s := j.1.noteEnd p st
          let s := { s with descs := s.descs.filter (fun d => d.pid != pid) }
          let begins : Bool := match p.op with | .stepBegin .. => true | _ => false
          let away : Bool := match s.step with | some t => t.ring != p.ring | none => true
          let s := if begins && away then s.wr .ringRingHead [p.ring] (s.rd .ringRingFetched [p.ring]) else s
          ((if s.recordWaits p.ring then s else s.raceWrites p).finishPacket pid).afterPacket p
    | _ => s

/-- A packet that waited for room in its status ring writes its record, after those of its ring that ended before it (R347,
R349). -/
def State.recordDeferred (s : State) (pid : Nat) : State :=
  match s.packet pid, s.lateRecords.find? (fun l => l.pid == some pid) with
  | some p, some l => if s.lateReady l then ((s.raceWrites p).finishLate l).afterPacket p else s
  | _, _ => s

/-! The close and the commit phase (R152, R168, R199, R208, R283). -/

/-- The close of an attempt whose packets have all ended (R152); it waits for a stack at CRIT (R230). A close that a reset of
the step ring overtook in its step 1 ends by that reset instead (R153). -/
def State.stepClose (s : State) : State :=
  if s.rd .stState [] = 2 ∧ !s.attemptPending ∧ s.rewrites.isEmpty ∧
      (s.step.map (fun t => t.verdict.isNone && !t.resetWaits)).getD false ∧ s.closeHeld = false then
    s.closeAttempt.settle
  else s

/-- Every pending reef rewrite completes (R199), once every stack that it needs is ready (R183, R184). A shard whose rewrite
meets an error has an undefined working copy; outside a step its layer is due again, in a step the attempt ends with FAULT by
the first error. -/
def State.rewriteDone (s : State) : State :=
  let shards := s.rewriteShards s.rewrites
  if s.rewrites.isEmpty ∨ !s.shardsReady (shards.map (fun p => p.2)) then s
  else
    let r := s.rewriteAll (s.stepField s.stepOpen) s.stepOpen shards
    let failed := (r.2.map (fun f => f.1.work.layer)).eraseDups
    let s := { r.1.spoilWorks (shards.filter (fun p => failed.contains p.2.work.layer)) with rewrites := [], rewriteStream := [] }
    let s := match r.2 with
      | [] => s
      | f :: _ =>
        if s.stepOpen then (s.updStep (fun t => { t with rewriteFault := some f.2 })).raise 1
        else { s with rewritesDue := failed }
    s.settle

/-- Every batch of a group's shards is written. -/
def ParamGroup.allWritten (g : ParamGroup) (written : List (Nat × Nat)) : Bool :=
  g.shards.zipIdx.all (fun p => (List.range p.1.batches).all (fun n => written.contains (p.2, n)))

/-- The digest of a committed group, and its bytes on the digest units (R208). -/
def State.digestGroup (s : State) (g : ParamGroup) : State × List (Nat × List Byte) :=
  let rs := g.shards.map (fun sh => (sh.base, sh.endAddr g - sh.base))
  match s.groupDigest g with
  | none => (s.noteBads 0 ((rs.map (fun r => s.badBolts r.1 r.2)).flatten), [])
  | some d => (rs.foldl (fun s r => s.countDigest (stackWindow r.1) r.1 r.2) s, [(g.num, d)])

/-- The step count of each shard of a group is written (R192): the bolts that could not be merged. -/
def State.writeCounts (s : State) (g : ParamGroup) (count : Nat) : State × List Nat :=
  g.shards.foldl (fun (r : State × List Nat) sh =>
    let k := stackWindow sh.base
    let w := r.1.writeMem (streamVia (s.inStream k) k) 0 sh.base (leBytes 8 count)
    (w.1, r.2 ++ w.2)) (s, [])

/-- The group in progress is written: its step count, its working copies, its entry and digest; the next group starts
(R168, R192, R208, R432). It waits for the stacks and engines that hold its shards (R183, R184). -/
def State.groupDone (s : State) : State :=
  match s.step, s.commit with
  | some t, some c =>
    match c.todo, s.groups.find? (fun g => g.num == c.todo.headD 0) with
    | n :: rest, some g =>
      if c.waiting ∨ !c.withheld.isEmpty ∨ !g.allWritten c.written ∨ !s.shardsReady g.shards then s
      else
        let r := s.writeCounts g c.count
        let s := if !r.2.isEmpty then r.1.commitStop .memUncorrectable (some (stackWindow (lowest r.2)))
          else
            match r.1.writeWorks g (s.stepField true) true g.shards with
            | .error e => e.2.1.commitStop e.1 (some e.2.2)
            | .ok w =>
              let s := w.1.sendGroupBolts g
              let d := if t.digest then s.digestGroup g else (s, [])
              let e : GroupEntry := { group := n, status := 0, flags := w.2, ratio := c.ratio }
              let s := (d.1.updStep (fun t => { t with groups := t.groups ++ [e], digests := t.digests ++ d.2 })).wr .stDone [] (n + 1)
              State.startGroups { s with commit := some { c with todo := rest } } rest
        s.settle
    | _, _ => s
  | _, _ => s

/-- The unit that runs a shard's update: its stack engine, or a cluster of its home channel (R196, R285). -/
def CommitSt.unitOf (s : State) (c : CommitSt) (base : Nat) : ExecUnit :=
  let st := stackWindow base
  if c.stream.contains st then .cluster (s.homeCluster (st / 5)) else .engine st

/-- An update batch finishes its checks (R283): written, or withheld for the majority procedure. The path waits while
2 MiB of shroud cells of its stack wait for credit (R312), and while the stack is at CRIT or its engine wakes (R183, R184). -/
def State.updateBatch (s : State) (sh n : Nat) (check : Check) : State :=
  match s.commit with
  | none => s
  | some c =>
    match (s.groups.find? (fun g => g.num == c.todo.headD 0)).bind (fun g => g.shards[sh]?) with
    | none => s
    | some x =>
      if c.waiting ∨ x.batches ≤ n ∨ c.written.contains (sh, n) ∨ c.withheld.contains (sh, n) ∨
          !s.workReady (stackWindow x.base) ∨ 2 * 1048576 ≤ s.shroudBacklog (stackWindow x.base) then s
      else
        match check.filter (fun k => residue k.seen != 0) with
        | none => (s.writeBatch sh n).settle
        | some k =>
          let u := CommitSt.unitOf s c x.base
          let s := s.checkEvent u k.code k.position 0 0
          { s with commit := some { c with withheld := c.withheld ++ [(sh, n)] } }.addRetry (.batch sh n) u u (s.secondUnit u) 0

/-- E1 and E2 of a majority procedure complete (R286), and what waited for it goes on. -/
def State.majorityDone (s : State) (id : Nat) (e0e2 e1e2 : Bool) (c1 c2 : Check) : State :=
  (s.majority id e0e2 e1e2 c1 c2).settle

end Sys2Proof.Machine
end

