-- ==== Sys2Proof/Machine/Tick.lean ====
section
/-! DEFINITION. One tick of the always-on clock: arbitration, IDLE flits, and the counters that count cycles (R8, R231–R234,
R239, R360, R362). -/

namespace Sys2Proof.Machine

/-! Arbitration (R231–R233). -/

/-- The sideband of a requester reports it in reset or power-gated (R231): the stack engine of a port, the local clusters of
a slice. -/
def State.masked (s : State) (a i : Nat) : Bool :=
  if a < 20 then i == 2 && s.rd .domDstate [56 + a] != 2
  else if a < 24 then i == 0 && (List.range 12).all (fun q => s.rd .domDstate [12 * (a - 20) + q] != 2)
  else false

/-- The weights of an instance, 0 for a masked requester. -/
def State.liveWeights (s : State) (a : Nat) : List Nat :=
  (s.weights a).zipIdx.map (fun w => if s.masked a w.2 then 0 else w.1)

/-- One cycle of an instance that no access here drives. Which requesters ask, and whether a refresh is urgent, is timing: free
values (log 6). An empty grant of a stack's port counts as its event. -/
def State.arbStep (a : Nat) (s : State) : State :=
  let was := s.arb a
  let r := s.freeVal 6
  let u := r.2.freeVal 1
  let reqs := (List.range 6).map (fun i => r.1.testBit i)
  let now := arbCycle (s.liveWeights a) reqs (if a < 20 ∧ u.1 = 1 then some 5 else none) (s.flag .arbFreeze [a]) was
  let s := { u.2 with arbiters := Tab.put u.2.arbiters a now }
  if a < 20 then s.stackEvent a 15 (now.empty - was.empty) else s

/-- The instances at work: the ports of stacks that are not in self-refresh, the banks of slices in service, and the PCIe DMA
engines. An egress arbiter decides as its port sends. -/
def State.arbiting (s : State) : List Nat :=
  (List.range 20).filter (fun st => s.rd .domDstate [56 + st] == 2 && s.rd .stkTstate [st] != 2) ++
  ((List.range 4).filter (fun c => s.rd .domDstate [52 + c] == 2)).map (fun c => 20 + c) ++
  (if s.pcieUp then [36] else [])

/-- The 21 cycles of a tick. -/
def State.arbTick (s : State) : State :=
  s.arbiting.foldl (fun s a => (List.range 21).foldl (fun s _ => State.arbStep a s) s) s

/-! Counters of cycles (R360, R362). -/

/-- What an event of channel c counts in the cycles of a tick: none where the count depends on timing. -/
def State.tickEvent (s : State) (c ev : Nat) : Option Nat :=
  let while' := fun (b : Bool) => some (21 * b2n b)
  let st := 5 * c + (ev - 0x80) / 16
  let p := 3 * c + (ev - 0x100) / 16
  if ev = 0x44 then while' (s.flight.any (fun x => x.ring % 4 == c && x.isWaiting && x.waits.any (fun w => !s.waitMet w)))
  else if ev = 0x45 ∨ ev = 0x46 then none
  else if 0x80 ≤ ev ∧ ev < 0xD0 then
    if ev % 16 = 4 ∨ ev % 16 = 5 then none
    else if ev % 16 = 9 then while' (s.rd .stkTstate [st] == 1)
    else if ev % 16 = 10 then while' (s.rd .stkTstate [st] == 2)
    else some 0
  else if 0x100 ≤ ev ∧ ev < 0x130 then
    let v := ev % 16 - 6
    if 6 ≤ ev % 16 ∧ ev % 16 ≤ 9 then
      while' ((s.port p).waiting.any (fun w => w.1 % 4 == v) && s.rd .portTxCredits [p, v] == 0)
    else if ev % 16 = 13 then while' (s.pstate p == psRetraining)
    else some 0
  else if ev = 0x144 then while' (decide (2048 ≤ s.mergeUsed c))
  else if ev = 0x148 ∨ (0x180 ≤ ev ∧ ev < 0x1A0 ∧ ev % 8 = 2) ∨ ev = 0x1C3 then none
  else if ev = 0x1E6 then (if c = 0 then while' s.postedFull else some 0)
  else if ev = 0x1E7 then (if c = 0 then none else some 0)
  else some 0

/-- A free count of a tick: an event that is not a count of cycles is row activations or link replays. -/
def tickBound (ev v : Nat) : Nat := if ev = 0x1E7 ∨ (0x80 ≤ ev ∧ ev < 0xD0 ∧ ev % 16 = 4) then v else v % 22

/-- A programmable counter in a tick. -/
def State.tickCounter (s : State) (c i : Nat) : State :=
  if s.flag .progEnable [c, i] then
    match s.tickEvent c (s.rd .progEvent [c, i]) with
    | some n => if n = 0 then s else s.bump .progValue [c, i] n
    | none => let f := s.freeVal 16; f.2.bump .progValue [c, i] (tickBound (s.rd .progEvent [c, i]) f.1)
  else s

/-- The fixed events of a powered cluster in a tick (R360): powered, idle and test cycles; those of a running descriptor
that depend on timing are free values (log 6). -/
def State.tickCluster (s : State) (k : Nat) : State :=
  let s := s.countCluster k 0 21
  let s := if s.flag .unitTesting [k / 4] then s.countCluster k 47 21 else s
  if s.descs.any (fun d => d.on (.cluster k)) then
    let s := ([3, 4, 33] : List Nat).foldl (fun s e => let f := s.freeVal 8; f.2.countCluster k e (f.1 % 22)) s
    ([38, 41, 42, 43, 44] : List Nat).foldl (fun s e => let f := s.freeVal 32; f.2.countCluster k e f.1) s
  else s.countCluster k 2 21

/-- The counters of cycles in a tick. -/
def State.tickCounts (s : State) : State :=
  let s := ((List.range 48).filter (fun q => s.rd .domDstate [q] == 2)).foldl (fun s q =>
    (List.range 4).foldl (fun s i => s.tickCluster (4 * q + i)) s) s
  (List.range 4).foldl (fun s c => (List.range 16).foldl (fun s i => s.tickCounter c i) s) s

/-- One tick of the always-on clock, 20 ns (R8): stacks at CRIT count it (R234), arbiters run, ports with no DATA flit due send
IDLE, and counters of cycles count. An unpowered module has no clock. -/
def State.tick (s : State) : State :=
  if s.power = 0 then s
  else
    let s := { s with aoNow := s.aoNow + 1 }.critTick
    if s.power = 1 then ((List.range 12).foldl State.idleFlit s.arbTick).tickCounts else s

end Sys2Proof.Machine
end

