-- ==== Sys2Proof/Machine/Guards.lean ====
section
/-! DEFINITION. What every meaning begins with: the conditions under which the module takes a command of its kind, and a
register field that a command of its own writes. Every command answers a next state: one that the module does not take
leaves the state as it is. -/

namespace Sys2Proof.Machine

/-- What a command answers. -/
abbrev Answer : Type := Host.Outcome State Fault Refusal

/-- An event of the powered module (R372): nothing happens in it while it is unpowered or tripped. -/
def powered (s : State) (f : State → State) : Answer := .next (if s.power = 1 then f s else s)

/-- An event of the always-on domain, which a thermal trip leaves running (R381). -/
def managed (s : State) (f : State → State) : Answer := .next (if s.power = 0 then s else f s)

/-- A host write, which is lost or discarded while the link is down, in D3hot or during a reset (R326, R431). -/
def hosted (s : State) (f : State → State) : Answer := .next (if s.hostOk then f s else s)

/-- A host request that completes while the link is up (R431). -/
def linkedReq (s : State) (f : State → State) : Answer := .next (if s.linked then f s else s)

/-- What an event may let go on: streamed products whose collective was aborted end, digests that waited for an engine are
formed, and fences and a soft reset that waited for the end of a step act (R184, R196, R271, R392). -/
def State.after (s : State) : State := s.settleStreams.settleLaunches.settleDigests.settle

/-- The cell that brought a message leaves those delivered to the local units: the oldest of its kind, sender and
message. -/
def State.consume (s : State) (kind src msg : Nat) : State :=
  match s.delivered.find? (fun c => c.kind == kind && c.src == src && (kind == 1 || (c.body.getD 0 0).toNat == msg)) with
  | some c => { s with delivered := s.delivered.erase c }
  | none => s

end Sys2Proof.Machine
end

