-- ==== Sys2Proof/Machine/Links.lean ====
section
/-! DEFINITION. The meanings of the link-port events: enables, training, SYNC, flits, retry and retraining, and the
handling of received cells (R237–R246). -/

namespace Sys2Proof.Machine

/-- PORT_ENABLE (R237). -/
def execPortEnable (port : Nat) (s : State) : Answer := hosted s (fun s => s.hostField .portEnable [port] 1)

/-- PORT_DISABLE (R237). -/
def execPortDisable (port : Nat) (s : State) : Answer := hosted s (fun s => s.hostField .portEnable [port] 0)

/-- Training of a port completes (R244): its SYNC flits leave. A port trains while its group domain is ON. -/
def State.trained (s : State) (p : Nat) : State :=
  if p < 12 ∧ (s.pstate p = psTraining ∨ s.pstate p = psRetraining) ∧ s.rd .domDstate [portGroup p] = 2 then
    (s.wr .portPstate [p] psSync).sendFlit p 3 0 (s.port p).nextSeq (s.syncPayload p)
  else s

/-- TRAINING_COMPLETE (R244). -/
def execTrainingComplete (port : Nat) (s : State) : Answer := powered s (fun s => s.trained port)

/-- SYNC (R245). -/
def execSync (port : Nat) (totals : FlitTotals) (peerId peerPort session : Nat) (buffers : List Nat) (s : State) : Answer :=
  powered s (fun s =>
    if port < 12 ∧ s.pstate port = psSync then s.takeSync port totals peerId peerPort session buffers else s)

/-! Received cells (R242, R243, R246). -/

/-- The collective of a key has been launched here, and has ended. -/
def State.endedKey (s : State) (k : CollKey) : Bool :=
  k.epoch == s.rd .grpEpoch [] && k.step == s.stepField s.stepOpen && k.attempt == s.openAttempt &&
  decide (k.seq < s.rd .collCollSeq []) && !s.flight.any (fun p => p.isWaiting && p.coll.isSome && p.collSeq == k.seq)

/-- The key that a COLLECTIVE body's sub-header names (R267). -/
def bodyKey (body : List Byte) : CollKey :=
  { epoch := fieldLe body 8 8, step := fieldLe body 16 8, attempt := (body.getD 1 0).toNat, seq := fieldLe body 24 8 }

/-- A COLLECTIVE or BOLT cell is live (R246, R276): its collective is in flight in the open attempt, or it is a LAUNCH, ABORT
or SLOW of a collective that is not launched yet. -/
def State.collCellLive (s : State) (kind stream : Nat) (body : List Byte) : Bool :=
  s.colls.any (fun c => streamOf c.key == stream / 2 ^ 13 * 2 ^ 13 + stream % 4096) ||
  (kind == 2 && (let m := (body.getD 0 0).toNat; m == 1 || m == 4 || m == 5) &&
    !s.endedKey (bodyKey body) && !s.staleMsg (bodyKey body))

/-- A SHROUD cell is live (R246): the block's ENABLE or HOLD_ENABLE is 1, or a RESTORE runs; and it is not a cell of a copy
or of a fetch that has ended. -/
def State.shroudLive (s : State) (src msg : Nat) : Bool :=
  let restoring := s.flight.any (fun p => match p.op, p.phase with | .restore .., .running => true | _, _ => false)
  let fetched := match s.restore with | some r => r.holder == src | none => false
  let copied := match s.hold with | some h => h.sourceNode == src && !h.ended | none => false
  let signed := match s.hold with | some h => h.sourceNode == src | none => false
  (s.flag .shrEnable [] || s.flag .shrHoldEnable [] || restoring) &&
  match msg with
  | 2 => s.copy.isSome || s.rd .shrHolderNode [] == src
  | 3 => fetched || copied
  | 4 => fetched || copied
  | 5 => fetched || copied
  | 6 => fetched || signed
  | 7 => (s.answered src).isSome
  | 8 => (s.answered src).isSome
  | 10 => fetched
  | _ => true

/-- Is a cell for this module live (R246)? -/
def State.cellLive (s : State) (src kind stream : Nat) (body : List Byte) : Bool :=
  match kind with
  | 1 => s.collCellLive 1 stream body
  | 2 => s.collCellLive 2 stream body
  | 3 => s.flag .grpGroupEnable []
  | 4 => s.shroudLive src (body.getD 0 0).toNat
  | 5 => !s.fenced 95
  | _ => false

/-- The collective in flight that a STREAM names (R267). -/
def State.collOfStream (s : State) (stream : Nat) : Option CollSt :=
  s.colls.find? (fun c => streamOf c.key == stream / 2 ^ 13 * 2 ^ 13 + stream % 4096)

/-- A data unit whose body CRC fails ends its collective with FAULT_CHECK (R274). -/
def State.badUnit (s : State) (stream : Nat) : State :=
  match s.collOfStream stream with
  | some c => s.failCheck c
  | none => s

/-- A completed received cell: consumed here, forwarded or discarded (R243, R246). -/
def State.routeCell (s : State) (p vc : Nat) (bytes : List Byte) : State :=
  let h := fieldLe bytes 0 8
  let dest := bitsOf h 63 50
  let kind := bitsOf h 23 16
  let stream := bitsOf h 15 0
  let body := bytes.drop 8
  if kind = 0 ∨ 5 < kind then s.count .portCellsDiscarded [p] 1
  else if dest = s.rd .grpNode [] then
    if kind ≠ 1 ∧ (body.length < 4 ∨ crc32 (bytes.take (bytes.length - 4)) ≠ fieldLe bytes (bytes.length - 4) 4) then
      let s := (s.log 0x0C p 0 0 6 (82 + p) kind).count .portCellsDiscarded [p] 1
      -- VC 0 carries data units only
      if kind = 2 ∧ vc = 0 then s.badUnit stream else s
    else if s.cellLive (bitsOf h 49 36) kind stream body then
      let c : Cell :=
        { dest := dest, src := bitsOf h 49 36, kind := kind, stream := stream,
          body := if kind = 1 then body else body.take (body.length - 4) }
      let s := { s.portEvent p 11 1 with delivered := s.delivered ++ [c] }
      if kind = 3 then s.groupEvent 7 1 else s
    else s.count .portCellsDiscarded [p] 1
  else if 11 < s.route dest then s.count .portCellsUnroutable [p] 1
  else (s.portEvent p 10 1).queueCell (s.route dest) vc bytes

/-- Take the complete cells off a VC's byte stream: each is handled and its credit returned (R242, R243). -/
def State.assemble (p vc : Nat) : Nat → State → State
  | 0, s => s
  | fuel + 1, s =>
    let q := s.port p
    let bs := q.part.getD vc []
    let len := bitsOf (fieldLe bs 0 8) 35 26
    if bs.length < 8 ∨ bs.length < 8 + len then s
    else
      let s := s.setPort p { q with part := q.part.set vc (bs.drop (8 + len)),
                                    returned := q.returned.set vc ((q.returned.getD vc 0 + 1) % 1024) }
      State.assemble p vc fuel (s.routeCell p vc (bs.take (8 + len)))

/-! Flits (R238–R240). -/

/-- The CRC of a flit is good. -/
def flitGood (bytes : List Byte) : Bool := bytes.length == 256 && crc32 (bytes.take 252) == fieldLe bytes 252 4

/-- A DATA flit whose CRC is good: accepted in order, its bytes joining the byte stream of its VC; any other is answered
with NAK (R239). An IDLE flit that carries ACK follows an accepted one when no DATA flit does. -/
def State.takeData (s : State) (p seq vc : Nat) (payload : List Byte) : State :=
  let q := s.port p
  if seq = (q.lastRx + 1) % 4096 then
    let sent := s.rd .portFlitsTx [p]
    let part := q.part.getD vc [] ++ payload
    let s := (s.setPort p { q with lastRx := seq, part := q.part.set vc part }).bump .portFlitsRx [p] 1
    let s := s.portEvent p 1 1
    let s := (State.assemble p vc part.length (s.countBw (20 + p) true payload.length)).pump p
    let s := s.wr .portPartial [p, vc] ((s.port p).part.getD vc []).length
    if s.rd .portFlitsTx [p] = sent then s.sendFlit p 1 0 (s.port p).nextSeq [] else s
  else s.sendNak p

/-- A flit arrives (R239): one with a bad CRC yields nothing but NAK; NAK and SYNC flits are commands of their own. -/
def State.takeFlit (s : State) (p : Nat) (bytes : List Byte) (corrected uncorrectable : Nat) : State :=
  let s := ((s.bump .portFecCorrected [p] corrected).count .portFecUncorrectable [p] uncorrectable).portEvent p 5 corrected
  if !flitGood bytes then ((s.count .portCrcErrors [p] 1).portEvent p 4 1).sendNak p
  else
    let h := fieldLe bytes 0 8
    let type := bitsOf h 37 36
    if 1 < type then s
    else
      let s := s.takeTotals p (bitsOf h 51 40) (bitsOf h 27 26) (bitsOf h 25 16)
      if type = 0 then s.takeData p (bitsOf h 63 52) (bitsOf h 39 38) (slice bytes 8 (min 244 (bitsOf h 35 28)))
      else s.pump p

/-- FLIT_RECEIVED (R239). -/
def execFlitReceived (port : Nat) (bytes : List Byte) (corrected uncorrectable : Nat) (s : State) : Answer :=
  powered s (fun s =>
    if port < 12 ∧ s.pstate port = psUp then (s.takeFlit port bytes corrected uncorrectable).settleStreams else s)

/-- A port that flits flow on. -/
def State.portUp (s : State) (p : Nat) : Bool := decide (p < 12) && s.pstate p == psUp

/-- A port that has just begun to retrain is a cause of SLOW, which goes out at once (R244, R278). -/
def State.slowIfRetraining (s : State) (p : Nat) : State := if s.pstate p = psRetraining then s.slowCheck else s

/-- NAK (R240): its totals are taken and every unacknowledged DATA flit is sent again. -/
def execNak (port : Nat) (totals : FlitTotals) (s : State) : Answer :=
  powered s (fun s =>
    if s.portUp port then
      (((s.takeTotals port totals.ack totals.cvc totals.credits).resendOrRetrain port).pump port).slowIfRetraining port
    else s)

/-- RETRY_TIMEOUT (R240). -/
def execRetryTimeout (port : Nat) (s : State) : Answer :=
  powered s (fun s => if s.portUp port then (s.resendOrRetrain port).slowIfRetraining port else s)

/-- LOSS_OF_LOCK (R244). -/
def execLossOfLock (port : Nat) (s : State) : Answer :=
  powered s (fun s => if s.portUp port then (s.retrain port).slowIfRetraining port else s)

end Sys2Proof.Machine
end

