-- ==== Sys2Proof/Machine/Collectives.lean ====
section
/-! DEFINITION. The meanings of collective messages, data cells, completions and timers (R265–R278). -/

namespace Sys2Proof.Machine

/-- A collective message of a collective in flight, from a member; one that is not live is discarded (R246, R276). -/
def collective (s : State) (h : CollHeader) (msg : Nat) (f : State → CollSt → Nat → State) : Answer :=
  powered s (fun s =>
    let s := s.consume 2 h.src msg
    match s.coll h.key, s.rankOf h.src with
    | some c, some k => (f s c k).after
    | _, _ => s)

/-- Hold a message whose key has not been launched (R276): up to 1,024, the oldest discarded beyond that. -/
def State.holdMsg (s : State) (h : CollHeader) (body : HeldBody) : State :=
  if s.endedKey h.key then s
  else if s.staleMsg h.key then s.count .collStaleDiscarded [] 1
  else
    let l := s.heldMsgs ++ [{ key := h.key, src := h.src, tick := s.aoNow, body := body }]
    { s with heldMsgs := l.drop (l.length - 1024) }.count .collStaleDiscarded [] (l.length - 1024)

/-- A LAUNCH, ABORT or SLOW: taken by its collective in flight, or held (R276). -/
def State.takeOrHold (s : State) (h : CollHeader) (msg : Nat) (body : HeldBody) (f : State → CollSt → Nat → State) : State :=
  let s := s.consume 2 h.src msg
  match s.coll h.key with
  | some c => match s.rankOf h.src with | some k => (f s c k).after | none => s
  | none => s.holdMsg h body

/-- LAUNCH (R274). -/
def execLaunch (h : CollHeader) (content : LaunchMsg) (s : State) : Answer :=
  powered s (fun s => s.takeOrHold h 1 (.launch content) (fun s c k => s.takeLaunch c k content))

/-- GRANT (R269): chunks of the sender's share below LIMIT may be sent. -/
def execGrant (h : CollHeader) (limit : Nat) (s : State) : Answer :=
  collective s h 2 (fun s c k =>
    s.advance (({ c with limits := Tab.put c.limits k (max limit (Tab.get 0 c.limits k)) }).progressed s.aoNow))

/-- COLLECTIVE_DATA (R266, R269): half of a BF16 or FP32 unit; the second half completes the unit,
which is the next that is expected of the sender and phase. -/
def execCollectiveData (h : CollHeader) (_unit phase half : Nat) (data : List Byte) (s : State) : Answer :=
  collective s h 3 (fun s c k =>
    let key := phase % 2 * 16384 + k
    if half = 0 then s.setColl (({ c with half := Tab.put c.half key (slice data 0 256) }).progressed s.aoNow)
    else
      match Tab.find c.half key with
      | some lo => s.takeUnit { c with half := Tab.del c.half key } k (phase % 2) (lo ++ slice data 0 256)
      | none => s)

/-- FLAGS (R265). -/
def execFlags (h : CollHeader) (chunk vector : Nat) (s : State) : Answer :=
  collective s h 7 (fun s c k =>
    if c.flagsRx.any (fun e => e.1 == k && e.2.1 == chunk) then s
    else s.advance (({ c with flagsRx := c.flagsRx ++ [(k, chunk, vector)] }).progressed s.aoNow))

/-- ABORT (R275). -/
def execAbort (h : CollHeader) (cause field rank : Nat) (s : State) : Answer :=
  powered s (fun s => s.takeOrHold h 4 (.abort cause field rank) (fun s c _ => s.takeAbort c cause field rank))

/-- SLOW (R277). -/
def execSlow (h : CollHeader) (_reason : Nat) (s : State) : Answer :=
  powered s (fun s =>
    ((s.count .collSlowRx [] 1).groupEvent 5 1).takeOrHold h 5 .slow (fun s c _ => s.setColl (c.slowed s.aoNow)))

/-- RELEASE completes a BARRIER at a member other than rank 0 (R273). -/
def execRelease (h : CollHeader) (s : State) : Answer :=
  collective s h 6 (fun s c k => if k = 0 then s.setColl (({ c with released := true }).progressed s.aoNow) else s)

/-- BOLT_CELL (R266): a narrow unit of the collective that STREAM names; its PHASE is bit 12. -/
def execBoltCell (src stream : Nat) (bytes : List Byte) (s : State) : Answer :=
  powered s (fun s =>
    let s := s.consume 1 src 0
    match s.collOfStream stream, s.rankOf src with
    | some c, some k => (s.takeUnit c k (bitsOf stream 12 12) (slice bytes 0 512)).after
    | _, _ => s)

/-- Cells of the collective wait on some port, or have not yet been consumed at their first hop (R273). -/
def State.cellsWait (s : State) (c : CollSt) : Bool :=
  (List.range 12).any (fun p => ((s.port p).waiting ++ (s.port p).inHop).any (fun w =>
    let h := fieldLe w.2 0 8
    let st := bitsOf h 15 0
    (bitsOf h 23 16 == 1 || bitsOf h 23 16 == 2) && bitsOf h 49 36 == s.rd .grpNode [] &&
      st / 2 ^ 13 * 2 ^ 13 + st % 4096 == streamOf c.key))

/-- COLL_COMPLETE (R273). -/
def execCollComplete (key : CollKey) (s : State) : Answer :=
  powered s (fun s =>
    match s.coll key with
    | some c => if s.collDone c ∧ !s.cellsWait c then (s.completeColl c).after else s
    | none => s)

/-- The watchdog of a collective passes its deadline (R277). -/
def State.collTimeout (s : State) (c : CollSt) : State :=
  let k := c.awaited
  ((s.sendAborts c 2 0 k).failColl c .collTimeout 2 0 k).count .collTimeouts [] 1

/-- COLL_WATCHDOG_EXPIRY (R277). -/
def execCollWatchdogExpiry (key : CollKey) (s : State) : Answer :=
  powered s (fun s =>
    match s.coll key with
    | some c => if c.deadline ≤ s.aoNow then (s.collTimeout c).after else s
    | none => s)

/-- SLOW_TIMER (R278). -/
def execSlowTimer (s : State) : Answer :=
  powered s (fun s => s.slowCheck)

end Sys2Proof.Machine
end

