-- ==== Sys2Proof/Machine/Counters.lean ====
section
/-! DEFINITION. The meanings of the writes to counters and bandwidth monitors and of the window's end (R361, R364). -/

namespace Sys2Proof.Machine

/-- The word of a SELECT write (R361). -/
def selectWord (event filter : Nat) (enable : Bool) : Nat :=
  event % 1024 * 2 ^ Reg.progEvent.lsb + filter % 16 * 2 ^ Reg.progFilter.lsb + b2n enable * 2 ^ Reg.progEnable.lsb

/-- COUNTER_SELECT_WRITE (R361): the 4-byte write of a SELECT word. -/
def execCounterSelectWrite (channel counter event filter : Nat) (enable : Bool) (s : State) : Answer :=
  hosted s (fun s =>
    if Reg.progEvent.has [channel, counter] then
      if s.postedFull then
        s.holdWrite 0 (Reg.progEvent.off + strideSum Reg.progEvent.dims [channel, counter]) (leBytes 4 (selectWord event filter enable))
      else (s.tlpIn 4).selectWrite channel counter (event % 1024) (filter % 16) enable
    else s)

/-- COUNTER_CLEAR (R361). -/
def execCounterClear (channel counter : Nat) (s : State) : Answer :=
  hosted s (fun s => s.hostField .progClear [channel, counter] 1)

/-- BW_ENABLE_WRITE (R364). -/
def execBwEnableWrite (on : Bool) (s : State) : Answer := hosted s (fun s => s.hostField .ctrBwEnable [] (b2n on))

/-- BW_WINDOW_END (R364). -/
def execBwWindowEnd (s : State) : Answer := powered s (fun s => s.bwEnd)

end Sys2Proof.Machine
end

