-- ==== Sys2Proof/Machine/Fetching.lean ====
section
/-! DEFINITION. The meanings of the ring events and of host reads: fetching, the start and the end of packets, status
records, ring resets, tokens and ring configuration (R201, R330–R349). -/

namespace Sys2Proof.Machine

/-- RING_RESET_WRITE: a host write of 1 to RING_RESET (R336). -/
def execRingResetWrite (ring : Nat) (s : State) : Answer := hosted s (fun s => s.hostField .ringRingReset [ring] 1)

/-- RING_RESET_DRAINED (R336, R153). -/
def execRingResetDrained (ring : Nat) (s : State) : Answer := powered s (fun s => (s.ringDrained ring).after)

/-- SLOT_FREED (R201). -/
def execSlotFreed (slot : Nat) (s : State) : Answer := powered s (fun s => s.freeSlot slot)

/-- RING_TAIL_WRITE (R332). -/
def execRingTailWrite (ring tail : Nat) (s : State) : Answer := hosted s (fun s => s.hostField .ringRingTail [ring] tail)

/-- PACKET_FETCH (R340). -/
def execPacketFetch (ring : Nat) (s : State) : Answer := powered s (fun s => s.fetchRing ring)

/-- PACKET_START (R342). -/
def execPacketStart (pid : Nat) (s : State) : Answer := powered s (fun s => (s.startPacket pid).after)

/-- PACKET_END (R347). -/
def execPacketEnd (pid : Nat) (s : State) : Answer := powered s (fun s => (s.packetEnd pid).after)

/-- STATUS_RECORD_DEFERRED (R349). -/
def execStatusRecordDeferred (pid : Nat) (s : State) : Answer := powered s (fun s => (s.recordDeferred pid).after)

/-- STATUS_HEAD_WRITE (R349). -/
def execStatusHeadWrite (ring head : Nat) (s : State) : Answer :=
  hosted s (fun s => s.hostField .ringStatusHead [ring] head)

/-- TOKEN_ADD (R341): the 8-byte write of TOKEN and AMOUNT. -/
def execTokenAdd (token amount : Nat) (s : State) : Answer :=
  hosted s (fun s =>
    if s.postedFull then s.holdWrite 0 0x20 (leBytes 8 (token % 65536 * 2 ^ 48 + amount % 2 ^ 48))
    else (s.tlpIn 8).tokenAdd (token % 65536) (amount % 2 ^ 48))

/-- DEVICE_ENABLE_WRITE (R331). -/
def execDeviceEnableWrite (on : Bool) (s : State) : Answer := hosted s (fun s => s.hostField .devDeviceEnable [] (b2n on))

/-- The register field of a RING_CONFIG_WRITE. -/
def ringReg : RingField → Reg
  | .base => .ringRingBase
  | .loc => .ringLoc
  | .log2 => .ringRingLog2

/-- RING_CONFIG_WRITE (R333). -/
def execRingConfigWrite (ring : Nat) (field : RingField) (value : Nat) (s : State) : Answer :=
  hosted s (fun s => s.hostField (ringReg field) [ring] value)

/-- The register field of a STATUS_CONFIG_WRITE. -/
def statusReg : StatusField → Reg
  | .base => .ringStatusBase
  | .log2 => .ringStatusLog2

/-- STATUS_CONFIG_WRITE (R346). -/
def execStatusConfigWrite (ring : Nat) (field : StatusField) (value : Nat) (s : State) : Answer :=
  hosted s (fun s => s.hostField (statusReg field) [ring] value)

/-- HOST_READ_COMPLETION (R330). -/
def execHostReadCompletion (rid status : Nat) (data : List Byte) (s : State) : Answer :=
  powered s (fun s => s.completion rid status data)

/-- COMPLETION_TIMEOUT (R330). -/
def execCompletionTimeout (rid : Nat) (s : State) : Answer := powered s (fun s => s.readTimeout rid)

end Sys2Proof.Machine
end

