-- ==== Sys2Proof/Machine/Groups.lean ====
section
/-! DEFINITION. The meanings of group membership: enables, joins, heartbeats, epochs, failover and shroud partners
(R154, R248–R253, R306, R322). -/

namespace Sys2Proof.Machine

/-- A group message is taken while GROUP_ENABLE is 1 (R246) and its TERM is not lower than the one known (R253). -/
def grouped (s : State) (h : GroupHeader) (msg : Nat) (f : State → State) : Answer :=
  powered s (fun s =>
    if s.flag .grpGroupEnable [] then
      let r := (s.consume 3 h.src msg).termCheck h.src h.term
      if r.2 then f r.1 else r.1
    else s)

/-- GROUP_ENABLE_SET (R248). -/
def execGroupEnableSet (s : State) : Answer := hosted s (fun s => s.hostField .grpGroupEnable [] 1)

/-- GROUP_ENABLE_CLEAR (R249). -/
def execGroupEnableClear (s : State) : Answer := hosted s (fun s => s.hostField .grpGroupEnable [] 0)

/-! Joins and leaves (R250). -/

/-- The result of a JOIN (R250), judged in the order manager, group, NE, member number. -/
def State.joinResult (s : State) (src moduleId ne : Nat) : Nat :=
  let m := src % 128
  let st := s.rd .mbrMstate [m]
  if s.rd .grpRole [] = 0 then 4
  else if src / 128 ≠ s.rd .grpNode [] / 128 then 3
  else if ne ≠ s.rd .devNe [] then 1
  else if (st = 1 ∨ st = 2) ∧ Tab.get 0 s.memberIds m ≠ moduleId then 2
  else 0

/-- A manager answers JOIN (R250): an accepted member is JOINING until the next epoch commits. -/
def State.takeJoin (s : State) (src moduleId feed ne : Nat) : State :=
  let m := src % 128
  let r := s.joinResult src moduleId ne
  let s := if r = 0 then
      let s := ((s.wr .mbrMstate [m] 1).wr .mbrFeedId [m] feed).wr .mbrMissed [m] 0
      { s with memberIds := Tab.put s.memberIds m moduleId }
    else s
  let s := s.sendGroup src 0x02 (s.rd .grpEpoch []) (leBytes 1 r)
  if r = 0 then s.reportChange src 1 else s

/-- JOIN (R250). -/
def execJoin (h : GroupHeader) (moduleId feed ne : Nat) (s : State) : Answer :=
  grouped s h 0x01 (fun s => s.takeJoin h.src moduleId feed ne)

/-- JOIN_REPLY (R250). -/
def execJoinReply (h : GroupHeader) (result : Nat) (s : State) : Answer := grouped s h 0x02 (fun s => s.joinAnswered result)

/-- An entry of this manager's table becomes LEAVING or LOST (R249, R250): the change is reported, and a lost holder or
source has its effects (R322). -/
def State.memberGone (s : State) (m st : Nat) : State :=
  let node := s.nodeOfMember m
  let s := s.wr .mbrMstate [m] st
  let s := if st = 4 ∧ s.rd .shrHolderNode [] = node then s.holderLost else s
  let s := if st = 4 ∧ s.rd .shrHeldSourceNode [] = node then s.retain else s
  s.reportChange node st

/-- The node is a member of this manager's group. -/
def State.ownMember (s : State) (node : Nat) : Bool := s.isManager && node / 128 == s.rd .grpNode [] / 128

/-- LEAVE (R249): the entry becomes LEAVING. -/
def execLeave (h : GroupHeader) (s : State) : Answer :=
  grouped s h 0x03 (fun s =>
    let st := s.rd .mbrMstate [h.src % 128]
    if s.ownMember h.src ∧ (st = 1 ∨ st = 2) then s.memberGone (h.src % 128) 3 else s)

/-! Heartbeats (R250, R253). -/

/-- A standby takes a manager's role with TERM one higher, marks the old manager LOST with what follows from it (R322), and
announces itself (R253): the group manager's role, and as TOP_STANDBY the top manager's too. The table is that of the last
committed epoch: states and ranks as its list gives them; FEED_ID, MODULE_ID and health come in a message for which the spec
has no code, so they are free values here. -/
def State.takeOver (s : State) (asTop : Bool) : State :=
  let me := s.rd .grpNode []
  let old := if asTop then s.rd .grpTopNode [] else s.rd .grpManagerNode []
  let s := ((s.wr .grpTerm [] (s.rd .grpTerm [] + 1)).wr .grpRole [] (if asTop then 2 else 1)).wr .grpManagerNode [] me
  let s := if asTop then { s.wr .grpTopNode [] me with sysMembers := s.rankNodes } else s
  let s := s.rankNodes.zipIdx.foldl (fun s p =>
    if p.1 / 128 = me / 128 then
      let m := p.1 % 128
      let f := s.freeVal 128
      let t := ((f.2.wr .mbrMstate [m] 2).wr .mbrMrank [m] p.2).wr .mbrFeedId [m] (f.1 / 2 ^ 64 % 16)
      let health := [f.1 / 2 ^ 68 % 256, f.1 / 2 ^ 76 % 256, f.1 / 2 ^ 84 % 2 ^ 16, f.1 / 2 ^ 100 % 256, f.1 / 2 ^ 108 % 256]
      { t.wr .mbrRisk [m] (f.1 / 2 ^ 116 % 4) with
        memberIds := Tab.put t.memberIds m (f.1 % 2 ^ 64), memberHealth := Tab.put t.memberHealth m health }
    else s) s
  -- the members of the group, and of every group when the top manager is new
  let s := ((s.rankNodes.filter (fun a => (asTop || a / 128 == me / 128) && a != me && a != old))).foldl
    (fun s a => s.sendGroup a 0x0B (s.rd .grpEpoch []) (leBytes 2 me)) s
  let s := if s.rd .shrHolderNode [] = old then s.holderLost else s
  let s := if s.rd .shrHeldSourceNode [] = old then s.retain else s
  if old / 128 = me / 128 then s.setMstate (old % 128) 4 else s.reportChange old 4

/-- The role that a HEARTBEAT makes a standby take (R253): none; the group manager's (false); the top manager's (true), as
TOP_STANDBY for a member of the top manager's group or for another group's manager. -/
def State.standbyFor (s : State) (src : Nat) : Option Bool :=
  let me := s.rd .grpNode []
  let worker := s.rd .grpRole [] == 0 && s.rd .grpManagerNode [] != me
  if s.rd .grpTopStandby [] = me ∧ s.rd .grpRole [] ≠ 2 ∧ s.rd .grpTopNode [] ≠ me ∧
      (src / 128 ≠ me / 128 ∨ (worker = true ∧ s.rd .grpManagerNode [] = s.rd .grpTopNode [])) then some true
  else if worker = true ∧ (s.rd .grpStandby0 [] = me ∨ s.rd .grpStandby1 [] = me) then some false
  else none

/-- HEARTBEAT at a manager or a standby (R250): the miss count restarts and the health summary is kept. A standby that
receives one takes the manager's role (R253). -/
def State.takeHeartbeat (s : State) (src risk : Nat) (health : List Nat) : State :=
  let s := match s.standbyFor src with | some top => s.takeOver top | none => s
  if s.ownMember src then
    let m := src % 128
    ({ (s.wr .mbrMissed [m] 0).wr .mbrRisk [m] risk with
      heard := insertRising m s.heard, memberHealth := Tab.put s.memberHealth m health }).noteGrisk
  else s

/-- HEARTBEAT (R250). -/
def execHeartbeat (h : GroupHeader) (risk suspect fenced mapped thermal state : Nat) (s : State) : Answer :=
  grouped s h 0x04 (fun s => s.takeHeartbeat h.src risk [suspect, fenced, mapped, thermal, state])

/-- MGR_HEARTBEAT (R253). -/
def execMgrHeartbeat (h : GroupHeader) (s : State) : Answer :=
  grouped s h 0x05 (fun s => if h.src = s.superior then { s with mgrHeard := true, mgrMissed := 0 } else s)

/-- A manager's heartbeat interval: MGR_HEARTBEAT to its members, the top manager's to the group managers too (R253); the
missed counts; and its own level of risk among its members' (R250). -/
def State.managerInterval (s : State) : State :=
  if !s.isManager then s
  else
    let own := s.rd .grpNode [] % 128
    let heard := s.heard
    let s := (s.wr .mbrRisk [own] (s.rd .intRisk [])).noteGrisk
    let s := if s.isTop then
        ((List.range 128).filter (fun g => g != s.rd .grpNode [] / 128 && s.rd .gtGmanager [g] != noNode)).foldl
          (fun s g => s.sendGroup (s.rd .gtGmanager [g]) 0x05 (s.rd .grpEpoch []) []) s
      else s
    (List.range 128).foldl (fun s m =>
      let st := s.rd .mbrMstate [m]
      if m = own ∨ st = 0 ∨ st = 4 then s
      else
        let s := s.sendGroup (s.nodeOfMember m) 0x05 (s.rd .grpEpoch []) []
        if heard.contains m ∨ st = 3 then s
        else
          let s := s.count .mbrMissed [m] 1
          if s.rd .grpMissLimit [] ≤ s.rd .mbrMissed [m] then s.memberGone m 4 else s) s

/-- The heartbeat interval (R250, R253). -/
def State.heartbeatInterval (s : State) : State :=
  if !s.flag .grpGroupEnable [] then s
  else
    let s := s.managerInterval
    let s := if s.superior = s.rd .grpNode [] then s
      else
        let t := ({ s with mgrMissed := if s.mgrHeard then 0 else s.mgrMissed + 1 } : State).heartbeatTo
        -- a group manager is no member of another manager's group until the top manager is missing
        if t.1 = s.rd .grpNode [] ∧ s.rd .grpRole [] ≠ 0 then t.2
        else t.2.sendGroup t.1 0x04 (s.rd .grpEpoch []) s.heartbeatBody
    { s with heard := [], mgrHeard := false }

/-- HEARTBEAT_TIMER (R250). -/
def execHeartbeatTimer (s : State) : Answer := powered s (fun s => s.heartbeatInterval.after)

/-- GROUP_REPORT at the top manager (R250). -/
def execGroupReport (h : GroupHeader) (node mstate risk : Nat) (s : State) : Answer :=
  grouped s h 0x06 (fun s =>
    if s.isTop then
      let g := h.src / 128
      ((s.wr .gtGrisk [g] risk).wr .gtGmanager [g] h.src).memberChange node mstate
    else s)

/-! Epochs (R251, R252). -/

/-- A group manager that is not the top manager passes EPOCH_PREPARE and EPOCH_LIST of the top manager on to its members
(R252 step 1). -/
def State.passOn (s : State) (src msg epoch : Nat) (content : List Byte) : State :=
  if s.rd .grpRole [] = 1 ∧ src = s.rd .grpTopNode [] then
    ((List.range 128).filter (fun m =>
      m != s.rd .grpNode [] % 128 && s.rd .mbrMstate [m] != 0 && s.rd .mbrMstate [m] != 4)).foldl
      (fun s m => s.sendGroup (s.nodeOfMember m) msg epoch content) s
  else s

/-- EPOCH_PREPARE (R252): ignored and counted for a number not above the committed EPOCH; a higher one than that in
preparation replaces it. Every number prepared is remembered (R251). -/
def execEpochPrepare (h : GroupHeader) (members fp chunkRule segments : Nat) (s : State) : Answer :=
  grouped s h 0x07 (fun s =>
    if h.epoch ≤ s.rd .grpEpoch [] then s.count .grpIgnored [] 1
    else if (s.prep.map (fun p => decide (h.epoch ≤ p.epoch))).getD false then s
    else
      let p : PrepSt :=
        { epoch := h.epoch, members := members, fp := fp, chunkRule := chunkRule, segments := segments, nodes := [] }
      ({ s with prep := some p, lastEpoch := max s.lastEpoch h.epoch }.wr .grpPrepared [] 0).passOn h.src 0x07 h.epoch
        (leBytes 4 members ++ leBytes 16 fp ++ leBytes 4 chunkRule ++ leBytes 4 segments))

/-- EPOCH_LIST (R252). -/
def execEpochList (h : GroupHeader) (first : Nat) (nodes : List Nat) (s : State) : Answer :=
  grouped s h 0x08 (fun s =>
    if h.epoch ≤ s.rd .grpEpoch [] then s.count .grpIgnored [] 1
    else
      match s.prep with
      | some p =>
        if p.epoch = h.epoch then
          let put := fun (t : Tab Nat) (q : Nat × Nat) => if first + q.2 < p.members then Tab.put t (first + q.2) q.1 else t
          ({ s with prep := some { p with nodes := nodes.zipIdx.foldl put p.nodes } }).passOn h.src 0x08 h.epoch
            (leBytes 4 first ++ leBytes 4 nodes.length ++ (nodes.map (leBytes 2)).flatten)
        else s
      | none => s)

/-- EPOCH_READY_SEND (R252): the whole list is there and the module is first in IDLE. -/
def execEpochReadySend (s : State) : Answer :=
  powered s (fun s =>
    match s.prep with
    | some p =>
      if s.flag .grpGroupEnable [] ∧ !s.flag .grpPrepared [] ∧ p.nodes.length = p.members ∧ s.rd .stState [] = 0 then
        (s.wr .grpPrepared [] 1).sendGroup (s.rd .grpTopNode []) 0x09 p.epoch []
      else s
    | none => s)

/-- EPOCH_READY at the top manager (R252): on the last one EPOCH_COMMIT goes to every member of the old and the new
membership. -/
def execEpochReady (h : GroupHeader) (s : State) : Answer :=
  grouped s h 0x09 (fun s =>
    match s.top with
    | some t =>
      if t.epoch ≠ h.epoch ∨ !s.isTop then s
      else
        let ready := insertRising h.src t.ready
        if t.wanted.all (fun a => ready.contains a) then
          let fp := leBytes 16 (orderFingerprint t.epoch t.list (s.rd .grpChunkRule []))
          (s.bothLists t.list).foldl (fun s a => s.sendGroup a 0x0A t.epoch fp) { s with top := none }
        else { s with top := some { t with ready := ready } }
    | none => s)

/-- What an epoch commit does to a shroud's partners (R322): a holder or a source that is no longer a member. -/
def State.partnersGone (s : State) : State :=
  let gone := fun (n : Nat) => n != noNode && !s.rankNodes.contains n
  let t := if gone (s.rd .shrHolderNode []) then s.holderLost else s
  if gone (s.rd .shrHeldSourceNode []) then t.retain else t

/-- The top manager's view of its groups (R254). -/
def State.groupTable254 (s : State) : State :=
  if !s.isTop then s
  else
    let s := s.wr .gtGmanager [s.rd .grpNode [] / 128] (s.rd .grpNode [])
    (List.range 128).foldl (fun s g => s.wr .gtGactive [g] (s.rankNodes.filter (fun a => a / 128 == g)).length) s

/-- A group manager sends its membership table to STANDBY0 and STANDBY1 (R253): for each entry that is not ABSENT its member
number, MSTATE, FEED_ID, MRANK, MODULE_ID and health. The spec gives the message no code and no layout: the code is a free
value, and this content the model's choice. -/
def State.sendTable (s : State) : State :=
  if !s.isManager then s
  else
    (([s.rd .grpStandby0 [], s.rd .grpStandby1 []] : List Nat).filter (fun a => a != noNode)).foldl (fun s a =>
      ((List.range 128).filter (fun m => s.rd .mbrMstate [m] != 0)).foldl (fun s m =>
        let f := s.freeVal 16
        f.2.sendGroup a f.1 (s.rd .grpEpoch []) (leBytes 1 m ++ leBytes 1 (s.rd .mbrMstate [m]) ++ leBytes 1 (s.rd .mbrFeedId [m]) ++
          leBytes 1 (s.rd .mbrRisk [m]) ++ leBytes 2 (s.rd .mbrMrank [m]) ++ leBytes 8 (Tab.get 0 s.memberIds m) ++
          ((Tab.get [] s.memberHealth m).map (leBytes 2)).flatten)) s) s

/-- EPOCH_COMMIT (R252): collectives of the old epoch end, the new epoch is installed, and managers assign shroud
partners. -/
def execEpochCommit (h : GroupHeader) (fp : Nat) (s : State) : Answer :=
  grouped s h 0x0A (fun s =>
    if h.epoch ≤ s.rd .grpEpoch [] then s.count .grpIgnored [] 1
    else
      match s.prep with
      | some p =>
        if p.epoch = h.epoch ∧ p.nodes.length = p.members then
          ((((s.staleColls h.epoch).installEpoch { p with fp := fp }).dropStale.partnersGone).groupTable254.sendPartners.sendTable).after
        else s
      | none => s)

/-- PREPARE_TIMEOUT (R252): members without a reply are LOST (R322 with it) and the change begins again; the manager of
another group learns it from the list that commits. -/
def State.prepareLate (s : State) : State :=
  match s.top with
  | some t =>
    if s.isTop ∧ t.deadline ≤ s.aoNow then
      let late := t.wanted.filter (fun a => !t.ready.contains a)
      let s := { s with top := none }
      let s := late.foldl (fun s a =>
        let s := if s.rd .shrHolderNode [] = a then s.holderLost else s
        let s := if s.rd .shrHeldSourceNode [] = a then s.retain else s
        if a / 128 = s.rd .grpNode [] / 128 then s.wr .mbrMstate [a % 128] 4 else s) s
      ({ s with sysMembers := s.sysMembers.filter (fun a => !late.contains a), top := none }).startEpoch
    else s
  | none => s

/-- PREPARE_TIMEOUT (R252). -/
def execPrepareTimeout (s : State) : Answer := powered s (fun s => s.prepareLate)

/-- TAKEOVER (R253): the new manager of this group, and the new top manager when TOP_STANDBY announces itself to another group
or replaces a manager that was the top manager. -/
def execTakeover (h : GroupHeader) (node : Nat) (s : State) : Answer :=
  grouped s h 0x0B (fun s =>
    let top := s.rd .grpTopStandby [] == node && s.rd .grpTopNode [] != node &&
      (node / 128 != s.rd .grpNode [] / 128 || s.rd .grpTopNode [] == s.rd .grpManagerNode [])
    let s := if node / 128 = s.rd .grpNode [] / 128 then s.wr .grpManagerNode [] node else s
    let s := { s with mgrMissed := 0, mgrHeard := true }
    if top then s.wr .grpTopNode [] node else s)

/-- VERDICT (R154): kept until the exchange of this member needs it. -/
def execVerdict (h : GroupHeader) (verdict reasons budget attempt : Nat) (s : State) : Answer :=
  grouped s h 0x0C (fun s =>
    match s.rankOf h.src with
    | some k =>
      if h.epoch = s.rd .grpEpoch [] then
        let m : VerdictMsg := { rank := k, verdict := verdict % 4, reasons := reasons, budget := budget, attempt := attempt }
        ({ s with verdicts := s.verdicts ++ [m] }).agreeVerdict.settle
      else s
    | none => s)

/-- PARTNER (R306, R307, R322). -/
def execPartner (h : GroupHeader) (holder source : Nat) (forced : Bool) (refuse sourceId : Nat) (s : State) : Answer :=
  grouped s h 0x0D (fun s => s.takePartner holder source forced refuse sourceId)

end Sys2Proof.Machine
end

