-- ==== Sys2Proof/Machine/HostAccess.lean ====
section
/-! DEFINITION. The meanings of BAR0, BAR2 and configuration accesses and of the host link's events (R13, R230,
R325–R328, R388, R421, R422). -/

namespace Sys2Proof.Machine

/-- REGISTER_WRITE (R13, R327, R429). -/
def execRegisterWrite (offset bytes value : Nat) (s : State) : Answer :=
  hosted s (fun s => (s.bar0Write offset bytes value).thaw s)

/-- A BAR0 read (R14, R327, R431): its data bytes count at the host port; Unsupported Request for an illegal size or alignment,
and in D3hot. -/
def State.readBar0 (s : State) (offset bytes : Nat) : State :=
  match if s.cfg.d3hot then none else s.bar0Read offset bytes with
  | some v => (s.tlpOut bytes).emit (.readData (leBytes bytes v))
  | none => s.emit .readUR

/-- BAR0_BAD_ACCESS (R327): a read of an illegal size or alignment completes with Unsupported Request; such a write is
discarded. The table has no row for a legal read: it is this command with a legal size and alignment (log 10). -/
def execBar0BadAccess (write : Bool) (offset bytes : Nat) (s : State) : Answer :=
  linkedReq s (fun s => if write then s else s.readBar0 offset bytes)

/-- A BAR2 read and what it meets in the memory path (R219, R228); Unsupported Request during a reset and in D3hot
(R431). -/
def State.bar2ReadMeets (s : State) (offset bytes upset : Nat) : State :=
  if !s.hostOk then s.emit .readUR
  else if !s.bar2Inside offset bytes then s
  else
    let a := s.rd .devBar2Base [] + offset
    let s := if s.inRegion a bytes then s.upset (a / 512 * 512) upset else s
    s.bar2Read offset bytes

/-- BAR2_READ (R328). -/
def execBar2Read (offset bytes upset : Nat) (s : State) : Answer := linkedReq s (fun s => s.bar2ReadMeets offset bytes upset)

/-- BAR2_WRITE (R328). -/
def execBar2Write (offset : Nat) (data : List Byte) (s : State) : Answer :=
  hosted s (fun s => if s.bar2Inside offset data.length then s.bar2Write offset data else s)

/-- BAR2_HOLD_EXPIRY (R230). -/
def execBar2HoldExpiry (id : Nat) (s : State) : Answer := powered s (fun s => s.holdExpiry id)

/-- ATOMIC_OP_REQUEST (R328). -/
def execAtomicOpRequest (s : State) : Answer := linkedReq s (fun s => s.emit .readUR)

/-- CONFIG_ACCESS (R326). -/
def execConfigAccess (request : ConfigReq) (s : State) : Answer := linkedReq s (fun s => s.configure request)

/-- PCIE_LINK_UP (R422). -/
def execPcieLinkUp (s : State) : Answer := powered s (fun s => s.linkUp)

/-- PERST_DEASSERT (R421): ignored before PWR_GOOD. -/
def execPerstDeassert (s : State) : Answer := powered s (fun s => if s.pwrGood then { s with perst := false } else s)

/-- REFCLK_LOSS (R422). -/
def execRefclkLoss (s : State) : Answer := powered s (fun s => s.refclkLost)

/-- STARTUP_TIMEOUT (R390). -/
def execStartupTimeout (s : State) : Answer := powered s (fun s => s.startupTimeout)

end Sys2Proof.Machine
end

