-- ==== Sys2Proof/Machine/Management.lean ====
section
/-! DEFINITION. The meanings of the management port's messages, commands and timers, of the sideband, and of the writes
to the management block (R396–R408). -/

namespace Sys2Proof.Machine

/-- A management command (R398, R399, R401): its TYPE, its body as sent, and what it does once accepted. -/
def mgmtCommand (s : State) (h : MgmtHeader) (type : Nat) (body : List Byte) (f : State → State) : Answer :=
  managed s (fun s => s.command h type body f)

/-- ACK of a report (R400). -/
def execAck (h : MgmtHeader) (s : State) : Answer :=
  managed s (fun s =>
    if !s.flag .mgmtPortUp [] then s
    else if s.messageOk h 0x80 [] then s.ack h.seq else s.count .mgmtCmdsRejected [] 1)

/-- REPORT_RESEND (R400). -/
def execReportResend (s : State) : Answer := managed s (fun s => s.resend)

/-- SUMMARY (R400). -/
def execSummary (s : State) : Answer := managed s (fun s => s.summary)

/-- STATUS_QUERY (R401). -/
def execStatusQuery (h : MgmtHeader) (s : State) : Answer := mgmtCommand s h 0x40 [] (fun s => s.statusQuery h.seq)

/-- TEST_NOW (R401). -/
def execTestNow (h : MgmtHeader) (unit : Nat) (s : State) : Answer :=
  mgmtCommand s h 0x41 (leBytes 2 unit) (fun s => s.unitTest (.command h.seq) unit)

/-- FENCE (R401, R402). -/
def execFence (h : MgmtHeader) (unit : Nat) (s : State) : Answer :=
  mgmtCommand s h 0x42 (leBytes 2 unit) (fun s => s.unitFence (.command h.seq) unit 3)

/-- UNFENCE (R401). -/
def execUnfence (h : MgmtHeader) (unit : Nat) (s : State) : Answer :=
  mgmtCommand s h 0x43 (leBytes 2 unit) (fun s => s.unitUnfence (.command h.seq) unit)

/-- RESET (R392, R401). -/
def execReset (h : MgmtHeader) (found : BootReport) (s : State) : Answer :=
  mgmtCommand s h 0x44 [] (fun s => s.mgmtResetCommand h.seq found)

/-- The body of ROLE_SET. -/
def roleBody (role node manager top standby0 standby1 topStandby : Nat) : List Byte :=
  leBytes 1 role ++ zeros 1 ++ ([node, manager, top, standby0, standby1, topStandby].map (leBytes 2)).flatten

/-- MGMT_ROLE_SET (R401). -/
def execMgmtRoleSet (h : MgmtHeader) (role node manager top standby0 standby1 topStandby : Nat) (s : State) : Answer :=
  mgmtCommand s h 0x45 (roleBody role node manager top standby0 standby1 topStandby) (fun s =>
    s.roleSet (.command h.seq) role
      [(.grpNode, node), (.grpManagerNode, manager), (.grpTopNode, top), (.grpStandby0, standby0),
       (.grpStandby1, standby1), (.grpTopStandby, topStandby)])

/-- GROUP (R401). -/
def execGroup (h : MgmtHeader) (action : Nat) (s : State) : Answer :=
  mgmtCommand s h 0x46 (leBytes 1 action) (fun s => s.groupCommand h.seq action)

/-- MAPOUT (R401). -/
def execMapout (h : MgmtHeader) (channel : Nat) (s : State) : Answer :=
  mgmtCommand s h 0x47 (leBytes 2 channel) (fun s => s.mapoutCommand h.seq channel)

/-- MAPOUT_CLEAR (R401). -/
def execMapoutClear (h : MgmtHeader) (channel : Nat) (s : State) : Answer :=
  mgmtCommand s h 0x48 (leBytes 2 channel) (fun s => s.mapoutClear h.seq channel)

/-- SVN_RAISE (R401). -/
def execSvnRaise (h : MgmtHeader) (svn : Nat) (s : State) : Answer :=
  mgmtCommand s h 0x49 (leBytes 4 svn) (fun s => s.svnRaise h.seq svn)

/-- KEY_SET (R401). -/
def execKeySet (h : MgmtHeader) (key : List Byte) (s : State) : Answer :=
  mgmtCommand s h 0x4A (slice key 0 32) (fun s => s.keySet h.seq key)

/-- RECOVERY (R403). -/
def execRecovery (h : MgmtHeader) (offset : Nat) (data : List Byte) (s : State) : Answer :=
  mgmtCommand s h 0x4B (leBytes 4 offset ++ zeros 4 ++ data) (fun s => s.recover h.seq offset data)

/-- NEIGHBOR_SOLICITATION (R396). -/
def execNeighborSolicitation (target source : Nat) (s : State) : Answer := managed s (fun s => s.solicited target source)

/-- ECHO_REQUEST (R396). -/
def execEchoRequest (dest source : Nat) (data : List Byte) (s : State) : Answer :=
  managed s (fun s => s.echoed dest source data)

/-- KEY_WRITE of word w of KEY (R408). -/
def execKeyWrite (word value : Nat) (s : State) : Answer :=
  hosted s (fun s => if word < 8 then s.bar0Write (0xA00040 + 4 * word) 4 value else s)

/-- The register field of a MGMT_CONFIG_WRITE. -/
def mgmtReg : MgmtField → Reg
  | .deviceAddr => .mgmtDeviceAddr
  | .collectorAddr => .mgmtCollectorAddr
  | .collectorPort => .mgmtCollectorPort
  | .mgmtPort => .mgmtMgmtPort

/-- MGMT_CONFIG_WRITE (R397). -/
def execMgmtConfigWrite (field : MgmtField) (value : Nat) (s : State) : Answer :=
  hosted s (fun s => s.hostField (mgmtReg field) [] value)

/-- MCTP_MESSAGE (R404). -/
def execMctpMessage (request : McRequest) (s : State) : Answer := managed s (fun s => s.mcRequest request)

/-- MGMT_PORT_LINK_CHANGE (R396). -/
def execMgmtPortLinkChange (up : Bool) (s : State) : Answer := managed s (fun s => s.wr .mgmtPortUp [] (b2n up))

/-- JOIN_REPLY_TIMEOUT (R351). -/
def execJoinReplyTimeout (s : State) : Answer := powered s (fun s => s.joinTimeout)

end Sys2Proof.Machine
end

