-- ==== Sys2Proof/Machine/Memory.lean ====
section
/-! DEFINITION. The meanings of the memory events: mapping out, the lost-bolt table, arbiters, scrub and stack temperature
(R220–R234). -/

namespace Sys2Proof.Machine

/-- MAPOUT_REQUEST (R222). -/
def execMapoutRequest (channel : Nat) (s : State) : Answer := hosted s (fun s => s.hostField .memMapoutRequest [] channel)

/-- LOST_CLEAR (R228). -/
def execLostClear (slice : Nat) (s : State) : Answer := hosted s (fun s => s.hostField .llsLostClear [slice] 1)

/-- ARBITER_FREEZE (R233). -/
def execArbiterFreeze (arbiter : Nat) (on : Bool) (s : State) : Answer :=
  hosted s (fun s => (s.hostField .arbFreeze [arbiter] (b2n on)).thaw s)

/-- ARBITER_DRAINED (R233). -/
def execArbiterDrained (arbiter : Nat) (s : State) : Answer :=
  powered s (fun s => if Reg.arbDrained.has [arbiter] then s.drained arbiter else s)

/-- SCRUB_ACCESS (R220): patrol scrub reaches a bolt of an HBM channel. -/
def execScrubAccess (channel bolt bursts : Nat) (uncorrectable : Bool) (s : State) : Answer :=
  powered s (fun s => s.scrubReaches channel bolt bursts uncorrectable)

/-- SCRUB_PERIOD_END (R220). -/
def execScrubPeriodEnd (late : Bool) (s : State) : Answer := powered s (fun s => s.scrubPeriodEnd late)

/-- STACK_TEMP_SAMPLE (R229, R381): what a stack at CRIT held goes on once it leaves CRIT (R230). -/
def execStackTempSample (stack temp : Nat) (s : State) : Answer :=
  powered s (fun s => if stack < 20 then ((s.stackReading stack (temp % 256)).releaseHeld).after else s)

end Sys2Proof.Machine
end

