-- ==== Sys2Proof/Machine/Packets.lean ====
section
/-! DEFINITION. The meanings of the packet commands (R351): each reads one packet of its opcode from the next published
slots of its ring, and the packet runs as soon as its waits and the rules of its command allow. -/

namespace Sys2Proof.Machine

/-- NOP (R351). -/
def execNop (h : PktHdr) (s : State) : Answer := .next (s.packetIn h .nop)

/-- REG_WRITE (R351). -/
def execRegWrite (h : PktHdr) (offset value : Nat) (s : State) : Answer :=
  .next (s.packetIn h (.regWrite offset value))

/-- RING_RESET (R336). -/
def execRingReset (h : PktHdr) (ring : Nat) (s : State) : Answer := .next (s.packetIn h (.ringReset ring))

/-- DEVICE_SOFT_RESET (R392). -/
def execDeviceSoftReset (h : PktHdr) (s : State) : Answer := .next (s.packetIn h .deviceSoftReset)

/-- COPY (R351). -/
def execCopy (h : PktHdr) (dst src bytes flags : Nat) (s : State) : Answer :=
  .next (s.packetIn h (.copy dst src bytes flags))

/-- FILL (R351). -/
def execFill (h : PktHdr) (dst bytes pattern : Nat) (s : State) : Answer :=
  .next (s.packetIn h (.fill dst bytes pattern))

/-- REGION_REBUILD (R223). -/
def execRegionRebuild (h : PktHdr) (s : State) : Answer := .next (s.packetIn h .regionRebuild)

/-- LLS_PARTITION (R227). -/
def execLlsPartition (h : PktHdr) (slice count : Nat) (s : State) : Answer :=
  .next (s.packetIn h (.llsPartition slice count))

/-- LLS_RELEASE (R227). -/
def execLlsRelease (h : PktHdr) (slice first : Nat) (s : State) : Answer :=
  .next (s.packetIn h (.llsRelease slice first))

/-- DIGEST (R209). -/
def execDigest (h : PktHdr) (start bytes dest : Nat) (s : State) : Answer :=
  .next (s.packetIn h (.digest start bytes dest))

/-- PRODUCT (R352). -/
def execProduct (h : PktHdr) (out streamColl shape : Nat) (segs : List SegRef) (s : State) : Answer :=
  .next (s.packetIn h (.product out streamColl shape segs))

/-- MATVEC (R203). -/
def execMatvec (h : PktHdr) (out : Nat) (parts : List (Nat × Nat)) (s : State) : Answer :=
  .next (s.packetIn h (.matvec out parts))

/-- SOFTMAX (R353). -/
def execSoftmax (h : PktHdr) (inp out : Nat) (s : State) : Answer := .next (s.packetIn h (.softmax inp out))

/-- RMSNORM (R353). -/
def execRmsnorm (h : PktHdr) (inp out gain eps : Nat) (s : State) : Answer :=
  .next (s.packetIn h (.rmsnorm inp out gain eps))

/-- LAYERNORM (R353). -/
def execLayernorm (h : PktHdr) (inp out gain bias eps : Nat) (s : State) : Answer :=
  .next (s.packetIn h (.layernorm inp out gain bias eps))

/-- XENT (R353). -/
def execXent (h : PktHdr) (inp target loss mean grad : Nat) (s : State) : Answer :=
  .next (s.packetIn h (.xent inp target loss mean grad))

/-- VPROG (R353). -/
def execVprog (h : PktHdr) (program const out : Nat) (ins : List Nat) (s : State) : Answer :=
  .next (s.packetIn h (.vprog program const out ins))

/-- PARAM_GROUPS_LOAD (R185). -/
def execParamGroupsLoad (h : PktHdr) (s : State) : Answer := .next (s.packetIn h .paramGroupsLoad)

/-- VARIANT_BIND (R201). -/
def execVariantBind (h : PktHdr) (variant : Nat) (s : State) : Answer := .next (s.packetIn h (.variantBind variant))

/-- VARIANT_RELEASE (R201). -/
def execVariantRelease (h : PktHdr) (slot : Nat) (s : State) : Answer := .next (s.packetIn h (.variantRelease slot))

/-- COLL_LAUNCH (R269). -/
def execCollLaunch (h : PktHdr) (desc : Nat) (s : State) : Answer := .next (s.packetIn h (.collLaunch desc))

/-- ROLE_SET (R248). -/
def execRoleSet (h : PktHdr) (role node manager top : Nat) (s : State) : Answer :=
  .next (s.packetIn h (.roleSet role node manager top))

/-- GROUP_JOIN (R248). -/
def execGroupJoin (h : PktHdr) (s : State) : Answer := .next (s.packetIn h .groupJoin)

/-- GROUP_LEAVE (R249). -/
def execGroupLeave (h : PktHdr) (s : State) : Answer := .next (s.packetIn h .groupLeave)

/-- STEP_BEGIN (R149). -/
def execStepBegin (h : PktHdr) (step expectEpoch : Nat) (group setStep : Bool) (s : State) : Answer :=
  .next (s.packetIn h (.stepBegin step expectEpoch group setStep))

/-- STEP_END (R152). -/
def execStepEnd (h : PktHdr) (lossAddr : Nat) (digest : Bool) (s : State) : Answer :=
  .next (s.packetIn h (.stepEnd lossAddr digest))

/-- BETWEEN_JOB_TEST (R295). -/
def execBetweenJobTest (h : PktHdr) (mask : Nat) (s : State) : Answer := .next (s.packetIn h (.betweenJobTest mask))

/-- UNIT_TEST (R299). -/
def execUnitTest (h : PktHdr) (unit : Nat) (s : State) : Answer := .next (s.packetIn h (.unitTest unit))

/-- UNIT_FENCE (R299). -/
def execUnitFence (h : PktHdr) (unit : Nat) (s : State) : Answer := .next (s.packetIn h (.unitFence unit))

/-- UNIT_UNFENCE (R299). -/
def execUnitUnfence (h : PktHdr) (unit : Nat) (s : State) : Answer := .next (s.packetIn h (.unitUnfence unit))

/-- SHROUD_COPY (R315). -/
def execShroudCopy (h : PktHdr) (s : State) : Answer := .next (s.packetIn h .shroudCopy)

/-- RESTORE (R320). -/
def execRestore (h : PktHdr) (sourceId expectStep manifestDest : Nat) (older override : Bool) (holder : Nat) (s : State) : Answer :=
  .next (s.packetIn h (.restore sourceId expectStep manifestDest older override holder))

/-- SHROUD_RELEASE (R322). -/
def execShroudRelease (h : PktHdr) (s : State) : Answer := .next (s.packetIn h .shroudRelease)

/-- COUNTER_SNAPSHOT (R370). -/
def execCounterSnapshot (h : PktHdr) (dest : Nat) (s : State) : Answer := .next (s.packetIn h (.counterSnapshot dest))

/-- SAMPLE_CONTROL (R366). -/
def execSampleControl (h : PktHdr) (enable shift : Nat) (s : State) : Answer :=
  .next (s.packetIn h (.sampleControl enable shift))

/-- ATTEST (R407). -/
def execAttest (h : PktHdr) (nonce : List Byte) (dest : Nat) (s : State) : Answer :=
  .next (s.packetIn h (.attest nonce dest))

/-- MEASUREMENT_LOG (R406). -/
def execMeasurementLog (h : PktHdr) (dest bytes : Nat) (s : State) : Answer :=
  .next (s.packetIn h (.measurementLog dest bytes))

/-- FIRMWARE_STAGE (R385). -/
def execFirmwareStage (h : PktHdr) (src bytes : Nat) (s : State) : Answer :=
  .next (s.packetIn h (.firmwareStage src bytes))

end Sys2Proof.Machine
end

