-- ==== Sys2Proof/Machine/Power.lean ====
section
/-! DEFINITION. The meanings of the supply, temperature, gating and reset events (R374–R381, R392, R431). -/

namespace Sys2Proof.Machine

/-- DIE_TEMP_SAMPLE (R380, R381). -/
def execDieTempSample (channel temp : Nat) (s : State) : Answer :=
  powered s (fun s => if channel < 4 then s.dieTemp channel (temp % 256) else s)

/-- POWER_SAMPLE (R377). -/
def execPowerSample (mv watts : Nat) (domains : List (Nat × Nat)) (s : State) : Answer :=
  powered s (fun s => s.powerSample mv watts domains)

/-- DROOP_EVENT (R378). -/
def execDroopEvent (domain : Nat) (s : State) : Answer :=
  powered s (fun s => if domain < 80 ∨ domain = 255 then s.droop domain else s)

/-- DROOP_END (R378). -/
def execDroopEnd (domain : Nat) (s : State) : Answer := powered s (fun s => s.droopEnd domain)

/-- BROWN_OUT (R379). -/
def execBrownOut (s : State) : Answer := managed s (fun s => s.brownOut)

/-- QUAD_IDLE_GATE (R374). -/
def execQuadIdleGate (quad : Nat) (s : State) : Answer := powered s (fun s => s.gateQuad quad)

/-- STACK_IDLE_GATE (R374). -/
def execStackIdleGate (stack : Nat) (s : State) : Answer := powered s (fun s => s.gateStack stack)

/-- DOMAIN_WAKE_COMPLETE (R375). -/
def execDomainWakeComplete (domain : Nat) (s : State) : Answer := powered s (fun s => (s.wakeDone domain).after)

/-- COLD_RESET (R392). -/
def execColdReset (found : BootReport) (s : State) : Answer := .next (s.coldReset found)

/-- WARM_RESET (R392): PERST# becomes asserted; a tripped module ignores it (R420). -/
def execWarmReset (found : BootReport) (s : State) : Answer :=
  .next (if s.perst then s else if s.power = 1 then s.warmReset found else { s with perst := true })

/-- FUNCTION_LEVEL_RESET (R392). -/
def execFunctionLevelReset (s : State) : Answer := linkedReq s (fun s => s.flr)

/-- RESET_COMPLETE (R431). -/
def execResetComplete (s : State) : Answer := powered s (fun s => s.resetComplete)

end Sys2Proof.Machine
end

