-- ==== Sys2Proof/Machine/Shroud.lean ====
section
/-! DEFINITION. The meanings of shroud messages and timers and of the risk estimate (R309–R323). -/

namespace Sys2Proof.Machine

/-- A shroud message is taken while it is live (R246). -/
def shrouded (s : State) (h : ShroudHeader) (msg : Nat) (f : State → State) : Answer :=
  powered s (fun s => if s.shroudLive h.src msg then (f (s.consume 4 h.src msg)).after else s)

/-- The copy that a message of a source belongs to, by its slot and its SOURCE_ID: its signature also comes after COMPLETE
or INCOMPLETE has answered it (R313). -/
def State.holdOf (s : State) (h : ShroudHeader) (signature : Bool) : Option HoldSt :=
  (s.holdFor h.src h.slot).filter (fun x => x.source == h.sourceId && (signature || !x.ended))

/-- The restore that a message of the holder belongs to. -/
def State.restoreOf (s : State) (h : ShroudHeader) : Option RestoreSt :=
  (s.restoreFrom h.src).filter (fun x => x.source == h.sourceId)

/-- HELLO (R309). -/
def execHello (h : ShroudHeader) (bolts : List Nat) (step : Nat) (s : State) : Answer :=
  shrouded s h 0x01 (fun s => s.takeHello h.src h.sourceId step bolts)

/-- ACCEPT (R312). -/
def execAccept (h : ShroudHeader) (result : Nat) (s : State) : Answer :=
  shrouded s h 0x02 (fun s => s.takeAccept h.src result h.slot)

/-- SHROUD_DATA (R313, R320). -/
def execShroudData (h : ShroudHeader) (content : List Byte) (s : State) : Answer :=
  shrouded s h 0x03 (fun s =>
    match s.holdOf h false, s.restoreOf h with
    | some x, _ => s.holdData x h.stack h.part h.bolt content
    | none, some r => s.restoreData r h.stack h.part h.bolt content
    | none, none => s)

/-- SHARDS (R311). -/
def execShards (h : ShroudHeader) (content : List Byte) (s : State) : Answer :=
  shrouded s h 0x04 (fun s =>
    match s.holdOf h false with
    | some x => s.holdShards x h.stack h.part content
    | none => s)

/-- A part of the manifest or of the signature at a restoring module (R320). -/
def State.restorePart (s : State) (r : RestoreSt) (signature : Bool) (part : Nat) (content : List Byte) : State :=
  let r := { r with heard := s.aoNow }
  let r := if signature then { r with signature := Tab.put r.signature part (slice content 0 256) }
    else { r with manifest := Tab.put r.manifest (part % 4) (slice content 0 256) }
  ({ s with restore := some r }).restoreGo

/-- MANIFEST (R313, R320). -/
def execManifest (h : ShroudHeader) (content : List Byte) (s : State) : Answer :=
  shrouded s h 0x05 (fun s =>
    match s.holdOf h false, s.restoreOf h with
    | some x, _ => s.holdManifest x h.part content
    | none, some r => s.restorePart r false h.part content
    | none, none => s)

/-- SIGNATURE (R313, R320). -/
def execSignature (h : ShroudHeader) (content : List Byte) (s : State) : Answer :=
  shrouded s h 0x06 (fun s =>
    match s.holdOf h true, s.restoreOf h with
    | some x, _ => s.holdSignature x h.part content
    | none, some r => s.restorePart r true h.part content
    | none, none => s)

/-- COMPLETE (R313). -/
def execComplete (h : ShroudHeader) (s : State) : Answer := shrouded s h 0x07 (fun s => s.takeComplete h.src)

/-- INCOMPLETE (R312, R314). -/
def execIncomplete (h : ShroudHeader) (s : State) : Answer := shrouded s h 0x08 (fun s => s.takeIncomplete h.src)

/-- FETCH (R321). -/
def execFetch (h : ShroudHeader) (older : Bool) (s : State) : Answer :=
  shrouded s h 0x09 (fun s => s.takeFetch h.src h.sourceId older)

/-- FETCH_REPLY (R320). -/
def execFetchReply (h : ShroudHeader) (content : List Byte) (s : State) : Answer :=
  shrouded s h 0x0A (fun s => s.takeFetchReply h.src h.stack h.part content)

/-- LOST (R322). -/
def execLost (h : ShroudHeader) (s : State) : Answer := shrouded s h 0x0B (fun s => s.takeLost h.src)

/-- SHROUD_TIMEOUT (R312, R320). -/
def execShroudTimeout (s : State) : Answer := powered s (fun s => s.shroudTimeout.after)

/-- SIGNATURE_COMPLETE (R311). -/
def execSignatureComplete (s : State) : Answer := powered s (fun s => s.signatureDone)

/-- RISK_RECOMPUTE (R316). -/
def execRiskRecompute (s : State) : Answer := managed s (fun s => s.riskRecompute)

end Sys2Proof.Machine
end

