-- ==== Sys2Proof/Machine/Steps.lean ====
section
/-! DEFINITION. The meanings of the step events and of the writes to the step-control block (R142, R146–R199, R283). -/

namespace Sys2Proof.Machine

/-- STEP_CLOSE (R152). -/
def execStepClose (s : State) : Answer := powered s (fun s => s.stepClose)

/-- REEF_REWRITE_COMPLETE (R199). -/
def execReefRewriteComplete (s : State) : Answer := powered s (fun s => s.rewriteDone)

/-- COMMIT_GROUP_COMPLETE (R168). -/
def execCommitGroupComplete (s : State) : Answer := powered s (fun s => s.groupDone)

/-- UPDATE_BATCH_COMPLETE (R283). -/
def execUpdateBatchComplete (shard batch : Nat) (check : Check) (s : State) : Answer :=
  powered s (fun s => s.updateBatch shard batch check)

/-- The verdict exchange is not complete at its deadline (R154): FAULT with COLL_TIMEOUT, once no stack that the close writes
to is at CRIT (R177, R230). -/
def State.verdictTimedOut (s : State) : State :=
  match s.step with
  | some t =>
    let others := (List.range (s.rd .grpMembers [])).filter (fun r => r != s.rd .grpRank [])
    if s.rd .stState [] = 2 ∧ t.verdict.isSome ∧ t.deadline ≤ s.aoNow ∧ firstPeers s.verdicts others = none ∧ s.closeHeld = false
    then
      let used := others.filterMap (fun r => s.verdicts.find? (fun m => m.rank == r))
      let s := { s with verdicts := used.foldl (fun (l : List VerdictMsg) m => l.erase m) s.verdicts }
      (s.applyVerdict 3 t.reasons (s.outlierPlan t) .collTimeout).settle
    else s
  | none => s

/-- VERDICT_TIMEOUT (R154). -/
def execVerdictTimeout (s : State) : Answer := powered s (fun s => s.verdictTimedOut)

/-- REEF_SET of word w (R142). -/
def execReefSet (word bits : Nat) (s : State) : Answer := hosted s (fun s => s.hostField .olReefSet [word] bits)

/-- REEF_CLEAR of word w (R142). -/
def execReefClear (word bits : Nat) (s : State) : Answer := hosted s (fun s => s.hostField .olReefClear [word] bits)

/-- DEFAULTS (R180). -/
def execDefaults (s : State) : Answer := hosted s (fun s => s.hostField .stDefaults [] 1)

/-- CLEAR_BROKEN (R173). -/
def execClearBroken (s : State) : Answer := hosted s (fun s => s.hostField .stClearBroken [] 1)

/-- GS_SET (R167). -/
def execGsSet (value : Nat) (s : State) : Answer := hosted s (fun s => s.hostField .stGsSet [] value)

/-- BASELINE_SET (R180). -/
def execBaselineSet (monitor value : Nat) (s : State) : Answer :=
  hosted s (fun s => s.hostField .monBaselineSet [monitor] value)

/-- STATE_BASE_WRITE (R146). -/
def execStateBaseWrite (value : Nat) (s : State) : Answer := hosted s (fun s => s.hostField .stStateBase [] value)

/-- The register field of a SCALE_HISTORY_WRITE. -/
def historyReg : HistoryField → Reg
  | .tag => .shTag
  | .enable => .shEnable
  | .lenM1 => .shLenM1
  | .target => .shTarget

/-- SCALE_HISTORY_WRITE (R146). -/
def execScaleHistoryWrite (field : HistoryField) (entry value : Nat) (s : State) : Answer :=
  hosted s (fun s => s.hostField (historyReg field) [entry] value)

end Sys2Proof.Machine
end

