-- ==== Sys2Proof/Machine/Units.lean ====
section
/-! DEFINITION. The meanings of descriptor events, checks, preemption and unit tests (R22, R90, R104–R110, R284–R296). -/

namespace Sys2Proof.Machine

/-- DESCRIPTOR_START on a cluster or a stack engine (R22). -/
def execDescriptorStart (engine : Bool) (index : Nat) (s : State) : Answer :=
  powered s (fun s => s.startDesc (if engine then .engine index else .cluster index))

/-- TILE_PASS_LATCH (R110). -/
def execTilePassLatch (id : Nat) (check : Check) (s : State) : Answer := powered s (fun s => s.latchDesc id check)

/-- MAJORITY_OUTCOME (R286). -/
def execMajorityOutcome (id : Nat) (e0e2 e1e2 : Bool) (c1 c2 : Check) (s : State) : Answer :=
  powered s (fun s => s.majorityDone id e0e2 e1e2 c1 c2)

/-- SHADOW_COMPARE (R284). -/
def execShadowCompare (id : Nat) (seen : ShadowSeen) (s : State) : Answer :=
  powered s (fun s => (s.shadowDone id seen.agree seen.check).after)

/-- DESCRIPTOR_END (R90). -/
def execDescriptorEnd (id : Nat) (s : State) : Answer := powered s (fun s => s.endDesc id)

/-- PREEMPT (R104): at a common block or group, or at an outlier position. -/
def execPreempt (cluster : Nat) (place : Progress) (s : State) : Answer := powered s (fun s => s.preempt cluster place)

/-- CONTEXT_RESUME (R106). -/
def execContextResume (id : Nat) (s : State) : Answer := powered s (fun s => s.resume id)

/-- The next quad of the rotation that is not FENCED, from quad q on, the first after the last (R292). -/
def State.nextQuad (s : State) (q : Nat) : Option Nat :=
  ((List.range 48).map (fun i => (q + i) % 48)).find? (fun x => !s.fenced x)

/-- The scratchpad unit of slice c that its next test takes, those held as scratchpad passed over, and how many were
(R292). -/
def State.nextLlsUnit (s : State) (c : Nat) : Nat × Nat :=
  let from' := Tab.get 0 s.llsTest c
  match ((List.range 16).map (fun i => (i, (from' + i) % 16))).find? (fun x => !s.unitHeld c x.2) with
  | some x => (x.2, x.1)
  | none => (from', 16)

/-- An in-service test falls due by the cadence of R292, while TEST_ENABLE is 1 and the unit is not FENCED: the next quad of
the rotation every TEST_INTERVAL_S; a SUSPECT quad every SUSPECT_INTERVAL_S; UNCORE c every 4 h, offset by c hours; LLS c
every 15 min, its free scratchpad units in turn. -/
def State.testFallsDue (s : State) (u : Nat) : State :=
  let now := s.seconds
  let last := fun (k : Nat) => Tab.get 0 s.testClock k
  let mark := fun (k v : Nat) (s : State) => ({ s with testClock := Tab.put s.testClock k v } : State)
  if 56 ≤ u ∨ s.flag .intTestEnable [] = false ∨ s.fenced u then s
  else if u < 48 then
    if s.nextQuad (last 97) = some u ∧ last 96 + s.rd .intTestIntervalS [] ≤ now then
      ((mark 96 now s) |> mark 97 (u + 1)).queueTest u .none false
    else if s.rd .unitHstate [u] = 1 ∧ last u + s.rd .intSuspectIntervalS [] ≤ now then (mark u now s).queueTest u .none false
    else s
  else if u < 52 then
    let n := (now - 3600 * (u - 48)) / 14400
    if last u < n then (mark u n s).queueTest u .none false else s
  else if last u < now / 900 then
    let x := s.nextLlsUnit (u - 52)
    let s := (mark u (now / 900) s).count .intSkippedWindows [] x.2
    ({ s with llsTest := Tab.put s.llsTest (u - 52) ((x.1 + 1) % 16) }).queueTest u .none false
  else s

/-- TEST_DUE (R292). -/
def execTestDue (unit : Nat) (s : State) : Answer := powered s (fun s => s.testFallsDue unit)

/-- TEST_DEFER_EXPIRY (R294): the clusters not yet parked are preempted at the given places. -/
def execTestDeferExpiry (unit : Nat) (places : List Progress) (s : State) : Answer :=
  powered s (fun s => s.deferExpiry unit places)

/-- TEST_SLOT_START (R294). -/
def execTestSlotStart (unit : Nat) (s : State) : Answer := powered s (fun s => s.slotStart unit)

/-- TEST_SLOT_END (R296). -/
def execTestSlotEnd (unit : Nat) (found : SlotFound) (kernel skipped : Nat) (s : State) : Answer :=
  powered s (fun s => (s.slotEnd unit found.result kernel skipped found.channels).after)

/-- BJ_OVERDUE_CHECK (R293). -/
def execBjOverdueCheck (s : State) : Answer := powered s (fun s => s.overdueCheck)

/-- CAPTURE_CLEAR (R90). -/
def execCaptureClear (channel cluster flag : Nat) (s : State) : Answer :=
  hosted s (fun s => s.hostField .capValid [channel, cluster, flag] 1)

/-- LAST_FAULT_CLEAR (R211). -/
def execLastFaultClear (channel engine : Nat) (s : State) : Answer :=
  hosted s (fun s => s.hostField .engValid [channel, engine] 1)

end Sys2Proof.Machine
end

