-- ==== Sys2Proof/Machine/Dispatch.lean ====
section
/-! DEFINITION. The dispatch of commands to their meanings: one arm for each constructor of Instr. -/

namespace Sys2Proof.Machine

def exec (i : Instr) (s : State) : Host.Outcome State Fault Refusal :=
  match i with
  | .nop h => Sys2Proof.Machine.execNop h s
  | .regWrite h offset value => Sys2Proof.Machine.execRegWrite h offset value s
  | .ringReset h ring => Sys2Proof.Machine.execRingReset h ring s
  | .ringResetWrite ring => Sys2Proof.Machine.execRingResetWrite ring s
  | .ringResetDrained ring => Sys2Proof.Machine.execRingResetDrained ring s
  | .deviceSoftReset h => Sys2Proof.Machine.execDeviceSoftReset h s
  | .copy h dst src bytes flags => Sys2Proof.Machine.execCopy h dst src bytes flags s
  | .fill h dst bytes pattern => Sys2Proof.Machine.execFill h dst bytes pattern s
  | .regionRebuild h => Sys2Proof.Machine.execRegionRebuild h s
  | .llsPartition h slice count => Sys2Proof.Machine.execLlsPartition h slice count s
  | .llsRelease h slice first => Sys2Proof.Machine.execLlsRelease h slice first s
  | .digest h start bytes dest => Sys2Proof.Machine.execDigest h start bytes dest s
  | .product h out streamColl shape segs => Sys2Proof.Machine.execProduct h out streamColl shape segs s
  | .matvec h out parts => Sys2Proof.Machine.execMatvec h out parts s
  | .softmax h inp out => Sys2Proof.Machine.execSoftmax h inp out s
  | .rmsnorm h inp out gain eps => Sys2Proof.Machine.execRmsnorm h inp out gain eps s
  | .layernorm h inp out gain bias eps => Sys2Proof.Machine.execLayernorm h inp out gain bias eps s
  | .xent h inp target loss mean grad => Sys2Proof.Machine.execXent h inp target loss mean grad s
  | .vprog h program const out ins => Sys2Proof.Machine.execVprog h program const out ins s
  | .paramGroupsLoad h => Sys2Proof.Machine.execParamGroupsLoad h s
  | .variantBind h variant => Sys2Proof.Machine.execVariantBind h variant s
  | .variantRelease h slot => Sys2Proof.Machine.execVariantRelease h slot s
  | .slotFreed slot => Sys2Proof.Machine.execSlotFreed slot s
  | .collLaunch h desc => Sys2Proof.Machine.execCollLaunch h desc s
  | .roleSet h role node manager top => Sys2Proof.Machine.execRoleSet h role node manager top s
  | .groupJoin h => Sys2Proof.Machine.execGroupJoin h s
  | .groupLeave h => Sys2Proof.Machine.execGroupLeave h s
  | .stepBegin h step expectEpoch group setStep => Sys2Proof.Machine.execStepBegin h step expectEpoch group setStep s
  | .stepEnd h lossAddr digest => Sys2Proof.Machine.execStepEnd h lossAddr digest s
  | .stepClose => Sys2Proof.Machine.execStepClose s
  | .reefRewriteComplete => Sys2Proof.Machine.execReefRewriteComplete s
  | .commitGroupComplete => Sys2Proof.Machine.execCommitGroupComplete s
  | .updateBatchComplete shard batch check => Sys2Proof.Machine.execUpdateBatchComplete shard batch check s
  | .verdict h verdict reasons budget attempt => Sys2Proof.Machine.execVerdict h verdict reasons budget attempt s
  | .verdictTimeout => Sys2Proof.Machine.execVerdictTimeout s
  | .betweenJobTest h mask => Sys2Proof.Machine.execBetweenJobTest h mask s
  | .unitTest h unit => Sys2Proof.Machine.execUnitTest h unit s
  | .unitFence h unit => Sys2Proof.Machine.execUnitFence h unit s
  | .unitUnfence h unit => Sys2Proof.Machine.execUnitUnfence h unit s
  | .shroudCopy h => Sys2Proof.Machine.execShroudCopy h s
  | .restore h sourceId expectStep manifestDest older override holder => Sys2Proof.Machine.execRestore h sourceId expectStep manifestDest older override holder s
  | .shroudRelease h => Sys2Proof.Machine.execShroudRelease h s
  | .counterSnapshot h dest => Sys2Proof.Machine.execCounterSnapshot h dest s
  | .sampleControl h enable shift => Sys2Proof.Machine.execSampleControl h enable shift s
  | .attest h nonce dest => Sys2Proof.Machine.execAttest h nonce dest s
  | .measurementLog h dest bytes => Sys2Proof.Machine.execMeasurementLog h dest bytes s
  | .firmwareStage h src bytes => Sys2Proof.Machine.execFirmwareStage h src bytes s
  | .ringTailWrite ring tail => Sys2Proof.Machine.execRingTailWrite ring tail s
  | .packetFetch ring => Sys2Proof.Machine.execPacketFetch ring s
  | .packetStart pid => Sys2Proof.Machine.execPacketStart pid s
  | .descriptorStart engine index => Sys2Proof.Machine.execDescriptorStart engine index s
  | .tilePassLatch id check => Sys2Proof.Machine.execTilePassLatch id check s
  | .majorityOutcome id e0e2 e1e2 c1 c2 => Sys2Proof.Machine.execMajorityOutcome id e0e2 e1e2 c1 c2 s
  | .shadowCompare id seen => Sys2Proof.Machine.execShadowCompare id seen s
  | .descriptorEnd id => Sys2Proof.Machine.execDescriptorEnd id s
  | .packetEnd pid => Sys2Proof.Machine.execPacketEnd pid s
  | .statusRecordDeferred pid => Sys2Proof.Machine.execStatusRecordDeferred pid s
  | .statusHeadWrite ring head => Sys2Proof.Machine.execStatusHeadWrite ring head s
  | .preempt cluster place => Sys2Proof.Machine.execPreempt cluster place s
  | .contextResume id => Sys2Proof.Machine.execContextResume id s
  | .tokenAdd token amount => Sys2Proof.Machine.execTokenAdd token amount s
  | .deviceEnableWrite on => Sys2Proof.Machine.execDeviceEnableWrite on s
  | .ringConfigWrite ring field value => Sys2Proof.Machine.execRingConfigWrite ring field value s
  | .statusConfigWrite ring field value => Sys2Proof.Machine.execStatusConfigWrite ring field value s
  | .registerWrite offset bytes value => Sys2Proof.Machine.execRegisterWrite offset bytes value s
  | .bar0BadAccess write offset bytes => Sys2Proof.Machine.execBar0BadAccess write offset bytes s
  | .bar2Read offset bytes upset => Sys2Proof.Machine.execBar2Read offset bytes upset s
  | .bar2Write offset data => Sys2Proof.Machine.execBar2Write offset data s
  | .bar2HoldExpiry id => Sys2Proof.Machine.execBar2HoldExpiry id s
  | .atomicOpRequest => Sys2Proof.Machine.execAtomicOpRequest s
  | .hostReadCompletion rid status data => Sys2Proof.Machine.execHostReadCompletion rid status data s
  | .completionTimeout rid => Sys2Proof.Machine.execCompletionTimeout rid s
  | .reefSet word bits => Sys2Proof.Machine.execReefSet word bits s
  | .reefClear word bits => Sys2Proof.Machine.execReefClear word bits s
  | .defaults => Sys2Proof.Machine.execDefaults s
  | .clearBroken => Sys2Proof.Machine.execClearBroken s
  | .gsSet value => Sys2Proof.Machine.execGsSet value s
  | .baselineSet monitor value => Sys2Proof.Machine.execBaselineSet monitor value s
  | .stateBaseWrite value => Sys2Proof.Machine.execStateBaseWrite value s
  | .scaleHistoryWrite field entry value => Sys2Proof.Machine.execScaleHistoryWrite field entry value s
  | .captureClear channel cluster flag => Sys2Proof.Machine.execCaptureClear channel cluster flag s
  | .lastFaultClear channel engine => Sys2Proof.Machine.execLastFaultClear channel engine s
  | .mapoutRequest channel => Sys2Proof.Machine.execMapoutRequest channel s
  | .lostClear slice => Sys2Proof.Machine.execLostClear slice s
  | .arbiterFreeze arbiter on => Sys2Proof.Machine.execArbiterFreeze arbiter on s
  | .arbiterDrained arbiter => Sys2Proof.Machine.execArbiterDrained arbiter s
  | .scrubAccess channel bolt bursts uncorrectable => Sys2Proof.Machine.execScrubAccess channel bolt bursts uncorrectable s
  | .scrubPeriodEnd late => Sys2Proof.Machine.execScrubPeriodEnd late s
  | .stackTempSample stack temp => Sys2Proof.Machine.execStackTempSample stack temp s
  | .dieTempSample channel temp => Sys2Proof.Machine.execDieTempSample channel temp s
  | .powerSample mv watts domains => Sys2Proof.Machine.execPowerSample mv watts domains s
  | .droopEvent domain => Sys2Proof.Machine.execDroopEvent domain s
  | .droopEnd domain => Sys2Proof.Machine.execDroopEnd domain s
  | .brownOut => Sys2Proof.Machine.execBrownOut s
  | .quadIdleGate quad => Sys2Proof.Machine.execQuadIdleGate quad s
  | .stackIdleGate stack => Sys2Proof.Machine.execStackIdleGate stack s
  | .domainWakeComplete domain => Sys2Proof.Machine.execDomainWakeComplete domain s
  | .coldReset found => Sys2Proof.Machine.execColdReset found s
  | .warmReset found => Sys2Proof.Machine.execWarmReset found s
  | .functionLevelReset => Sys2Proof.Machine.execFunctionLevelReset s
  | .resetComplete => Sys2Proof.Machine.execResetComplete s
  | .perstDeassert => Sys2Proof.Machine.execPerstDeassert s
  | .refclkLoss => Sys2Proof.Machine.execRefclkLoss s
  | .startupTimeout => Sys2Proof.Machine.execStartupTimeout s
  | .testDue unit => Sys2Proof.Machine.execTestDue unit s
  | .testDeferExpiry unit places => Sys2Proof.Machine.execTestDeferExpiry unit places s
  | .testSlotStart unit => Sys2Proof.Machine.execTestSlotStart unit s
  | .testSlotEnd unit found kernel skipped => Sys2Proof.Machine.execTestSlotEnd unit found kernel skipped s
  | .bjOverdueCheck => Sys2Proof.Machine.execBjOverdueCheck s
  | .portEnable port => Sys2Proof.Machine.execPortEnable port s
  | .portDisable port => Sys2Proof.Machine.execPortDisable port s
  | .trainingComplete port => Sys2Proof.Machine.execTrainingComplete port s
  | .sync port totals peerId peerPort session buffers => Sys2Proof.Machine.execSync port totals peerId peerPort session buffers s
  | .flitReceived port bytes corrected uncorrectable => Sys2Proof.Machine.execFlitReceived port bytes corrected uncorrectable s
  | .nak port totals => Sys2Proof.Machine.execNak port totals s
  | .retryTimeout port => Sys2Proof.Machine.execRetryTimeout port s
  | .lossOfLock port => Sys2Proof.Machine.execLossOfLock port s
  | .boltCell src stream bytes => Sys2Proof.Machine.execBoltCell src stream bytes s
  | .groupEnableSet => Sys2Proof.Machine.execGroupEnableSet s
  | .groupEnableClear => Sys2Proof.Machine.execGroupEnableClear s
  | .join h moduleId feed ne => Sys2Proof.Machine.execJoin h moduleId feed ne s
  | .joinReply h result => Sys2Proof.Machine.execJoinReply h result s
  | .leave h => Sys2Proof.Machine.execLeave h s
  | .heartbeat h risk suspect fenced mapped thermal state => Sys2Proof.Machine.execHeartbeat h risk suspect fenced mapped thermal state s
  | .mgrHeartbeat h => Sys2Proof.Machine.execMgrHeartbeat h s
  | .heartbeatTimer => Sys2Proof.Machine.execHeartbeatTimer s
  | .groupReport h node mstate risk => Sys2Proof.Machine.execGroupReport h node mstate risk s
  | .epochPrepare h members fp chunkRule segments => Sys2Proof.Machine.execEpochPrepare h members fp chunkRule segments s
  | .epochList h first nodes => Sys2Proof.Machine.execEpochList h first nodes s
  | .epochReadySend => Sys2Proof.Machine.execEpochReadySend s
  | .epochReady h => Sys2Proof.Machine.execEpochReady h s
  | .epochCommit h fp => Sys2Proof.Machine.execEpochCommit h fp s
  | .prepareTimeout => Sys2Proof.Machine.execPrepareTimeout s
  | .takeover h node => Sys2Proof.Machine.execTakeover h node s
  | .partner h holder source forced refuse sourceId => Sys2Proof.Machine.execPartner h holder source forced refuse sourceId s
  | .launch h content => Sys2Proof.Machine.execLaunch h content s
  | .grant h limit => Sys2Proof.Machine.execGrant h limit s
  | .collectiveData h unit phase half data => Sys2Proof.Machine.execCollectiveData h unit phase half data s
  | .flags h chunk vector => Sys2Proof.Machine.execFlags h chunk vector s
  | .abort h cause field rank => Sys2Proof.Machine.execAbort h cause field rank s
  | .slow h reason => Sys2Proof.Machine.execSlow h reason s
  | .release h => Sys2Proof.Machine.execRelease h s
  | .collComplete key => Sys2Proof.Machine.execCollComplete key s
  | .collWatchdogExpiry key => Sys2Proof.Machine.execCollWatchdogExpiry key s
  | .slowTimer => Sys2Proof.Machine.execSlowTimer s
  | .hello h bolts step => Sys2Proof.Machine.execHello h bolts step s
  | .accept h result => Sys2Proof.Machine.execAccept h result s
  | .shroudData h content => Sys2Proof.Machine.execShroudData h content s
  | .shards h content => Sys2Proof.Machine.execShards h content s
  | .manifest h content => Sys2Proof.Machine.execManifest h content s
  | .signature h content => Sys2Proof.Machine.execSignature h content s
  | .complete h => Sys2Proof.Machine.execComplete h s
  | .incomplete h => Sys2Proof.Machine.execIncomplete h s
  | .fetch h older => Sys2Proof.Machine.execFetch h older s
  | .fetchReply h content => Sys2Proof.Machine.execFetchReply h content s
  | .lost h => Sys2Proof.Machine.execLost h s
  | .shroudTimeout => Sys2Proof.Machine.execShroudTimeout s
  | .signatureComplete => Sys2Proof.Machine.execSignatureComplete s
  | .riskRecompute => Sys2Proof.Machine.execRiskRecompute s
  | .counterSelectWrite channel counter event filter enable => Sys2Proof.Machine.execCounterSelectWrite channel counter event filter enable s
  | .counterClear channel counter => Sys2Proof.Machine.execCounterClear channel counter s
  | .bwEnableWrite on => Sys2Proof.Machine.execBwEnableWrite on s
  | .bwWindowEnd => Sys2Proof.Machine.execBwWindowEnd s
  | .ack h => Sys2Proof.Machine.execAck h s
  | .reportResend => Sys2Proof.Machine.execReportResend s
  | .summary => Sys2Proof.Machine.execSummary s
  | .statusQuery h => Sys2Proof.Machine.execStatusQuery h s
  | .testNow h unit => Sys2Proof.Machine.execTestNow h unit s
  | .fence h unit => Sys2Proof.Machine.execFence h unit s
  | .unfence h unit => Sys2Proof.Machine.execUnfence h unit s
  | .reset h found => Sys2Proof.Machine.execReset h found s
  | .mgmtRoleSet h role node manager top standby0 standby1 topStandby => Sys2Proof.Machine.execMgmtRoleSet h role node manager top standby0 standby1 topStandby s
  | .group h action => Sys2Proof.Machine.execGroup h action s
  | .mapout h channel => Sys2Proof.Machine.execMapout h channel s
  | .mapoutClear h channel => Sys2Proof.Machine.execMapoutClear h channel s
  | .svnRaise h svn => Sys2Proof.Machine.execSvnRaise h svn s
  | .keySet h key => Sys2Proof.Machine.execKeySet h key s
  | .recovery h offset data => Sys2Proof.Machine.execRecovery h offset data s
  | .neighborSolicitation target source => Sys2Proof.Machine.execNeighborSolicitation target source s
  | .echoRequest dest source data => Sys2Proof.Machine.execEchoRequest dest source data s
  | .keyWrite word value => Sys2Proof.Machine.execKeyWrite word value s
  | .mgmtConfigWrite field value => Sys2Proof.Machine.execMgmtConfigWrite field value s
  | .mctpMessage request => Sys2Proof.Machine.execMctpMessage request s
  | .pcieLinkUp => Sys2Proof.Machine.execPcieLinkUp s
  | .configAccess request => Sys2Proof.Machine.execConfigAccess request s
  | .mgmtPortLinkChange up => Sys2Proof.Machine.execMgmtPortLinkChange up s
  | .joinReplyTimeout => Sys2Proof.Machine.execJoinReplyTimeout s

end Sys2Proof.Machine
end

