-- ==== Sys2Proof/Safety.lean ====
section
/-! DEFINITION. The terms that claims use: what a state keeps of another, the invariant of the machine, how a packet
ended, and when a packet that is fetched starts at once. -/

namespace Sys2Proof.Machine

/-- The fields of the state, by name. -/
inductive Field where
  | pending | regs | heldWords | mem | ue | ce | patrol | heldWrites | dShare | cShare | partitions | arbiters
  | tokens | tokFaulted | tokBase | nextId | flight | fetchHold | fetchBuf | hostReads | descs | retries
  | heldReads | step | commit | groups | slots | reef | rewrites | rewritesDue | rewriteStream | ilog | aoNow
  | pcieUp | heldOut | lateRecords | key | reports | reportSeq | attLog | ports | delivered | rankNodes | colls | endedColls
  | reserved | heldMsgs | prep | top | lastEpoch | sysMembers | chunkRule | memberIds | memberHealth | verdicts
  | heard | mgrHeard | mgrMissed | tests | testFails | dispatched | llsTest | testClock | samples | cycleBase
  | power | resetting | startDone | perst | pwrGood | thermtrip | refclk | duty | powerLog | drooped | riskEvents
  | attJumps | riskQuiet | critTicks | flashMap | areaA | areaB | active | running | recovery | groupTable | copy
  | copyWas | copyDue | cursor | signing | hold | newest | serve | restore | joins | cfg | identityKey | eid
  | bwStart | bwWindow | bwTotals | bwLast | out | free
  deriving DecidableEq, Repr

/-- A field of the state is the same in two states. -/
def Unchanged (s t : State) : Field → Prop
  | .pending => t.pending = s.pending
  | .regs => t.regs = s.regs
  | .heldWords => t.heldWords = s.heldWords
  | .mem => t.mem = s.mem
  | .ue => t.ue = s.ue
  | .ce => t.ce = s.ce
  | .patrol => t.patrol = s.patrol
  | .heldWrites => t.heldWrites = s.heldWrites
  | .dShare => t.dShare = s.dShare
  | .cShare => t.cShare = s.cShare
  | .partitions => t.partitions = s.partitions
  | .arbiters => t.arbiters = s.arbiters
  | .tokens => t.tokens = s.tokens
  | .tokFaulted => t.tokFaulted = s.tokFaulted
  | .tokBase => t.tokBase = s.tokBase
  | .nextId => t.nextId = s.nextId
  | .flight => t.flight = s.flight
  | .fetchHold => t.fetchHold = s.fetchHold
  | .fetchBuf => t.fetchBuf = s.fetchBuf
  | .hostReads => t.hostReads = s.hostReads
  | .descs => t.descs = s.descs
  | .retries => t.retries = s.retries
  | .heldReads => t.heldReads = s.heldReads
  | .step => t.step = s.step
  | .commit => t.commit = s.commit
  | .groups => t.groups = s.groups
  | .slots => t.slots = s.slots
  | .reef => t.reef = s.reef
  | .rewrites => t.rewrites = s.rewrites
  | .rewritesDue => t.rewritesDue = s.rewritesDue
  | .rewriteStream => t.rewriteStream = s.rewriteStream
  | .ilog => t.ilog = s.ilog
  | .aoNow => t.aoNow = s.aoNow
  | .pcieUp => t.pcieUp = s.pcieUp
  | .heldOut => t.heldOut = s.heldOut
  | .lateRecords => t.lateRecords = s.lateRecords
  | .key => t.key = s.key
  | .reports => t.reports = s.reports
  | .reportSeq => t.reportSeq = s.reportSeq
  | .attLog => t.attLog = s.attLog
  | .ports => t.ports = s.ports
  | .delivered => t.delivered = s.delivered
  | .rankNodes => t.rankNodes = s.rankNodes
  | .colls => t.colls = s.colls
  | .endedColls => t.endedColls = s.endedColls
  | .reserved => t.reserved = s.reserved
  | .heldMsgs => t.heldMsgs = s.heldMsgs
  | .prep => t.prep = s.prep
  | .top => t.top = s.top
  | .lastEpoch => t.lastEpoch = s.lastEpoch
  | .sysMembers => t.sysMembers = s.sysMembers
  | .chunkRule => t.chunkRule = s.chunkRule
  | .memberIds => t.memberIds = s.memberIds
  | .memberHealth => t.memberHealth = s.memberHealth
  | .verdicts => t.verdicts = s.verdicts
  | .heard => t.heard = s.heard
  | .mgrHeard => t.mgrHeard = s.mgrHeard
  | .mgrMissed => t.mgrMissed = s.mgrMissed
  | .tests => t.tests = s.tests
  | .testFails => t.testFails = s.testFails
  | .dispatched => t.dispatched = s.dispatched
  | .llsTest => t.llsTest = s.llsTest
  | .testClock => t.testClock = s.testClock
  | .samples => t.samples = s.samples
  | .cycleBase => t.cycleBase = s.cycleBase
  | .power => t.power = s.power
  | .resetting => t.resetting = s.resetting
  | .startDone => t.startDone = s.startDone
  | .perst => t.perst = s.perst
  | .pwrGood => t.pwrGood = s.pwrGood
  | .thermtrip => t.thermtrip = s.thermtrip
  | .refclk => t.refclk = s.refclk
  | .duty => t.duty = s.duty
  | .powerLog => t.powerLog = s.powerLog
  | .drooped => t.drooped = s.drooped
  | .riskEvents => t.riskEvents = s.riskEvents
  | .attJumps => t.attJumps = s.attJumps
  | .riskQuiet => t.riskQuiet = s.riskQuiet
  | .critTicks => t.critTicks = s.critTicks
  | .flashMap => t.flashMap = s.flashMap
  | .areaA => t.areaA = s.areaA
  | .areaB => t.areaB = s.areaB
  | .active => t.active = s.active
  | .running => t.running = s.running
  | .recovery => t.recovery = s.recovery
  | .groupTable => t.groupTable = s.groupTable
  | .copy => t.copy = s.copy
  | .copyWas => t.copyWas = s.copyWas
  | .copyDue => t.copyDue = s.copyDue
  | .cursor => t.cursor = s.cursor
  | .signing => t.signing = s.signing
  | .hold => t.hold = s.hold
  | .newest => t.newest = s.newest
  | .serve => t.serve = s.serve
  | .restore => t.restore = s.restore
  | .joins => t.joins = s.joins
  | .cfg => t.cfg = s.cfg
  | .identityKey => t.identityKey = s.identityKey
  | .eid => t.eid = s.eid
  | .bwStart => t.bwStart = s.bwStart
  | .bwWindow => t.bwWindow = s.bwWindow
  | .bwTotals => t.bwTotals = s.bwTotals
  | .bwLast => t.bwLast = s.bwLast
  | .out => t.out = s.out
  | .free => t.free = s.free

/-- Every field of the state that is not listed is the same in two states. -/
def ChangesOnly (fs : List Field) (s t : State) : Prop := ∀ f : Field, f ∉ fs → Unchanged s t f

/-- Every register field whose key is not listed reads as before. -/
def RegsBut (ks : List Nat) (s t : State) : Prop := ∀ (r : Reg) (idx : List Nat), r.key idx ∉ ks → t.rd r idx = s.rd r idx

/-- Every byte of device memory outside `n` bytes from `a` reads as before. -/
def MemBut (a n : Nat) (s t : State) : Prop := ∀ x : Nat, x < a ∨ a + n ≤ x → t.mem.byte x = s.mem.byte x

/-- Every byte of device memory outside a list of ranges, each an address and a length, reads as before. -/
def MemOutside (rs : List (Nat × Nat)) (s t : State) : Prop :=
  ∀ x : Nat, (∀ r ∈ rs, x < r.1 ∨ r.1 + r.2 ≤ x) → t.mem.byte x = s.mem.byte x

/-- The ranges that running packets and collectives in flight write: undefined when a reset stops them (R116, R275). -/
def State.writing (s : State) : List (Nat × Nat) :=
  ((s.flight.filter (fun p => p.phase == .running)).map Packet.dests).flatten ++ (s.colls.map CollSt.dests).flatten

/-- Packets in flight have numbers below the next one. -/
def Numbered (s : State) : Prop := ∀ p ∈ s.flight, p.pid < s.nextId

/-- The invariant of the machine: device memory and the register table are in their canonical forms, and packets in
flight have numbers already given out. -/
structure Inv (s : State) : Prop where
  mem : s.mem.wf = true
  regs : Tab.sorted s.regs = true
  pids : Numbered s

/-- The command changes the listed register fields and nothing else. -/
def OnlyRegs (ks : List Nat) (s t : State) : Prop := ChangesOnly [.regs] s t ∧ RegsBut ks s t

/-- The programmable counters of a channel (R361). -/
def channelKeys (c : Nat) : List Nat := (List.range 16).map (fun i => Reg.progValue.key [c, i])

/-- The programmable counters of every channel. -/
def counterKeys : List Nat := ((List.range 4).map channelKeys).flatten

/-- The fields that entering an event in the integrity log changes (R300, R302). -/
def logFields : List Field := [.regs, .ilog, .reports, .reportSeq, .out]

/-- The register fields that entering an event in the integrity log changes. -/
def logKeys : List Nat := [Reg.intIlogWritten.key [], Reg.mgmtReportsSent.key [], Reg.mgmtReportsDropped.key []]

/-- What every access to device memory may change beside its data: counters and byte counts (R357–R364), the corrected bursts
of the bolts that it reads and the state of their channels, with its log entry and report (R218, R222), and free values. -/
def trafficFields : List Field :=
  [.regs, .ilog, .reports, .reportSeq, .out, .riskEvents, .ce, .bwTotals, .bwWindow, .free]

/-- The register fields among them: programmable counters, the log's, the corrected-burst count, STATE and CAUSE of HBM channels,
and the state of the stack engines' domains, which an access to a gated stack wakes (R374). -/
def trafficKeys : List Nat :=
  counterKeys ++ logKeys ++
  ((List.range 640).map (fun x => [Reg.hbmCeCount.key [x], Reg.hbmState.key [x], Reg.hbmCause.key [x]])).flatten ++
  ((List.range 20).map (fun k => [Reg.domDstate.key [56 + k], Reg.domClocksStopped.key [56 + k]])).flatten

/-- The register fields of the slices' lost-bolt tables: the entries in use and their number (R228). -/
def lostKeys (s : State) : List Nat :=
  ((List.range 4).map (fun c =>
    Reg.llsLostCount.key [c] :: (List.range (s.rd .llsLostCount [c])).map (fun k => Reg.llsLostAddr.key [c, k]))).flatten

/-- The register fields that waking a power domain changes (R374). -/
def domainKeys : List Nat :=
  ((List.range 80).map (fun d => [Reg.domDstate.key [d], Reg.domClocksStopped.key [d]])).flatten

/-- What a host write, or a packet, changes that reaches device memory. -/
def memFields : List Field := .mem :: .ue :: .heldWords :: trafficFields

/-- What a tick of the clock changes (R231–R234, R239, R360, R362): AO_NOW, CRIT tick counts, the arbiters, what leaves the
ports, and the counters of cycles, some of them free values. -/
def tickFields : List Field := [.aoNow, .critTicks, .regs, .arbiters, .ports, .out, .free]

/-- The register fields among them; PARTIAL is written with its port's state. -/
def tickKeys : List Nat :=
  (List.range 20).map (fun k => Reg.stkCritTicks.key [k]) ++ counterKeys ++
  ((List.range 12).map (fun p => (List.range 4).map (fun v => Reg.portPartial.key [p, v]))).flatten ++
  ((List.range 192).map (fun k => (List.range 48).map (fun e => Reg.fixFixed.key [k / 48, k % 48, e]))).flatten

/-- The host interface takes writes, and no merge buffer is full with writes that wait for a stack at CRIT (R230, R326, R431). -/
def HostTakes (s : State) : Prop := s.hostOk = true ∧ s.postedFull = false

/-- n data bytes came in from the host (R363): they count inward at port 32, and at no other port. -/
def HostBytes (n : Nat) (s t : State) : Prop :=
  Tab.get 0 t.bwTotals 65 = Tab.get 0 s.bwTotals 65 + n ∧ ∀ k, k ≠ 65 → Tab.get 0 t.bwTotals k = Tab.get 0 s.bwTotals k

/-- A host write of n bytes that changes the listed register fields: beside them it changes what every such write does,
the inward byte count of port 32, its window, the programmable counters of channel 0, and held words (R327, R363). -/
def HostWrote (n : Nat) (ks : List Nat) (s t : State) : Prop :=
  ChangesOnly [.regs, .bwTotals, .bwWindow, .heldWords] s t ∧ RegsBut (channelKeys 0 ++ ks) s t ∧ HostBytes n s t

/-- The register fields that fetching from ring r changes: RING_FETCHED, RING_HEAD and the programmable counters of the
ring's channel. -/
def fetchKeys (r : Nat) : List Nat :=
  Reg.ringRingFetched.key [r] :: Reg.ringRingHead.key [r] :: (List.range 16).map (fun i => Reg.progValue.key [r % 4, i])

/-- The next packet of its ring can be fetched and started now: the module is powered, the ring's controller may fetch
and is between packets, the packet's slots are published, its waits are satisfied on tokens that are not FAULTED, no
HALT, reef rewrite, stack at CRIT or frozen arbiter holds its start (R230, R233, R331, R340, R342, R344). -/
structure Quiet (s : State) (h : PktHdr) : Prop where
  inv : Inv s
  power : s.power = 1
  fetch : s.canFetch h.ring = true
  between : s.midFetch h.ring = false
  length : 1 ≤ h.length ∧ h.length ≤ 64 ∧ h.length ≤ s.unfetched h.ring
  waits : h.waits.length ≤ 4 ∧ ∀ w ∈ h.waits,
    (w.rel = true → s.fetchesAttempt h.ring = true) ∧ s.waitMet w = true ∧ s.tokenFaulted w.token = false
  attempt : s.fetchesAttempt h.ring = true → s.rewrites = [] ∧ (s.step.map (fun t => t.stopped)).getD false = false
  cool : s.anyHeld = false

/-- The packet was fetched: it is the last one in flight, with the next number, the header's fields and a phase; and
beside packets, numbers and the ring's indices only the listed fields and register fields changed. -/
structure Ran (s : State) (h : PktHdr) (op : Op) (ph : Phase) (fs : List Field) (ks : List Nat) (t : State) : Prop where
  packet : ∃ p, t.flight = s.flight ++ [p] ∧ p.pid = s.nextId ∧ p.ring = h.ring ∧ p.tag = h.tag ∧ p.op = op ∧
    p.sigEn = h.sigEn ∧ p.signal = h.signal ∧ p.phase = ph
  fetched : t.rd .ringRingFetched [h.ring] = (s.rd .ringRingFetched [h.ring] + h.length) % 2 ^ 32
  only : ChangesOnly (.regs :: .flight :: .nextId :: fs) s t
  regs : RegsBut (fetchKeys h.ring ++ ks) s t

/-- The packet was fetched and has ended with a status and detail. -/
def RanTo (s : State) (h : PktHdr) (op : Op) (st : Status) (d : Nat) (fs : List Field) (ks : List Nat) (t : State) : Prop :=
  Ran s h op (.ended st d false) fs ks t

/-- The newest entry of the integrity log is of the given TYPE, CODE and ADDR, stamped with the tick of s and numbered
after the entries of s (R300). -/
def Logged (type code addr : Nat) (s t : State) : Prop :=
  ∃ e, t.ilog.getLast? = some e ∧ e.type = type ∧ e.code = code ∧ e.addr = addr ∧ e.tick = s.aoNow ∧
    e.seq = s.rd .intIlogWritten [] + 1

/-- A REPLY to the command of number seq, with a status and detail, under the key of s, is among what left (R401). -/
def Replied (seq : Nat) (st : Status) (detail : Nat) (s t : State) : Prop :=
  ∃ l, t.out = s.out ++ .mgmt (mgmtMessage s.key 0xC0 seq s.aoNow (leBytes 1 st.code ++ zeros 7 ++ leBytes 8 detail)) :: l

/-- A REPLY as above is among what left, perhaps after reports. -/
def Answered (seq : Nat) (st : Status) (detail : Nat) (s t : State) : Prop :=
  ∃ l, t.out = s.out ++ l ∧ .mgmt (mgmtMessage s.key 0xC0 seq s.aoNow (leBytes 1 st.code ++ zeros 7 ++ leBytes 8 detail)) ∈ l

/-- A test of a unit that has just been queued (R292, R299). -/
def newTest (s : State) (u : Nat) (a : Asker) (unfence : Bool) : TestSt := s.newTest u a unfence

/-- The module takes a management command (R399, R403): the port is up, the message verifies, its SEQ is new, and
BOOT_ERROR is not 1. -/
def Accepts (s : State) (h : MgmtHeader) (type : Nat) (body : List Byte) : Prop :=
  s.power ≠ 0 ∧ s.rd .mgmtPortUp [] = 1 ∧ s.messageOk h type body = true ∧ s.rd .mgmtLastCmdSeq [] < h.seq ∧
  s.rd .devBootError [] ≠ 1

/-- The register fields that taking a management command changes (R399). -/
def acceptKeys : List Nat := [Reg.mgmtLastCmdSeq.key [], Reg.mgmtCmdsAccepted.key []]

/-! Packets in flight. -/

/-- A packet of ring r that has not started ends SKIPPED (R336). -/
def ringSkip (r : Nat) (p : Packet) : Packet :=
  if p.ring = r ∧ p.isWaiting then { p with phase := .ended .skipped 0 false } else p

/-- A started packet of the operation waits for no event: not for the close of a step, for its engine, for its collective or
for another copy. -/
def standsAlone : Op → Bool
  | .deviceSoftReset => false
  | .digest .. => false
  | .collLaunch _ => false
  | .shroudCopy => false
  | .product _ c _ _ => c == 0
  | _ => true

/-- Nothing waits for an event to go on: no started packet for the close of a step, for its engine or for its collective (a
COLL_LAUNCH and a SHROUD_COPY are with theirs); no commit, no complete verdict exchange, no copy to be read, no restore with
all that it needs, and no fenced engine for the end of a commit phase (R154, R184, R196, R271, R311, R320, R392). -/
structure Settled (s : State) : Prop where
  packets : ∀ p ∈ s.flight, p.phase = .running → standsAlone p.op = true ∨
    ((∃ a, p.op = .collLaunch a) ∧ s.colls.any (fun c => c.pid == some p.pid) = true) ∨
    (p.op = .shroudCopy ∧ s.copies.any (fun c => c.pid == some p.pid) = true)
  commit : ∀ c, s.commit = some c → c.waiting = false
  verdict : ∀ q v, s.step = some q → q.verdict = some v →
    firstPeers s.verdicts ((List.range (s.rd .grpMembers [])).filter (fun r => r != s.rd .grpRank [])) = none
  copy : ∀ c, s.copy = some c → c.pid = none ∨ c.accepted = false ∨ c.sent = true
  restore : ∀ r, s.restore = some r → r.checked = false ∧ r.ready = false
  fences : ∀ k < 20, s.fenced (56 + k) = true → s.rd .domDstate [56 + k] = 3

/-- The three writes of a status record in its ring (R346, R347): the word with PHASE and STATUS is last. -/
def recordWrites (s : State) (l : LateRecord) : List Out :=
  let k := s.rd .ringStatusTail [l.ring]
  let n := 2 ^ s.rd .ringStatusLog2 [l.ring]
  let a := s.rd .ringStatusBase [l.ring] + 32 * (k % n)
  [.hostWrite a (leBytes 4 l.tag),
   .hostWrite (a + 8) (leBytes 8 l.detail ++ leBytes 8 l.ended ++ leBytes 8 (l.slot % 2 ^ 32 * 2 ^ 32 +
     (if l.faultedWait then 2 ^ 17 else 0) + (if l.signalled then 2 ^ 16 else 0) + l.signal % 65536)),
   .hostWrite (a + 4) (leBytes 4 (l.opcode % 65536 * 65536 + l.ring % 16 * 4096 +
     (if k / n % 2 = 0 then 256 else 0) + l.status.code))]

/-- A packet's end at a tick is reported (R24, R343, R346, R347): its record is written, its token raised by one with FAULTED as its
status says, and it leaves flight, its 32 bytes counted at the host port (R363); memory changes at most where an unordered packet wrote the same bytes, and the
packets not ordered after it take its writes down. -/
def Reported (s t : State) (p : Packet) (st : Status) (detail : Nat) (faultedWait : Bool)
    (ended : Nat) : Prop :=
  t.out = s.out ++ recordWrites s (p.record st detail faultedWait ended) ∧
  Tab.get 0 t.bwTotals 64 = Tab.get 0 s.bwTotals 64 + 32 ∧
  t.rd .ringStatusTail [p.ring] = (s.rd .ringStatusTail [p.ring] + 1) % 2 ^ 32 ∧
  (if (st = .done ∨ st = .doneFlagged ∨ st.isFault) ∧ s.writesOf p ≠ [] then
    t.flight = (s.flight.map (s.takesDown p)).filter (fun q => q.pid != p.pid) ∧
    MemOutside (commonRanges p.raced (s.writesOf p)) s t
  else t.flight = s.flight.filter (fun q => q.pid != p.pid) ∧ t.mem = s.mem) ∧
  if p.sigEn then t.token p.signal = satAdd 64 (s.token p.signal) 1 ∧
    t.tokenFaulted p.signal = (decide (st = .skipped) || st.isFault) ∧
    ∀ k, k ≠ p.signal → t.token k = s.token k ∧ t.tokenFaulted k = s.tokenFaulted k
  else t.tokens = s.tokens ∧ t.tokFaulted = s.tokFaulted

/-- The unit is one of the 192 clusters or 20 stack engines (R22, R184). -/
def ExecUnit.inDevice : ExecUnit → Bool
  | .cluster k => decide (k < 192)
  | .engine st => decide (st < 20)

/-- The packet of an operation that s fetches with a header and starts, with its descriptors and sequence slots as
resolved and the global scales bound (R69, R163). -/
structure PacketOf (s : State) (h : PktHdr) (op : Op) (v : List TDesc × List Nat) (p : Packet) : Prop where
  pid : p.pid = s.nextId
  ring : p.ring = h.ring
  tag : p.tag = h.tag
  signal : p.sigEn = h.sigEn ∧ p.signal = h.signal
  op : p.op = op
  attempt : p.inAttempt = s.fetchesAttempt h.ring
  seed : p.seed = s.rd .stRunSeed []
  descs : p.descs = v.1
  slots : p.slots = v.2
  scales : p.scales = v.1.map (s.boundScale (s.fetchesAttempt h.ring))
  coll : p.coll = none ∧ p.collDescs = []

/-- A launch passes the checks of its start (R72, R121, R163, R203, R298, R353): its operands' global scales agree, the
ranges outside descriptors are in their regions and without errors, no unit that it needs is out of service, and its
program, targets or channel table are legal. -/
structure Launchable (s : State) (p : Packet) : Prop where
  scales : gscalesAgree p.segments = true
  region : ∀ r ∈ rawReads p.op p.descs ++ rawWrites p.op p.descs, s.inRegion r.1 r.2 = true
  units : s.computeBlocked p = false
  errors : ∀ r ∈ rawReads p.op p.descs, s.badBolts r.1 r.2 = []
  program : ∀ a c o l, p.op = .vprog a c o l → programOk (programAt s.mem a) = true
  targets : ∀ i a l m g, p.op = .xent i a l m g →
    ∀ k < rowsOf (p.descs.getD 0 default), targetAt s.mem a k < (p.descs.getD 0 default).cols
  table : hasOut p.op = true → p.outDesc.jibMode = 1 →
    s.badBolts p.outDesc.jibBase 512 = [] ∧ jibTableOk p.outDesc (s.mem.read p.outDesc.jibBase 512) = true

/-! Cells. -/

/-- The fields of the state that sending cells changes (R238, R239, R242, R246, R312). -/
def sendFields : List Field :=
  [.regs, .arbiters, .ports, .delivered, .copy, .copyWas, .bwWindow, .bwTotals, .out, .free]

/-- The register fields that sending cells changes: the ports' credits, partial cells and flit counts, the count of cells
toward unreachable nodes, and the programmable counters. -/
def sendKeys : List Nat :=
  Reg.grpLocalUnroutable.key [] :: counterKeys ++ ((List.range 12).map (fun p =>
    Reg.portFlitsTx.key [p] :: (List.range 4).map (fun v => Reg.portTxCredits.key [p, v]) ++
      (List.range 4).map (fun v => Reg.portPartial.key [p, v]))).flatten

/-- The fields of the state that a manager's report of a member changes: cells are sent, and at the top manager a membership
change may begin (R250, R252). -/
def reportFields : List Field := .top :: .lastEpoch :: .sysMembers :: sendFields

/-- The register fields that a manager's report of a member changes (R250, R254). -/
def reportKeys (s : State) : List Nat := Reg.gtGrisk.key [s.rd .grpNode [] / 128] :: sendKeys

/-- A group message is taken (R246, R252, R253): the module is powered, GROUP_ENABLE is 1, and the message's TERM is the
one known. -/
def Heard (s : State) (h : GroupHeader) : Prop :=
  s.power = 1 ∧ s.rd .grpGroupEnable [] = 1 ∧ h.term = s.rd .grpTerm []

/-- The packet of a number has ended, with a status and detail. -/
def EndedAs (t : State) (pid : Nat) (st : Status) (d : Nat) : Prop :=
  (t.packet pid).map (fun p => p.phase) = some (.ended st d false)

/-- The packet of an operation was fetched last and is in a phase; packets before it are as they were. -/
def Fetched (s t : State) (op : Op) (ph : Phase) : Prop :=
  ∃ p, t.flight = s.flight ++ [p] ∧ p.pid = s.nextId ∧ p.op = op ∧ p.phase = ph

/-- The collective can do nothing more of its own now: a BARRIER waits for RELEASE; any other has copied its own part, has
combined every chunk of its share, and has sent every rank its units and, in an ALL_REDUCE, the chunks combined (R266, R269,
R273). -/
def Stalls (c : CollSt) : Prop :=
  c.op = 6 ∧ c.rank ≠ 0 ∨
  c.op ≠ 6 ∧ c.copied = true ∧ (2 < c.op ∨ c.chunks ≤ c.combined) ∧
    ∀ r ∈ c.others, c.owes r ≤ Tab.get 0 c.sent r ∧ (c.op = 1 → c.combined ≤ Tab.get 0 c.gathered r)

/-- A collective message is taken by its collective in flight, the only one of its key, from a member (R246, R276). -/
def Live (s : State) (h : CollHeader) (c : CollSt) (k : Nat) : Prop :=
  s.power = 1 ∧ Settled s ∧ s.coll h.key = some c ∧ (∀ x ∈ s.colls, x.key = h.key → x = c) ∧ s.rankOf h.src = some k

/-- A collective has left flight with a failure: its packet ended with the status and detail of R275, and LAST holds
it. -/
def CollFailed (t : State) (c : CollSt) (pid : Nat) (st : Status) (cause field rank : Nat) : Prop :=
  t.coll c.key = none ∧ EndedAs t pid st (collDetail cause field rank) ∧ t.rd .collLastSeq [] = c.key.seq % 2 ^ 64 ∧
  t.rd .collLastStatus [] = st.code

/-- A SHROUD message of a kind is taken from its sender (R246): the module is powered, and the message belongs to a copy, a
holding, a fetch or a restore that is going on. -/
def Shrouded (s : State) (src msg : Nat) : Prop := s.power = 1 ∧ s.shroudLive src msg = true ∧ Settled s

/-- A copy is being received at a holder that takes writes at once (R308, R309, R230): its slot is FILLING with that copy, no
stack is held and none of its writes wait. -/
structure Filling (s : State) (x : HoldSt) : Prop where
  enabled : s.power = 1 ∧ s.rd .shrHoldEnable [] = 1
  settled : Settled s
  slot : x.slot < 2 ∧ x.filled = true
  free : s.anyHeld = false ∧ s.heldWrites = [] ∧ ∀ a k, s.badBolts a k = []

/-- The commands that are host writes of BAR0 or BAR2 (R326, R431). -/
def isHostWrite : Instr → Bool
  | .ringResetWrite _ => true | .ringTailWrite .. => true | .statusHeadWrite .. => true | .tokenAdd .. => true
  | .deviceEnableWrite _ => true | .ringConfigWrite .. => true | .statusConfigWrite .. => true | .registerWrite .. => true
  | .bar2Write .. => true | .reefSet .. => true | .reefClear .. => true | .defaults => true | .clearBroken => true
  | .gsSet _ => true | .baselineSet .. => true | .stateBaseWrite _ => true | .scaleHistoryWrite .. => true
  | .captureClear .. => true | .lastFaultClear .. => true | .mapoutRequest _ => true | .lostClear _ => true
  | .arbiterFreeze .. => true | .portEnable _ => true | .portDisable _ => true | .groupEnableSet => true
  | .groupEnableClear => true | .counterSelectWrite .. => true | .counterClear .. => true | .bwEnableWrite _ => true
  | .keyWrite .. => true | .mgmtConfigWrite .. => true
  | _ => false

end Sys2Proof.Machine
end

