-- ==== Sys2Proof/Certificates/Slice0/Obligations.lean ====
section
/-! DEFINITION. The statements for the provers, from the numbered rules of spec/ and about the machine as a whole. -/

open Sys2Proof Sys2Proof.Machine

/-- For every command and state, a step of the state with the command at the front of its queue answers what exec
answers on the state with the queue's rest. -/
def Obligations.StepRunsFront : Prop :=
  ∀ (c : Instr) (rest : List Instr) (s : State),
    step { s with pending := c :: rest } = exec c { s with pending := rest }

/-- With no command waiting, a step of a module with power adds one to AO_NOW. In the always-on domain alone it
changes nothing else but, for stacks at CRIT, their CRIT tick counts; in a powered module also the arbiters' state,
what idle ports send, and the counters of cycles, some of them free values (log entry 6): memory, packets,
descriptors, steps, tokens and every other register field are as before. Without power it changes nothing. That an
empty queue stands for the clock is the model's choice (log entry 3). -/
def Obligations.StepTicksWhenIdle : Prop :=
  ∀ s : State, s.pending = [] →
    (s.power = 0 → step s = .next s) ∧
    (s.power ≠ 0 → s.power ≠ 1 → ∃ t, step s = .next t ∧ t.aoNow = s.aoNow + 1 ∧ ChangesOnly [.aoNow, .critTicks, .regs] s t ∧
      RegsBut ((List.range 20).map (fun k => Reg.stkCritTicks.key [k])) s t) ∧
    (s.power = 1 → ∃ t, step s = .next t ∧ t.aoNow = s.aoNow + 1 ∧ ChangesOnly tickFields s t ∧ RegsBut tickKeys s t)

/-- In the state after reset nothing waits, is in flight or is open; READY, BOOT_ERROR and DEVICE_ENABLE are 0,
every ring is disabled and IDLE, no step is open, no port, monitor or group is enabled, D_SHARE is 8, GRAD_SCALE is
1.0, every token is 0 and not FAULTED, and device memory reads as zero (the last the model's choice, log entry 2). -/
def Obligations.ResetRegisterValues : Prop :=
  let s := State.reset
  s.pending = [] ∧ s.flight = [] ∧ s.step = none ∧ s.colls = [] ∧ s.descs = [] ∧ s.aoNow = 0 ∧
  s.rd .devReady [] = 0 ∧ s.rd .devBootError [] = 0 ∧ s.rd .devDeviceEnable [] = 0 ∧ s.rd .stState [] = 0 ∧
  s.rd .grpGroupEnable [] = 0 ∧ s.rd .memDShare [] = 8 ∧ s.rd .stGradScale [] = 0x3F800000 ∧
  (∀ r : Nat, s.rd .ringEnable [r] = 0 ∧ s.rd .ringRingState [r] = 0 ∧ s.rd .ringRingLog2 [r] = 6 ∧ s.rd .ringRingTail [r] = 0) ∧
  (∀ i : Nat, s.rd .monEnable [i] = 0 ∧ s.rd .monPolicy [i] = 0) ∧ (∀ p : Nat, s.rd .portEnable [p] = 0) ∧
  (∀ t : Nat, s.token t = 0 ∧ s.tokenFaulted t = false) ∧ ∀ a : Nat, s.mem.byte a = 0

/-- The state after reset keeps device memory and the register table in their canonical forms, and every packet in
flight has a number already given out. -/
def Obligations.InvariantAtReset : Prop := Inv State.reset

/-- From every state whose device memory and register table are in their canonical forms and whose packets in flight
have numbers already given out, every step that answers a next state answers one of the same kind: whatever command
is in front, whatever it meets. -/
def Obligations.EveryStepKeepsInvariant : Prop :=
  ∀ s t : State, Inv s → step s = .next t → Inv t

/-- Whatever command exec runs and whatever state it answers, the queue of waiting commands is as before. -/
def Obligations.NoCommandTouchesTheQueue : Prop :=
  ∀ (c : Instr) (s t : State), exec c s = .next t → t.pending = s.pending

/-- Every command in every state answers a next state: none ends in a fault or a refusal. An error the spec
describes is a status, a completion or a log entry of that state (log entry 4). -/
def Obligations.EveryCommandAnswersAState : Prop := ∀ (c : Instr) (s : State), ∃ t, exec c s = .next t

/-- While the input is lost (unpowered or in brown-out), every command other than a cold reset, and a warm reset's
pin, leaves the whole state as it is. -/
def Obligations.UnpoweredModuleIsInert : Prop :=
  ∀ (c : Instr) (s : State), s.power = 0 → (∀ f, c ≠ .coldReset f) → (∀ f, c ≠ .warmReset f) → exec c s = .next s

/-- While the PCIe link is down, the module is not powered, it is in D3hot (for D3hot the model's choice, log entry
10), or a function-level or soft reset is in progress, every host write of a register, the doorbell or BAR2 leaves
the whole state as it is, and so does a write of an illegal size or alignment at any time. While a slice's merge
buffer is full with writes that wait for a stack at CRIT, a host write of a register waits too: it changes nothing
but the writes that wait. -/
def Obligations.HostWritesNeedTheLink : Prop :=
  (∀ (c : Instr) (s : State), isHostWrite c = true → s.hostOk = false → exec c s = .next s) ∧
  (∀ s : State, s.hostOk = true ↔ s.power = 1 ∧ s.pcieUp = true ∧ s.resetting = none ∧ s.cfg.d3hot = false) ∧
  (∀ (off n v : Nat) (s : State), (n ≠ 4 ∧ n ≠ 8 ∨ off % n ≠ 0) → exec (.registerWrite off n v) s = .next s) ∧
  ∀ (c : Instr) (s : State), isHostWrite c = true → (∀ o d, c ≠ .bar2Write o d) → s.postedFull = true →
    exec c s = .next s ∨ ∃ w, exec c s = .next { s with heldWrites := s.heldWrites ++ [w] }

/-- FP4 E2M1 reads bit 3 as the sign and the other three as a magnitude of 0, 0.5, 1, 1.5, 2, 3, 4 or 6: m × 2^−1
with m of 0, 1, 2, 3, 4, 6, 8 or 12. None of the sixteen encodings is an infinity or a NaN. -/
def Obligations.Fp4ElementValues : Prop :=
  ∀ c : Nat, c < 16 → ∃ m k, elemNum .fp4 c = .fin (decide (8 ≤ c)) m k ∧ k = -1 ∧
    m = [0, 1, 2, 3, 4, 6, 8, 12].getD (c % 8) 0

/-- An E8M0 block scale e from 0x00 to 0xFE has the value 1 × 2^(e − 127); 0xFF is NaN. -/
def Obligations.BlockScaleValues : Prop :=
  scaleNum .e8m0 0xFF = none ∧ ∀ e : Nat, e < 0xFF → scaleNum .e8m0 e = some (1, (e : Int) - 127)

/-- While the host interface takes writes, RING_TAIL_WRITE and STATUS_HEAD_WRITE of any of the 16 rings set the
ring's RING_TAIL or STATUS_HEAD to the 32-bit value and change no other register field, no memory, no packet and no
token: beside the field, only what every host write changes; but where the record of a ring's stop waits, a
STATUS_HEAD that gives it room lets it be written. -/
def Obligations.RingIndexWritesTakeEffect : Prop :=
  ∀ (s : State) (r v : Nat), HostTakes s → r < 16 →
    (∃ t, exec (.ringTailWrite r v) s = .next t ∧ t.rd .ringRingTail [r] = v % 2 ^ 32 ∧
      HostWrote 4 [Reg.ringRingTail.key [r]] s t) ∧
    ((∀ l, s.lateOf r = some l → l.pid ≠ none) → ∃ t, exec (.statusHeadWrite r v) s = .next t ∧
      t.rd .ringStatusHead [r] = v % 2 ^ 32 ∧ HostWrote 4 [Reg.ringStatusHead.key [r]] s t) ∧
    (∀ l, s.lateRecords = [l] → l.ring = r → l.pid = none → l.signalled = false → s.pcieUp = true → s.rd .arbFreeze [36] = 0 →
      ∃ t, exec (.statusHeadWrite r v) s = .next t ∧ t.rd .ringStatusHead [r] = v % 2 ^ 32 ∧ t.mem = s.mem ∧ t.flight = s.flight ∧
        if (s.rd .ringStatusTail [r] + 2 ^ 32 - v % 2 ^ 32) % 2 ^ 32 < 2 ^ s.rd .ringStatusLog2 [r] then
          t.out = s.out ++ recordWrites s l ∧ t.lateRecords = [] ∧
          t.rd .ringStatusTail [r] = (s.rd .ringStatusTail [r] + 1) % 2 ^ 32
        else t.out = s.out ∧ t.lateRecords = [l])

/-- A write of a legal new value to RING_BASE, LOC or RING_LOG2 of a ring whose ENABLE is 0 and whose RING_TAIL
equals RING_HEAD sets the field and zeroes RING_TAIL, RING_FETCHED and RING_HEAD; one to STATUS_BASE or STATUS_LOG2,
where no stop record waits for the ring, sets it and zeroes STATUS_HEAD and STATUS_TAIL. Otherwise the write is
ignored and counted in CONFIG_IGNORED, and so is a base with any of bits 11:0 set. Nothing else changes. A write of
the value in force has no effect (the model's choice, log entry 12), hence the hypothesis of a new value. -/
def Obligations.RingConfigurationWrites : Prop :=
  ∀ (s : State) (r v : Nat), HostTakes s → r < 16 →
    (∀ f : RingField, v < 2 ^ (ringReg f).width → v ≠ s.rd (ringReg f) [r] →
      (f = .log2 → 6 ≤ v ∧ v ≤ 16) → ∃ t, exec (.ringConfigWrite r f v) s = .next t ∧
        if (f = .base → v % 4096 = 0) ∧ s.rd .ringEnable [r] ≠ 1 ∧ s.rd .ringRingTail [r] = s.rd .ringRingHead [r] then
          t.rd (ringReg f) [r] = v ∧ t.rd .ringRingTail [r] = 0 ∧ t.rd .ringRingFetched [r] = 0 ∧ t.rd .ringRingHead [r] = 0 ∧
          HostWrote (ringReg f).span [(ringReg f).key [r], Reg.ringRingTail.key [r], Reg.ringRingFetched.key [r],
            Reg.ringRingHead.key [r]] s t
        else
          t.rd .devConfigIgnored [] = satAdd 32 (s.rd .devConfigIgnored []) 1 ∧
          HostWrote (ringReg f).span [Reg.devConfigIgnored.key []] s t) ∧
    (∀ f : StatusField, (∀ l, s.lateOf r = some l → l.pid ≠ none) → v < 2 ^ (statusReg f).width → v ≠ s.rd (statusReg f) [r] →
      (f = .log2 → 6 ≤ v ∧ v ≤ 16) → ∃ t, exec (.statusConfigWrite r f v) s = .next t ∧
        if (f = .base → v % 4096 = 0) ∧ s.rd .ringEnable [r] ≠ 1 ∧ s.rd .ringRingTail [r] = s.rd .ringRingHead [r] then
          t.rd (statusReg f) [r] = v ∧ t.rd .ringStatusHead [r] = 0 ∧ t.rd .ringStatusTail [r] = 0 ∧
          HostWrote (statusReg f).span [(statusReg f).key [r], Reg.ringStatusHead.key [r], Reg.ringStatusTail.key [r]] s t
        else
          t.rd .devConfigIgnored [] = satAdd 32 (s.rd .devConfigIgnored []) 1 ∧
          HostWrote (statusReg f).span [Reg.devConfigIgnored.key []] s t)

/-- With BOOT_ERROR 0, DEVICE_ENABLE_WRITE sets DEVICE_ENABLE to what is written, but a write of 1 while READY is 0
changes nothing beside what every host write does. TOKEN_ADD adds its amount to the token, leaving 2^64 − 1 where
the sum would pass it, clears the token's FAULTED bit, and changes no other token and nothing else. -/
def Obligations.DeviceEnableAndTokens : Prop :=
  ∀ s : State, HostTakes s →
    (∀ on : Bool, s.rd .devBootError [] = 0 → ∃ t, exec (.deviceEnableWrite on) s = .next t ∧
      if on = true ∧ s.rd .devReady [] = 0 then HostWrote 4 [] s t
      else t.rd .devDeviceEnable [] = (if on then 1 else 0) ∧ HostWrote 4 [Reg.devDeviceEnable.key []] s t) ∧
    (∀ k n : Nat, k < 65536 → n < 2 ^ 48 → s.token k < 2 ^ 64 → ∃ t, exec (.tokenAdd k n) s = .next t ∧
      t.token k = min (s.token k + n) (2 ^ 64 - 1) ∧ t.tokenFaulted k = false ∧ s.token k ≤ t.token k ∧
      (∀ j, j ≠ k → t.token j = s.token j ∧ t.tokenFaulted j = s.tokenFaulted j) ∧
      ChangesOnly [.regs, .bwTotals, .bwWindow, .tokens, .tokFaulted] s t ∧ RegsBut (channelKeys 0) s t ∧ HostBytes 8 s t)

/-- A 4-byte BAR0 write at the offset of RING_TAIL of any ring is RING_TAIL_WRITE, and it completes with RING_TAIL
holding the value; a 4-byte write of a read-only word (RING_HEAD) changes no register beside what every host write
does. A BAR0 read of 4 or 8 aligned bytes is answered with the register words and changes nothing but byte and event
counts. A BAR0 read of an illegal size or alignment, and every AtomicOp, is answered with Unsupported Request and
nothing else happens; an illegal write is discarded. -/
def Obligations.RegisterWordsAndAtomics : Prop :=
  ∀ s : State,
    (∀ r v : Nat, HostTakes s → r < 16 → v < 2 ^ 32 → ∃ t,
      exec (.registerWrite (Reg.ringRingTail.off + strideSum Reg.ringRingTail.dims [r]) 4 v) s = .next t ∧
      exec (.ringTailWrite r v) s = .next t ∧ t.rd .ringRingTail [r] = v) ∧
    (∀ r v : Nat, HostTakes s → r < 16 → ∃ t,
      exec (.registerWrite (Reg.ringRingHead.off + strideSum Reg.ringRingHead.dims [r]) 4 v) s = .next t ∧ HostWrote 4 [] s t) ∧
    (∀ off n : Nat, s.linked = true → s.cfg.d3hot = false → bar0Legal off n = true → ∃ t v, s.bar0Read off n = some v ∧
      exec (.bar0BadAccess false off n) s = .next t ∧ t.out = s.out ++ [.readData (leBytes n v)] ∧
      ChangesOnly [.regs, .bwTotals, .bwWindow, .out] s t ∧ RegsBut (channelKeys 0) s t ∧
      Tab.get 0 t.bwTotals 64 = Tab.get 0 s.bwTotals 64 + n) ∧
    (∀ (off n : Nat) (write : Bool), s.linked = true → (n ≠ 4 ∧ n ≠ 8 ∨ off % n ≠ 0) →
      exec (.bar0BadAccess write off n) s = .next (if write then s else { s with out := s.out ++ [.readUR] })) ∧
    (s.linked = true → exec .atomicOpRequest s = .next { s with out := s.out ++ [.readUR] })

/-- A read of Vendor and Device ID answers 0x0420 above the vendor's identifier, of the class code 0x120000, of
Revision ID 0xA2 and of Interrupt Pin 0; a power-state write moves the function between D0 and D3hot; a BAR2 size
write of 1 to 64 GiB selects it. No request changes anything else, and a BAR2 size beyond 64 GiB is ignored. -/
def Obligations.ConfigurationSpace : Prop :=
  ∀ s : State, s.linked = true →
    exec (.configAccess .readId) s = .next { s with out := s.out ++ [.config (0x0420 * 65536 + Config.vendorId.toNat)] } ∧
    exec (.configAccess .readClass) s = .next { s with out := s.out ++ [.config 0x120000] } ∧
    exec (.configAccess .readRevision) s = .next { s with out := s.out ++ [.config 0xA2] } ∧
    exec (.configAccess .readInterruptPin) s = .next { s with out := s.out ++ [.config 0] } ∧
    (∀ d, exec (.configAccess (.power d)) s = .next { s with cfg := { s.cfg with d3hot := d } }) ∧
    (∀ g, exec (.configAccess (.bar2Size g)) s = .next (if g ≤ 6 then { s with cfg := { s.cfg with bar2Log2 := g } } else s)) ∧
    ∀ q, ∃ t, exec (.configAccess q) s = .next t ∧ ChangesOnly [.out, .cfg] s t

/-- Once start-up is done, a BAR2 read whose bytes lie inside one region, on available channels, on no held stack
and without an uncorrectable error is answered with the bytes of device memory at BAR2_BASE + offset; beside that it
changes only what every access to memory may (byte and event counts, corrected bursts with their report). Outside
every region it is answered with Unsupported Request and logged. A BAR2 write of such bytes, with room in the merge
buffers, makes every byte of the range read as written and leaves every byte outside it; one to a stack at CRIT, or
behind a full merge buffer, waits and leaves all of memory; outside every region it leaves all of memory and is
logged. -/
def Obligations.Bar2Accesses : Prop :=
  ∀ (s : State) (o : Nat), s.hostOk = true → s.startDone = true →
    let a := s.rd .devBar2Base [] + o
    (∀ n, s.bar2Inside o n = true → s.inRegion a n = true → s.unavailIn a n = false → s.heldIn a n = false → s.badBolts a n = [] →
      ∃ t, exec (.bar2Read o n 0) s = .next t ∧ t.out.getLast? = some (.readData (s.mem.read a n)) ∧
        ChangesOnly trafficFields s t ∧ RegsBut trafficKeys s t) ∧
    (∀ n, s.bar2Inside o n = true → s.inRegion a n = false →
      ∃ t, exec (.bar2Read o n 0) s = .next t ∧ t.out.getLast? = some .readUR ∧ Logged 4 1 a s t ∧
        ChangesOnly logFields s t ∧ RegsBut (logKeys ++ channelKeys 0) s t) ∧
    (∀ d : List Byte, s.bar2Inside o d.length = true → s.inRegion a d.length = true → s.unavailIn a d.length = false →
      s.heldIn a d.length = false → s.postedFull = false → s.badBolts a d.length = [] →
      ∃ t, exec (.bar2Write o d) s = .next t ∧ t.mem.read a d.length = d ∧ MemBut a d.length s t ∧
        ChangesOnly (.mem :: trafficFields) s t ∧ RegsBut trafficKeys s t) ∧
    (∀ d : List Byte, s.bar2Inside o d.length = true → s.inRegion a d.length = true →
      (s.heldIn a d.length = true ∨ s.postedFull = true) →
      ∃ t, exec (.bar2Write o d) s = .next t ∧ t.heldWrites = s.heldWrites ++ [{ kind := 1, addr := a, data := d }] ∧
        ChangesOnly [.heldWrites, .regs, .bwTotals, .bwWindow] s t ∧ RegsBut (channelKeys 0) s t) ∧
    (∀ d : List Byte, s.bar2Inside o d.length = true → s.inRegion a d.length = false →
      ∃ t, exec (.bar2Write o d) s = .next t ∧ t.mem = s.mem ∧ Logged 4 1 a s t ∧
        ChangesOnly (.bwTotals :: .bwWindow :: logFields) s t ∧ RegsBut (logKeys ++ channelKeys 0) s t)

/-- A BAR2 read that lies inside a region and meets a stack at CRIT or a frozen arbiter is held: nothing is answered
yet. When a held read has waited BAR2_HOLD_LIMIT, BAR2_HOLD_EXPIRY answers Completer Abort, removes it, enters a
THERMAL_HOLD event at its address in the integrity log and reports it, and changes nothing else; before that time it
changes nothing. -/
def Obligations.HeldReadsExpire : Prop :=
  (∀ (s : State) (o n : Nat), s.hostOk = true → s.startDone = true → s.bar2Inside o n = true →
    s.inRegion (s.rd .devBar2Base [] + o) n = true → s.unavailIn (s.rd .devBar2Base [] + o) n = false →
    s.heldIn (s.rd .devBar2Base [] + o) n = true → ∃ t, exec (.bar2Read o n 0) s = .next t ∧ t.out = s.out ∧
      t.heldReads = s.heldReads ++ [{ id := s.nextId, addr := s.rd .devBar2Base [] + o, len := n, since := s.aoNow }] ∧
      ChangesOnly [.regs, .heldReads, .nextId] s t ∧ RegsBut (channelKeys 0) s t) ∧
  ∀ (s : State) (h : HeldRead), s.power = 1 → s.heldReads.find? (fun x => x.id == h.id) = some h →
    (s.aoNow < h.since + msTicks (s.rd .memBar2HoldLimit []) → exec (.bar2HoldExpiry h.id) s = .next s) ∧
    (h.since + msTicks (s.rd .memBar2HoldLimit []) ≤ s.aoNow → ∃ t c, exec (.bar2HoldExpiry h.id) s = .next t ∧
      t.heldReads = s.heldReads.erase h ∧ t.out.getLast? = some .readCA ∧ Logged 5 c h.addr s t ∧
      ChangesOnly (.heldReads :: logFields) s t ∧ RegsBut logKeys s t)

/-- With PERST# deasserted, PWR_GOOD asserted, THERMTRIP# not asserted and the DMA arbiter not frozen, PCIE_LINK_UP
brings the link up, at a speed and a width that a x16 link allows: what waited for it leaves in order, and READY
becomes 1 exactly when start-up is done, BOOT_ERROR is 0 and no reset is in progress. PERST_DEASSERT counts only
once PWR_GOOD is asserted. REFCLK_LOSS takes the link down and changes no other device state. STARTUP_TIMEOUT sets
BOOT_ERROR to 6 when PERST# is deasserted, READY is 0, BOOT_ERROR is 0 and no reset is in progress, and changes
nothing otherwise. -/
def Obligations.HostLinkEvents : Prop :=
  ∀ s : State, s.power = 1 →
    (s.pcieUp = false → s.perst = false → s.pwrGood = true → s.thermtrip = false → s.rd .arbFreeze [36] = 0 →
      ∃ t, exec .pcieLinkUp s = .next t ∧ t.pcieUp = true ∧ t.heldOut = [] ∧ t.out = s.out ++ s.heldOut ∧
        t.cfg = { s.cfg with speed := t.cfg.speed, width := t.cfg.width } ∧ 1 ≤ t.cfg.speed ∧ t.cfg.speed ≤ 6 ∧
        t.cfg.width ∈ [1, 2, 4, 8, 16] ∧
        t.rd .devReady [] = (if s.startDone = true ∧ s.rd .devBootError [] = 0 ∧ s.resetting = none then 1 else s.rd .devReady []) ∧
        ChangesOnly [.pcieUp, .refclk, .heldOut, .out, .regs, .bwTotals, .bwWindow, .active, .cfg, .free] s t) ∧
    exec .perstDeassert s = .next (if s.pwrGood then { s with perst := false } else s) ∧
    exec .refclkLoss s = .next { s with refclk := false, pcieUp := false } ∧
    ∃ t, exec .startupTimeout s = .next t ∧
      if s.perst = false ∧ s.rd .devReady [] = 0 ∧ s.rd .devBootError [] = 0 ∧ s.resetting = none then
        t.rd .devBootError [] = 6 ∧ t.startDone = false ∧ ChangesOnly [.regs, .startDone] s t ∧
          RegsBut [Reg.devBootError.key [], Reg.pwrPendingImage.key []] s t
      else t = s

/-- A write of REEF_SET or REEF_CLEAR of word w sets or clears exactly the bits of REEF_STATE word w that are 1 in
the value; other words keep theirs. With no step open the reef state takes effect at once, and gated engines with
working copies to rewrite wake; while a step is open the layers in force, and the rewrites due, stay as they are. No
memory changes. -/
def Obligations.ReefWritesSetLayerBits : Prop :=
  ∀ (s : State) (w bits : Nat), HostTakes s → w < 128 → bits < 2 ^ 32 →
    let after := fun (on : Bool) (t : State) =>
      (∀ i, i < 32 → (t.rd .olReefState [w]).testBit i = (if bits.testBit i then on else (s.rd .olReefState [w]).testBit i)) ∧
      RegsBut (Reg.olReefState.key [w] :: channelKeys 0 ++
        (List.range 21).map (fun k => Reg.domDstate.key [56 + k]) ++
        (List.range 21).map (fun k => Reg.domClocksStopped.key [56 + k])) s t ∧
      ChangesOnly [.regs, .bwTotals, .bwWindow, .reef, .rewrites, .rewritesDue, .rewriteStream] s t ∧ HostBytes 4 s t ∧
      (if s.stepOpen then t.reef = s.reef ∧ t.rewrites = s.rewrites else t.reef = t.reefState ∧ t.rewritesDue = [])
    (∃ t, exec (.reefSet w bits) s = .next t ∧ after true t) ∧ ∃ t, exec (.reefClear w bits) s = .next t ∧ after false t

/-- A write of 1 to DEFAULTS sets NUM_POLICY to the Default column of R155, every telltale POLICY to RECORD and
outlier MODE to WIDEN_THEN_REEF, and changes no other register field, memory or anything else. A write of 1 to
CLEAR_BROKEN sets BROKEN to 0; with a step-state area it takes GRAD_SCALE and GS_CLEAN from the live copy again,
which software may have restored, and changes no other register field, memory or anything else. -/
def Obligations.StepControlActions : Prop :=
  ∀ s : State, HostTakes s →
    (∃ t, exec .defaults s = .next t ∧ t.rd .stNumPolicy [] = 0x2096 ∧ t.rd .olMode [] = 1 ∧
      (∀ i, i < 256 → t.rd .monPolicy [i] = 0) ∧
      HostWrote 4 (Reg.stNumPolicy.key [] :: Reg.olMode.key [] :: (List.range 256).map (fun i => Reg.monPolicy.key [i])) s t) ∧
    ∃ t, exec .clearBroken s = .next t ∧ t.rd .stBroken [] = 0 ∧
      if s.rd .stStateBase [] = 0 then HostWrote 4 [Reg.stBroken.key []] s t
      else t.rd .stGradScale [] = ofLe (s.mem.read (s.liveCopy.1 + 0x18) 4) ∧
        t.rd .stGsClean [] = ofLe (s.mem.read (s.liveCopy.1 + 0x1C) 4) ∧
        HostWrote 4 [Reg.stBroken.key [], Reg.stGradScale.key [], Reg.stGsClean.key []] s t

/-- While no step is open, GS_SET of a positive, finite, normal value sets the gradient scale to it and the clean
count to 0, and BASELINE_SET makes the monitor's baseline read as the value and its COUNT as 1. Without a step-state
area they are register fields; with one, the value is written into the live copy, no byte outside it changes, and
beside that only what every access to memory may change does. While a step is open, both are ignored and counted in
IGNORED_WRITES. -/
def Obligations.GradientScaleAndBaselineSets : Prop :=
  ∀ (s : State) (i v : Nat), HostTakes s → i < 256 → v < 2 ^ 32 →
    (s.stepOpen = true →
      (∃ t, exec (.gsSet v) s = .next t ∧ t.rd .stIgnoredWrites [] = satAdd 16 (s.rd .stIgnoredWrites []) 1 ∧
        HostWrote 4 [Reg.stIgnoredWrites.key []] s t) ∧
      ∃ t, exec (.baselineSet i v) s = .next t ∧ t.rd .stIgnoredWrites [] = satAdd 16 (s.rd .stIgnoredWrites []) 1 ∧
        HostWrote 4 [Reg.stIgnoredWrites.key []] s t) ∧
    (s.stepOpen = false → s.badBolts (s.liveCopy.1 + 0x18) 8 = [] → 0x00800000 ≤ v → v < 0x7F800000 →
      ∃ t, exec (.gsSet v) s = .next t ∧ t.rd .stGradScale [] = v ∧ t.rd .stGsClean [] = 0 ∧
        if s.rd .stStateBase [] = 0 then HostWrote 4 [Reg.stGradScale.key [], Reg.stGsClean.key []] s t
        else t.mem.read (s.liveCopy.1 + 0x18) 8 = leBytes 4 v ++ leBytes 4 0 ∧ MemBut (s.liveCopy.1 + 0x18) 8 s t ∧
          ChangesOnly (.mem :: trafficFields) s t ∧
          RegsBut (Reg.stGradScale.key [] :: Reg.stGsClean.key [] :: trafficKeys) s t) ∧
    (s.stepOpen = false → s.badBolts (s.liveCopy.1 + baselineOff i) 6 = [] →
      ∃ t, exec (.baselineSet i v) s = .next t ∧ t.baseline i = (BitVec.ofNat 32 v, 1) ∧
        if s.rd .stStateBase [] = 0 then HostWrote 4 [Reg.monBaseline.key [i], Reg.monCount.key [i]] s t
        else t.mem.read (s.liveCopy.1 + baselineOff i) 6 = leBytes 4 v ++ leBytes 2 1 ∧
          MemBut (s.liveCopy.1 + baselineOff i) 6 s t ∧ ChangesOnly (.mem :: trafficFields) s t ∧ RegsBut trafficKeys s t)

/-- While no step is open, STATE_BASE_WRITE of zero sets STATE_BASE and changes nothing else beside what a host
write does. One of a legal address whose 1 MiB lies in one region without an uncorrectable error sets STATE_BASE,
also when it held that address before: a fresh area (both commit numbers 0) gets copy 0 with commit number 1, no
last step and the gradient scale in force, and nothing outside copy 0 changes; an area that is not fresh is left as
it is. An address whose 1 MiB leaves its region is ignored and counted. SCALE_HISTORY_WRITE of a new legal value
sets the field while no step is open, and every byte of memory reads as before; while one is open it is ignored and
counted. -/
def Obligations.StepStateAreaWrites : Prop :=
  ∀ s : State, HostTakes s →
    (∀ v : Nat, v < 2 ^ 64 → Reg.stStateBase.rule.ok v = true → s.stepOpen = false →
      ∃ t, exec (.stateBaseWrite v) s = .next t ∧
        (v = 0 → t.rd .stStateBase [] = 0 ∧ HostWrote 8 [Reg.stStateBase.key []] s t) ∧
        (v ≠ 0 → s.inRegion v 0x100000 = false → t.rd .stStateBase [] = s.rd .stStateBase [] ∧
          t.rd .stIgnoredWrites [] = satAdd 16 (s.rd .stIgnoredWrites []) 1 ∧ HostWrote 8 [Reg.stIgnoredWrites.key []] s t) ∧
        (v ≠ 0 → s.inRegion v 0x100000 = true → s.badBolts v 64 = [] → s.badBolts (v + copyBytes) 64 = [] →
            s.badBolts v copyBytes = [] →
          t.rd .stStateBase [] = v ∧ ChangesOnly (.mem :: .heldWords :: trafficFields) s t ∧
          RegsBut (trafficKeys ++ [Reg.stStateBase.key [], Reg.stGradScale.key [], Reg.stGsClean.key []] ++
            (List.range 4096).map (fun e => Reg.shScale.key [e])) s t ∧
          if ofLe (s.mem.read (v + 8) 8) = 0 ∧ ofLe (s.mem.read (v + copyBytes + 8) 8) = 0 then
            t.mem.read v 64 = copyHeader 1 (2 ^ 64 - 1) (BitVec.ofNat 32 (s.rd .stGradScale [])) 0 ∧ MemBut v copyBytes s t
          else t.mem = s.mem)) ∧
    (∀ (f : HistoryField) (e v : Nat), e < 4096 → v < 2 ^ (historyReg f).width → (historyReg f).rule.ok v = true →
      v ≠ s.rd (historyReg f) [e] → ∃ t, exec (.scaleHistoryWrite f e v) s = .next t ∧
        (s.stepOpen = true → t.rd .stIgnoredWrites [] = satAdd 16 (s.rd .stIgnoredWrites []) 1 ∧
          HostWrote 4 [Reg.stIgnoredWrites.key []] s t) ∧
        (s.stepOpen = false → s.rd .stStateBase [] = 0 → t.rd (historyReg f) [e] = v ∧
          HostWrote 4 [(historyReg f).key [e]] s t) ∧
        (s.stepOpen = false → s.rd .stStateBase [] ≠ 0 → s.badBolts (s.liveCopy.1 + historyOff e) 64 = [] →
          t.rd (historyReg f) [e] = v ∧ (∀ a, t.mem.byte a = s.mem.byte a) ∧ ChangesOnly (.mem :: trafficFields) s t ∧
          RegsBut ((historyReg f).key [e] :: Reg.shScale.key [e] :: trafficKeys) s t))

/-- CAPTURE_CLEAR zeroes every field of the record and LAST_FAULT_CLEAR those of LAST_FAULT; LOST_CLEAR empties the
slice's lost-bolt table and clears LOST_OVERFLOW; COUNTER_CLEAR zeroes the counter's VALUE. None of them changes any
other register field, memory, or anything else beside what every host write does. -/
def Obligations.RecordAndTableClears : Prop :=
  ∀ s : State, HostTakes s →
    (∀ c k f : Nat, c < 4 → k < 48 → f < 8 →
      let rs := [Reg.capValid, Reg.capEvents, Reg.capTag, Reg.capDescId, Reg.capMatrix, Reg.capRow, Reg.capCol, Reg.capKblock]
      ∃ t, exec (.captureClear c k f) s = .next t ∧ (∀ r ∈ rs, t.rd r [c, k, f] = 0) ∧
        HostWrote 4 (rs.map (fun r => r.key [c, k, f])) s t) ∧
    (∀ c i : Nat, c < 4 → i < 5 →
      ∃ t, exec (.lastFaultClear c i) s = .next t ∧ t.rd .engValid [c, i] = 0 ∧ t.rd .engStatus [c, i] = 0 ∧
        t.rd .engGroup [c, i] = 0 ∧
        HostWrote 4 [Reg.engValid.key [c, i], Reg.engStatus.key [c, i], Reg.engGroup.key [c, i]] s t) ∧
    (∀ c : Nat, c < 4 → ∃ t, exec (.lostClear c) s = .next t ∧ t.rd .llsLostCount [c] = 0 ∧ t.rd .llsLostOverflow [c] = 0 ∧
        (∀ b, s.homeChannel b = some c → t.lostBolt b = false) ∧
        HostWrote 4 (Reg.llsLostCount.key [c] :: Reg.llsLostOverflow.key [c] ::
          (List.range 64).map (fun k => Reg.llsLostAddr.key [c, k])) s t) ∧
    ∀ c i : Nat, c < 4 → i < 16 → ∃ t, exec (.counterClear c i) s = .next t ∧ t.rd .progValue [c, i] = 0 ∧
      HostWrote 4 [Reg.progValue.key [c, i]] s t

/-- A write of the index of a HEALTHY channel to MAPOUT_REQUEST makes it PENDING with CAUSE 4, logs and reports the
change and notes it for the risk estimate; of a channel that is not HEALTHY it changes nothing. ARBITER_FREEZE sets
FREEZE, and clears DRAINED when FREEZE returns to 0, where nothing waits for the frozen instance; ARBITER_DRAINED
sets DRAINED exactly while FREEZE is 1 and no grant is left to deliver. Nothing else changes beside what a host
write does. -/
def Obligations.MapoutAndArbiterWrites : Prop :=
  (∀ (s : State) (x : Nat), HostTakes s → x < 640 → ∃ t, exec (.mapoutRequest x) s = .next t ∧
    if s.rd .hbmState [x] = 0 then
      t.rd .hbmState [x] = 1 ∧ t.rd .hbmCause [x] = 4 ∧ Logged 0x0D 1 0 s t ∧
      t.riskEvents = s.riskEvents ++ [{ kind := 1, tick := s.aoNow, n := 1 }] ∧
      ChangesOnly (.riskEvents :: .bwTotals :: .bwWindow :: logFields) s t ∧ HostBytes 4 s t ∧
      RegsBut (Reg.hbmState.key [x] :: Reg.hbmCause.key [x] :: logKeys ++ channelKeys 0) s t
    else HostWrote 4 [] s t) ∧
  (∀ (s : State) (a : Nat) (on : Bool), HostTakes s → a < 37 →
    (on = true ∨ s.rd .arbFreeze [a] ≠ 1 ∨ s.heldReads = [] ∧ s.heldWrites = []) →
    ∃ t, exec (.arbiterFreeze a on) s = .next t ∧
      t.rd .arbFreeze [a] = (if on then 1 else 0) ∧ t.rd .arbDrained [a] = (if on then s.rd .arbDrained [a] else 0) ∧
      HostWrote 4 [Reg.arbFreeze.key [a], Reg.arbDrained.key [a]] s t) ∧
  ∀ (s : State) (a : Nat), s.power = 1 → a < 37 → ∃ t, exec (.arbiterDrained a) s = .next t ∧
    if s.rd .arbFreeze [a] = 1 ∧ (s.arb a).next = none then
      t.rd .arbDrained [a] = 1 ∧ OnlyRegs [Reg.arbDrained.key [a]] s t
    else t = s

/-- A scrub access reads the next bolt of its stack's pass and no other, in ascending HBM channel and offset with
mapped-out channels passed over: its corrected bursts, those known and the new ones, are counted, saturating, and
when the count passes CE_LIMIT a HEALTHY channel becomes PENDING with CAUSE 1; a bolt found with an uncorrectable
error is held as such from then on. Device memory is unchanged. Scrub off, a stack that is not there, or a bolt that
is not the next one leave everything as it is; a stack at CRIT, or with its port's arbiter frozen, pauses where it
stands. Once a period of SCRUB_HOURS is over and every stack's pass complete, the corrected-burst counts restart,
SCRUB_PASSES counts, SCRUB_LATE too when a pause drew the period out, and the next passes begin; before that, or
reported late otherwise than it went, SCRUB_PERIOD_END changes nothing. -/
def Obligations.PatrolScrub : Prop :=
  (∀ (s : State) (y k n : Nat) (u : Bool), s.power = 1 → ∃ t, exec (.scrubAccess y k n u) s = .next t ∧ t.mem = s.mem ∧
    let st := y / 32
    (20 ≤ st ∨ s.rd .memScrubEnable [] ≠ 1 → t = s) ∧
    (st < 20 → s.rd .memScrubEnable [] = 1 → s.stackHeld st = true → ChangesOnly [.patrol] s t ∧
      t.patrol.pos = s.patrol.pos ∧ st ∈ t.patrol.held) ∧
    (st < 20 → s.rd .memScrubEnable [] = 1 → s.stackHeld st = false →
      (s.scrubNext st ≠ some (y % 32 * channelBolts + k) ∨ channelBolts ≤ k → t = s) ∧
      ∀ p, s.scrubNext st = some p → p = y % 32 * channelBolts + k → k < channelBolts → t.patrol.pos = Tab.put s.patrol.pos st (p + 1) ∧
        ∀ b, s.addrOf (32 * st + p / channelBolts) (p % channelBolts * 512) = some b →
          let x := 32 * st + p / channelBolts
          let m := min 16 (Tab.get 0 s.ce b + n)
          (0 < m → t.rd .hbmCeCount [x] = satAdd 16 (s.rd .hbmCeCount [x]) m) ∧
          (u = true → t.ue.contains b = true) ∧
          (0 < m → s.rd .memCeLimit [] < s.rd .hbmCeCount [x] + m → s.rd .hbmState [x] = 0 →
            t.rd .hbmState [x] = 1 ∧ t.rd .hbmCause [x] = 1) ∧
          (m = 0 → u = false → s.ue.contains b = false → ChangesOnly [.regs, .patrol, .ce] s t ∧ RegsBut trafficKeys s t))) ∧
  ∀ (s : State) (late : Bool), s.power = 1 → ∃ t, exec (.scrubPeriodEnd late) s = .next t ∧
    if s.scrubOver = true ∧ (late = true ↔ s.patrol.held ≠ [] ∧ s.patrol.since + s.scrubTicks < s.patrol.last) then
      (∀ x, x < 640 → t.rd .hbmCeCount [x] = 0) ∧ t.rd .memScrubPasses [] = (s.rd .memScrubPasses [] + 1) % 2 ^ 32 ∧
      t.rd .memScrubLate [] = (if late = true then
        (s.rd .memScrubLate [] + 1) % 2 ^ 32 else s.rd .memScrubLate []) ∧
      t.patrol = { pos := [], held := [], since := s.aoNow, last := s.aoNow } ∧ ChangesOnly [.regs, .patrol] s t ∧
      RegsBut (Reg.memScrubPasses.key [] :: Reg.memScrubLate.key [] ::
        (List.range 640).map (fun x => Reg.hbmCeCount.key [x])) s t
    else t = s

/-- A reading below 110 °C sets the stack's TEMP and its thermal state: CRIT at 105 °C or above; from CRIT, CRIT
down to 100 °C and WARN below it; from WARN, WARN down to 92 °C and NORMAL below it; from NORMAL, WARN at 95 °C or
above. An entry to WARN or CRIT is counted, both at once from NORMAL to CRIT, and THROTTLED follows WARN. With no
access, commit or collective that waits for the stack, a reading that keeps the state changes no other register
field and nothing else, one that changes it also the risk estimate and what is reported, and no memory changes. -/
def Obligations.StackTemperatureStates : Prop :=
  ∀ (s : State) (k c : Nat), s.power = 1 → k < 20 → c < 110 → s.rd .stkTstate [k] < 3 → s.heldReads = [] →
    s.heldWrites = [] → s.colls = [] → Settled s →
    ∃ t, exec (.stackTempSample k c) s = .next t ∧ t.rd .stkTemp [k] = c ∧ t.mem = s.mem ∧
      let was := s.rd .stkTstate [k]
      let now := if 105 ≤ c then 2 else if was = 2 then (if 100 ≤ c then 2 else 1)
        else if was = 1 then (if 92 ≤ c then 1 else 0) else if 95 ≤ c then 1 else 0
      t.rd .stkTstate [k] = now ∧
      (now = was → OnlyRegs [Reg.stkTemp.key [k]] s t) ∧
      (now ≠ was → t.rd .engThrottled [k / 5, k % 5] = (if now = 1 then 1 else 0) ∧
        t.rd .stkCritEntries [k] = (if now = 2 then (s.rd .stkCritEntries [k] + 1) % 2 ^ 32 else s.rd .stkCritEntries [k]) ∧
        t.rd .stkWarnEntries [k] =
          (if now = 1 ∨ now = 2 ∧ was = 0 then (s.rd .stkWarnEntries [k] + 1) % 2 ^ 32 else s.rd .stkWarnEntries [k]) ∧
        ChangesOnly [.regs, .riskEvents, .reports, .reportSeq, .out] s t)

/-- COUNTER_SELECT_WRITE of an event and filter that R362 allows sets EVENT, FILTER and ENABLE and zeroes VALUE when
EVENT or FILTER changes; any other selection is ignored and counted in SELECT_IGNORED. BW_ENABLE_WRITE starts
windows at the present tick or discards the window in progress, and changes nothing when it writes the value in
force. BW_WINDOW_END at the last tick of a window copies its counts to the LAST fields together, adds one to
WINDOW_SEQ, sets WINDOW_END_TICK to that tick and starts the next window at zero; at any other tick it changes
nothing. -/
def Obligations.ProgrammableCountersAndWindows : Prop :=
  (∀ (s : State) (c i ev f : Nat) (on : Bool), HostTakes s → c < 4 → i < 16 → ev < 1024 → f < 16 →
    ∃ t, exec (.counterSelectWrite c i ev f on) s = .next t ∧
      if eventOk c ev = true ∧ filterOk ev f = true then
        t.rd .progEvent [c, i] = ev ∧ t.rd .progFilter [c, i] = f ∧ t.rd .progEnable [c, i] = (if on then 1 else 0) ∧
        (if s.rd .progEvent [c, i] = ev ∧ s.rd .progFilter [c, i] = f then
          c ≠ 0 → t.rd .progValue [c, i] = s.rd .progValue [c, i] else t.rd .progValue [c, i] = 0) ∧
        HostWrote 4 [Reg.progEvent.key [c, i], Reg.progFilter.key [c, i], Reg.progEnable.key [c, i], Reg.progValue.key [c, i]] s t
      else
        t.rd .ctrSelectIgnored [] = satAdd 32 (s.rd .ctrSelectIgnored []) 1 ∧ HostWrote 4 [Reg.ctrSelectIgnored.key []] s t) ∧
  (∀ (s : State) (on : Bool), HostTakes s → ∃ t, exec (.bwEnableWrite on) s = .next t ∧
    (s.rd .ctrBwEnable [] = (if on then 1 else 0) → HostWrote 4 [] s t) ∧
    (s.rd .ctrBwEnable [] = (if on then 0 else 1) → t.rd .ctrBwEnable [] = (if on then 1 else 0) ∧
      t.bwWindow = [] ∧ t.bwStart = s.aoNow ∧ HostBytes 4 s t ∧ ChangesOnly [.regs, .bwTotals, .bwWindow, .bwStart] s t ∧
      RegsBut (Reg.ctrBwEnable.key [] :: channelKeys 0) s t)) ∧
  ∀ s : State, s.power = 1 → ∃ t, exec .bwWindowEnd s = .next t ∧
    if s.bwEnds then
      (∀ p, p < 43 → t.view .bwLastOut [p] = Tab.get 0 s.bwWindow (2 * p) % 2 ^ 64 ∧
        t.view .bwLastIn [p] = Tab.get 0 s.bwWindow (2 * p + 1) % 2 ^ 64) ∧
      t.rd .ctrWindowSeq [] = (s.rd .ctrWindowSeq [] + 1) % 2 ^ 64 ∧ t.rd .ctrWindowEndTick [] = s.aoNow % 2 ^ 64 ∧
      t.bwWindow = [] ∧ t.bwTotals = s.bwTotals ∧ ChangesOnly [.regs, .bwWindow, .bwLast] s t ∧
      RegsBut [Reg.ctrWindowSeq.key [], Reg.ctrWindowEndTick.key []] s t
    else t = s

/-- POWER_SAMPLE reports the averages of the last ten measurements and moves the issue duty by at most one sixteenth
within 4 to 16, POWER_THROTTLED being 1 exactly while it is below 16; with no collective in flight to give a SLOW
notice it changes nothing beside these, the samples and the domains' powers. A droop event counts in DROOP_EVENTS,
is noted for the risk estimate, cuts the corner passes of running tests on the supply short, and stops the domain's
issue until DROOP_END. BROWN_OUT leaves every switched domain off, PWR_GOOD deasserted, THERMTRIP# released, the
link down and the module unpowered. -/
def Obligations.SupplyAndDroops : Prop :=
  (∀ (s : State) (mv w : Nat) (ds : List (Nat × Nat)), s.power = 1 → 4 ≤ s.duty → s.duty ≤ 16 → s.colls = [] →
    ∃ t, exec (.powerSample mv w ds) s = .next t ∧ 4 ≤ t.duty ∧ t.duty ≤ 16 ∧ t.duty ≤ s.duty + 1 ∧ s.duty ≤ t.duty + 1 ∧
      (s.powerLog.length ≤ 10 → t.powerLog.length ≤ 10 ∧ t.powerLog.getLast? = some (mv, w)) ∧
      t.rd .pwrInputW [] = average (t.powerLog.map (fun p => p.2)) % 2 ^ 16 ∧
      t.rd .pwrInputMv [] = average (t.powerLog.map (fun p => p.1)) % 2 ^ 16 ∧
      t.rd .pwrPowerThrottled [] = (if t.duty < 16 then 1 else 0) ∧
      (s.rd .pwrPowerLimitW [] < average (t.powerLog.map (fun p => p.2)) → t.duty = max 4 (s.duty - 1)) ∧
      ChangesOnly [.regs, .powerLog, .duty] s t ∧ RegsBut ([Reg.pwrInputW.key [], Reg.pwrInputMv.key [],
        Reg.pwrPowerThrottled.key []] ++ (List.range 80).map (fun d => Reg.domPowerDw.key [d])) s t) ∧
  (∀ (s : State) (d : Nat), s.power = 1 → (d < 80 ∨ d = 255) → ∃ t, exec (.droopEvent d) s = .next t ∧
    t.drooped.contains d = true ∧ t.rd .pwrDroopEvents [] = satAdd 32 (s.rd .pwrDroopEvents []) 1 ∧
    t.riskEvents = s.riskEvents ++ [{ kind := 11, tick := s.aoNow, n := 1 }] ∧
    t.tests = (s.cutTests (fun u => (decide (d < 76) && u == d) || d == 255)).tests ∧
    ChangesOnly [.regs, .tests, .drooped, .riskEvents, .reports, .reportSeq, .out] s t) ∧
  (∀ (s : State) (d : Nat), s.power = 1 → ∃ t, exec (.droopEnd d) s = .next t ∧ t.drooped.contains d = false ∧
    (∀ e, e ≠ d → t.drooped.contains e = s.drooped.contains e) ∧ ChangesOnly [.drooped] s t) ∧
  ∀ s : State, s.power ≠ 0 → ∃ t, exec .brownOut s = .next t ∧ t.power = 0 ∧ t.pwrGood = false ∧ t.pcieUp = false ∧ t.thermtrip = false ∧
    (∀ d, d < 80 → t.rd .domDstate [d] = 0 ∧ t.rd .domClocksStopped [d] = 1) ∧ t.mem = s.mem ∧
    ChangesOnly [.regs, .power, .pwrGood, .pcieUp, .thermtrip] s t

/-- A junction reading sets DIE_TEMP of the channel and raises DIE_TEMP_MAX to it; the channel is throttled at 100
°C or above and stays so until a reading below 97 °C; other channels' bits keep their values. At 100 °C or above the
corner passes of tests on the channel's quads are cut short. A reading of 115 °C or above asserts THERMTRIP#, counts
the trip with its source and temperature, sets READY to 0 and leaves every switched domain but the always-on one off
and the link down. No memory changes. A SLOW notice of a collective is not part of this statement: none is in
flight. -/
def Obligations.JunctionTemperatureAndTrips : Prop :=
  ∀ (s : State) (c v : Nat), s.power = 1 → c < 4 → v < 256 → s.rd .pwrDieThrottled [] < 16 → s.rd .dieDieTempMax [c] < 256 →
    s.colls = [] →
    ∃ t, exec (.dieTempSample c v) s = .next t ∧ t.mem = s.mem ∧ t.rd .dieDieTemp [c] = v ∧
      t.rd .dieDieTempMax [c] = max v (s.rd .dieDieTempMax [c]) ∧
      (∀ k, (t.rd .pwrDieThrottled []).testBit k =
        (if k = c then decide (100 ≤ v) || ((s.rd .pwrDieThrottled []).testBit c && decide (97 ≤ v))
         else (s.rd .pwrDieThrottled []).testBit k)) ∧
      (v < 115 → t.power = 1 ∧ t.thermtrip = s.thermtrip ∧ (v < 100 → t.tests = s.tests) ∧
        ChangesOnly [.regs, .tests, .riskEvents, .reports, .reportSeq, .out] s t) ∧
      (115 ≤ v → t.power = 2 ∧ t.thermtrip = true ∧ t.pcieUp = false ∧ t.pwrGood = false ∧ t.rd .devReady [] = 0 ∧
        t.rd .pwrTripCount [] = satAdd 16 (s.rd .pwrTripCount []) 1 ∧ t.rd .pwrTripSource [] = c + 1 ∧ t.rd .pwrTripTemp [] = v ∧
        ∀ d, d < 80 → t.rd .domDstate [d] = (if d = 79 then 2 else 0))

/-- While AUTO_GATE is 1, QUAD_IDLE_GATE gates a running quad that holds no descriptor, context, re-execution or
test, and STACK_IDLE_GATE a running stack engine without work; while AUTO_GATE is 0 neither changes anything.
DOMAIN_WAKE_COMPLETE sets a waking domain running; of an uncore it locks the channel's PLL and restarts its cycle
count; a domain that is not waking keeps its state. Nothing else changes while nothing waits for the domain. -/
def Obligations.DomainGating : Prop :=
  ∀ s : State, s.power = 1 →
    (∀ q, q < 48 → s.rd .pwrAutoGate [] = 1 → s.quadIdle q = true → ∃ t, exec (.quadIdleGate q) s = .next t ∧
      t.rd .domDstate [q] = 0 ∧ t.rd .domClocksStopped [q] = 1 ∧
      OnlyRegs [Reg.domDstate.key [q], Reg.domClocksStopped.key [q]] s t) ∧
    (∀ k, k < 20 → s.rd .pwrAutoGate [] = 1 → s.rd .domDstate [56 + k] = 2 → s.engineBusy k = false → s.tests = [] →
      s.descs = [] → s.retries = [] → ∃ t, exec (.stackIdleGate k) s = .next t ∧
      t.rd .domDstate [56 + k] = 0 ∧ t.rd .domClocksStopped [56 + k] = 1 ∧
      OnlyRegs [Reg.domDstate.key [56 + k], Reg.domClocksStopped.key [56 + k]] s t) ∧
    (s.rd .pwrAutoGate [] = 0 → ∀ k, exec (.quadIdleGate k) s = .next s ∧ exec (.stackIdleGate k) s = .next s) ∧
    ∀ d, d < 80 → Settled s → ∃ t, exec (.domainWakeComplete d) s = .next t ∧
      if s.rd .domDstate [d] = 1 then
        t.rd .domDstate [d] = 2 ∧ t.rd .domClocksStopped [d] = 0 ∧ ChangesOnly [.regs, .cycleBase] s t ∧
        (48 ≤ d ∧ d < 52 → t.rd .diePllLocked [d - 48] = 1 ∧ t.cycleNow (d - 48) = 0)
      else t = s

/-- A cold reset zeroes device memory, loses tokens, steps, collectives and membership, keeps the flash (key, image
areas, mapped-out list) and leaves a powered module with the link down. A warm reset of a powered module (PERST#
becomes asserted) does the same to tokens, steps, collectives and membership but keeps the count of AO ticks and
every byte of memory outside the scratchpad windows and what running packets and collectives were writing. After
either, when self-check finds no failing unit in a module whose units are HEALTHY, no packet or descriptor is left
and READY and DEVICE_ENABLE are 0. While the module is tripped a warm reset is ignored but for the pin. -/
def Obligations.ColdAndWarmResets : Prop :=
  let gone := fun (t : State) => (∀ k, t.token k = 0 ∧ t.tokenFaulted k = false) ∧ t.step = none ∧
    t.commit = none ∧ t.colls = [] ∧ t.rankNodes = [] ∧ t.groups = [] ∧ t.partitions = [] ∧ t.pcieUp = false ∧ t.power = 1
  (∀ (s : State) (f : BootReport), ∃ t, exec (.coldReset f) s = .next t ∧ gone t ∧ t.mem = [] ∧ t.ue = [] ∧ t.thermtrip = false ∧
    t.key = s.key ∧ t.areaA = s.areaA ∧ t.areaB = s.areaB ∧ t.active = s.active ∧
    (f.fails = [] → t.flight = [] ∧ t.descs = [] ∧ t.rd .devReady [] = 0 ∧ t.rd .devDeviceEnable [] = 0)) ∧
  (∀ (s : State) (f : BootReport), s.power = 1 → s.perst = false → ∃ t, exec (.warmReset f) s = .next t ∧ gone t ∧ t.perst = true ∧
    MemOutside ((0x080000000000, 0x80000000) :: s.writing) s t ∧ t.aoNow = s.aoNow ∧ t.key = s.key ∧
    ((∀ u, u < 96 → s.rd .unitHstate [u] = 0) → f.fails = [] →
      t.flight = [] ∧ t.descs = [] ∧ t.rd .devReady [] = 0 ∧ t.rd .devDeviceEnable [] = 0)) ∧
  ∀ (s : State) (f : BootReport), s.power ≠ 1 → s.perst = false → exec (.warmReset f) s = .next { s with perst := true }

/-- A function-level reset stops packets without records, clears rings, tokens, DEVICE_ENABLE and READY, closes no
step with a record, and keeps the link, the integrity log and every byte of memory outside the scratchpad windows
and what running packets and collectives were writing. A DEVICE_SOFT_RESET packet, with no step open, stops every
packet (itself too, without a record), clears rings, tokens and READY and keeps device memory but for what they were
writing, the group table and, while no copy is under way, the link ports. RESET_COMPLETE ends either, and READY
becomes 1 when start-up was done, the link is up and BOOT_ERROR is 0. -/
def Obligations.LinkKeptResets : Prop :=
  (∀ s : State, s.linked = true → ∃ t, exec .functionLevelReset s = .next t ∧ t.flight = [] ∧ t.tokens = [] ∧ t.step = none ∧
    t.colls = [] ∧ t.resetting = some 2 ∧ t.rd .devReady [] = 0 ∧ t.rd .devDeviceEnable [] = 0 ∧ t.rd .pwrLastReset [] = 2 ∧
    (∀ r, r < 16 → t.rd .ringEnable [r] = 0 ∧ t.rd .ringRingTail [r] = 0) ∧ t.pcieUp = s.pcieUp ∧ t.ilog = s.ilog ∧
    MemOutside ((0x080000000000, 0x80000000) :: s.writing) s t) ∧
  (∀ (s : State) (h : PktHdr), Quiet s h → s.step = none → s.rd .stState [] = 0 → ∃ t, exec (.deviceSoftReset h) s = .next t ∧
    t.flight = [] ∧ t.tokens = [] ∧ t.tokFaulted = [] ∧ t.colls = [] ∧ t.resetting = some 3 ∧ t.rd .devReady [] = 0 ∧
    t.rd .devDeviceEnable [] = 0 ∧ t.rd .pwrLastReset [] = 3 ∧ (∀ r, r < 16 → t.rd .ringEnable [r] = 0 ∧ t.rd .ringRingTail [r] = 0) ∧
    MemOutside s.writing s t ∧ t.groups = s.groups ∧ (s.copies = [] → t.ports = s.ports) ∧ t.partitions = s.partitions ∧ t.out = s.out) ∧
  ∀ s : State, s.power = 1 → s.resetting.isSome = true → ∃ t, exec .resetComplete s = .next t ∧ t.resetting = none ∧
    t.rd .devReady [] = (if s.startDone = true ∧ s.pcieUp = true ∧ s.rd .devBootError [] = 0 then 1 else s.rd .devReady []) ∧
    ChangesOnly [.resetting, .regs, .active] s t

/-- With the management port up, a command whose tag, MODULE_ID or key state does not verify is discarded:
CMDS_REJECTED counts it and nothing else changes. One that verifies but whose SEQ does not exceed LAST_CMD_SEQ
counts the same way and is answered with AUTH_FAIL. With the port down nothing arrives. So it is for FENCE,
SVN_RAISE and KEY_SET. -/
def Obligations.CommandsNeedAuthentication : Prop :=
  ∀ (s : State) (h : MgmtHeader) (u : Nat) (k : List Byte), s.power ≠ 0 →
    ∀ c type body, (c, type, body) ∈ [(Instr.fence h u, 0x42, leBytes 2 u), (Instr.svnRaise h u, 0x49, leBytes 4 u),
        (Instr.keySet h k, 0x4A, slice k 0 32)] →
      (s.rd .mgmtPortUp [] ≠ 1 → exec c s = .next s) ∧
      (s.rd .mgmtPortUp [] = 1 → s.messageOk h type body = false → ∃ t, exec c s = .next t ∧
        t.rd .mgmtCmdsRejected [] = satAdd 32 (s.rd .mgmtCmdsRejected []) 1 ∧ OnlyRegs [Reg.mgmtCmdsRejected.key []] s t) ∧
      (s.rd .mgmtPortUp [] = 1 → s.messageOk h type body = true → h.seq ≤ s.rd .mgmtLastCmdSeq [] → ∃ t, exec c s = .next t ∧
        t.rd .mgmtCmdsRejected [] = satAdd 32 (s.rd .mgmtCmdsRejected []) 1 ∧ Replied h.seq .authFail 0 s t ∧
        ChangesOnly [.regs, .out] s t ∧ RegsBut [Reg.mgmtCmdsRejected.key []] s t)

/-- An accepted command sets LAST_CMD_SEQ to its SEQ, counts in CMDS_ACCEPTED and is answered. MAPOUT of a HEALTHY
channel makes it PENDING with CAUSE 4; MAPOUT_CLEAR takes a channel off the flash list, or ends with BAD_PARAM when
it is not there; SVN_RAISE sets SVN_MIN within the running image's SVN and otherwise ends with BAD_PARAM; KEY_SET
replaces the key and is answered under the old one; a RECOVERY chunk, while BOOT_ERROR is 1, is staged at its
offset; STATUS_QUERY answers the health word. -/
def Obligations.AcceptedCommandsAct : Prop :=
  ∀ (s : State) (h : MgmtHeader), h.seq < 2 ^ 64 →
    let taken := fun (t : State) => t.rd .mgmtLastCmdSeq [] = h.seq ∧
      t.rd .mgmtCmdsAccepted [] = satAdd 32 (s.rd .mgmtCmdsAccepted []) 1
    (∀ x, Accepts s h 0x47 (leBytes 2 x) → x < 640 → s.rd .hbmState [x] = 0 → ∃ t, exec (.mapout h x) s = .next t ∧ taken t ∧
      Answered h.seq .done 0 s t ∧ t.rd .hbmState [x] = 1 ∧ t.rd .hbmCause [x] = 4 ∧ Logged 0x0D 1 0 s t ∧
      ChangesOnly (.riskEvents :: logFields) s t ∧
      RegsBut (acceptKeys ++ Reg.hbmState.key [x] :: Reg.hbmCause.key [x] :: logKeys) s t) ∧
    (∀ x, Accepts s h 0x48 (leBytes 2 x) → ∃ t, exec (.mapoutClear h x) s = .next t ∧ taken t ∧ t.flashMap.contains x = false ∧
      (∀ y, y ≠ x → t.flashMap.contains y = s.flashMap.contains y) ∧
      Replied h.seq (if s.flashMap.contains x then .done else .badParam) 0 s t ∧
      ChangesOnly [.regs, .out, .flashMap] s t ∧ RegsBut acceptKeys s t) ∧
    (∀ v, Accepts s h 0x49 (leBytes 4 v) → v < 2 ^ 32 → ∃ t, exec (.svnRaise h v) s = .next t ∧ taken t ∧
      if s.rd .mgmtSvnMin [] ≤ v ∧ v ≤ s.running.svn then
        t.rd .mgmtSvnMin [] = v ∧ Replied h.seq .done 0 s t ∧ ChangesOnly [.regs, .out, .attLog] s t
      else Replied h.seq .badParam 0 s t ∧ ChangesOnly [.regs, .out] s t ∧ RegsBut acceptKeys s t) ∧
    (∀ k : List Byte, k.length = 32 → Accepts s h 0x4A k → ∃ t, exec (.keySet h k) s = .next t ∧ taken t ∧ t.key = k ∧
      Replied h.seq .done 0 s t ∧ ChangesOnly [.regs, .out, .key, .attLog] s t) ∧
    (∀ (o : Nat) (d : List Byte), s.power ≠ 0 → s.rd .mgmtPortUp [] = 1 →
      s.messageOk h 0x4B (leBytes 4 o ++ zeros 4 ++ d) = true → s.rd .mgmtLastCmdSeq [] < h.seq → s.rd .devBootError [] = 1 →
      o ≠ 0xFFFFFFFF → o + d.length ≤ 28 * 1048576 → ∃ t, exec (.recovery h o d) s = .next t ∧ taken t ∧
        t.recovery.read o d.length = d ∧ (∀ a, a < o ∨ o + d.length ≤ a → t.recovery.byte a = s.recovery.byte a) ∧
        Replied h.seq .done 0 s t ∧ ChangesOnly [.regs, .out, .recovery] s t ∧ RegsBut acceptKeys s t) ∧
    (Accepts s h 0x40 [] → ∃ t, exec (.statusQuery h) s = .next t ∧ taken t ∧ Replied h.seq .done s.healthWord s t ∧
      ChangesOnly [.regs, .out, .reports, .reportSeq] s t ∧
      RegsBut (acceptKeys ++ [Reg.mgmtReportsSent.key [], Reg.mgmtReportsDropped.key []]) s t)

/-- While THERMTRIP# is not asserted, an accepted RESET is answered with DONE; then tokens, the open step,
collectives and membership are gone, the link is down, and every byte of memory outside the scratchpad windows and
what running packets and collectives were writing is kept. While it is asserted the command is answered with
THERMAL_HOLD and nothing resets. -/
def Obligations.ManagementResets : Prop :=
  ∀ (s : State) (h : MgmtHeader) (f : BootReport), Accepts s h 0x44 [] → h.seq < 2 ^ 64 →
    (s.thermtrip = false → ∃ t, exec (.reset h f) s = .next t ∧ Replied h.seq .done 0 s t ∧ t.tokens = [] ∧
      t.step = none ∧ t.colls = [] ∧ t.rankNodes = [] ∧ t.pcieUp = false ∧
      MemOutside ((0x080000000000, 0x80000000) :: s.writing) s t) ∧
    (s.thermtrip = true → ∃ t, exec (.reset h f) s = .next t ∧ Replied h.seq .thermalHold 0 s t ∧
      ChangesOnly [.regs, .out] s t ∧ RegsBut acceptKeys s t)

/-- An authentic ACK removes the oldest report with its SEQ and nothing else; one that does not verify is counted in
CMDS_REJECTED. REPORT_RESEND sends every unacknowledged report again, in order, when the port is up and a collector
is configured, and removes none. SUMMARY queues a report of the next number while a key is set, and nothing while
none is. The port's own addresses answer Neighbor Solicitations and Echo Requests with the same data, and no other
address does. A sideband request is answered and changes nothing but an assigned endpoint ID. -/
def Obligations.ReportsUntilAcknowledged : Prop :=
  ∀ s : State, s.power ≠ 0 →
    (∀ h : MgmtHeader, s.rd .mgmtPortUp [] = 1 → s.messageOk h 0x80 [] = true → ∃ t, exec (.ack h) s = .next t ∧
      ChangesOnly [.reports] s t ∧ t.reports = s.reports.eraseP (fun r => r.1 == h.seq)) ∧
    (∃ t, exec .reportResend s = .next t ∧ ChangesOnly [.out] s t ∧
      t.out = s.out ++ (if s.rd .mgmtPortUp [] = 1 ∧ s.rd .mgmtCollectorAddr [] ≠ 0 then s.reports.map (fun r => .mgmt r.2) else [])) ∧
    (s.rd .mgmtKeyState [] = 0 → exec .summary s = .next s) ∧
    (s.rd .mgmtKeyState [] ≠ 0 → s.reports.length < 256 → ∃ t m, exec .summary s = .next t ∧
      t.reports = s.reports ++ [(s.reportSeq + 1, m)] ∧ t.reportSeq = s.reportSeq + 1 ∧
      ChangesOnly [.regs, .reports, .reportSeq, .out] s t ∧ RegsBut [Reg.mgmtReportsSent.key []] s t) ∧
    (∀ a b, exec (.neighborSolicitation a b) s =
      .next (if s.rd .mgmtPortUp [] = 1 ∧ s.ownAddress a = true then { s with out := s.out ++ [.neighborAdvert a b] } else s)) ∧
    (∀ a b d, exec (.echoRequest a b d) s =
      .next (if s.rd .mgmtPortUp [] = 1 ∧ s.ownAddress a = true then { s with out := s.out ++ [.echoReply b d] } else s)) ∧
    (∀ q, ∃ t b, exec (.mctpMessage q) s = .next t ∧ t.out = s.out ++ [.mctp b] ∧ ChangesOnly [.out, .eid] s t) ∧
    ∀ up : Bool, ∃ t, exec (.mgmtPortLinkChange up) s = .next t ∧ t.rd .mgmtPortUp [] = (if up then 1 else 0) ∧
      OnlyRegs [Reg.mgmtPortUp.key []] s t

/-- A write of one of the first seven words of KEY is held: KEY_STATE and the key in force stay as they are. The
write of the last word, while KEY_STATE is UNSET, sets KEY_STATE and makes the key of it and of the words held;
while KEY_STATE is SET it changes neither. MGMT_CONFIG_WRITE sets COLLECTOR_PORT or MGMT_PORT to a port from 1 to
65,535 and ignores 0, and sets the device's and collector's addresses. -/
def Obligations.KeyAndAddressWrites : Prop :=
  ∀ s : State, HostTakes s →
    (∀ w v, w < 7 → v < 2 ^ 32 → ∃ t, exec (.keyWrite w v) s = .next t ∧ t.key = s.key ∧
      Tab.get 0 t.heldWords (0xA00040 + 4 * w) = v ∧ HostWrote 4 [] s t) ∧
    (∀ v, v < 2 ^ 32 → ∃ t, exec (.keyWrite 7 v) s = .next t ∧
      if s.rd .mgmtKeyState [] = 0 then
        t.rd .mgmtKeyState [] = 1 ∧
        t.key = leBytes 32 ((List.range 8).foldl (fun n i =>
          n + (if i = 7 then v else Tab.get 0 s.heldWords (0xA00040 + 4 * i)) * 2 ^ (32 * i)) 0) ∧
        HostBytes 4 s t ∧ ChangesOnly [.regs, .bwTotals, .bwWindow, .heldWords, .key] s t ∧
        RegsBut (Reg.mgmtKeyState.key [] :: channelKeys 0) s t
      else t.key = s.key ∧ HostWrote 4 [] s t) ∧
    ∀ (f : MgmtField) (v : Nat), v < 2 ^ (mgmtReg f).width → ∃ t, exec (.mgmtConfigWrite f v) s = .next t ∧
      t.rd (mgmtReg f) [] = (if (f = .collectorPort ∨ f = .mgmtPort) ∧ v = 0 then s.rd (mgmtReg f) [] else v) ∧
      HostWrote (mgmtReg f).span [(mgmtReg f).key []] s t

/-- A NOP whose ring may fetch and whose waits are met ends with DONE and changes nothing but its ring's indices and
counters. REG_WRITE of a misaligned offset or one below 0x0010_0000 ends with BAD_PARAM and writes nothing;
REG_WRITE of a monitor's THR_HI sets it to a legal value and nothing else. RING_RESET of another ring and
RING_RESET_WRITE set ENABLE to 0, RING_STATE to resetting, end every packet of that ring that has not started with
SKIPPED and leave every other packet as it is; RING_RESET of the packet's own ring ends with BAD_PARAM. When the
ring has drained, RING_FETCHED and RING_HEAD equal RING_TAIL, RING_STATE is IDLE and STOP_CODE is 0. -/
def Obligations.NopRegWriteAndRingReset : Prop :=
  (∀ (s : State) (h : PktHdr), Quiet s h → ∃ t, exec (.nop h) s = .next t ∧ RanTo s h .nop .done 0 [] [] t) ∧
  (∀ (s : State) (h : PktHdr) (o v : Nat), Quiet s h → (o % 4 ≠ 0 ∨ o < 0x100000) →
    ∃ t, exec (.regWrite h o v) s = .next t ∧ RanTo s h (.regWrite o v) .badParam 0 [] [] t) ∧
  (∀ (s : State) (h : PktHdr) (i v : Nat), Quiet s h → i < 256 → v < 2 ^ 32 → Reg.monThrHi.rule.ok v = true →
    let o := Reg.monThrHi.off + strideSum Reg.monThrHi.dims [i]
    ∃ t, exec (.regWrite h o v) s = .next t ∧ t.rd .monThrHi [i] = v ∧
      RanTo s h (.regWrite o v) .done 0 [.heldWords] [Reg.monThrHi.key [i]] t) ∧
  (∀ (s : State) (h : PktHdr) (r : Nat), Quiet s h → r < 16 → r ≠ h.ring → s.rd .ringRingState [r] ≠ 3 →
    ∃ t p, exec (.ringReset h r) s = .next t ∧ t.rd .ringEnable [r] = 0 ∧ t.rd .ringRingState [r] = 3 ∧
      t.flight = s.flight.map (ringSkip r) ++ [p] ∧ p.pid = s.nextId ∧ p.tag = h.tag ∧ p.phase = .ended .done 0 false ∧
      t.mem = s.mem ∧ RegsBut (fetchKeys h.ring ++ [Reg.ringEnable.key [r], Reg.ringRingState.key [r]]) s t) ∧
  (∀ (s : State) (h : PktHdr), Quiet s h →
    ∃ t, exec (.ringReset h h.ring) s = .next t ∧ RanTo s h (.ringReset h.ring) .badParam 0 [] [] t) ∧
  (∀ (s : State) (r : Nat), HostTakes s → r < 16 → s.rd .ringRingState [r] ≠ 3 →
    ∃ t, exec (.ringResetWrite r) s = .next t ∧ t.rd .ringEnable [r] = 0 ∧ t.rd .ringRingState [r] = 3 ∧
      t.flight = s.flight.map (ringSkip r) ∧ HostBytes 4 s t ∧
      ChangesOnly [.regs, .bwTotals, .bwWindow, .flight, .hostReads, .fetchBuf, .step] s t ∧
      RegsBut (Reg.ringEnable.key [r] :: Reg.ringRingState.key [r] :: channelKeys 0) s t) ∧
  ∀ (s : State) (r : Nat), s.power = 1 → r < 16 → s.step = none → s.rd .ringRingState [r] = 3 → Settled s →
    (∀ p ∈ s.flight, p.ring ≠ r) → s.lateOf r = none → s.rd .ringRingTail [r] < 2 ^ 32 → ∃ t, exec (.ringResetDrained r) s = .next t ∧
      t.rd .ringRingFetched [r] = s.rd .ringRingTail [r] ∧ t.rd .ringRingHead [r] = s.rd .ringRingTail [r] ∧
      t.rd .ringRingState [r] = 0 ∧ t.rd .ringStopCode [r] = 0 ∧
      OnlyRegs [Reg.ringRingFetched.key [r], Reg.ringRingHead.key [r], Reg.ringRingState.key [r], Reg.ringStopCode.key [r]] s t

/-- A COPY between ranges of device memory that do not overlap, each inside one region and without errors, ends with
DONE: the destination reads as the source did and every byte outside it reads as before. A COPY to host memory sends
the source bytes, while the arbiter of the PCIe DMA engines is not frozen. A COPY from host memory issues one read
and runs; when its data arrives the destination holds it and the packet ends with DONE, and when it fails or times
out the packet ends with HOST_TIMEOUT and the cause, with no byte outside its destination changed. FILL repeats the
8-byte pattern over the destination and nothing else. Overlapping or empty ranges end with BAD_PARAM and a range
outside its region with LIMIT_EXCEEDED, with memory unchanged. -/
def Obligations.CopiesAndFills : Prop :=
  (∀ (s : State) (h : PktHdr) (d a n f : Nat), Quiet s h → 0 < n → n ≤ 2 ^ 40 → f.testBit 0 = false → f.testBit 1 = false →
    overlaps d a n = false → s.rangeRefusal [(d, n), (a, n)] = none → s.badBolts a n = [] → s.badBolts d n = [] →
    ∃ t, exec (.copy h d a n f) s = .next t ∧ t.mem.read d n = s.mem.read a n ∧ MemBut d n s t ∧
      RanTo s h (.copy d a n f) .done 0 (.mem :: trafficFields) trafficKeys t) ∧
  (∀ (s : State) (h : PktHdr) (d a n f : Nat), Quiet s h →
    (n = 0 ∨ 2 ^ 40 < n ∨ f.testBit 0 = false ∧ f.testBit 1 = false ∧ overlaps d a n = true) →
    ∃ t, exec (.copy h d a n f) s = .next t ∧ RanTo s h (.copy d a n f) .badParam 0 [] [] t) ∧
  (∀ (s : State) (h : PktHdr) (d a n f : Nat), Quiet s h → s.pcieUp = true → s.rd .arbFreeze [36] = 0 → 0 < n → n ≤ 2 ^ 40 →
    f.testBit 0 = false → f.testBit 1 = true → s.rangeRefusal [(a, n)] = none → s.badBolts a n = [] →
    ∃ t, exec (.copy h d a n f) s = .next t ∧ t.out.getLast? = some (.hostWrite d (s.mem.read a n)) ∧
      Tab.get 0 t.bwTotals 64 = Tab.get 0 s.bwTotals 64 + n ∧
      RanTo s h (.copy d a n f) .done 0 trafficFields trafficKeys t) ∧
  (∀ (s : State) (h : PktHdr) (d a n f : Nat), Quiet s h → s.pcieUp = true → s.rd .arbFreeze [36] = 0 → 0 < n → n ≤ 2 ^ 40 →
    f.testBit 0 = true → f.testBit 1 = false → s.rangeRefusal [(d, n)] = none →
    ∃ t k, exec (.copy h d a n f) s = .next t ∧ t.out = s.out ++ [.hostRead k a n] ∧
      t.hostReads = s.hostReads ++ [{ rid := k, addr := a, len := n, what := .packet s.nextId }] ∧
      Ran s h (.copy d a n f) .running [.hostReads, .out] (channelKeys 0) t) ∧
  (∀ (s : State) (p : Packet) (r : HostRead) (d a n f : Nat) (bs : List Byte), s.power = 1 → s.pcieUp = true →
    s.hostReads.find? (fun x => x.rid == r.rid) = some r → r.what = .packet p.pid → s.packet p.pid = some p → p.phase = .running →
    p.op = .copy d a n f → f.testBit 1 = false → r.len = n → bs.length = n → s.badBolts d n = [] →
    ∃ t, exec (.hostReadCompletion r.rid 0 bs) s = .next t ∧ t.mem.read d n = bs ∧ MemBut d n s t ∧
      (t.packet p.pid).map (fun q => q.phase) = some (.ended .done 0 false) ∧
      t.hostReads = s.hostReads.filter (fun x => x.rid != r.rid) ∧
      ChangesOnly (.mem :: .flight :: .hostReads :: trafficFields) s t ∧ RegsBut trafficKeys s t) ∧
  (∀ (s : State) (p : Packet) (r : HostRead), s.power = 1 → s.hostReads.find? (fun x => x.rid == r.rid) = some r →
    r.what = .packet p.pid → s.packet p.pid = some p → p.phase = .running →
    let after := fun (cause : Nat) (t : State) =>
      (t.packet p.pid).map (fun q => q.phase) = some (.ended .hostTimeout cause false) ∧
      t.hostReads = s.hostReads.filter (fun x => x.rid != r.rid) ∧
      t.rd .devHostTimeouts [] = satAdd 32 (s.rd .devHostTimeouts []) 1 ∧
      MemOutside p.dests s t ∧ ChangesOnly [.regs, .flight, .hostReads, .mem, .free] s t ∧ RegsBut [Reg.devHostTimeouts.key []] s t
    (∃ t, exec (.completionTimeout r.rid) s = .next t ∧ after 1 t) ∧
    ∀ c bs, s.pcieUp = true → 2 ≤ c → c ≤ 4 → ∃ t, exec (.hostReadCompletion r.rid c bs) s = .next t ∧ after c t) ∧
  (∀ (s : State) (h : PktHdr) (d n v : Nat), Quiet s h → d % 8 = 0 → n % 8 = 0 → 8 ≤ n → n ≤ 2 ^ 40 →
    s.rangeRefusal [(d, n)] = none → s.badBolts d n = [] →
    ∃ t, exec (.fill h d n v) s = .next t ∧ t.mem.read d n = (List.replicate (n / 8) (leBytes 8 v)).flatten ∧ MemBut d n s t ∧
      RanTo s h (.fill d n v) .done 0 (.mem :: trafficFields) trafficKeys t) ∧
  ∀ (s : State) (h : PktHdr) (d n v : Nat) (st : Status), Quiet s h → d % 8 = 0 → n % 8 = 0 → 8 ≤ n → n ≤ 2 ^ 40 →
    s.rangeRefusal [(d, n)] = some st → ∃ t, exec (.fill h d n v) s = .next t ∧ RanTo s h (.fill d n v) st 0 [] [] t

/-- DIGEST of a stack-local range without errors, its engine running or out of service, writes the range's digest at
its destination, adds the bytes to the engine's DIGEST_BYTES and ends with DONE; one whose engine is gated wakes it
and runs; a start that is not stack-local ends with BAD_PARAM. COUNTER_SNAPSHOT writes 1 KiB that begins with the
present AO tick. SAMPLE_CONTROL sets SAMPLE_ENABLE and, when it enables, SAMPLE_SHIFT, and restarts DESC_COUNTED; a
value out of range ends with BAD_PARAM. Every byte outside the destinations reads as before. -/
def Obligations.DigestsSnapshotsAndSampling : Prop :=
  (∀ (s : State) (h : PktHdr) (a n d k : Nat), Quiet s h → s.stackLocal a n = some k → 0 < n → d % 64 = 0 →
    s.rangeRefusal [(a, n), (d, 32)] = none → s.badBolts a n = [] →
    (s.digestCores k = true ∨ s.rd .domDstate [56 + k] = 2) →
    let v := rangeDigest (s.mem.read a n)
    s.badBolts d v.length = [] → ∃ t, exec (.digest h a n d) s = .next t ∧ t.mem.read d v.length = v ∧ MemBut d v.length s t ∧
      t.rd .engDigestBytes [k / 5, k % 5] = (s.rd .engDigestBytes [k / 5, k % 5] + n) % 2 ^ 64 ∧
      RanTo s h (.digest a n d) .done 0 (.mem :: .samples :: trafficFields)
        (Reg.engDigestBytes.key [k / 5, k % 5] :: Reg.sampDescCounted.key [k / 5] :: Reg.sampSamplesWritten.key [k / 5] ::
          trafficKeys) t) ∧
  (∀ (s : State) (h : PktHdr) (a n d k : Nat), Quiet s h → s.stackLocal a n = some k → 0 < n → d % 64 = 0 →
    s.rangeRefusal [(a, n), (d, 32)] = none → s.digestCores k = false → s.rd .domDstate [56 + k] = 0 →
    ∃ t, exec (.digest h a n d) s = .next t ∧ t.rd .domDstate [56 + k] = 1 ∧
      Ran s h (.digest a n d) .running [] [Reg.domDstate.key [56 + k], Reg.domClocksStopped.key [56 + k]] t) ∧
  (∀ (s : State) (h : PktHdr) (a n d : Nat), Quiet s h → s.stackLocal a n = none →
    ∃ t, exec (.digest h a n d) s = .next t ∧ RanTo s h (.digest a n d) .badParam 0 [] [] t) ∧
  (∀ (s : State) (h : PktHdr) (d : Nat), Quiet s h → d % 1024 = 0 → s.rangeRefusal [(d, 1024)] = none → s.badBolts d 1024 = [] →
    ∃ t, exec (.counterSnapshot h d) s = .next t ∧ t.mem.read d 8 = leBytes 8 s.aoNow ∧ MemBut d 1024 s t ∧
      RanTo s h (.counterSnapshot d) .done 0 (.mem :: trafficFields) trafficKeys t) ∧
  (∀ (s : State) (h : PktHdr) (e k : Nat), Quiet s h → e ≤ 1 → k ≤ 20 →
    ∃ t, exec (.sampleControl h e k) s = .next t ∧ t.rd .ctrSampleEnable [] = e ∧
      (e = 1 → t.rd .ctrSampleShift [] = k ∧ ∀ c, c < 4 → t.rd .sampDescCounted [c] = 0) ∧
      RanTo s h (.sampleControl e k) .done 0 []
        (Reg.ctrSampleEnable.key [] :: Reg.ctrSampleShift.key [] :: (List.range 4).map (fun c => Reg.sampDescCounted.key [c])) t) ∧
  ∀ (s : State) (h : PktHdr) (e k : Nat), Quiet s h → (1 < e ∨ 20 < k) →
    ∃ t, exec (.sampleControl h e k) s = .next t ∧ RanTo s h (.sampleControl e k) .badParam 0 [] [] t

/-- While the identity key is available ATTEST writes at its destination a report that begins with its magic number
and ends with DONE; without the key it ends with AUTH_FAIL and writes nothing. MEASUREMENT_LOG writes as much of the
attestation log as its length takes and ends with DONE and the log's whole length. FIRMWARE_STAGE of an image that
passes the checks of R384 puts it in the area that is not ACTIVE and sets PENDING; of one that fails it ends with
AUTH_FAIL and changes no area. -/
def Obligations.AttestationAndStaging : Prop :=
  (∀ (s : State) (h : PktHdr) (nonce : List Byte) (d : Nat), Quiet s h → s.identityKey = true →
    s.inRegion d (192 * 1024) = true → s.unavailIn d (192 * 1024) = false → (∀ n, s.badBolts d n = []) →
    ∃ t, exec (.attest h nonce d) s = .next t ∧ t.mem.read d 4 = leBytes 4 0x5241344B ∧
      MemBut d (30824 + Config.deviceCertificate.length + Config.caCertificate.length) s t ∧
      RanTo s h (.attest nonce d) .done 0 (.mem :: trafficFields) trafficKeys t) ∧
  (∀ (s : State) (h : PktHdr) (nonce : List Byte) (d : Nat), Quiet s h → s.identityKey = false →
    ∃ t, exec (.attest h nonce d) s = .next t ∧ RanTo s h (.attest nonce d) .authFail 0 [] [] t) ∧
  (∀ (s : State) (h : PktHdr) (d n : Nat), Quiet s h →
    let v := s.attLog.flatten.take n
    s.rangeRefusal [(d, v.length)] = none → s.badBolts d v.length = [] → ∃ t, exec (.measurementLog h d n) s = .next t ∧
      t.mem.read d v.length = v ∧ MemBut d v.length s t ∧
      RanTo s h (.measurementLog d n) .done s.attLog.flatten.length (.mem :: trafficFields) trafficKeys t) ∧
  ∀ (s : State) (h : PktHdr) (a n : Nat), Quiet s h → n ≤ 64 * 1048576 → s.rangeRefusal [(a, n)] = none → s.badBolts a n = [] →
    let image := fun o k => s.mem.read (a + o) k
    ∃ t, exec (.firmwareStage h a n) s = .next t ∧
      if imageOk (s.rd .mgmtSvnMin []) n image then
        t.rd .pwrPendingImage [] = 1 ∧ (if s.active = 0 then t.areaB = imageOf image ∧ t.areaA = s.areaA
          else t.areaA = imageOf image ∧ (s.active = 1 → t.areaB = s.areaB)) ∧
        RanTo s h (.firmwareStage a n) .done 0 (.areaA :: .areaB :: trafficFields) (Reg.pwrPendingImage.key [] :: trafficKeys) t
      else RanTo s h (.firmwareStage a n) .authFail 0 trafficFields trafficKeys t

/-- LLS_PARTITION takes the lowest run of free units of the slice: the partition is held, every byte of its window
reads as zero, and the packet ends with DONE and the first unit; it waits while no run is free, and ends with
NO_RESOURCE for more than 16 units, and with FAULT_UNIT for a slice out of service. LLS_RELEASE of a held partition
that stages no collective in flight returns it and its bytes read as zero; of none it ends with BAD_PARAM. Every
byte outside the partition reads as before. REGION_REBUILD with nothing else started maps out every PENDING channel,
sets the shares in force to those written and ends with DONE; while a step is open it ends with NOT_ENABLED and
changes nothing. -/
def Obligations.PartitionsAndRebuilds : Prop :=
  (∀ (s : State) (h : PktHdr) (c n u : Nat), Quiet s h → c ≤ 3 → 1 ≤ n → n ≤ 16 → s.channelUp c = true →
    s.freeRun c n = some u →
    let a := (Region.lls c).base + u * unit32M
    ∃ t, exec (.llsPartition h c n) s = .next t ∧ t.partitions = s.partitions ++ [(c, u, n)] ∧
      (∀ x, a ≤ x → x < a + n * unit32M → t.mem.byte x = 0) ∧ MemBut a (n * unit32M) s t ∧
      RanTo s h (.llsPartition c n) .done u [.mem, .ue, .ce, .partitions] (Reg.llsUnitFree.key [c] :: lostKeys s) t) ∧
  (∀ (s : State) (h : PktHdr) (c n : Nat), Quiet s h → c ≤ 3 → 1 ≤ n → n ≤ 16 → s.channelUp c = true →
    s.freeRun c n = none →
    ∃ t, exec (.llsPartition h c n) s = .next t ∧ Ran s h (.llsPartition c n) .running [] [] t) ∧
  (∀ (s : State) (h : PktHdr) (c n : Nat), Quiet s h → (n = 0 ∨ 3 < c ∨ 16 < n ∨ s.channelUp c = false) →
    ∃ t, exec (.llsPartition h c n) s = .next t ∧ RanTo s h (.llsPartition c n)
      (if n = 0 ∨ 3 < c then .badParam else if 16 < n then .noResource else .faultUnit) 0 [] [] t) ∧
  (∀ (s : State) (h : PktHdr) (c u n : Nat), Quiet s h → s.partitions.find? (fun p => p.1 == c && p.2.1 == u) = some (c, u, n) →
    (∀ p ∈ s.flight, p.phase ≠ .running) → s.colls = [] → s.channelUp c = true →
    let a := (Region.lls c).base + u * unit32M
    ∃ t, exec (.llsRelease h c u) s = .next t ∧ t.partitions = s.partitions.erase (c, u, n) ∧
      (∀ x, a ≤ x → x < a + n * unit32M → t.mem.byte x = 0) ∧ MemBut a (n * unit32M) s t ∧
      RanTo s h (.llsRelease c u) .done 0 [.mem, .ue, .ce, .partitions] (Reg.llsUnitFree.key [c] :: lostKeys s) t) ∧
  (∀ (s : State) (h : PktHdr) (c u : Nat), Quiet s h → s.partitions.find? (fun p => p.1 == c && p.2.1 == u) = none →
    ∃ t, exec (.llsRelease h c u) s = .next t ∧ RanTo s h (.llsRelease c u) .badParam 0 [] [] t) ∧
  (∀ (s : State) (h : PktHdr), Quiet s h → s.rebuildRefusal = none → (∀ p ∈ s.flight, p.isWaiting = true) →
    ∃ t p, exec (.regionRebuild h) s = .next t ∧ t.flight = s.flight ++ [p] ∧ p.pid = s.nextId ∧
      p.phase = .ended .done 0 false ∧ t.dShare = s.rd .memDShare [] ∧ t.cShare = s.cShareWritten ∧
      (∀ x, x < 640 → s.rd .hbmState [x] = 1 → t.rd .hbmState [x] = 2) ∧
      (s.areas = [] → ∀ x, x < 640 → s.rd .hbmState [x] ≠ 1 → t.rd .hbmState [x] = s.rd .hbmState [x]) ∧ t.fetchHold = []) ∧
  ∀ (s : State) (h : PktHdr), Quiet s h → s.stepOpen = true →
    ∃ t, exec (.regionRebuild h) s = .next t ∧ RanTo s h .regionRebuild .notEnabled 0 [] [] t

/-- Outside a step, PARAM_GROUPS_LOAD of a table of valid groups, in one region and without errors, loads exactly
those groups and ends with DONE; a group that fails a check ends it with BAD_PARAM, its number and check code, and
the groups loaded before stay. VARIANT_BIND of a bound variant adds a reference to its slot; of one not bound it
takes the lowest free slot with one reference; each ends with DONE and the slot. VARIANT_RELEASE takes a reference
away, and ends with BAD_PARAM of a slot without one. SLOT_FREED frees a slot without references that no packet
holds. -/
def Obligations.GroupTableAndVariants : Prop :=
  (∀ (s : State) (h : PktHdr), Quiet s h → s.stepOpen = false → s.inRegion (s.rd .seGroupTableBase []) 1048576 = true →
    (∀ a n, s.badBolts a n = []) →
    (∀ r ∈ groupRanges (s.rd .seGroupTableBase []) (s.rd .seHyperBase []) (s.readTable.map (fun g => g.1)),
      s.unavailIn r.1 r.2 = false) → (∀ g ∈ s.readTable, g.2 = 0) → ∃ t p, exec (.paramGroupsLoad h) s = .next t ∧
      t.groups = s.readTable.map (fun g => g.1) ∧ t.rd .seGroupsLoaded [] = s.readTable.length % 2 ^ 13 ∧ t.mem = s.mem ∧
      t.flight = s.flight ++ [p] ∧ p.pid = s.nextId ∧ p.phase = .ended .done 0 false) ∧
  (∀ (s : State) (h : PktHdr) (g : ParamGroup × Nat), Quiet s h → s.stepOpen = false →
    s.inRegion (s.rd .seGroupTableBase []) 1048576 = true → (∀ a n, s.badBolts a n = []) →
    (∀ r ∈ groupRanges (s.rd .seGroupTableBase []) (s.rd .seHyperBase []) (s.readTable.map (fun g => g.1)),
      s.unavailIn r.1 r.2 = false) → s.readTable.find? (fun g => g.2 != 0) = some g → ∃ t, exec (.paramGroupsLoad h) s = .next t ∧
      RanTo s h .paramGroupsLoad .badParam (g.1.num + g.2 * 4096) trafficFields trafficKeys t) ∧
  (∀ (s : State) (h : PktHdr) (v k : Nat), Quiet s h → v < 4096 → s.boundSlot v = some k → s.rd .slotRefs [k] < 255 →
    ∃ t, exec (.variantBind h v) s = .next t ∧ t.rd .slotRefs [k] = s.rd .slotRefs [k] + 1 ∧
      RanTo s h (.variantBind v) .done k [] [Reg.slotRefs.key [k]] t) ∧
  (∀ (s : State) (h : PktHdr) (v k : Nat) (l : List Nat), Quiet s h → v < 4096 → s.boundSlot v = none →
    (List.range 64).find? (fun k => !s.flag .slotValid [k]) = some k →
    s.readVariant (s.variantAddr v) = .ok l → ∃ t, exec (.variantBind h v) s = .next t ∧
      t.rd .slotValid [k] = 1 ∧ t.rd .slotRefs [k] = 1 ∧ t.rd .slotVariant [k] = v ∧
      Tab.get default t.slots k = { entries := l } ∧
      RanTo s h (.variantBind v) .done k (.slots :: trafficFields)
        ([Reg.slotValid.key [k], Reg.slotRefs.key [k], Reg.slotVariant.key [k]] ++ trafficKeys) t) ∧
  (∀ (s : State) (h : PktHdr) (k : Nat), Quiet s h → s.rd .slotRefs [k] < 256 → ∃ t, exec (.variantRelease h k) s = .next t ∧
    if k < 64 ∧ s.rd .slotRefs [k] ≠ 0 then
      t.rd .slotRefs [k] = s.rd .slotRefs [k] - 1 ∧ RanTo s h (.variantRelease k) .done 0 [] [Reg.slotRefs.key [k]] t
    else RanTo s h (.variantRelease k) .badParam 0 [] [] t) ∧
  ∀ (s : State) (k : Nat), s.power = 1 → (∀ p ∈ s.flight, p.phase ≠ .running) → ∃ t, exec (.slotFreed k) s = .next t ∧
    if k < 64 ∧ s.rd .slotValid [k] = 1 ∧ s.rd .slotRefs [k] = 0 ∧ s.flight.all (fun p => !p.slots.contains k) = true then
      t.rd .slotValid [k] = 0 ∧ t.rd .slotVariant [k] = 0 ∧ Tab.find t.slots k = none ∧
      ChangesOnly [.regs, .slots] s t ∧ RegsBut [Reg.slotValid.key [k], Reg.slotVariant.key [k]] s t
    else t = s

/-- A SOFTMAX, RMSNORM, LAYERNORM, XENT, VPROG, MATVEC or PRODUCT (one that streams into no collective) whose
descriptors resolve and pass the checks of expansion and of the start runs: it is the last packet in flight, its
descriptors as read, and the queues gain its descriptors in order, one for a vector operation, one for each part of
a MATVEC, one for each tile of a PRODUCT, all queued on the channels that hold its operands. Memory, tokens, status
and every other packet and descriptor are as before; domains that the launch needs are woken, and reading the
descriptors counts. A launch whose checks of expansion fail ends with that status instead, and places nothing. -/
def Obligations.LaunchesPlaceTheirDescriptors : Prop :=
  ∀ (s : State) (h : PktHdr), Quiet s h →
    let launches := fun (c : Instr) (op : Op) =>
      ∀ v, s.readDescs op (opRefs op).zipIdx = .ok v →
        (∀ st, launchCheck op v.1 = some st →
          ∃ t, exec c s = .next t ∧ RanTo s h op st 0 trafficFields trafficKeys t) ∧
        (launchCheck op v.1 = none → (∀ p, PacketOf s h op v p → Launchable s p) → ∃ t p, exec c s = .next t ∧
          PacketOf s h op v p ∧ t.flight = s.flight ++ [p] ∧ p.phase = .running ∧
          t.descs = s.descs ++ ((p.kinds (s.writeCtx p)).zipIdx.map (fun q =>
            Desc.fresh (s.nextId + 1 + q.2) s.nextId h.ring s.aoNow (s.queueOf p q.2 q.1) q.1)) ∧
          t.mem = s.mem ∧ ChangesOnly (.flight :: .nextId :: .descs :: trafficFields) s t ∧
          RegsBut (fetchKeys h.ring ++ trafficKeys ++ domainKeys) s t)
    (∀ i o, launches (.softmax h i o) (.softmax i o)) ∧
    (∀ i o g e, launches (.rmsnorm h i o g e) (.rmsnorm i o g e)) ∧
    (∀ i o g b e, launches (.layernorm h i o g b e) (.layernorm i o g b e)) ∧
    (∀ i a l m g, launches (.xent h i a l m g) (.xent i a l m g)) ∧
    (∀ a b o l, launches (.vprog h a b o l) (.vprog a b o l)) ∧
    (∀ o ps, launches (.matvec h o ps) (.matvec o ps)) ∧
    ∀ o k sg, launches (.product h o 0 k sg) (.product o 0 k sg)

/-- With no step open and no epoch prepared, STEP_BEGIN that no row of R149 refuses opens the step on its ring:
STATE is RUNNING, ATTEMPT 1, CURRENT_STEP the number given, no reason is raised, the gradient scale and epoch in
force are latched, and the packet ends with DONE; a refused one ends with the status of its row and changes nothing
else. STEP_END in the open attempt begins the close: STATE is CLOSING, the packet runs, and the step holds its
parameters; one whose LOSS_ADDR is not a multiple of 4, or fetched with no step open, ends with BAD_PARAM.
STEP_CLOSE changes nothing while packets of the attempt or reef rewrites are outstanding; else, with no stack that
the close needs at CRIT and no reset of the ring before it, of a step outside a group with CMD_FAULT or RING_RESET
raised, it leaves no step open, STATE IDLE, NEXT_STEP one above CURRENT_STEP, one more record, and RING_HEAD at
RING_FETCHED. -/
def Obligations.StepsOpenAndClose : Prop :=
  (∀ (s : State) (h : PktHdr) (n e : Nat) (g o : Bool), Quiet s h → s.step = none → h.waits.all (fun w => !w.rel) = true →
    s.rd .grpPrepared [] = 0 → s.stepRefusal n e g o = none → ∃ t q, exec (.stepBegin h n e g o) s = .next t ∧
      t.step = some q ∧ q.ring = h.ring ∧ q.beginPid = s.nextId ∧ q.group = g ∧ q.budget = s.rd .stReplayBudget [] ∧
      q.epoch = s.rd .grpEpoch [] ∧ q.gs = BitVec.ofNat 32 (s.rd .stGradScale []) ∧ q.reasons = 0 ∧ q.endPid = none ∧
      t.rd .stCurrentStep [] = n % 2 ^ 64 ∧ t.rd .stAttempt [] = 1 ∧ t.rd .stState [] = 1 ∧ t.tokBase = s.tokens ∧
      t.rd .ringRingHead [h.ring] = s.rd .ringRingHead [h.ring] ∧ t.mem = s.mem ∧
      Fetched s t (.stepBegin n e g o) (.ended .done 0 false)) ∧
  (∀ (s : State) (h : PktHdr) (n e : Nat) (g o : Bool) (st : Status), Quiet s h → s.step = none →
    h.waits.all (fun w => !w.rel) = true → s.rd .grpPrepared [] = 0 → s.stepRefusal n e g o = some (st, []) →
    ∃ t, exec (.stepBegin h n e g o) s = .next t ∧ RanTo s h (.stepBegin n e g o) st 0 [] [] t) ∧
  (∀ (s : State) (h : PktHdr) (q : StepSt) (loss : Nat) (d : Bool), Quiet s h → s.step = some q →
    s.fetchesAttempt h.ring = true → h.waits = [] → ∃ t, exec (.stepEnd h loss d) s = .next t ∧
      if loss % 4 = 0 then
        t.step = some { q with endPid := some s.nextId, lossAddr := loss, digest := d } ∧ t.rd .stState [] = 2 ∧
        t.cursor = s.rd .shrCursor [] ∧ Fetched s t (.stepEnd loss d) .running ∧
        ChangesOnly [.regs, .flight, .nextId, .step, .cursor] s t ∧ RegsBut (Reg.stState.key [] :: fetchKeys h.ring) s t
      else RanTo s h (.stepEnd loss d) .badParam 0 [] [] t) ∧
  (∀ (s : State) (h : PktHdr) (loss : Nat) (d : Bool), Quiet s h → s.step = none → ∃ t, exec (.stepEnd h loss d) s = .next t ∧
    RanTo s h (.stepEnd loss d) .badParam 0 [] [] t) ∧
  (∀ s : State, (s.rd .stState [] ≠ 2 ∨ s.attemptPending = true ∨ s.rewrites ≠ [] ∨ s.step = none) →
    exec .stepClose s = .next s) ∧
  ∀ (s : State) (q : StepSt), s.power = 1 → Settled s → s.rd .stState [] = 2 → s.attemptPending = false → s.rewrites = [] →
    s.step = some q → q.verdict = none → q.resetWaits = false →
    s.closeHeld = false → q.group = false → q.lossAddr = 0 →
    (q.reasons.testBit 0 = true ∨ q.reasons.testBit 1 = true) → ∃ t, exec .stepClose s = .next t ∧
      t.step = none ∧ t.commit = none ∧ t.rd .stState [] = 0 ∧
      t.rd .stNextStep [] = (s.rd .stCurrentStep [] + 1) % 2 ^ 64 ∧
      t.rd .stRecordsWritten [] = (s.rd .stRecordsWritten [] + 1) % 2 ^ 64 ∧
      t.rd .ringRingHead [q.ring] = t.rd .ringRingFetched [q.ring] % 2 ^ 32 ∧ t.rd .stGradScale [] = s.rd .stGradScale [] ∧
      t.groups = s.groups ∧ t.slots = s.slots

/-- While GROUP_ENABLE is 0 and no step is open, ROLE_SET sets ROLE and the node fields and ends with DONE,
MGMT_ROLE_SET sets them with the standbys and is answered DONE, and a role above 2 ends with BAD_PARAM; while
GROUP_ENABLE is 1 a ROLE_SET counts in IGNORED and ends with NOT_ENABLED. GROUP_JOIN, GROUP with action 1 and a set
of GROUP_ENABLE set it and clear what is known of heartbeats; the command waits for JOIN_REPLY, which ends it with
DONE and the result; while it waits past ten heartbeats JOIN_REPLY_TIMEOUT ends it with PARTNER_LOST. While
GROUP_ENABLE is 1 a join ends with DONE and detail bit 8. GROUP_LEAVE and a clear of GROUP_ENABLE clear it, with
IN_EPOCH and SRC_STATE; while something is in progress the packet ends with NOT_ENABLED, and packet and write are
ignored and counted. No memory changes. -/
def Obligations.RolesJoinsAndLeaves : Prop :=
  (∀ (s : State) (h : PktHdr) (r n m k : Nat), Quiet s h → n ≤ 0x3FFF → m ≤ 0x3FFF → k ≤ 0x3FFF →
    ∃ t, exec (.roleSet h r n m k) s = .next t ∧
      if s.rd .grpGroupEnable [] = 1 then t.rd .grpIgnored [] = satAdd 32 (s.rd .grpIgnored []) 1 ∧
        RanTo s h (.roleSet r n m k) .notEnabled 0 [] [Reg.grpIgnored.key []] t
      else if s.stepOpen = true then RanTo s h (.roleSet r n m k) .notEnabled 0 [] [] t
      else if 2 < r then RanTo s h (.roleSet r n m k) .badParam 0 [] [] t
      else t.rd .grpRole [] = r ∧ t.rd .grpNode [] = n ∧ t.rd .grpManagerNode [] = m ∧ t.rd .grpTopNode [] = k ∧
        RanTo s h (.roleSet r n m k) .done 0 []
          [Reg.grpRole.key [], Reg.grpNode.key [], Reg.grpManagerNode.key [], Reg.grpTopNode.key []] t) ∧
  (∀ (s : State) (h : MgmtHeader) (r n m k s0 s1 ts : Nat), Accepts s h 0x45 (roleBody r n m k s0 s1 ts) →
    s.rd .grpGroupEnable [] = 0 → s.stepOpen = false → r ≤ 2 → n ≤ 0x3FFF → m ≤ 0x3FFF → k ≤ 0x3FFF → s0 ≤ 0x3FFF →
    s1 ≤ 0x3FFF → ts ≤ 0x3FFF → ∃ t, exec (.mgmtRoleSet h r n m k s0 s1 ts) s = .next t ∧ t.rd .grpRole [] = r ∧
      t.rd .grpNode [] = n ∧ t.rd .grpManagerNode [] = m ∧ t.rd .grpTopNode [] = k ∧ t.rd .grpStandby0 [] = s0 ∧
      t.rd .grpStandby1 [] = s1 ∧ t.rd .grpTopStandby [] = ts ∧ Replied h.seq .done 0 s t ∧ ChangesOnly [.regs, .out] s t ∧
      RegsBut (acceptKeys ++ [Reg.grpRole.key [], Reg.grpNode.key [], Reg.grpManagerNode.key [], Reg.grpTopNode.key [],
        Reg.grpStandby0.key [], Reg.grpStandby1.key [], Reg.grpTopStandby.key []]) s t) ∧
  (let joined := fun (s t : State) => t.rd .grpGroupEnable [] = 1 ∧ t.heard = [] ∧ t.mgrMissed = 0 ∧ t.mgrHeard = false ∧
     t.mem = s.mem
   (∀ (s : State) (h : PktHdr), Quiet s h → s.stepOpen = false → ∃ t, exec (.groupJoin h) s = .next t ∧
      if s.rd .grpGroupEnable [] = 1 then RanTo s h .groupJoin .done 256 [] [] t
      else joined s t ∧ Fetched s t .groupJoin .running ∧
        t.joins = s.joins ++ [{ asker := .packet s.nextId, since := s.aoNow }] ∧
        ChangesOnly (.flight :: .nextId :: .joins :: .mgrMissed :: .mgrHeard :: .heard :: sendFields) s t ∧
        RegsBut (Reg.grpGroupEnable.key [] :: fetchKeys h.ring ++ sendKeys) s t) ∧
   (∀ (s : State) (h : MgmtHeader) (a : Nat), Accepts s h 0x46 (leBytes 1 a) → s.stepOpen = false →
      s.rd .grpGroupEnable [] = 0 → ∃ t, exec (.group h a) s = .next t ∧
      (a = 1 → joined s t ∧ t.joins = s.joins ++ [{ asker := .command h.seq, since := s.aoNow }] ∧
        ChangesOnly (.joins :: .mgrMissed :: .mgrHeard :: .heard :: sendFields) s t ∧
        RegsBut (Reg.grpGroupEnable.key [] :: acceptKeys ++ sendKeys) s t) ∧
      (a = 2 → Replied h.seq .done 256 s t ∧ ChangesOnly [.regs, .out] s t ∧ RegsBut acceptKeys s t) ∧
      (a ≠ 1 → a ≠ 2 → Replied h.seq .badParam 0 s t ∧ ChangesOnly [.regs, .out] s t ∧ RegsBut acceptKeys s t)) ∧
   ∀ s : State, HostTakes s → s.rd .grpGroupEnable [] = 0 → ∃ t, exec .groupEnableSet s = .next t ∧ joined s t ∧
      ChangesOnly (.mgrMissed :: .mgrHeard :: .heard :: sendFields) s t ∧
      RegsBut (Reg.grpGroupEnable.key [] :: sendKeys) s t) ∧
  (∀ (s : State) (h : GroupHeader) (r : Nat) (p : Packet) (n : Nat), Heard s h → s.packet p.pid = some p → p.isEnded = false →
    s.joins = [{ asker := .packet p.pid, since := n }] →
    ∃ t, exec (.joinReply h r) s = .next t ∧ t.joins = [] ∧ EndedAs t p.pid .done (r % 8) ∧
      ChangesOnly [.flight, .joins, .delivered] s t) ∧
  (∀ (s : State) (p : Packet) (n : Nat), s.power = 1 → s.packet p.pid = some p → p.isEnded = false →
    s.joins = [{ asker := .packet p.pid, since := n }] → ∃ t, exec .joinReplyTimeout s = .next t ∧
      if n + msTicks (10 * s.rd .grpHeartbeatMs []) ≤ s.aoNow then
        t.joins = [] ∧ EndedAs t p.pid .partnerLost 0 ∧ ChangesOnly [.flight, .joins] s t
      else t = s) ∧
  (let left := fun (s t : State) => t.rd .grpGroupEnable [] = 0 ∧ t.rd .grpInEpoch [] = 0 ∧ t.rd .shrSrcState [] = 0 ∧
     t.rd .grpEpoch [] = s.rd .grpEpoch [] ∧ t.rd .grpRank [] = s.rd .grpRank [] ∧ t.mem = s.mem
   (∀ (s : State) (h : PktHdr), Quiet s h → ∃ t, exec (.groupLeave h) s = .next t ∧
      if s.rd .grpGroupEnable [] = 1 ∧ s.leaveBlocked = true then t.rd .grpIgnored [] = satAdd 32 (s.rd .grpIgnored []) 1 ∧
        RanTo s h .groupLeave .notEnabled 0 [] [Reg.grpIgnored.key []] t
      else if s.stepOpen = true then RanTo s h .groupLeave .notEnabled 0 [] [] t
      else if s.rd .grpGroupEnable [] ≠ 1 then RanTo s h .groupLeave .done 256 [] [] t
      else left s t ∧ Fetched s t .groupLeave (.ended .done 0 false)) ∧
   ∀ s : State, HostTakes s → s.rd .grpGroupEnable [] = 1 → ∃ t, exec .groupEnableClear s = .next t ∧
      if s.leaveBlocked = true then t.rd .grpIgnored [] = satAdd 32 (s.rd .grpIgnored []) 1 ∧ HostWrote 4 [Reg.grpIgnored.key []] s t
      else left s t ∧ ChangesOnly (.reports :: .reportSeq :: .hold :: sendFields) s t)

/-- BETWEEN_JOB_TEST that R295 does not refuse queues a test of each unit of its mask, holds fetching and runs; a
refused one ends with that status. UNIT_TEST and TEST_NOW queue a test of a unit below 56, UNIT_UNFENCE and UNFENCE
one of a FENCED unit, of one that is tested between jobs with the refusals of R295 and with fetching held; any other
unit gives BAD_PARAM. TEST_DUE queues the test that the cadence of R292 makes due, and changes nothing when none is,
tests are disabled or the unit is FENCED. A deferral that expires marks the test and touches nothing but descriptors
and their counts. A slot that is ready and not late starts: TESTING is 1, LAST_TEST_S the seconds, LATE 0,
NEXT_CORNER the corner it runs, which a test of UNIT_UNFENCE leaves; one that is not ready changes nothing. A passed
slot of a HEALTHY unit, not cut short and without errors of its checks, clears TESTING, sets LAST_RESULT to 1,
counts, logs the test and leaves the health state; one that fails at nominal conditions fences a quad and makes an
uncore or LLS slice SUSPECT with WITHHELD set. BJ_OVERDUE follows the due time of the between-job units. No memory
changes. -/
def Obligations.UnitTestsAreQueuedAndEnd : Prop :=
  (∀ (s : State) (h : PktHdr) (m : Nat), Quiet s h → m < 2 ^ 40 →
    let us := ((List.range 40).filter (fun b => m.testBit b)).map (fun b => 56 + b)
    (∀ st, s.bjRefusal us false = some st → ∃ t, exec (.betweenJobTest h m) s = .next t ∧
      RanTo s h (.betweenJobTest m) st 0 [] [] t) ∧
    (s.bjRefusal us false = none → ∃ t, exec (.betweenJobTest h m) s = .next t ∧ t.fetchHold = [s.nextId] ∧
      t.tests = s.tests ++ us.map (fun u => newTest s u (.packet s.nextId) false) ∧ Fetched s t (.betweenJobTest m) .running ∧
      ChangesOnly [.regs, .flight, .nextId, .fetchHold, .tests] s t ∧ RegsBut (fetchKeys h.ring ++ domainKeys) s t)) ∧
  (∀ (s : State) (h : PktHdr) (u : Nat), Quiet s h → ∃ t, exec (.unitTest h u) s = .next t ∧
    if 56 ≤ u then RanTo s h (.unitTest u) .badParam 0 [] [] t
    else t.tests = s.tests ++ [newTest s u (.packet s.nextId) false] ∧
      Ran s h (.unitTest u) .running [.tests] [Reg.domDstate.key [u], Reg.domClocksStopped.key [u]] t) ∧
  (∀ (s : State) (h : PktHdr) (u : Nat), Quiet s h → ∃ t, exec (.unitUnfence h u) s = .next t ∧
    if 95 < u ∨ s.fenced u = false then RanTo s h (.unitUnfence u) .badParam 0 [] [] t
    else if u < 56 then
      t.tests = s.tests ++ [newTest s u (.packet s.nextId) true] ∧ Ran s h (.unitUnfence u) .running [.tests] [] t
    else (∀ st, s.bjRefusal [u] true = some st → RanTo s h (.unitUnfence u) st 0 [] [] t) ∧
      (s.bjRefusal [u] true = none → t.tests = s.tests ++ [newTest s u (.packet s.nextId) true] ∧
        t.fetchHold = [s.nextId] ∧ Ran s h (.unitUnfence u) .running [.tests, .fetchHold] [] t)) ∧
  (∀ (s : State) (h : MgmtHeader) (u : Nat), Accepts s h 0x41 (leBytes 2 u) → ∃ t, exec (.testNow h u) s = .next t ∧
    if 56 ≤ u then Replied h.seq .badParam 0 s t ∧ ChangesOnly [.regs, .out] s t ∧ RegsBut acceptKeys s t
    else t.tests = s.tests ++ [newTest s u (.command h.seq) false] ∧ ChangesOnly [.regs, .tests] s t ∧
      RegsBut (acceptKeys ++ [Reg.domDstate.key [u], Reg.domClocksStopped.key [u]]) s t) ∧
  (∀ (s : State) (h : MgmtHeader) (u : Nat), Accepts s h 0x43 (leBytes 2 u) →
    ∃ t, exec (.unfence h u) s = .next t ∧ RegsBut acceptKeys s t ∧
    if 95 < u ∨ s.fenced u = false then Replied h.seq .badParam 0 s t ∧ ChangesOnly [.regs, .out] s t
    else if u < 56 then t.tests = s.tests ++ [newTest s u (.command h.seq) true] ∧ ChangesOnly [.regs, .tests] s t
    else (∀ st, s.bjRefusal [u] true = some st → Replied h.seq st 0 s t ∧ ChangesOnly [.regs, .out] s t) ∧
      (s.bjRefusal [u] true = none → t.tests = s.tests ++ [newTest s u (.command h.seq) true] ∧
        t.fetchHold = s.fetchHold ++ [mgmtHold] ∧ ChangesOnly [.regs, .tests, .fetchHold] s t)) ∧
  (∀ (s : State) (u : Nat), s.power = 1 → ∃ t, exec (.testDue u) s = .next t ∧
    let last := fun (k : Nat) => Tab.get 0 s.testClock k
    let turn := s.nextQuad (last 97) = some u ∧ last 96 + s.rd .intTestIntervalS [] ≤ s.seconds
    let due := if u < 48 then turn ∨ s.rd .unitHstate [u] = 1 ∧ last u + s.rd .intSuspectIntervalS [] ≤ s.seconds
      else if u < 52 then last u < (s.seconds - 3600 * (u - 48)) / 14400 else last u < s.seconds / 900
    if u < 56 ∧ s.rd .intTestEnable [] = 1 ∧ s.fenced u = false ∧ due then
      t.tests = s.tests ++ [newTest s u .none false] ∧ ChangesOnly [.regs, .tests, .testClock, .llsTest] s t ∧
      RegsBut [Reg.domDstate.key [u], Reg.domClocksStopped.key [u], Reg.intSkippedWindows.key []] s t ∧
      (u < 48 → turn → Tab.get 0 t.testClock 96 = s.seconds ∧ Tab.get 0 t.testClock 97 = u + 1)
    else t = s) ∧
  (∀ (s : State) (u : Nat) (js : List Progress), s.power = 1 →
    (s.testOf u = none → exec (.testDeferExpiry u js) s = .next s) ∧
    ∀ x, s.testOf u = some x → x.running = false → u < 48 → s.quadHeld u = true → x.due + msTicks x.deferMs ≤ s.aoNow →
      ∃ t, exec (.testDeferExpiry u js) s = .next t ∧ (∃ y ∈ t.tests, y = { x with expired := true }) ∧
        ChangesOnly [.regs, .tests, .descs] s t ∧ (s.parked u = true → t.descs = s.descs)) ∧
  (∀ (s : State) (u : Nat) (x : TestSt), s.power = 1 → u < 96 → s.testOf u = some x →
    (s.slotReady x = false → exec (.testSlotStart u) s = .next s) ∧
    (s.slotReady x = true → (48 ≤ u ∨ s.aoNow ≤ x.due + msTicks x.deferMs + 500) → ∃ t, exec (.testSlotStart u) s = .next t ∧
      t.rd .unitTesting [u] = 1 ∧ t.rd .unitLastTestS [u] = s.seconds % 2 ^ 32 ∧ t.rd .unitLate [u] = 0 ∧
      t.rd .unitNextCorner [u] =
        (if x.unfence then s.rd .unitNextCorner [u] else cornerFrom x.corners u (s.rd .unitNextCorner [u])) ∧
      (∃ y ∈ t.tests, y.unit = u ∧ y.running = true ∧ y.due = x.due ∧ y.asker = x.asker) ∧
      ChangesOnly [.regs, .tests, .descs] s t ∧ RegsBut [Reg.unitTesting.key [u], Reg.unitLastTestS.key [u],
        Reg.unitLate.key [u], Reg.unitNextCorner.key [u]] s t)) ∧
  (∀ (s : State) (u k n : Nat) (cs : List Nat) (x : TestSt), s.power = 1 → Settled s → u < 56 → s.testOf u = some x → x.running = true →
    x.unfence = false → x.asker = .none → s.rd .unitHstate [u] = 0 →
    (x.cut = false → s.slotErrors x = false → ∃ t, exec (.testSlotEnd u ⟨0, cs⟩ k n) s = .next t ∧ t.rd .unitTesting [u] = 0 ∧ t.rd .unitLastResult [u] = 1 ∧
      t.rd .unitTestsRun [u] = (s.rd .unitTestsRun [u] + 1) % 2 ^ 32 ∧ t.tests = s.tests.erase x ∧
      t.rd .unitHstate [u] = 0 ∧ Logged 0x09 1 0 s t ∧ ChangesOnly (.tests :: logFields) s t ∧
      RegsBut (Reg.unitTesting.key [u] :: Reg.unitLastResult.key [u] :: Reg.unitTestsRun.key [u] ::
        Reg.intSkippedWindows.key [] :: Reg.unitNextCorner.key [u] :: logKeys) s t) ∧
    ((∀ p ∈ s.flight, p.phase ≠ .running) → ∃ t, exec (.testSlotEnd u ⟨1, cs⟩ k n) s = .next t ∧ t.rd .unitLastResult [u] = 2 ∧
      t.mem = s.mem ∧ (if u < 48 then t.rd .unitHstate [u] = 2 ∧ t.rd .unitFenceSource [u] = 1
        else t.rd .unitHstate [u] = 1 ∧ t.rd .unitWithheld [u] = 1))) ∧
  ∀ s : State, s.power = 1 → ∃ t, exec .bjOverdueCheck s = .next t ∧
    (t.flag .intBjOverdue [] = true ↔ ∃ b < 40, s.rd .unitLastTestS [56 + b] + s.rd .intBjDueHours [] * 3600 < s.seconds) ∧
    ChangesOnly [.regs, .reports, .reportSeq, .out] s t ∧
    RegsBut [Reg.intBjOverdue.key [], Reg.mgmtReportsSent.key [], Reg.mgmtReportsDropped.key []] s t

/-- UNIT_FENCE of an uncore, an LLS slice, the host interface or the management processor, and either command of the
management processor, is answered BAD_PARAM and changes nothing else. Otherwise, with no launch running and no test
of the unit waiting, the unit's HSTATE becomes FENCED with FENCE_SOURCE 4 for UNIT_FENCE and 3 for FENCE, the change
enters the integrity log, a quad's domain leaves service, and the command is answered DONE. Fencing a FENCED unit is
answered DONE and changes nothing. No memory changes. -/
def Obligations.FencesTakeUnitsOutOfService : Prop :=
  (∀ (s : State) (h : PktHdr) (u : Nat), Quiet s h →
    (95 ≤ u ∨ 48 ≤ u ∧ u < 56 ∨ u = 94 → ∃ t, exec (.unitFence h u) s = .next t ∧
      RanTo s h (.unitFence u) .badParam 0 [] [] t) ∧
    (u < 48 ∨ 56 ≤ u ∧ u < 94 → s.fenced u = true → ∃ t, exec (.unitFence h u) s = .next t ∧
      RanTo s h (.unitFence u) .done 0 [] [] t) ∧
    (u < 48 ∨ 56 ≤ u ∧ u < 94 → s.fenced u = false → (∀ p ∈ s.flight, p.phase = .running → isCompute p.op = false) →
      (∀ x ∈ s.tests, x.unit ≠ u) → ∃ t, exec (.unitFence h u) s = .next t ∧ t.fenced u = true ∧
        t.rd .unitFenceSource [u] = 4 ∧ (u < 48 → t.rd .domDstate [u] = 3) ∧ Logged 0x0A 2 0 s t ∧ t.mem = s.mem ∧
        Fetched s t (.unitFence u) (.ended .done 0 false))) ∧
  ∀ (s : State) (h : MgmtHeader) (u : Nat), Accepts s h 0x42 (leBytes 2 u) →
    (95 ≤ u → ∃ t, exec (.fence h u) s = .next t ∧ Replied h.seq .badParam 0 s t ∧ ChangesOnly [.regs, .out] s t ∧
      RegsBut acceptKeys s t) ∧
    (u < 95 → s.fenced u = true → ∃ t, exec (.fence h u) s = .next t ∧ Replied h.seq .done 0 s t ∧
      ChangesOnly [.regs, .out] s t ∧ RegsBut acceptKeys s t) ∧
    (u < 95 → s.fenced u = false → (∀ p ∈ s.flight, p.phase = .running → isCompute p.op = false) →
      (∀ x ∈ s.tests, x.unit ≠ u) → ∃ t, exec (.fence h u) s = .next t ∧ t.fenced u = true ∧
        t.rd .unitFenceSource [u] = 3 ∧ (u < 48 → t.rd .domDstate [u] = 3) ∧ Logged 0x0A 2 0 s t ∧ t.mem = s.mem ∧
        t.flight = s.flight ∧ Answered h.seq .done 0 s t)

/-- With no stack at CRIT and no frozen arbiter, PACKET_FETCH of a ring with nothing to fetch, or that may not
fetch, changes nothing; of one in host memory it issues the read of the next slot; of one in device memory it takes
the next packet into flight with the header's ring, tag and slot and consumes its slots, and a malformed header
stops the ring with BAD_PARAM. PACKET_START leaves a packet with an unsatisfied wait as it is, ends one that waits
on a FAULTED token, or whose attempt a HALT has stopped, with SKIPPED, and runs one that nothing holds (shown for
NOP). PACKET_END of a packet that has ended writes its 32-byte status record with the word of PHASE and STATUS last,
raises its token and sets or clears its FAULTED bit, takes it out of flight, and changes no memory but bytes that an
unordered packet in flight wrote too; where its status ring is full, or records of earlier ends wait for it, it
waits behind them, and STATUS_RECORD_DEFERRED reports it, with the tick of its end, once it is the oldest that waits
there and there is room; before that it changes nothing. -/
def Obligations.PacketsAreFetchedStartedAndReported : Prop :=
  (∀ (s : State) (r : Nat), s.power = 1 → (s.unfetched r = 0 ∨ s.canFetch r = false ∧ s.midFetch r = false) →
    exec (.packetFetch r) s = .next s) ∧
  (∀ (s : State) (r : Nat), s.power = 1 → s.canFetch r = true → s.unfetched r ≠ 0 → s.midFetch r = false → s.pcieUp = true →
    s.rd .arbFreeze [36] = 0 → s.rd .ringLoc [r] = 0 → ∃ t, exec (.packetFetch r) s = .next t ∧
      let a := s.slotAddr r (s.rd .ringRingFetched [r])
      t.hostReads = s.hostReads ++ [{ rid := s.nextId, addr := a, len := 64, what := .ring r }] ∧
      t.out = s.out ++ [.hostRead s.nextId a 64] ∧ ChangesOnly [.regs, .hostReads, .nextId, .out] s t ∧
      RegsBut (channelKeys 0) s t) ∧
  (∀ (s : State) (r : Nat), s.power = 1 → Inv s → s.canFetch r = true → s.rd .ringLoc [r] = 1 → s.unfetched r ≠ 0 →
    s.midFetch r = false → s.anyHeld = false →
    let c := s.rd .ringRingFetched [r]
    let h := RawHeader.parse (s.mem.read (s.slotAddr r c) 64)
    let as := (List.range h.length).map (fun i => s.slotAddr r (c + i))
    (s.slotFault r [s.slotAddr r c]).isNone = true →
    (h.ok = false → ∃ t, exec (.packetFetch r) s = .next t ∧ t.rd .ringRingState [r] = 2 ∧
      t.rd .ringStopCode [r] = Status.badParam.code ∧ t.flight = s.flight ∧ t.mem = s.mem) ∧
    (h.ok = true → h.length ≤ s.unfetched r → (s.slotFault r as).isNone = true → ∃ t p, exec (.packetFetch r) s = .next t ∧
      t.flight = s.flight ++ [p] ∧ p.pid = s.nextId ∧ p.ring = r ∧ p.tag = h.tag ∧ p.slot = c ∧
      p.op = (parsePacket h ((as.map (fun a => s.mem.read a 64)).flatten)).1 ∧
      t.rd .ringRingFetched [r] = (c + h.length) % 2 ^ 32 ∧ t.mem = s.mem)) ∧
  (∀ (s : State) (p : Packet), s.power = 1 → Settled s → s.packet p.pid = some p → p.phase = .waiting →
    (p.inAttempt = false ∨ s.step = none → p.waits.all s.waitMet = false → exec (.packetStart p.pid) s = .next s) ∧
    (p.inAttempt = false ∨ s.step = none → p.waits.all s.waitMet = true → p.waits.any (fun w => s.tokenFaulted w.token) = true →
      ∃ t, exec (.packetStart p.pid) s = .next t ∧
        (t.packet p.pid).map (fun q => q.phase) = some (.ended .skipped 1 true) ∧ ChangesOnly [.flight] s t) ∧
    (p.inAttempt = true → (s.step.map (fun q => q.stopped)).getD false = true → ∃ t, exec (.packetStart p.pid) s = .next t ∧
      EndedAs t p.pid .skipped 0 ∧ ChangesOnly [.flight] s t) ∧
    (p.op = .nop → p.inAttempt = false → p.again = false → p.waits.all s.waitMet = true → p.waits.any (fun w => s.tokenFaulted w.token) = false →
      ∃ t, exec (.packetStart p.pid) s = .next t ∧ EndedAs t p.pid .done 0 ∧ ChangesOnly [.flight] s t)) ∧
  (∀ (s : State) (p : Packet) (st : Status) (d : Nat) (fw : Bool), s.power = 1 → s.pcieUp = true →
    s.rd .arbFreeze [36] = 0 → Settled s → s.step = none → s.colls = [] → s.fetchHold = [] → (st.isFault = false ∨ p.coll = none) → p.ring < 16 → s.packet p.pid = some p → p.phase = .ended st d fw →
    (∀ a b c e, p.op ≠ .stepBegin a b c e) → p.deferred = false → s.retrying p.pid = false →
      (s.recordWaits p.ring = false → ∃ t, exec (.packetEnd p.pid) s = .next t ∧ Reported s t p st d fw s.aoNow) ∧
      (s.recordWaits p.ring = true → ∃ t, exec (.packetEnd p.pid) s = .next t ∧
        (t.packet p.pid).map (fun q => (q.phase, q.deferred)) = some (.ended st d fw, true) ∧
        t.lateRecords = s.lateRecords ++ [p.record st d fw s.aoNow] ∧ ChangesOnly [.flight, .descs, .lateRecords] s t)) ∧
  (∀ (s : State) (pid : Nat), s.power = 1 → Settled s →
    (∀ l, s.lateRecords.find? (fun l => l.pid == some pid) = some l → s.lateReady l = false) →
    exec (.statusRecordDeferred pid) s = .next s) ∧
  (∀ (s : State) (p : Packet) (st : Status) (d n : Nat) (fw : Bool), s.power = 1 → s.pcieUp = true →
    s.rd .arbFreeze [36] = 0 → Settled s → s.colls = [] → s.fetchHold = [] → (st.isFault = false ∨ p.coll = none) → p.ring < 16 → s.packet p.pid = some p → p.phase = .ended st d fw →
    let l := p.record st d fw n
    s.lateRecords.find? (fun q => q.pid == some p.pid) = some l → s.lateRecords.filter (fun q => q.ring == p.ring) = [l] →
    s.statusFull p.ring = false → ∃ t, exec (.statusRecordDeferred p.pid) s = .next t ∧
      Reported s t p st d fw n ∧ t.lateRecords = s.lateRecords.erase l)

/-- DESCRIPTOR_START gives a free unit its next ready descriptor, which runs there, its operands kept as read, once
they pass the checks; an operand with an uncorrectable error ends the launch with MEM_UNCORRECTABLE, one that fails
a check with FAULT_CHECK, and may change its destination alone; a unit that is not free, or has nothing to do,
changes nothing. With no access held back, TILE_PASS_LATCH of a tile whose checks do not fail releases its output;
with one that fails it withholds it, logs and counts the event, and begins a majority procedure. DESCRIPTOR_END
completes a released descriptor; the last one of a product outside a step writes the output tensor's bolts and ends
the packet with DONE, or DONE_FLAGGED and the flag vector. PREEMPT suspends a tile, with its context, at a common
block or outlier position where R104 lets it stop, on a cluster with fewer than four contexts; CONTEXT_RESUME runs
it on the same cluster again from that context; else neither changes anything. Until the last descriptor of a launch
that goes well ends, no memory changes. -/
def Obligations.DescriptorsRunOnUnits : Prop :=
  (∀ (s : State) (e : Bool) (i : Nat), s.power = 1 →
    let u : ExecUnit := if e then .engine i else .cluster i
    (s.unitFree u = false ∨ s.nextDesc u = none → exec (.descriptorStart e i) s = .next s) ∧
    ∀ (d : Desc) (p : Packet), s.unitFree u = true → s.nextDesc u = some d → s.packet d.pid = some p → p.phase = .running →
      ((∀ g ∈ p.readRanges s.mem d.kind, s.badBolts g.1 g.2 = []) → (∀ r ∈ p.reads d.kind, r.1.checks s.mem r.2 = []) →
        ∃ t x, exec (.descriptorStart e i) s = .next t ∧ t.desc d.id = some x ∧ x.phase = .running u ∧ x.start = s.aoNow ∧
          x.read = s.mem.keep (p.readRanges s.mem d.kind) ∧ ChangesOnly (.descs :: .dispatched :: trafficFields) s t) ∧
      ((∃ g ∈ p.readRanges s.mem d.kind, s.badBolts g.1 g.2 ≠ []) → ∃ t k a, exec (.descriptorStart e i) s = .next t ∧
        EndedAs t p.pid .memUncorrectable (faultDetail k 0 a) ∧ MemOutside p.dests s t) ∧
      ((∀ g ∈ p.readRanges s.mem d.kind, s.badBolts g.1 g.2 = []) → (∃ r ∈ p.reads d.kind, r.1.checks s.mem r.2 ≠ []) →
        ∃ t k a, exec (.descriptorStart e i) s = .next t ∧ EndedAs t p.pid .faultCheck (faultDetail k 0 a) ∧
          MemOutside p.dests s t)) ∧
  (∀ (s : State) (d : Desc) (p : Packet) (u : ExecUnit) (b k : Nat), s.power = 1 → s.anyHeld = false → s.colls = [] →
    s.desc d.id = some d → s.packet d.pid = some p → d.phase = .running u → d.kind = .tile b k →
    (∀ c : Check, d.shadowed = false → (∀ x, c = some x → s.checkFails d x = false) →
      ∃ t x, exec (.tilePassLatch d.id c) s = .next t ∧ t.desc d.id = some x ∧ x.phase = .released u ∧
        t.retries = s.retries ∧ ChangesOnly [.regs, .flight, .descs] s t) ∧
    ∀ c : CheckSeen, s.checkFails d c = true → ∃ t x y, exec (.tilePassLatch d.id (some c)) s = .next t ∧
      t.desc d.id = some x ∧ x.phase = .withheld u ∧ x.checkedAgain = true ∧ t.retries = s.retries ++ [y] ∧
      y.what = .desc d.id ∧ y.u0 = u ∧ y.u1 = u ∧ y.kind = 0 ∧
      t.rd .intCheckEvents [] = satAdd 32 (s.rd .intCheckEvents []) 1 ∧ Logged 0x06 c.code c.position s t ∧
      t.flight = s.flight ∧ t.mem = s.mem) ∧
  (∀ (s : State) (d : Desc) (p : Packet) (u : ExecUnit), s.power = 1 → s.anyHeld = false → s.desc d.id = some d →
    s.packet d.pid = some p → d.phase = .released u → u.inDevice = true →
    ((∃ e ∈ s.descs, e.pid = p.pid ∧ e.id ≠ d.id ∧ e.phase ≠ .done) → ∃ t x, exec (.descriptorEnd d.id) s = .next t ∧
      t.desc d.id = some x ∧ x.phase = .done ∧ t.flight = s.flight ∧ t.mem = s.mem) ∧
    ((∀ e ∈ s.descs, e.pid = p.pid → e.id = d.id ∨ e.phase = .done) → (∃ o k g, p.op = .product o 0 k g) → s.colls = [] →
      p.inAttempt = false → p.phase = .running → (∀ a n, s.badBolts a n = []) → (∀ f ∈ d.flags, f.1 < 8) →
      let w := writeTensor p.valueList p.outDesc (s.writeCtx p) p.outTable
      let v := FlagSet.vector p.flags
      ∃ t, exec (.descriptorEnd d.id) s = .next t ∧ EndedAs t p.pid (if v = 0 then .done else .doneFlagged) v ∧
        t.mem = w.writes.foldl (fun m x => m.write x.1 x.2) s.mem)) ∧
  (∀ (s : State) (k : Nat) (j : Progress), s.power = 1 →
    (s.descs.find? (fun d => d.on (.cluster k)) = none → exec (.preempt k j) s = .next s) ∧
    ∀ (d : Desc) (p : Packet) (b m : Nat), s.descs.find? (fun d => d.on (.cluster k)) = some d → s.packet d.pid = some p →
      d.kind = .tile b m → ∃ t, exec (.preempt k j) s = .next t ∧
        if s.contexts k < 4 ∧ s.passesOn k = 1 ∧ p.mayStop d j = true then
          (t.desc d.id).map (fun x => (x.phase, x.context.isSome)) = some (.suspended k, true) ∧ ChangesOnly [.regs, .descs] s t
        else t = s) ∧
  ∀ (s : State) (d : Desc) (k : Nat), s.power = 1 → s.desc d.id = some d → d.phase = .suspended k →
    ∃ t, exec (.contextResume d.id) s = .next t ∧
      if s.unitFree (.cluster k) = true ∨ s.drainsContext k = true then
        (t.desc d.id).map (fun x => (x.phase, x.context)) = some (.running (.cluster k), d.context) ∧ ChangesOnly [.regs, .descs] s t
      else t = s

/-- Over a withheld tile of a HEALTHY unit, two executions that agree with E0 release the tile, count CHECKER_WRONG
and make the unit of E0 SUSPECT; with no two in agreement the packet ends with FAULT_CHECK and outcome 3 in its
detail, with nothing outside its destination changed, and, with none of its descriptors sampled, NO_MAJORITY counts
and the unit is SUSPECT. A shadow execution that agrees is counted and done with; one that disagrees is counted,
logged and becomes a majority procedure of the shadowed output, and so does one whose own check fails, a check
event. A procedure that does not exist changes nothing. -/
def Obligations.MajorityAndShadowOutcomes : Prop :=
  (∀ (s : State) (r : Retry) (d : Desc) (p : Packet) (b i k : Nat), s.power = 1 → Settled s →
    s.retries.find? (fun q => q.id == r.id) = some r → r.kind = 0 → r.what = .desc d.id → k < 192 → r.u0 = .cluster k →
    r.u1 = .cluster k → r.u2.inDevice = true → s.desc d.id = some d → s.packet d.pid = some p → p.isEnded = false → d.kind = .tile b i →
    s.colls = [] → s.rd .unitHstate [k / 4] = 0 →
    (∃ t, exec (.majorityOutcome r.id true true none none) s = .next t ∧
      (t.desc d.id).map (fun x => x.phase) = some (.released (.cluster k)) ∧
      t.rd .intCheckerWrong [] = satAdd 32 (s.rd .intCheckerWrong []) 1 ∧ t.rd .unitHstate [k / 4] = 1 ∧
      t.retries = s.retries.filter (fun q => q.id != r.id) ∧ t.mem = s.mem) ∧
    (∀ m, m < 192 → r.u2 = .cluster m → s.rd .unitHstate [m / 4] = 0 →
      ∃ t, exec (.majorityOutcome r.id false false none none) s = .next t ∧
        EndedAs t p.pid .faultCheck (faultDetail 0 3 0) ∧ MemOutside p.dests s t ∧
        ((∀ x ∈ s.descs, x.selected = false) → t.rd .unitHstate [k / 4] = 1 ∧
          t.rd .intNoMajority [] = satAdd 32 (s.rd .intNoMajority []) 1))) ∧
  (∀ (s : State) (n : Nat) (a b : Bool) (c1 c2 : Check), s.power = 1 → Settled s → s.retries.find? (fun q => q.id == n) = none →
    exec (.majorityOutcome n a b c1 c2) s = .next s ∧ exec (.shadowCompare n ⟨a, c1⟩) s = .next s) ∧
  ∀ (s : State) (r : Retry), s.power = 1 → Settled s → s.retries.find? (fun q => q.id == r.id) = some r → r.kind = 1 →
    r.u1.inDevice = true → (∃ t, exec (.shadowCompare r.id ⟨true, none⟩) s = .next t ∧ t.retries = s.retries.filter (fun q => q.id != r.id) ∧
      t.rd .intShadowPasses [] = satAdd 64 (s.rd .intShadowPasses []) 1 ∧ ChangesOnly [.regs, .retries, .free] s t) ∧
    (∀ q k, s.retryPacket r = some q → s.checkFails q.1 k = true → ∃ t x, exec (.shadowCompare r.id ⟨true, some k⟩) s = .next t ∧
      t.retries.find? (fun q => q.id == r.id) = some x ∧ x.kind = 2 ∧ Logged 0x06 k.code k.position s t ∧
      t.rd .intCheckEvents [] = satAdd 32 (s.rd .intCheckEvents []) 1 ∧ t.mem = s.mem ∧ t.flight = s.flight) ∧
    ∃ t x, exec (.shadowCompare r.id ⟨false, none⟩) s = .next t ∧ t.retries.find? (fun q => q.id == r.id) = some x ∧ x.kind = 2 ∧
      x.what = r.what ∧ t.rd .intShadowMismatches [] = satAdd 32 (s.rd .intShadowMismatches []) 1 ∧ Logged 0x08 0 0 s t ∧
      t.mem = s.mem ∧ t.flight = s.flight

/-- COLL_LAUNCH of a legal BARRIER in an epoch, with no other collective about and no product that streams, takes
the next sequence number, puts the collective in flight and runs. For a collective that has sent, copied and
combined all it can (its own part copied, its units sent to every rank), a matching LAUNCH, a GRANT, FLAGS, RELEASE
from rank 0 and the first half of a wide unit change exactly the collective's entry and move its deadline to now +
WATCHDOG_MS; a repeated FLAGS changes nothing in it. The second half of a wide unit, and a bolt cell whose bolt
passes its checks, write the unit of an ALL_GATHER to its place in the destination and no other byte. A LAUNCH or
ABORT whose collective is not launched is held. -/
def Obligations.CollectivesLaunchAndTakeMessages : Prop :=
  (∀ (s : State) (h : PktHdr) (a : Nat) (d : CollDesc), Quiet s h → s.readColl h.ring a = .ok (d, [], []) → d.op = 6 →
    d.legal (s.rd .grpMembers []) = true → s.rd .grpPrepared [] = 0 → s.step = none → s.colls = [] → s.endedColls = [] →
    s.heldMsgs = [] → s.reserved = [] → (∀ q ∈ s.flight, ∀ o x k g, q.op = .product o x k g → x = 0) → s.rd .collEnable [] ≠ 0 → s.rd .grpGroupEnable [] = 1 → s.rd .grpEpoch [] ≠ 0 →
    s.rd .grpInEpoch [] = 1 → ∃ t c, exec (.collLaunch h a) s = .next t ∧ t.colls = [c] ∧ c.pid = some s.nextId ∧ c.op = 6 ∧
      c.key.epoch = s.rd .grpEpoch [] ∧ c.key.seq = s.rd .collCollSeq [] ∧ c.rank = s.rd .grpRank [] ∧
      t.rd .collCollSeq [] = (s.rd .collCollSeq [] + 1) % 2 ^ 64 ∧ Fetched s t (.collLaunch a) .running ∧ t.mem = s.mem) ∧
  (∀ (s : State) (h : CollHeader) (c : CollSt) (k : Nat), Live s h c k →
    let becomes := fun (t : State) (y : CollSt) => ∃ x, t.coll h.key = some x ∧ x = { y with gathered := x.gathered } ∧
      (c.op ≠ 1 → x.gathered = c.gathered) ∧ ChangesOnly [.delivered, .colls] s t
    let moved := fun (x : CollSt) => { x with progress := s.aoNow, deadline := s.aoNow + msTicks c.watchdogMs }
    (Stalls c → ∀ m, c.own.differs m = 0 → ∃ t, exec (.launch h m) s = .next t ∧
      becomes t (moved { c with matched := if c.matched.contains k then c.matched else c.matched ++ [k],
                                limits := Tab.put c.limits k (max m.limit (Tab.get 0 c.limits k)) })) ∧
    (Stalls c → ∀ n, ∃ t, exec (.grant h n) s = .next t ∧
      becomes t (moved { c with limits := Tab.put c.limits k (max n (Tab.get 0 c.limits k)) })) ∧
    (Stalls c → ∀ q v, ∃ t, exec (.flags h q v) s = .next t ∧
      if c.flagsRx.any (fun e => e.1 == k && e.2.1 == q) then becomes t c
      else becomes t (moved { c with flagsRx := c.flagsRx ++ [(k, q, v)] })) ∧
    (∃ t, exec (.release h) s = .next t ∧ becomes t (if k = 0 then moved { c with released := true } else c)) ∧
    (∀ u ph bs, ∃ t, exec (.collectiveData h u ph 0 bs) s = .next t ∧
      becomes t (moved { c with half := Tab.put c.half (ph % 2 * 16384 + k) (slice bs 0 256) })) ∧
    ∀ (lo hi : List Byte) (u : Nat), Stalls c → c.op = 3 → Tab.find c.half k = some lo → lo.length = 256 → hi.length = 256 →
      let i := Tab.get 0 c.got k
      let q := c.destOf 0 k i
      let a := q.2.1.base + 512 * q.2.2.2
      i < c.expects 0 k → q.1.elem.inBolts = false → q.2.1.elem.inBolts = false → s.badBolts a 512 = [] →
      ∃ t x, exec (.collectiveData h u 0 1 hi) s = .next t ∧ t.mem.read a 512 = lo ++ hi ∧ MemBut a 512 s t ∧
        t.coll h.key = some x ∧ Tab.get 0 x.got k = i + 1 ∧ ChangesOnly (.delivered :: .colls :: .mem :: trafficFields) s t ∧
        RegsBut trafficKeys s t) ∧
  (∀ (s : State) (src stream k : Nat) (c : CollSt) (bs : List Byte), s.power = 1 → Settled s →
    s.collOfStream stream = some c → s.coll c.key = some c → (∀ x ∈ s.colls, x.key = c.key → x = c) → s.rankOf src = some k → Stalls c → c.op = 3 →
    bitsOf stream 12 12 = 0 → bs.length = 512 →
    let i := Tab.get 0 c.got k
    let q := c.destOf 0 k i
    let a := q.2.1.base + 512 * q.2.2.2
    i < c.expects 0 k → q.1.elem.inBolts = true → boltCheck bs (q.2.2.1 % 65536) q.1.tag q.1.geometry q.1.format = none →
    s.badBolts a (reheaded q.2.1 q.2.2.2 bs).length = [] → ∃ t, exec (.boltCell src stream bs) s = .next t ∧
      t.mem.read a (reheaded q.2.1 q.2.2.2 bs).length = reheaded q.2.1 q.2.2.2 bs ∧
      MemBut a (reheaded q.2.1 q.2.2.2 bs).length s t ∧
      ChangesOnly (.delivered :: .colls :: .mem :: trafficFields) s t ∧ RegsBut trafficKeys s t) ∧
  ∀ (s : State) (h : CollHeader), s.power = 1 → s.coll h.key = none → s.endedKey h.key = false → s.staleMsg h.key = false →
    s.heldMsgs.length < 1024 →
    (∀ m, ∃ t, exec (.launch h m) s = .next t ∧
      t.heldMsgs = s.heldMsgs ++ [{ key := h.key, src := h.src, tick := s.aoNow, body := .launch m }] ∧
      t.mem = s.mem ∧ t.flight = s.flight) ∧
    ∀ c f r, ∃ t, exec (.abort h c f r) s = .next t ∧
      t.heldMsgs = s.heldMsgs ++ [{ key := h.key, src := h.src, tick := s.aoNow, body := .abort c f r }] ∧
      t.mem = s.mem ∧ t.flight = s.flight

/-- COLL_COMPLETE of a collective that meets every condition of R273, with no cell of it waiting, ends its packet
with DONE, or DONE_FLAGGED and its flag vector, counts it and takes it out of flight; otherwise it changes nothing.
A LAUNCH that differs ends it with COLL_MISMATCH, an ABORT with COLL_ABORTED, or COLL_TIMEOUT for CAUSE 2, and a
watchdog whose deadline has passed with COLL_TIMEOUT, each with the detail of R275 and counted; before the deadline
the watchdog changes nothing. SLOW is counted and moves the deadline as R277 limits it, and SLOW_TIMER sends and
counts it to every other member while the module is slow, no more often than SLOW_INTERVAL_MS. No memory changes but
the destination of one that fails. -/
def Obligations.CollectivesEnd : Prop :=
  (∀ (s : State) (h : CollHeader) (c : CollSt) (k : Nat) (p : Packet), Live s h c k → c.pid = some p.pid →
    s.packet p.pid = some p → p.isEnded = false →
    (∃ t, exec (.collComplete h.key) s = .next t ∧
      if s.collDone c = true ∧ s.cellsWait c = false then
        t.coll h.key = none ∧ EndedAs t p.pid (if c.vector = 0 then .done else .doneFlagged) c.vector ∧
        t.rd .collCompleted [] = (s.rd .collCompleted [] + 1) % 2 ^ 64 ∧ ChangesOnly [.regs, .colls, .step, .flight, .free] s t ∧
        RegsBut (Reg.collCompleted.key [] :: counterKeys) s t
      else t = s) ∧
    (∀ m, c.own.differs m ≠ 0 → ∃ t, exec (.launch h m) s = .next t ∧
      CollFailed t c p.pid .collMismatch 1 (c.own.differs m) k ∧ MemOutside c.dests s t ∧
      t.rd .collMismatches [] = satAdd 32 (s.rd .collMismatches []) 1) ∧
    (∀ x f r, ∃ t, exec (.abort h x f r) s = .next t ∧
      CollFailed t c p.pid (if x = 2 then .collTimeout else .collAborted) x f r ∧ MemOutside c.dests s t ∧
      t.rd .collAbortsRx [] = satAdd 32 (s.rd .collAbortsRx []) 1) ∧
    (∃ t, exec (.collWatchdogExpiry h.key) s = .next t ∧
      if c.deadline ≤ s.aoNow then CollFailed t c p.pid .collTimeout 2 0 c.awaited ∧ MemOutside c.dests s t ∧
        t.rd .collTimeouts [] = satAdd 32 (s.rd .collTimeouts []) 1
      else t = s) ∧
    ∀ r, ∃ t, exec (.slow h r) s = .next t ∧ t.coll h.key = some (c.slowed s.aoNow) ∧
      (c.slowed s.aoNow).deadline ≤ c.progress + msTicks c.watchdogMs + msTicks c.slowLimitMs ∧
      t.rd .collSlowRx [] = satAdd 32 (s.rd .collSlowRx []) 1 ∧ ChangesOnly [.regs, .delivered, .colls, .free] s t ∧
      RegsBut (Reg.collSlowRx.key [] :: counterKeys) s t) ∧
  ∀ s : State, s.power = 1 →
    (s.slowReason = 0 → ∃ t, exec .slowTimer s = .next t ∧ t.colls = s.colls.map (fun c => { c with slowAt := none }) ∧
      ChangesOnly [.colls] s t) ∧
    ∀ c, s.colls = [c] → s.slowReason ≠ 0 → ∃ t, exec .slowTimer s = .next t ∧
      if c.slowDue s.aoNow = true then t.colls = [{ c.slowed s.aoNow with slowAt := some s.aoNow }] ∧
        t.rd .collSlowTx [] = satAdd 32 (s.rd .collSlowTx []) c.others.length ∧ ChangesOnly (.colls :: sendFields) s t ∧
        RegsBut (Reg.collSlowTx.key [] :: sendKeys) s t
      else t = s

/-- PORT_ENABLE of a port that is neither enabled nor FENCED sets ENABLE, begins a LINK_SESSION and trains;
PORT_DISABLE of an enabled port clears it, idles the port and discards its flits, partial cells and credits; cells
not yet begun wait on; else neither changes anything but the count of the write's bytes. TRAINING_COMPLETE of a
training or retraining port whose group is ON sends SYNC, and SYNC brings the port UP: with PEER_CHANGED, the peer's
identity and its credits for a new session, with the session's own for a continued one. On a port that is UP a flit
with a bad CRC is counted and answered with NAK; one out of order is answered with NAK; the next DATA flit is
counted, its bytes join its VC, a whole cell for this node is delivered, and an IDLE flit carries ACK. NAK takes its
totals; RETRY_TIMEOUT sends an unacknowledged flit again, and at RETRY_LIMIT, like LOSS_OF_LOCK, retrains the port.
On a port that is not UP these change nothing. SYNC, NAK and retraining change no memory and no packet. -/
def Obligations.LinkPortsTrainAndCarryFlits : Prop :=
  (∀ (s : State) (p : Nat), HostTakes s → p < 12 →
    (∃ t, exec (.portEnable p) s = .next t ∧
      if s.rd .portEnable [p] = 1 ∨ s.fenced (82 + p) = true then HostWrote 4 [] s t
      else t.rd .portEnable [p] = 1 ∧ t.rd .portPstate [p] = 1 ∧
        t.port p = { PortSt.empty with waiting := (s.port p).waiting } ∧
        t.rd .portLinkSession [p] = (s.rd .portLinkSession [p] + 1) % 2 ^ 32 ∧ ChangesOnly [.regs, .bwTotals, .bwWindow, .ports] s t) ∧
    ∃ t, exec (.portDisable p) s = .next t ∧
      if s.rd .portEnable [p] = 1 then t.rd .portEnable [p] = 0 ∧ t.rd .portPstate [p] = 0 ∧
        t.port p = { PortSt.empty with waiting := (s.port p).waiting } ∧
        (∀ v, v < 4 → t.rd .portTxCredits [p, v] = 0) ∧
        t.rd .portCellsLost [p] = satAdd 32 (s.rd .portCellsLost [p]) (s.port p).lost ∧
        ChangesOnly [.regs, .bwTotals, .bwWindow, .ports] s t
      else HostWrote 4 [] s t) ∧
  (∀ (s : State) (p : Nat), s.power = 1 → ∃ t, exec (.trainingComplete p) s = .next t ∧
    if p < 12 ∧ (s.pstate p = 1 ∨ s.pstate p = 4) ∧ s.rd .domDstate [portGroup p] = 2 then
      let q := s.port p
      t.pstate p = 2 ∧ t.out = s.out ++ [.flit p (flitBytes (flitHeader q.nextSeq q.lastRx 0 3 (s.syncPayload p).length q.cvc
        (q.returned.getD q.cvc 0)) (s.syncPayload p))] ∧ ChangesOnly [.regs, .ports, .out] s t
    else t = s) ∧
  (∀ (s : State) (p : Nat) (f : FlitTotals) (i n e : Nat) (cs : List Nat), s.power = 1 → p < 12 → f.cvc < 4 →
    (s.pstate p ≠ 2 → exec (.sync p f i n e cs) s = .next s) ∧
    (s.pstate p = 2 → ∃ t, exec (.sync p f i n e cs) s = .next t ∧ t.pstate p = 3 ∧ t.mem = s.mem ∧ t.flight = s.flight) ∧
    (s.pstate p = 2 → (s.port p).waiting = [] → (s.port p).fresh = true → ∃ t, exec (.sync p f i n e cs) s = .next t ∧
      t.pstate p = 3 ∧ t.rd .portPeerChanged [p] = 1 ∧ t.rd .portPeerId [p] = i % 2 ^ 64 ∧ t.rd .portPeerPort [p] = n % 16 ∧
      (∀ v, v < 4 → t.rd .portTxCredits [p, v] = cs.getD v 0 % 1024) ∧ (t.port p).fresh = false ∧
      (t.port p).peerSession = e ∧ ChangesOnly [.regs, .ports, .reports, .reportSeq, .out] s t) ∧
    (s.pstate p = 2 → (s.port p).flitsDue = 0 → (s.port p).retry = [] → (s.port p).fresh = false →
      s.rd .portPeerId [p] = i → s.rd .portPeerPort [p] = n → (s.port p).peerSession = e →
      ∃ t, exec (.sync p f i n e cs) s = .next t ∧ t.pstate p = 3 ∧ (t.port p).nextSeq = (s.port p).nextSeq ∧
        (t.port p).lastRx = (s.port p).lastRx ∧ ChangesOnly [.regs, .ports] s t ∧
        RegsBut (Reg.portPstate.key [p] :: Reg.portTxCredits.key [p, f.cvc] ::
          (List.range 4).map (fun v => Reg.portPartial.key [p, v])) s t)) ∧
  (∀ (s : State) (p : Nat) (bs : List Byte) (c n : Nat), s.power = 1 → Settled s → p < 12 →
    let q := s.port p
    let h := fieldLe bs 0 8
    let vc := bitsOf h 39 38
    let body := slice bs 8 (min 244 (bitsOf h 35 28))
    let part := q.part.getD vc []
    (s.pstate p ≠ 3 → exec (.flitReceived p bs c n) s = .next s) ∧
    (s.pstate p = 3 → flitGood bs = false → ∃ t, exec (.flitReceived p bs c n) s = .next t ∧
      t.rd .portCrcErrors [p] = satAdd 32 (s.rd .portCrcErrors [p]) 1 ∧
      t.rd .portFecCorrected [p] = (s.rd .portFecCorrected [p] + c) % 2 ^ 64 ∧
      t.out = s.out ++ [.flit p (flitBytes (flitHeader q.nextSeq q.lastRx 0 2 0 q.cvc (q.returned.getD q.cvc 0)) [])] ∧
      ChangesOnly [.regs, .ports, .out] s t) ∧
    (s.pstate p = 3 → flitGood bs = true → bitsOf h 37 36 = 0 → bitsOf h 63 52 ≠ (q.lastRx + 1) % 4096 →
      ∃ t f, exec (.flitReceived p bs c n) s = .next t ∧ t.out = s.out ++ [.flit p f] ∧ t.delivered = s.delivered ∧
        t.rd .portFlitsRx [p] = s.rd .portFlitsRx [p] ∧ (t.port p).lastRx = q.lastRx) ∧
    (s.pstate p = 3 → flitGood bs = true → bitsOf h 37 36 = 0 → bitsOf h 63 52 = (q.lastRx + 1) % 4096 → q.part.length = 4 →
      q.flitsDue = 0 →
      (part.length + body.length < 8 → ∃ t f, exec (.flitReceived p bs c n) s = .next t ∧ t.out = s.out ++ [.flit p f] ∧
        t.delivered = s.delivered ∧ t.rd .portFlitsRx [p] = (s.rd .portFlitsRx [p] + 1) % 2 ^ 64 ∧
        (t.port p).lastRx = bitsOf h 63 52 ∧ (t.port p).part.getD vc [] = part ++ body) ∧
      let ch := fieldLe body 0 8
      let m := body.length
      let cell : Cell := { dest := bitsOf ch 63 50, src := bitsOf ch 49 36, kind := 3, stream := bitsOf ch 15 0,
                           body := (body.drop 8).take (m - 12) }
      (part = [] → 12 ≤ m → 8 + bitsOf ch 35 26 = m → bitsOf ch 63 50 = s.rd .grpNode [] → bitsOf ch 23 16 = 3 →
        crc32 (body.take (m - 4)) = fieldLe body (m - 4) 4 → s.rd .grpGroupEnable [] = 1 →
        ∃ t f, exec (.flitReceived p bs c n) s = .next t ∧ t.out = s.out ++ [.flit p f] ∧
          (t.port p).part.getD vc [] = [] ∧ t.delivered = s.delivered ++ [cell]))) ∧
  ∀ (s : State) (p : Nat), s.power = 1 → p < 12 →
    let q := s.port p
    let retrains := fun (t : State) => t.pstate p = 4 ∧ t.rd .portRetrains [p] = satAdd 32 (s.rd .portRetrains [p]) 1 ∧
      ChangesOnly (.colls :: .riskEvents :: .reports :: .reportSeq :: sendFields) s t ∧
      (s.colls = [] → t.ports = s.ports ∧ ChangesOnly [.regs, .riskEvents, .reports, .reportSeq, .out] s t)
    (s.pstate p ≠ 3 → exec (.lossOfLock p) s = .next s ∧ exec (.retryTimeout p) s = .next s ∧
      ∀ f, exec (.nak p f) s = .next s) ∧
    (s.pstate p = 3 → (∃ t, exec (.lossOfLock p) s = .next t ∧ retrains t) ∧
      (q.retry = [] → exec (.retryTimeout p) s = .next s) ∧
      (q.retry ≠ [] → s.rd .linkRetryLimit [] ≤ q.resent → ∃ t, exec (.retryTimeout p) s = .next t ∧ retrains t) ∧
      (∀ f, q.retry = [f] → q.resent < s.rd .linkRetryLimit [] → ∃ t, exec (.retryTimeout p) s = .next t ∧
        t.out = s.out ++ [.flit p (flitBytes (flitHeader f.1 q.lastRx f.2.1 0 f.2.2.2.length q.cvc
          (q.returned.getD q.cvc 0)) f.2.2.2)] ∧
        (t.port p).resent = q.resent + 1 ∧ t.rd .portResends [p] = satAdd 32 (s.rd .portResends [p]) 1) ∧
      (∀ f, ∃ t, exec (.nak p f) s = .next t ∧ t.mem = s.mem ∧ t.flight = s.flight) ∧
      ∀ f, f.cvc < 4 → q.retry = [] → q.flitsDue = 0 → ∃ t, exec (.nak p f) s = .next t ∧
        t.rd .portTxCredits [p, f.cvc] =
          (s.rd .portTxCredits [p, f.cvc] + (f.credits + 1024 - q.taken.getD f.cvc 0) % 1024) % 1024 ∧
        ChangesOnly [.regs, .ports] s t ∧ RegsBut (Reg.portTxCredits.key [p, f.cvc] ::
          (List.range 4).map (fun v => Reg.portPartial.key [p, v])) s t)

/-- A group manager that accepts JOIN makes the member JOINING with its FEED_ID and no heartbeat missed; one it
refuses changes no entry. LEAVE of a member makes it LEAVING. A HEARTBEAT at a manager restarts the member's miss
count and keeps its risk; at a standby it takes the manager's, or the top manager's, role with TERM one higher
(while this module makes no copy); elsewhere it changes nothing. MGR_HEARTBEAT from the manager, TAKEOVER (of this
group's manager, or by TOP_STANDBY) and the heartbeat interval of a member keep the manager's count. GROUP_REPORT at
the top manager sets GRISK and GMANAGER, and a change of the member list, or a node that joins, begins an epoch
change. PARTNER assigns the holder and the source. A message with a lower TERM is ignored and counted; a higher TERM
returns a manager to WORKER under the sender. Cells that are sent aside, nothing else changes, and no memory. -/
def Obligations.GroupMembershipMessages : Prop :=
  (∀ (s : State) (h : GroupHeader) (i f n : Nat), Heard s h →
    let m := h.src % 128
    ∃ t, exec (.join h i f n) s = .next t ∧
      if s.joinResult h.src i n = 0 then
        t.rd .mbrMstate [m] = 1 ∧ t.rd .mbrFeedId [m] = f % 16 ∧ t.rd .mbrMissed [m] = 0 ∧ Tab.get 0 t.memberIds m = i ∧
        ChangesOnly (.memberIds :: reportFields) s t ∧
        RegsBut (Reg.mbrMstate.key [m] :: Reg.mbrFeedId.key [m] :: Reg.mbrMissed.key [m] :: reportKeys s) s t ∧
        (s.rd .grpRole [] ≠ 2 → ChangesOnly (.memberIds :: sendFields) s t)
      else ChangesOnly sendFields s t ∧ RegsBut sendKeys s t) ∧
  (∀ (s : State) (h : GroupHeader), Heard s h →
    let m := h.src % 128
    ∃ t, exec (.leave h) s = .next t ∧
      if s.ownMember h.src = true ∧ (s.rd .mbrMstate [m] = 1 ∨ s.rd .mbrMstate [m] = 2) then
        t.rd .mbrMstate [m] = 3 ∧ ChangesOnly reportFields s t ∧ RegsBut (Reg.mbrMstate.key [m] :: reportKeys s) s t
      else ChangesOnly [.delivered] s t) ∧
  (∀ (s : State) (h : GroupHeader) (r a b c d e : Nat), Heard s h →
    let me := s.rd .grpNode []
    let m := h.src % 128
    ∃ t, exec (.heartbeat h r a b c d e) s = .next t ∧
      (s.ownMember h.src = true → t.rd .mbrMissed [m] = 0 ∧ t.rd .mbrRisk [m] = r % 4 ∧ m ∈ t.heard ∧
        Tab.get [] t.memberHealth m = [a, b, c, d, e] ∧ ChangesOnly [.regs, .delivered, .heard, .memberHealth] s t ∧
        RegsBut [Reg.mbrMissed.key [m], Reg.mbrRisk.key [m], Reg.gtGrisk.key [me / 128]] s t) ∧
      (∀ top, s.standbyFor h.src = some top → s.copies = [] → t.rd .grpTerm [] = (s.rd .grpTerm [] + 1) % 2 ^ 32 ∧
        t.rd .grpRole [] = (if top then 2 else 1) ∧ t.rd .grpManagerNode [] = me % 2 ^ 14 ∧
        (top = true → t.rd .grpTopNode [] = me % 2 ^ 14) ∧
        t.mem = s.mem ∧ t.flight = s.flight) ∧
      (s.standbyFor h.src = none → s.ownMember h.src = false → ChangesOnly [.delivered] s t)) ∧
  (∀ (s : State) (h : GroupHeader), Heard s h → ∃ t, exec (.mgrHeartbeat h) s = .next t ∧
    if h.src = s.superior then
      t.mgrHeard = true ∧ t.mgrMissed = 0 ∧ ChangesOnly [.delivered, .mgrHeard, .mgrMissed] s t
    else ChangesOnly [.delivered] s t) ∧
  (∀ s : State, s.power = 1 → Settled s →
    (s.rd .grpGroupEnable [] = 0 → exec .heartbeatTimer s = .next s) ∧
    (s.rd .grpGroupEnable [] = 1 → s.rd .grpRole [] = 0 → s.rd .grpManagerNode [] ≠ s.rd .grpNode [] →
      ∃ t, exec .heartbeatTimer s = .next t ∧ t.mgrMissed = (if s.mgrHeard then 0 else s.mgrMissed + 1) ∧
        t.heard = [] ∧ t.mgrHeard = false ∧ ChangesOnly (.heard :: .mgrHeard :: .mgrMissed :: sendFields) s t ∧
        RegsBut sendKeys s t)) ∧
  (∀ (s : State) (h : GroupHeader) (n st r : Nat), Heard s h → h.src < 16384 → ∃ t, exec (.groupReport h n st r) s = .next t ∧
    if s.rd .grpRole [] = 2 then
      let l := if st = 1 ∨ st = 2 then insertRising n s.sysMembers else s.sysMembers.filter (fun a => a != n)
      t.rd .gtGrisk [h.src / 128] = r % 4 ∧ t.rd .gtGmanager [h.src / 128] = h.src ∧ t.sysMembers = l ∧
      ChangesOnly reportFields s t ∧
      RegsBut (Reg.gtGrisk.key [h.src / 128] :: Reg.gtGmanager.key [h.src / 128] :: sendKeys) s t ∧
      if l ≠ s.sysMembers ∨ st = 1 then
        ∃ q, t.top = some q ∧ q.epoch = max s.lastEpoch (s.rd .grpEpoch []) + 1 ∧ q.list = l ∧ t.lastEpoch = q.epoch
      else t.top = s.top
    else ChangesOnly [.delivered] s t) ∧
  (∀ (s : State) (h : GroupHeader) (n : Nat), Heard s h → ∃ t, exec (.takeover h n) s = .next t ∧
    t.rd .grpManagerNode [] = (if n / 128 = s.rd .grpNode [] / 128 then n % 2 ^ 14 else s.rd .grpManagerNode []) ∧
    t.mgrMissed = 0 ∧ t.mgrHeard = true ∧
    (t.rd .grpTopNode [] ≠ s.rd .grpTopNode [] → s.rd .grpTopStandby [] = n ∧ t.rd .grpTopNode [] = n % 2 ^ 14) ∧
    ChangesOnly [.regs, .delivered, .mgrHeard, .mgrMissed] s t ∧
    RegsBut [Reg.grpManagerNode.key [], Reg.grpTopNode.key []] s t) ∧
  (∀ (s : State) (h : GroupHeader) (n c i e : Nat) (f : Bool), Heard s h → n < noNode → s.rd .shrSrcState [] ≠ 2 →
    ∃ t, exec (.partner h n c f e i) s = .next t ∧ t.rd .shrHolderNode [] = n ∧ t.rd .shrForced [] = (if f then 1 else 0) ∧
      t.rd .shrSrcState [] = 1 ∧ t.mem = s.mem ∧ t.flight = s.flight ∧
      (c < noNode → s.rd .shrHoldState [] = 0 → t.rd .shrHoldState [] = 1 ∧ t.rd .shrHeldSourceNode [] = c ∧
        t.rd .shrHeldSourceId [] = i % 2 ^ 64)) ∧
  ∀ (s : State) (h : GroupHeader), s.power = 1 → s.rd .grpGroupEnable [] = 1 →
    (h.term < s.rd .grpTerm [] → (∀ n, ∃ t, exec (.takeover h n) s = .next t ∧
      t.rd .grpIgnored [] = satAdd 32 (s.rd .grpIgnored []) 1 ∧ ChangesOnly [.regs, .delivered] s t ∧
      RegsBut [Reg.grpIgnored.key []] s t) ∧ ∃ t, exec (.leave h) s = .next t ∧
      t.rd .grpIgnored [] = satAdd 32 (s.rd .grpIgnored []) 1 ∧ ChangesOnly [.regs, .delivered] s t ∧
      RegsBut [Reg.grpIgnored.key []] s t) ∧
    (s.rd .grpTerm [] < h.term → s.rd .grpRole [] ≠ 0 → ∃ t, exec (.mgrHeartbeat h) s = .next t ∧
      t.rd .grpTerm [] = h.term % 2 ^ 32 ∧ t.rd .grpRole [] = 0 ∧ t.rd .grpManagerNode [] = h.src % 2 ^ 14)

/-- A message of an epoch change whose number is not above the committed EPOCH is ignored and counted. A higher
EPOCH_PREPARE begins the change with PREPARED 0, its number remembered, and EPOCH_LIST of the epoch in preparation
fills in its ranks; a group manager passes both on to its members. With the whole list there and STATE IDLE the
module is PREPARED and answers; else nothing changes. At the top manager each EPOCH_READY is noted, and the last one
ends the change with EPOCH_COMMIT. EPOCH_COMMIT of the prepared epoch, with no step, collective or copy, installs
EPOCH and its list, and for a worker with no shroud partner MEMBERS, ORDER_FP, RANK and IN_EPOCH, clears PREPARED
and restarts COLL_SEQ, and changes nothing else. A change that is late at the top manager (while it makes no copy)
begins again with a higher number, without the members that have not answered. No memory changes. -/
def Obligations.MembershipEpochsChange : Prop :=
  (∀ (s : State) (h : GroupHeader), Heard s h → h.epoch ≤ s.rd .grpEpoch [] →
    let ignored := fun (t : State) => t.rd .grpIgnored [] = satAdd 32 (s.rd .grpIgnored []) 1 ∧
      ChangesOnly [.regs, .delivered] s t ∧ RegsBut [Reg.grpIgnored.key []] s t
    (∀ m f c g, ∃ t, exec (.epochPrepare h m f c g) s = .next t ∧ ignored t) ∧
    (∀ f l, ∃ t, exec (.epochList h f l) s = .next t ∧ ignored t) ∧ ∀ f, ∃ t, exec (.epochCommit h f) s = .next t ∧ ignored t) ∧
  (∀ (s : State) (h : GroupHeader) (m f c g : Nat), Heard s h → s.rd .grpEpoch [] < h.epoch →
    ∃ t, exec (.epochPrepare h m f c g) s = .next t ∧
      if (s.prep.map (fun p => decide (h.epoch ≤ p.epoch))).getD false = true then ChangesOnly [.delivered] s t
      else t.prep = some { epoch := h.epoch, members := m, fp := f, chunkRule := c, segments := g, nodes := [] } ∧
        t.lastEpoch = max s.lastEpoch h.epoch ∧ t.rd .grpPrepared [] = 0 ∧
        ChangesOnly (.prep :: .lastEpoch :: sendFields) s t ∧ RegsBut (Reg.grpPrepared.key [] :: sendKeys) s t ∧
        (s.rd .grpRole [] ≠ 1 ∨ h.src ≠ s.rd .grpTopNode [] → ChangesOnly [.regs, .delivered, .prep, .lastEpoch] s t)) ∧
  (∀ (s : State) (h : GroupHeader) (p : PrepSt) (f : Nat) (l : List Nat), Heard s h → s.rd .grpEpoch [] < h.epoch →
    s.prep = some p → p.epoch = h.epoch → ∃ t q, exec (.epochList h f l) s = .next t ∧ t.prep = some q ∧
      q.epoch = p.epoch ∧ q.members = p.members ∧ q.fp = p.fp ∧
      (∀ i, i < l.length → f + i < p.members → Tab.get noNode q.nodes (f + i) = l.getD i noNode) ∧
      (∀ k, k < f ∨ f + l.length ≤ k → Tab.get noNode q.nodes k = Tab.get noNode p.nodes k) ∧
      ChangesOnly (.prep :: sendFields) s t ∧ RegsBut sendKeys s t ∧
      (s.rd .grpRole [] ≠ 1 ∨ h.src ≠ s.rd .grpTopNode [] → ChangesOnly [.delivered, .prep] s t)) ∧
  (∀ s : State, s.power = 1 → ∃ t, exec .epochReadySend s = .next t ∧
    if s.rd .grpGroupEnable [] = 1 ∧ s.rd .grpPrepared [] ≠ 1 ∧ s.rd .stState [] = 0 ∧
        (s.prep.map (fun p => decide (p.nodes.length = p.members))).getD false = true then
      t.rd .grpPrepared [] = 1 ∧ ChangesOnly sendFields s t ∧ RegsBut (Reg.grpPrepared.key [] :: sendKeys) s t
    else t = s) ∧
  (∀ (s : State) (h : GroupHeader) (q : TopSt), Heard s h → s.rd .grpRole [] = 2 → s.top = some q → q.epoch = h.epoch →
    ∃ t, exec (.epochReady h) s = .next t ∧
      if q.wanted.all (fun a => (insertRising h.src q.ready).contains a) = true then
        t.top = none ∧ ChangesOnly (.top :: sendFields) s t ∧ RegsBut sendKeys s t
      else t.top = some { q with ready := insertRising h.src q.ready } ∧ ChangesOnly [.delivered, .top] s t) ∧
  (∀ (s : State) (h : GroupHeader) (p : PrepSt) (f : Nat), Heard s h → Settled s → s.rd .grpEpoch [] < h.epoch →
    s.prep = some p → p.epoch = h.epoch → p.nodes.length = p.members → s.step = none → s.colls = [] → s.copies = [] →
    let nodes := (List.range p.members).map (fun k => Tab.get noNode p.nodes k)
    let mine := nodes.findIdx? (fun a => a == s.rd .grpNode [])
    (∃ t, exec (.epochCommit h f) s = .next t ∧ t.rd .grpEpoch [] = h.epoch % 2 ^ 64 ∧ t.rankNodes = nodes ∧
      t.prep = none ∧ t.mem = s.mem ∧ t.flight = s.flight) ∧
    (s.rd .grpRole [] = 0 → s.rd .shrHolderNode [] = noNode → s.rd .shrHeldSourceNode [] = noNode →
    ∃ t, exec (.epochCommit h f) s = .next t ∧ t.rd .grpEpoch [] = h.epoch % 2 ^ 64 ∧
      t.rd .grpMembers [] = p.members % 2 ^ 15 ∧ t.rd .grpOrderFp [] = f % 2 ^ 128 ∧ t.rd .grpPrepared [] = 0 ∧
      t.rd .grpInEpoch [] = (if mine.isSome then 1 else 0) ∧ t.rd .grpRank [] = mine.getD (s.rd .grpRank []) % 2 ^ 14 ∧
      t.rd .collCollSeq [] = 1 ∧ t.rankNodes = nodes ∧ t.prep = none ∧ t.chunkRule = p.chunkRule ∧
      ChangesOnly [.regs, .delivered, .rankNodes, .chunkRule, .prep, .reserved, .verdicts, .heldMsgs] s t ∧
      RegsBut [Reg.grpEpoch.key [], Reg.grpMembers.key [], Reg.grpOrderFp.key [], Reg.grpPrepared.key [], Reg.grpInEpoch.key [],
        Reg.grpRank.key [], Reg.collCollSeq.key [], Reg.collStaleDiscarded.key []] s t)) ∧
  ∀ s : State, s.power = 1 → s.copies = [] → ∃ t, exec .prepareTimeout s = .next t ∧ t.mem = s.mem ∧
    match s.top with
    | some q =>
      if s.isTop = true ∧ q.deadline ≤ s.aoNow then
        ∃ n, t.top = some n ∧ n.epoch = max s.lastEpoch (s.rd .grpEpoch []) + 1 ∧ n.list = t.sysMembers ∧
          t.sysMembers = s.sysMembers.filter (fun a => !(q.wanted.filter (fun b => !q.ready.contains b)).contains a)
      else t = s
    | none => t = s

/-- VERDICT of a member of the committed epoch is kept until this member's exchange needs it; of another it is
dropped. A peer whose REPLAY_BUDGET differs closes the step with FAULT, and so does VERDICT_TIMEOUT once the
deadline has passed: no step is open, STATE is IDLE and NEXT_STEP one above CURRENT_STEP; before the deadline, or
while a stack that the close writes to is at CRIT, it changes nothing. REEF_REWRITE_COMPLETE leaves no rewrite
pending once every stack that it needs is ready, and without working copies to rewrite changes nothing else.
UPDATE_BATCH_COMPLETE of a batch of a ready stack, without a check event, error or copy, makes exactly the batch's
writes and notes it written; with one it withholds it, counts the check event and begins a majority procedure.
COMMIT_GROUP_COMPLETE of the last group, all written, completes the commit phase: ACTIVE and PARTIAL are 0, DONE one
above the group's number, and the step is closed. Without a commit phase neither changes anything. -/
def Obligations.VerdictsAndTheCommitPhase : Prop :=
  let closed := fun (s t : State) => t.step = none ∧ t.commit = none ∧ t.rd .stState [] = 0 ∧
    t.rd .stNextStep [] = (s.rd .stCurrentStep [] + 1) % 2 ^ 64
  (∀ (s : State) (h : GroupHeader) (v r b a : Nat), Heard s h → Settled s → (s.step.bind (fun q => q.verdict)) = none →
    ∃ t, exec (.verdict h v r b a) s = .next t ∧ ChangesOnly [.delivered, .verdicts] s t ∧
      t.verdicts = match s.rankOf h.src with
        | some k => if h.epoch = s.rd .grpEpoch [] then
            s.verdicts ++ [{ rank := k, verdict := v % 4, reasons := r, budget := b, attempt := a }] else s.verdicts
        | none => s.verdicts) ∧
  (∀ (s : State) (h : GroupHeader) (q : StepSt) (v r b a : Nat), Heard s h → Settled s → s.step = some q → q.verdict ≠ none →
    s.rd .grpMembers [] = 2 → s.rd .grpRank [] = 0 → s.rankOf h.src = some 1 → h.epoch = s.rd .grpEpoch [] → s.verdicts = [] →
    b ≠ s.att .stReplayBudget [] → s.closeHeld = false → ∃ t, exec (.verdict h v r b a) s = .next t ∧ closed s t ∧ t.verdicts = []) ∧
  (∀ (s : State) (q : StepSt), s.power = 1 → Settled s → s.step = some q → ∃ t, exec .verdictTimeout s = .next t ∧
    if s.rd .stState [] = 2 ∧ q.verdict.isSome = true ∧ q.deadline ≤ s.aoNow ∧ s.closeHeld = false then closed s t
    else t = s) ∧
  (∀ s : State, s.power = 1 → Settled s → ∃ t, exec .reefRewriteComplete s = .next t ∧
    if s.rewrites = [] ∨ s.shardsReady ((s.rewriteShards s.rewrites).map (fun x => x.2)) = false then t = s
    else t.rewrites = [] ∧ (s.rewriteShards s.rewrites = [] → ChangesOnly [.rewrites, .rewriteStream] s t)) ∧
  (∀ s : State, s.commit = none → exec .commitGroupComplete s = .next s ∧
    ∀ i n x, exec (.updateBatchComplete i n x) s = .next s) ∧
  (∀ (s : State) (q : StepSt) (c : CommitSt) (g : ParamGroup) (x : Shard) (i n : Nat), s.power = 1 → Settled s →
    s.step = some q → s.commit = some c → c.waiting = false → s.groups.find? (fun g => g.num == c.todo.headD 0) = some g →
    g.shards[i]? = some x → n < x.batches → c.written.contains (i, n) = false → c.withheld.contains (i, n) = false →
    s.workReady (stackWindow x.base) = true → s.shroudBacklog (stackWindow x.base) < 2 * 1048576 →
    ((∀ a k, s.badBolts a k = []) → s.batchChecks x n = [] → s.copying = false →
      ∃ t d, exec (.updateBatchComplete i n none) s = .next t ∧ t.commit = some d ∧ d.written = c.written ++ [(i, n)] ∧
      d.todo = c.todo ∧
      t.mem = (s.batchWrites g x (hyperOf q.hyper g.hyperSet) c.bias n).foldl (fun m w => m.write w.1 w.2) s.mem ∧
      ChangesOnly (.commit :: .samples :: .nextId :: memFields) s t) ∧
    ∀ k : CheckSeen, (residue k.seen = 0 → exec (.updateBatchComplete i n (some k)) s = exec (.updateBatchComplete i n none) s) ∧
      (residue k.seen ≠ 0 → ∃ t d y, exec (.updateBatchComplete i n (some k)) s = .next t ∧ t.commit = some d ∧
      d.withheld = c.withheld ++ [(i, n)] ∧ d.written = c.written ∧ t.retries = s.retries ++ [y] ∧ y.what = .batch i n ∧
      y.kind = 0 ∧ t.rd .intCheckEvents [] = satAdd 32 (s.rd .intCheckEvents []) 1 ∧
      Logged 0x06 k.code k.position s t ∧ t.mem = s.mem)) ∧
  ∀ (s : State) (q : StepSt) (c : CommitSt) (g : ParamGroup) (n : Nat), s.power = 1 → Settled s → s.step = some q →
    s.commit = some c → c.waiting = false → c.withheld = [] → c.todo = [n] → s.groups.find? (fun g => g.num == n) = some g →
    g.allWritten c.written = true → (∀ x ∈ g.shards, x.hasWork = false) → s.shardsReady g.shards = true → s.copy = none → q.digest = false →
    s.closeHeld = false → Inv s → (∀ a k, s.badBolts a k = []) → ∃ t, exec .commitGroupComplete s = .next t ∧ closed s t ∧
      t.rd .stDone [] = (n + 1) % 2 ^ 13 ∧ t.rd .stActive [] = 0 ∧ t.rd .stPartial [] = 0

/-- SHROUD_COPY without an accepting holder or in a step ends with NOT_ENABLED; while another copy is still being
sent it waits; with a step-state area on a stack it sends HELLO, holds fetching and runs with its copy, and
otherwise it ends with PARTNER_LOST and cause 3. ACCEPT of the holder makes the pairing ACTIVE or REFUSED while no
copy runs; it lets a SHROUD_COPY send its whole image and digests (no stack held, no error in the image), or ends it
with PARTNER_LOST. COMPLETE of the oldest copy, once it has all been sent, ends it with DONE and counts it;
INCOMPLETE, and a timeout without credit, end it with PARTNER_LOST; LOST abandons the copies and makes the next
commit copy. The oldest signature follows when it is ready. RISK_RECOMPUTE raises the risk level at once to what its
causes and the floor demand, and lowers it by one after the hold time. No memory changes. -/
def Obligations.ShroudCopiesAtTheSource : Prop :=
  (∀ (s : State) (h : PktHdr), Quiet s h → ∃ t, exec (.shroudCopy h) s = .next t ∧
    if s.rd .shrEnable [] ≠ 1 ∨ s.rd .shrSrcState [] ≠ 2 ∨ s.stepOpen = true then RanTo s h .shroudCopy .notEnabled 0 [] [] t
    else if s.copy.map (fun c => c.sent) = some false then Ran s h .shroudCopy .running [] [] t
    else if ((List.range 20).map s.imageRanges).flatten.any (fun r => s.unavailIn r.1 r.2) = true then
      RanTo s h .shroudCopy .faultUnit 0 [] [] t
    else if s.stateStack = none then t.copy = s.copy ∧ t.rd .shrLastAbandon [] = 3 ∧
      Fetched s t .shroudCopy (.ended .partnerLost 3 false) ∧ t.mem = s.mem
    else ∃ c, t.copy = some c ∧ c.pid = some s.nextId ∧ c.holder = s.rd .shrHolderNode [] ∧
      c.step = (s.rd .stNextStep [] + 2 ^ 64 - 1) % 2 ^ 64 ∧ c.accepted = false ∧ c.sent = false ∧
      t.fetchHold = s.fetchHold ++ [s.nextId] ∧ Fetched s t .shroudCopy .running ∧
      ChangesOnly (.flight :: .nextId :: .fetchHold :: .copyDue :: sendFields) s t ∧
      RegsBut (fetchKeys h.ring ++ sendKeys) s t) ∧
  (∀ (s : State) (h : ShroudHeader) (r : Nat), Shrouded s h.src 2 →
    (h.src ≠ s.rd .shrHolderNode [] → ∃ t, exec (.accept h r) s = .next t ∧ ChangesOnly [.delivered] s t) ∧
    (h.src = s.rd .shrHolderNode [] → s.copy = none → ∃ t, exec (.accept h r) s = .next t ∧
      t.rd .shrRefuseCause [] = r % 16 ∧ t.rd .shrSrcState [] = (if r = 0 then 2 else 3) ∧
      ChangesOnly [.regs, .delivered, .reports, .reportSeq, .out] s t) ∧
    ∀ (c : CopySt) (p : Packet), h.src = s.rd .shrHolderNode [] → s.copy = some c → c ∉ s.copyWas → c.pid = some p.pid →
      c.accepted = false → s.packet p.pid = some p → p.isEnded = false →
      (r = 0 → s.anyHeld = false → (∀ a k, s.badBolts a k = []) → ∃ t d, exec (.accept h r) s = .next t ∧ t.copy = some d ∧
        d.accepted = true ∧ d.sent = true ∧ d.slot = h.slot ∧ d.pid = c.pid ∧ p.pid ∉ t.fetchHold ∧ t.mem = s.mem ∧
        t.flight = s.flight) ∧
      (r ≠ 0 → ∃ t, exec (.accept h r) s = .next t ∧ t.copy = none ∧
        EndedAs t p.pid .partnerLost (if r = 5 then 5 else 2) ∧ t.mem = s.mem ∧
        t.rd .shrCopiesAbandoned [] = satAdd 28 (s.rd .shrCopiesAbandoned []) 1)) ∧
  (∀ (s : State) (h : ShroudHeader), s.power = 1 → s.answered h.src = none →
    exec (.complete h) s = .next s ∧ exec (.incomplete h) s = .next s) ∧
  (∀ (s : State) (h : ShroudHeader), Shrouded s h.src 11 → ∃ t, exec (.lost h) s = .next t ∧
    if h.src = s.rd .shrHolderNode [] then t.copyDue = true ∧ t.copy = none ∧ t.copyWas = [] ∧ t.mem = s.mem ∧
      (s.copies = [] → ChangesOnly [.delivered, .copyDue] s t)
    else ChangesOnly [.delivered] s t) ∧
  (∀ (s : State) (h : ShroudHeader) (c : CopySt) (p : Packet), s.answered h.src = some c → c.pid = some p.pid →
    s.packet p.pid = some p → p.isEnded = false →
    (Shrouded s h.src 7 → ∃ t, exec (.complete h) s = .next t ∧
      if c.sent then c ∉ t.copies ∧ EndedAs t p.pid .done 0 ∧ t.rd .shrLastCopyStep [] = c.step % 2 ^ 64 ∧
        t.rd .shrCopiesDone [] = (s.rd .shrCopiesDone [] + 1) % 2 ^ 32 ∧ t.rd .shrCommitsSince [] = 0 ∧
        ChangesOnly [.regs, .delivered, .copy, .copyWas, .flight] s t
      else ChangesOnly [.delivered] s t) ∧
    (Shrouded s h.src 8 → ∃ t, exec (.incomplete h) s = .next t ∧ c ∉ t.copies ∧ EndedAs t p.pid .partnerLost 2 ∧
      t.mem = s.mem)) ∧
  (∀ s : State, s.power = 1 → ∃ t, exec .signatureComplete s = .next t ∧
    if s.signing = [] then t = s
    else t.signing = s.signing.drop 1 ∧ ChangesOnly (.signing :: sendFields) s t ∧ RegsBut sendKeys s t) ∧
  (∀ s : State, s.power = 1 → Settled s →
    let lim := msTicks (s.rd .shrShroudTimeoutMs [])
    (s.copies = [] → s.restore = none → exec .shroudTimeout s = .next s) ∧
    (∀ (c : CopySt) (p : Packet), s.copies = [c] → s.restore = none → c.pid = some p.pid → s.packet p.pid = some p →
      p.isEnded = false → ∃ t, exec .shroudTimeout s = .next t ∧ if c.progress + lim ≤ s.aoNow then
        t.copies = [] ∧ EndedAs t p.pid .partnerLost 1 ∧ t.mem = s.mem else t = s) ∧
    ∀ (r : RestoreSt) (p : Packet), s.copies = [] → s.restore = some r → r.pid = p.pid → s.packet p.pid = some p →
      p.isEnded = false → ∃ t, exec .shroudTimeout s = .next t ∧ if r.heard + lim ≤ s.aoNow then
        t.restore = none ∧ EndedAs t p.pid .partnerLost 1 ∧ t.mem = s.mem else t = s) ∧
  ∀ s : State, s.power ≠ 0 → ∃ t, exec .riskRecompute s = .next t ∧
    let u : State := { s with riskEvents := s.riskEvents.filter (fun e => decide (s.aoNow < e.tick + 24 * hourTicks)) }
    let want := max (((List.range 12).map u.riskLevel).foldl max 0) (s.rd .shrRiskFloor [])
    let now := s.rd .intRisk []
    t.rd .intRisk [] = (if now < want then want else if want < now ∧ s.rd .shrRiskHoldS [] ≤ s.riskQuiet + 1 then now - 1
      else now) % 4 ∧ t.rd .shrRisk [] = t.rd .intRisk [] ∧ t.riskEvents = u.riskEvents ∧
    ChangesOnly [.regs, .riskEvents, .riskQuiet, .reports, .reportSeq, .out] s t ∧
    RegsBut [Reg.intRisk.key [], Reg.shrRisk.key [], Reg.shrRiskCause.key [], Reg.mgmtReportsSent.key [],
      Reg.mgmtReportsDropped.key []] s t

/-- HELLO that the holder accepts prepares the slot and is answered; one it refuses is only answered. Into a slot
that is FILLING, with no stack held and no error, the first half of a bolt is kept, the second completes the bolt in
the slot's image, SHARDS writes eight digests, and MANIFEST collects its four parts; on the last, with every bolt
there, the slot is COMPLETE with the manifest's step, otherwise INCOMPLETE answers and the slot stays as it is. The
last part of SIGNATURE sets SIGNED. FETCH of a copy that is held begins to serve it, of another it is answered only.
RESTORE ends with NOT_ENABLED in a step and BAD_PARAM for a misaligned destination; one that no row of R320 refuses
sends FETCH and runs; FETCH_REPLY lets it go on, its further parts keep the slot headers, or it ends with
PARTNER_LOST. SHROUD_RELEASE ends with NOT_ENABLED while a FETCH is served and otherwise empties both slots. A
message of no copy or restore changes nothing. -/
def Obligations.HoldingServingAndRestoring : Prop :=
  (∀ (s : State) (h : ShroudHeader) (bs : List Nat) (n : Nat), Shrouded s h.src 1 →
    let x : HoldSt := { slot := s.targetSlot, source := h.sourceId, sourceNode := h.src, step := n, bolts := bs,
                        received := [], halves := [], parts := [], filled := false, ended := false }
    ∃ t, exec (.hello h bs n) s = .next t ∧ ChangesOnly (.hold :: sendFields) s t ∧ RegsBut sendKeys s t ∧
      t.hold = if (s.helloResult h.sourceId bs).1 = 0 then some x else s.hold) ∧
  (∀ (s : State) (h : ShroudHeader) (bs : List Byte), s.power = 1 →
    (s.shroudLive h.src 3 = false → exec (.shroudData h bs) s = .next s) ∧
    (s.shroudLive h.src 4 = false → exec (.shards h bs) s = .next s) ∧
    (s.shroudLive h.src 5 = false → exec (.manifest h bs) s = .next s) ∧
    (s.shroudLive h.src 6 = false → exec (.signature h bs) s = .next s)) ∧
  (∀ (s : State) (h : ShroudHeader) (bs : List Byte), s.holdOf h true = none → s.restoreOf h = none →
    (Shrouded s h.src 3 → ∃ t, exec (.shroudData h bs) s = .next t ∧ ChangesOnly [.delivered] s t) ∧
    (Shrouded s h.src 4 → ∃ t, exec (.shards h bs) s = .next t ∧ ChangesOnly [.delivered] s t) ∧
    (Shrouded s h.src 5 → ∃ t, exec (.manifest h bs) s = .next t ∧ ChangesOnly [.delivered] s t) ∧
    (Shrouded s h.src 6 → ∃ t, exec (.signature h bs) s = .next t ∧ ChangesOnly [.delivered] s t)) ∧
  (∀ (s : State) (h : ShroudHeader) (x : HoldSt) (bs : List Byte), s.holdOf h false = some x → Filling s x → bs.length = 256 →
    let key := h.stack * 2 ^ 32 + h.bolt
    let image := s.slotImage h.stack x.slot + 512 * h.bolt
    let head := s.slotHeader h.stack x.slot
    let parts := Tab.put x.parts (h.part % 4) bs
    let man := (parts.map (fun p => p.2)).flatten
    (h.part = 0 → ∃ t, exec (.shroudData h bs) s = .next t ∧ t.hold = some { x with halves := Tab.put x.halves key bs } ∧
      ChangesOnly [.delivered, .hold] s t) ∧
    (∀ lo, h.part ≠ 0 → Tab.find x.halves key = some lo → lo.length = 256 → s.areaBase h.stack ≠ 0 →
      512 * (h.bolt + 1) ≤ s.slotBytes h.stack → ∃ t y, exec (.shroudData h bs) s = .next t ∧ t.mem.read image 512 = lo ++ bs ∧
        t.hold = some y ∧ Tab.get 0 y.received h.stack = Tab.get 0 x.received h.stack + 1 ∧
        (∀ a, (a < image ∨ image + 512 ≤ a) → (a < head + 0x18 ∨ head + 0x1C ≤ a) → t.mem.byte a = s.mem.byte a) ∧
        ChangesOnly (.delivered :: .hold :: memFields) s t ∧ RegsBut trafficKeys s t) ∧
    (s.areaBase h.stack ≠ 0 → ∃ t, exec (.shards h bs) s = .next t ∧
      t.mem.read (head + 0x400 + 256 * (h.part % 4)) 256 = bs ∧ MemBut (head + 0x400 + 256 * (h.part % 4)) 256 s t ∧
      ChangesOnly (.delivered :: memFields) s t ∧ RegsBut trafficKeys s t) ∧
    (parts.length < 4 → ∃ t, exec (.manifest h bs) s = .next t ∧ t.hold = some { x with parts := parts } ∧
      ChangesOnly [.delivered, .hold] s t) ∧
    (parts.length = 4 → ∃ t y, exec (.manifest h bs) s = .next t ∧ t.hold = some y ∧ y.ended = true ∧
      ((∀ st, st < 20 → Tab.get 0 x.received st = fieldLe man (0x70 + 4 * st) 4) → t.rd .shrSlotSlotState [x.slot] = 2 ∧
        t.rd .shrSlotSlotStep [x.slot] = fieldLe man 16 8 ∧ t.newest = some x.slot) ∧
      ((∃ st, st < 20 ∧ Tab.get 0 x.received st ≠ fieldLe man (0x70 + 4 * st) 4) →
        t.mem = s.mem ∧ ChangesOnly (.hold :: sendFields) s t ∧ RegsBut sendKeys s t))) ∧
  (∀ (s : State) (h : ShroudHeader) (x : HoldSt) (bs : List Byte), s.holdOf h true = some x → Filling s x →
    ∃ t, exec (.signature h bs) s = .next t ∧ ChangesOnly (.delivered :: memFields) s t ∧
      RegsBut (Reg.shrSlotSlotSigned.key [x.slot] :: trafficKeys) s t ∧
      (116 ≤ h.part → t.rd .shrSlotSlotSigned [x.slot] = 1)) ∧
  (∀ (s : State) (h : ShroudHeader) (o : Bool), Shrouded s h.src 9 → ∃ t, exec (.fetch h o) s = .next t ∧
    ChangesOnly (.serve :: trafficFields ++ sendFields) s t ∧ RegsBut (trafficKeys ++ sendKeys) s t ∧
    t.serve = match s.fetchSlot h.sourceId o with
      | some k => some { dest := h.src, source := h.sourceId, slot := k } | none => s.serve) ∧
  (∀ (s : State) (h : ShroudHeader) (r : RestoreSt) (p : Packet) (bs : List Byte), Shrouded s h.src 10 →
    s.restoreFrom h.src = some r → r.pid = p.pid → s.packet p.pid = some p → p.isEnded = false →
    (h.part = 0 → ∃ t, exec (.fetchReply h bs) s = .next t ∧ t.mem = s.mem ∧
      if fieldLe bs 0 1 = 0 then t.restore = some { r with heard := s.aoNow, serving := true } ∧
        ChangesOnly [.delivered, .restore] s t
      else t.restore = none ∧ EndedAs t p.pid .partnerLost 2) ∧
    let q : RestoreSt := { r with
      heard := s.aoNow, headers := Tab.put r.headers (16 * h.stack + (h.part - 1) % 16) (slice bs 0 256) }
    (h.part ≠ 0 → q.ready = false → ∃ t, exec (.fetchReply h bs) s = .next t ∧ t.restore = some q ∧
      ChangesOnly [.delivered, .restore] s t)) ∧
  (∀ (s : State) (h : PktHdr) (i e d n : Nat) (o v : Bool), Quiet s h →
    (s.stepOpen = true → ∃ t, exec (.restore h i e d o v n) s = .next t ∧
      RanTo s h (.restore i e d o v n) .notEnabled 0 [] [] t) ∧
    (s.stepOpen = false → (∀ p ∈ s.flight, p.isWaiting = true) → s.commit = none → s.colls = [] → s.copies = [] →
      s.restore = none → s.rd .seGroupsLoaded [] ≠ 0 → s.stateStack ≠ none →
      (d % 1024 ≠ 0 → ∃ t, exec (.restore h i e d o v n) s = .next t ∧
        RanTo s h (.restore i e d o v n) .badParam 0 [] [] t) ∧
      (d % 1024 = 0 → s.inRegion d 32768 = true → (∀ a k, s.unavailIn a k = false) → n ≠ noNode → s.route n ≠ 15 →
        n ≠ s.rd .grpNode [] →
        ∃ t r, exec (.restore h i e d o v n) s = .next t ∧ t.restore = some r ∧ r.pid = s.nextId ∧ r.holder = n ∧
          r.source = (if i = 0 then Config.moduleId.toNat else i) ∧ r.expect = e ∧ r.checked = false ∧
          t.fetchHold = [s.nextId] ∧ Fetched s t (.restore i e d o v n) .running ∧
          ChangesOnly (.flight :: .nextId :: .fetchHold :: .restore :: sendFields) s t ∧
          RegsBut (fetchKeys h.ring ++ sendKeys) s t))) ∧
  ∀ (s : State) (h : PktHdr), Quiet s h → ∃ t, exec (.shroudRelease h) s = .next t ∧
    if s.stepOpen = true ∨ s.isServing = true then RanTo s h .shroudRelease .notEnabled 0 [] [] t
    else t.rd .shrHoldState [] = 0 ∧ t.rd .shrHeldSourceNode [] = noNode ∧ t.rd .shrHeldSourceId [] = 0 ∧
      t.rd .shrSlotSlotState [0] = 0 ∧ t.rd .shrSlotSlotState [1] = 0 ∧ t.hold = none ∧ t.newest = none ∧
      (s.areas = [] → t.mem = s.mem) ∧ Fetched s t .shroudRelease (.ended .done 0 false)
end

