-- ==== Sys2Proof/Laws/Tab.lean ====
section
/-! SUPPORT. Laws of sparse tables: what a table lists after an update, and that updates keep its keys rising. -/

set_option Elab.async false

namespace Sys2Proof.Machine

variable {α : Type}

@[simp] theorem Tab.find_put_same (t : Tab α) (k : Nat) (v : α) : Tab.find (Tab.put t k v) k = some v := by
  induction t with
  | nil => simp [Tab.put, Tab.find]
  | cons p t ih =>
    obtain ⟨i, w⟩ := p
    simp only [Tab.put]
    split
    · simp [Tab.find]
    · split
      · simp [Tab.find]
      · simp [Tab.find, Ne.symm ‹_›, ih]

theorem Tab.find_put_ne (t : Tab α) {k j : Nat} (v : α) (h : j ≠ k) : Tab.find (Tab.put t k v) j = Tab.find t j := by
  induction t with
  | nil => simp [Tab.put, Tab.find, Ne.symm h]
  | cons p t ih =>
    obtain ⟨i, w⟩ := p
    simp only [Tab.put]
    split
    · simp [Tab.find, Ne.symm h]
    · split
      · subst_vars
        simp [Tab.find, Ne.symm h]
      · simp [Tab.find, ih]

@[simp] theorem Tab.find_del_same (t : Tab α) (k : Nat) : Tab.find (Tab.del t k) k = none := by
  induction t with
  | nil => rfl
  | cons p t ih =>
    obtain ⟨i, w⟩ := p
    simp only [Tab.del]
    split
    · exact ih
    · simp [Tab.find, *]

theorem Tab.find_del_ne (t : Tab α) {k j : Nat} (h : j ≠ k) : Tab.find (Tab.del t k) j = Tab.find t j := by
  induction t with
  | nil => rfl
  | cons p t ih =>
    obtain ⟨i, w⟩ := p
    simp only [Tab.del]
    split
    · subst_vars
      simp [Tab.find, Ne.symm h, ih]
    · simp [Tab.find, ih]

@[simp] theorem Tab.get_put_same (d : α) (t : Tab α) (k : Nat) (v : α) : Tab.get d (Tab.put t k v) k = v := by
  simp [Tab.get]

theorem Tab.get_put_ne (d : α) (t : Tab α) {k j : Nat} (v : α) (h : j ≠ k) :
    Tab.get d (Tab.put t k v) j = Tab.get d t j := by simp [Tab.get, Tab.find_put_ne t v h]

@[simp] theorem Tab.get_del_same (d : α) (t : Tab α) (k : Nat) : Tab.get d (Tab.del t k) k = d := by simp [Tab.get]

theorem Tab.get_del_ne (d : α) (t : Tab α) {k j : Nat} (h : j ≠ k) : Tab.get d (Tab.del t k) j = Tab.get d t j := by
  simp [Tab.get, Tab.find_del_ne t h]

/-- Every key of the table is above a bound. -/
def Tab.above (b : Nat) (t : Tab α) : Prop := ∀ p ∈ t, b < p.1

/-- Rising keys, said of the head and the rest. -/
theorem Tab.sorted_cons {i : Nat} {w : α} {t : Tab α} :
    Tab.sorted ((i, w) :: t) = true ↔ Tab.above i t ∧ Tab.sorted t = true := by
  induction t generalizing i w with
  | nil => simp [Tab.sorted, Tab.above]
  | cons p t ih =>
    obtain ⟨j, x⟩ := p
    simp only [Tab.sorted, Bool.and_eq_true, decide_eq_true_eq]
    constructor
    · rintro ⟨hij, hs⟩
      refine ⟨?_, hs⟩
      intro q hq
      rcases List.mem_cons.1 hq with rfl | hq
      · exact hij
      · exact Nat.lt_trans hij ((ih.1 hs).1 q hq)
    · rintro ⟨ha, hs⟩
      exact ⟨ha (j, x) (List.mem_cons_self ..), hs⟩

theorem Tab.mem_put {t : Tab α} {k : Nat} {v : α} {p : Nat × α} (h : p ∈ Tab.put t k v) : p = (k, v) ∨ p ∈ t := by
  induction t with
  | nil => simpa [Tab.put] using h
  | cons q t ih =>
    obtain ⟨i, w⟩ := q
    simp only [Tab.put] at h
    split at h
    · simpa using h
    · split at h
      · rcases List.mem_cons.1 h with h | h
        · exact .inl h
        · exact .inr (List.mem_cons_of_mem _ h)
      · rcases List.mem_cons.1 h with h | h
        · exact .inr (h ▸ List.mem_cons_self ..)
        · exact (ih h).imp id (List.mem_cons_of_mem _)

theorem Tab.mem_del {t : Tab α} {k : Nat} {p : Nat × α} (h : p ∈ Tab.del t k) : p ∈ t := by
  induction t with
  | nil => simp [Tab.del] at h
  | cons q t ih =>
    obtain ⟨i, w⟩ := q
    simp only [Tab.del] at h
    split at h
    · exact List.mem_cons_of_mem _ (ih h)
    · rcases List.mem_cons.1 h with h | h
      · exact h ▸ List.mem_cons_self ..
      · exact List.mem_cons_of_mem _ (ih h)

/-- Listing a value keeps the keys rising. -/
theorem Tab.sorted_put {t : Tab α} (k : Nat) (v : α) (h : Tab.sorted t = true) : Tab.sorted (Tab.put t k v) = true := by
  induction t with
  | nil => rfl
  | cons p t ih =>
    obtain ⟨i, w⟩ := p
    obtain ⟨ha, hs⟩ := Tab.sorted_cons.1 h
    simp only [Tab.put]
    split
    · exact Tab.sorted_cons.2 ⟨fun q hq => by
        rcases List.mem_cons.1 hq with rfl | hq
        · assumption
        · exact Nat.lt_trans ‹_› (ha q hq), h⟩
    · split
      · subst_vars
        exact Tab.sorted_cons.2 ⟨ha, hs⟩
      · refine Tab.sorted_cons.2 ⟨fun q hq => ?_, ih hs⟩
        rcases Tab.mem_put hq with rfl | hq
        · have : i < k := by omega
          exact this
        · exact ha q hq

/-- Unlisting a key keeps the keys rising. -/
theorem Tab.sorted_del {t : Tab α} (k : Nat) (h : Tab.sorted t = true) : Tab.sorted (Tab.del t k) = true := by
  induction t with
  | nil => rfl
  | cons p t ih =>
    obtain ⟨i, w⟩ := p
    obtain ⟨ha, hs⟩ := Tab.sorted_cons.1 h
    simp only [Tab.del]
    split
    · exact ih hs
    · exact Tab.sorted_cons.2 ⟨fun q hq => ha q (Tab.mem_del hq), ih hs⟩

/-- Leaving entries out keeps the keys rising. -/
theorem Tab.sorted_filter {t : Tab α} (f : Nat × α → Bool) (h : Tab.sorted t = true) :
    Tab.sorted (t.filter f : Tab α) = true := by
  induction t with
  | nil => rfl
  | cons p t ih =>
    obtain ⟨i, w⟩ := p
    obtain ⟨ha, hs⟩ := Tab.sorted_cons.1 h
    simp only [List.filter]
    split
    · exact Tab.sorted_cons.2 ⟨fun q hq => ha q (List.mem_filter.1 hq).1, ih hs⟩
    · exact ih hs

end Sys2Proof.Machine
end

