-- ==== Sys2Proof/Laws/Mem.lean ====
section
/-! SUPPORT. Laws of device memory: reads after writes, the bytes a write leaves alone, and the canonical form that
every memory operation keeps. -/

set_option Elab.async false

namespace Sys2Proof.Machine

@[simp] theorem Mem.byte_setByte_same (m : Mem) (a : Nat) (b : Byte) : Mem.byte (Mem.setByte m a b) a = b := by
  unfold Mem.setByte Mem.byte
  split
  · simp [*]
  · simp

theorem Mem.byte_setByte_ne (m : Mem) {a x : Nat} (b : Byte) (h : x ≠ a) :
    Mem.byte (Mem.setByte m a b) x = Mem.byte m x := by
  unfold Mem.setByte Mem.byte
  split
  · exact Tab.get_del_ne _ _ h
  · exact Tab.get_put_ne _ _ _ h

/-- A write leaves every byte outside its range alone. -/
theorem Mem.byte_write_out (bs : List Byte) (m : Mem) {a x : Nat} (h : x < a ∨ a + bs.length ≤ x) :
    Mem.byte (Mem.write m a bs) x = Mem.byte m x := by
  induction bs generalizing m a with
  | nil => rfl
  | cons b bs ih =>
    simp only [List.length_cons] at h
    rw [Mem.write, ih _ (by omega), Mem.byte_setByte_ne _ _ (by omega)]

/-- A read after a write to the same place gives the value written. -/
theorem Mem.byte_write_in (bs : List Byte) (m : Mem) {a : Nat} (i : Nat) (h : i < bs.length) :
    Mem.byte (Mem.write m a bs) (a + i) = bs[i] := by
  induction bs generalizing m a i with
  | nil => simp at h
  | cons b bs ih =>
    rw [Mem.write]
    cases i with
    | zero =>
      rw [Mem.byte_write_out _ _ (by omega)]
      simp
    | succ i =>
      have e : a + (i + 1) = a + 1 + i := by omega
      rw [e, ih _ i (by simpa using h)]
      simp

/-- Reading back what a write stored. -/
theorem Mem.read_write_same (m : Mem) (a : Nat) (bs : List Byte) : Mem.read (Mem.write m a bs) a bs.length = bs := by
  refine List.ext_getElem (by simp [Mem.read]) fun i h1 h2 => ?_
  simp only [Mem.read, List.getElem_map, List.getElem_range]
  exact Mem.byte_write_in bs m i h2

theorem Mem.length_read (m : Mem) (a n : Nat) : (Mem.read m a n).length = n := by simp [Mem.read]

/-- A byte of a zeroed range reads as an unlisted one, and every other byte is as before. -/
theorem Mem.find_zero (m : Mem) (a n x : Nat) :
    Tab.find (Mem.zero m a n) x = if a ≤ x ∧ x < a + n then none else Tab.find m x := by
  unfold Mem.zero
  induction m with
  | nil => simp [Tab.find]
  | cons p t ih =>
    obtain ⟨i, w⟩ := p
    rw [List.filter_cons]
    by_cases hx : i = x
    · subst hx
      by_cases hc : a ≤ i ∧ i < a + n
      · have hd : decide (i < a ∨ a + n ≤ i) = false := by simp; omega
        simp only [hd, Bool.false_eq_true, if_false]
        rw [ih, if_pos hc, if_pos hc]
      · have hd : decide (i < a ∨ a + n ≤ i) = true := by simp; omega
        simp [hd, hc, Tab.find]
    · split
      · simpa only [Tab.find, hx, if_false] using ih
      · simpa only [Tab.find, hx, if_false] using ih

theorem Mem.byte_zero_in (m : Mem) {a n x : Nat} (h : a ≤ x ∧ x < a + n) : Mem.byte (Mem.zero m a n) x = Mem.unlisted := by
  simp [Mem.byte, Tab.get, Mem.find_zero, h]

theorem Mem.byte_zero_out (m : Mem) {a n x : Nat} (h : x < a ∨ a + n ≤ x) : Mem.byte (Mem.zero m a n) x = Mem.byte m x := by
  have : ¬(a ≤ x ∧ x < a + n) := by omega
  simp [Mem.byte, Tab.get, Mem.find_zero, this]

/-! The canonical form. -/

theorem Mem.wf_iff {m : Mem} : m.wf = true ↔ Tab.sorted m = true ∧ ∀ c ∈ m, c.2 ≠ Mem.unlisted := by
  simp [Mem.wf, List.all_eq_true]

theorem Mem.wf_setByte {m : Mem} (a : Nat) (b : Byte) (h : m.wf = true) : (Mem.setByte m a b).wf = true := by
  obtain ⟨hs, hz⟩ := Mem.wf_iff.1 h
  unfold Mem.setByte
  split
  · exact Mem.wf_iff.2 ⟨Tab.sorted_del a hs, fun c hc => hz c (Tab.mem_del hc)⟩
  · refine Mem.wf_iff.2 ⟨Tab.sorted_put a b hs, fun c hc => ?_⟩
    rcases Tab.mem_put hc with rfl | hc
    · assumption
    · exact hz c hc

theorem Mem.wf_write {m : Mem} (a : Nat) (bs : List Byte) (h : m.wf = true) : (Mem.write m a bs).wf = true := by
  induction bs generalizing m a with
  | nil => exact h
  | cons b bs ih => exact ih (a + 1) (Mem.wf_setByte a b h)

theorem Mem.wf_filter {m : Mem} (f : Nat × Byte → Bool) (h : m.wf = true) : Mem.wf (m.filter f) = true := by
  obtain ⟨hs, hz⟩ := Mem.wf_iff.1 h
  exact Mem.wf_iff.2 ⟨Tab.sorted_filter f hs, fun c hc => hz c (List.mem_filter.1 hc).1⟩

theorem Mem.wf_zero {m : Mem} (a n : Nat) (h : m.wf = true) : (Mem.zero m a n).wf = true := Mem.wf_filter _ h

theorem Mem.wf_fill {m : Mem} (a : Nat) (p : List Byte) (n : Nat) (h : m.wf = true) : (Mem.fill m a p n).wf = true := by
  induction n generalizing m a with
  | zero => exact h
  | succ n ih => exact ih (a + 8) (Mem.wf_write a p h)

/-- A fold of operations that keep the canonical form keeps it. -/
theorem Mem.wf_foldl {β : Type} (f : Mem → β → Mem) (hf : ∀ m b, m.wf = true → (f m b).wf = true) (l : List β) {m : Mem}
    (h : m.wf = true) : (l.foldl f m).wf = true := by
  induction l generalizing m with
  | nil => exact h
  | cons b l ih => exact ih (hf m b h)

theorem Mem.wf_move {m : Mem} (src n dst : Nat) (h : m.wf = true) : (Mem.move m src n dst).wf = true :=
  Mem.wf_foldl _ (fun _ _ hm => Mem.wf_setByte _ _ hm) _ (Mem.wf_zero _ _ h)

end Sys2Proof.Machine
end

