-- ==== Sys2Proof/Laws/Regs.lean ====
section
/-! SUPPORT. Laws of register fields: a field reads what was written to it, cut to its width, and a write leaves every
field at another key alone. -/

set_option Elab.async false

namespace Sys2Proof.Machine

@[simp] theorem State.rd_wr_same (s : State) (r : Reg) (idx : List Nat) (v : Nat) :
    (s.wr r idx v).rd r idx = v % 2 ^ r.width := by
  unfold State.wr State.rd
  split
  · simp [*]
  · simp

theorem State.rd_wr_ne (s : State) {r q : Reg} {idx jdx : List Nat} (v : Nat) (h : q.key jdx ≠ r.key idx) :
    (s.wr r idx v).rd q jdx = s.rd q jdx := by
  unfold State.wr State.rd
  split
  · exact Tab.get_del_ne _ _ h
  · exact Tab.get_put_ne _ _ _ h

/-- A write keeps the register table's keys rising. -/
theorem State.sorted_wr {s : State} (r : Reg) (idx : List Nat) (v : Nat) (h : Tab.sorted s.regs = true) :
    Tab.sorted (s.wr r idx v).regs = true := by
  unfold State.wr
  split
  · exact Tab.sorted_del _ h
  · exact Tab.sorted_put _ _ h

@[simp] theorem State.rd_count_same (s : State) (r : Reg) (idx : List Nat) (n : Nat) :
    (s.count r idx n).rd r idx = satAdd r.width (s.rd r idx) n % 2 ^ r.width := State.rd_wr_same ..

@[simp] theorem State.rd_bump_same (s : State) (r : Reg) (idx : List Nat) (n : Nat) :
    (s.bump r idx n).rd r idx = (s.rd r idx + n) % 2 ^ r.width := State.rd_wr_same ..

theorem State.rd_count_ne (s : State) {r q : Reg} {idx jdx : List Nat} (n : Nat) (h : q.key jdx ≠ r.key idx) :
    (s.count r idx n).rd q jdx = s.rd q jdx := State.rd_wr_ne s _ h

theorem State.rd_bump_ne (s : State) {r q : Reg} {idx jdx : List Nat} (n : Nat) (h : q.key jdx ≠ r.key idx) :
    (s.bump r idx n).rd q jdx = s.rd q jdx := State.rd_wr_ne s _ h

/-- A register field reads alike in states with the same register table. -/
theorem State.rd_congr {s t : State} (h : t.regs = s.regs) (r : Reg) (idx : List Nat) : t.rd r idx = s.rd r idx := by
  unfold State.rd
  rw [h]

end Sys2Proof.Machine
end

