-- ==== Sys2Proof/Laws/Does.lean ====
section
/-! SUPPORT. What an operation may change: the relation that every operation of the model satisfies for its own list of
fields, and how it composes. -/

set_option Elab.async false
set_option linter.unusedTactic false
set_option linter.unreachableTactic false

namespace Sys2Proof.Machine

/-- Every field of the first list is in the second. -/
def Field.sub (fs gs : List Field) : Bool := fs.all (fun f => gs.contains f)

/-- A state follows another by changing the listed fields alone, and the invariant is kept. -/
structure Does (fs : List Field) (s t : State) : Prop where
  only : ChangesOnly fs s t
  inv : Inv s → Inv t

variable {fs gs : List Field} {s a t : State}

theorem Does.refl : Does fs s s := ⟨fun f _ => by cases f <;> rfl, id⟩

theorem ChangesOnly.trans (h1 : ChangesOnly fs s a) (h2 : ChangesOnly fs a t) : ChangesOnly fs s t := by
  intro f hf
  have e1 := h1 f hf
  have e2 := h2 f hf
  cases f <;> exact Eq.trans e2 e1

theorem ChangesOnly.mono (h : ChangesOnly fs s t) (hs : Field.sub fs gs = true) : ChangesOnly gs s t := by
  intro f hf
  refine h f fun hm => hf ?_
  have := List.all_eq_true.1 hs f hm
  simpa using this

/-- An operation follows others. -/
theorem Does.step (h2 : Does gs a t) (h1 : Does fs s a) (hs : Field.sub gs fs = true := by decide) : Does fs s t :=
  ⟨h1.only.trans (h2.only.mono hs), fun h => h2.inv (h1.inv h)⟩

theorem Does.ite {c : Prop} [Decidable c] {x y : State} (hx : Does fs s x) (hy : Does fs s y) : Does fs s (if c then x else y) := by
  split
  · exact hx
  · exact hy

/-- The invariant speaks of four fields. -/
theorem Inv.of_same (h : Inv s) (hm : t.mem = s.mem) (hr : t.regs = s.regs) (hf : t.flight = s.flight)
    (hn : t.nextId = s.nextId) : Inv t := by
  obtain ⟨h1, h2, h3⟩ := h
  refine ⟨hm ▸ h1, hr ▸ h2, ?_⟩
  unfold Numbered
  rw [hf, hn]
  exact h3

/-- The fields of a record update. -/
theorem Does.leaf {x0 x1 x2 x3 x4 x5 x6 x7 x8 x9 x10 x11 x12 x13 x14 x15 x16 x17 x18 x19 x20 x21 x22 x23 x24 x25 x26 x27 x28 x29 x30
      x31 x32 x33 x34 x35 x36 x37 x38 x39 x40 x41 x42 x43 x44 x45 x46 x47 x48 x49 x50 x51 x52 x53 x54 x55 x56 x57 x58 x59
      x60 x61 x62 x63 x64 x65 x66 x67 x68 x69 x70 x71 x72 x73 x74 x75 x76 x77 x78 x79 x80 x81 x82 x83 x84 x85 x86 x87 x88
      x89 x90 x91 x92 x93 x94 x95 x96 x97 x98 x99 x100 x101 x102 x103 x104}
    (h : Does fs s a) (_ : x0 = a.pending)
    (ho : ChangesOnly fs a (State.mk x0 x1 x2 x3 x4 x5 x6 x7 x8 x9 x10 x11 x12 x13 x14 x15 x16 x17 x18 x19 x20 x21 x22 x23 x24 x25 x26 x27 x28 x29 x30
      x31 x32 x33 x34 x35 x36 x37 x38 x39 x40 x41 x42 x43 x44 x45 x46 x47 x48 x49 x50 x51 x52 x53 x54 x55 x56 x57 x58 x59
      x60 x61 x62 x63 x64 x65 x66 x67 x68 x69 x70 x71 x72 x73 x74 x75 x76 x77 x78 x79 x80 x81 x82 x83 x84 x85 x86 x87 x88
      x89 x90 x91 x92 x93 x94 x95 x96 x97 x98 x99 x100 x101 x102 x103 x104))
    (hm : x3 = a.mem) (hr : x1 = a.regs) (hf : x16 = a.flight) (hn : x15 = a.nextId) :
    Does fs s (State.mk x0 x1 x2 x3 x4 x5 x6 x7 x8 x9 x10 x11 x12 x13 x14 x15 x16 x17 x18 x19 x20 x21 x22 x23 x24 x25 x26 x27 x28 x29 x30
      x31 x32 x33 x34 x35 x36 x37 x38 x39 x40 x41 x42 x43 x44 x45 x46 x47 x48 x49 x50 x51 x52 x53 x54 x55 x56 x57 x58 x59
      x60 x61 x62 x63 x64 x65 x66 x67 x68 x69 x70 x71 x72 x73 x74 x75 x76 x77 x78 x79 x80 x81 x82 x83 x84 x85 x86 x87 x88
      x89 x90 x91 x92 x93 x94 x95 x96 x97 x98 x99 x100 x101 x102 x103 x104) :=
  ⟨h.only.trans ho, fun hi => Inv.of_same (h.inv hi) hm hr hf hn⟩

/-- Packets of a state, with their own numbers. -/
theorem pids_self {l : List Packet} : ∀ p ∈ l, ∃ q ∈ l, p.pid = q.pid := fun p hp => ⟨p, hp, rfl⟩

/-- A record update that keeps the invariant's parts. -/
theorem Does.update {x0 x1 x2 x3 x4 x5 x6 x7 x8 x9 x10 x11 x12 x13 x14 x15 x16 x17 x18 x19 x20 x21 x22 x23 x24 x25 x26 x27 x28 x29 x30
      x31 x32 x33 x34 x35 x36 x37 x38 x39 x40 x41 x42 x43 x44 x45 x46 x47 x48 x49 x50 x51 x52 x53 x54 x55 x56 x57 x58 x59
      x60 x61 x62 x63 x64 x65 x66 x67 x68 x69 x70 x71 x72 x73 x74 x75 x76 x77 x78 x79 x80 x81 x82 x83 x84 x85 x86 x87 x88
      x89 x90 x91 x92 x93 x94 x95 x96 x97 x98 x99 x100 x101 x102 x103 x104}
    (h : Does fs s a) (_ : x0 = a.pending)
    (ho : ChangesOnly fs a (State.mk x0 x1 x2 x3 x4 x5 x6 x7 x8 x9 x10 x11 x12 x13 x14 x15 x16 x17 x18 x19 x20 x21 x22 x23 x24 x25 x26 x27 x28 x29 x30
      x31 x32 x33 x34 x35 x36 x37 x38 x39 x40 x41 x42 x43 x44 x45 x46 x47 x48 x49 x50 x51 x52 x53 x54 x55 x56 x57 x58 x59
      x60 x61 x62 x63 x64 x65 x66 x67 x68 x69 x70 x71 x72 x73 x74 x75 x76 x77 x78 x79 x80 x81 x82 x83 x84 x85 x86 x87 x88
      x89 x90 x91 x92 x93 x94 x95 x96 x97 x98 x99 x100 x101 x102 x103 x104))
    (hm : a.mem.wf = true → Mem.wf x3 = true) (hr : Tab.sorted a.regs = true → Tab.sorted x1 = true)
    (hf : ∀ p ∈ x16, ∃ q ∈ a.flight, p.pid = q.pid) (hn : a.nextId ≤ x15) :
    Does fs s (State.mk x0 x1 x2 x3 x4 x5 x6 x7 x8 x9 x10 x11 x12 x13 x14 x15 x16 x17 x18 x19 x20 x21 x22 x23 x24 x25 x26 x27 x28 x29 x30
      x31 x32 x33 x34 x35 x36 x37 x38 x39 x40 x41 x42 x43 x44 x45 x46 x47 x48 x49 x50 x51 x52 x53 x54 x55 x56 x57 x58 x59
      x60 x61 x62 x63 x64 x65 x66 x67 x68 x69 x70 x71 x72 x73 x74 x75 x76 x77 x78 x79 x80 x81 x82 x83 x84 x85 x86 x87 x88
      x89 x90 x91 x92 x93 x94 x95 x96 x97 x98 x99 x100 x101 x102 x103 x104) :=
  ⟨h.only.trans ho, fun hi => by
    obtain ⟨h1, h2, h3⟩ := h.inv hi
    refine ⟨hm h1, hr h2, fun p hp => ?_⟩
    obtain ⟨q, hq, e⟩ := hf p hp
    rw [e]
    exact Nat.lt_of_lt_of_le (h3 q hq) hn⟩

theorem Does.foldl {β : Type} {f : State → β → State} (hf : ∀ x b, Does fs s x → Does fs s (f x b)) (l : List β)
    (h : Does fs s a) : Does fs s (l.foldl f a) := by
  induction l generalizing a with
  | nil => exact h
  | cons b l ih => exact ih (hf a b h)

theorem Does.foldl_fst {α β : Type} {f : State × α → β → State × α}
    (hf : ∀ x b, Does fs s x.1 → Does fs s (f x b).1) (l : List β) {x : State × α} (h : Does fs s x.1) :
    Does fs s (l.foldl f x).1 := by
  induction l generalizing x with
  | nil => exact h
  | cons b l ih => exact ih (hf x b h)

/-- A register write changes the register table alone. -/
theorem State.wr_does {s0 : State} (s : State) (r : Reg) (idx : List Nat) (v : Nat) (h0 : Does fs s0 s)
    (hs : Field.sub [.regs] fs = true := by decide) : Does fs s0 (s.wr r idx v) := by
  refine Does.step (gs := [.regs]) ?_ h0 hs
  constructor
  · intro f hf
    unfold State.wr
    split <;> (cases f <;> first | rfl | exact absurd (by decide) hf)
  · intro ⟨h1, h2, h3⟩
    refine ⟨?_, State.sorted_wr r idx v h2, ?_⟩
    · unfold State.wr; split <;> exact h1
    · unfold State.wr; split <;> exact h3

/-- Packets that keep their numbers keep the invariant. -/
theorem Does.flight (hp : ∀ p ∈ t.flight, ∃ q ∈ s.flight, p.pid = q.pid) (ho : ChangesOnly fs s t)
    (hm : t.mem = s.mem) (hr : t.regs = s.regs) (hn : t.nextId = s.nextId) : Does fs s t :=
  ⟨ho, fun ⟨h1, h2, h3⟩ => ⟨hm ▸ h1, hr ▸ h2, fun p hq => by
    obtain ⟨q, hq, e⟩ := hp p hq
    rw [e, hn]
    exact h3 q hq⟩⟩

/-- An update of device memory that keeps its canonical form. -/
theorem Does.mem (hw : s.mem.wf = true → t.mem.wf = true) (ho : ChangesOnly fs s t) (hr : t.regs = s.regs)
    (hf : t.flight = s.flight) (hn : t.nextId = s.nextId) : Does fs s t :=
  ⟨ho, fun ⟨h1, h2, h3⟩ => ⟨hw h1, hr ▸ h2, by unfold Numbered; rw [hf, hn]; exact h3⟩⟩

/-- Device memory is replaced. -/
theorem State.withMem_does {s0 : State} (s : State) (m : Mem) (hw : s.mem.wf = true → m.wf = true) (h0 : Does fs s0 s)
    (hs : Field.sub [.mem] fs = true := by decide) : Does fs s0 { s with mem := m } := by
  refine Does.step (gs := [.mem]) (Does.mem hw ?_ rfl rfl rfl) h0 hs
  intro f hf
  cases f <;> first | rfl | exact absurd (by decide) hf

/-- The register table is replaced. -/
theorem State.withRegs_does {s0 : State} (s : State) (m : Tab Nat) (hw : Tab.sorted s.regs = true → Tab.sorted m = true)
    (h0 : Does fs s0 s) (hs : Field.sub [.regs] fs = true := by decide) : Does fs s0 { s with regs := m } := by
  refine Does.step (gs := [.regs]) (a := s) ⟨?_, fun h => ⟨h.mem, hw h.regs, h.pids⟩⟩ h0 hs
  intro f hf
  cases f <;> first | rfl | exact absurd (by decide) hf

/-- The packets in flight are replaced by some with the same numbers. -/
theorem State.withFlight_does {s0 : State} (s : State) (l : List Packet) (hp : ∀ p ∈ l, ∃ q ∈ s.flight, p.pid = q.pid)
    (h0 : Does fs s0 s) (hs : Field.sub [.flight] fs = true := by decide) : Does fs s0 { s with flight := l } := by
  refine Does.step (gs := [.flight]) (Does.flight hp ?_ rfl rfl rfl) h0 hs
  intro f hf
  cases f <;> first | rfl | exact absurd (by decide) hf

/-- Mapping packets by a function that keeps their numbers. -/
theorem pids_map {l : List Packet} (f : Packet → Packet) (hf : ∀ p, (f p).pid = p.pid) :
    ∀ p ∈ l.map f, ∃ q ∈ l, p.pid = q.pid := fun p hp => by
  obtain ⟨q, hq, rfl⟩ := List.mem_map.1 hp
  exact ⟨q, hq, hf q⟩

/-- The next number grows. -/
theorem State.withNextId_does {s0 : State} (s : State) (n : Nat) (hn : s.nextId ≤ n) (h0 : Does fs s0 s)
    (hs : Field.sub [.nextId] fs = true := by decide) : Does fs s0 { s with nextId := n } := by
  refine Does.step (gs := [.nextId]) (a := s) ⟨?_, fun h => ⟨h.mem, h.regs, fun p hp => Nat.lt_of_lt_of_le (h.pids p hp) hn⟩⟩ h0 hs
  intro f hf
  cases f <;> first | rfl | exact absurd (by decide) hf

theorem sorted_clearFields {t : Tab Nat} (lsb off stride n : Nat) (h : Tab.sorted t = true) :
    Tab.sorted (clearFields t lsb off stride n) = true := Tab.sorted_filter _ h

end Sys2Proof.Machine
end

