-- ==== Sys2Proof/Laws/State.lean ====
section
/-! SUPPORT. One lemma for each field of the state and each basic update, so that no later proof unfolds a record
update. -/

set_option Elab.async false

namespace Sys2Proof.Machine

/-! A register write changes the register table alone. -/

@[simp] theorem State.wr_pending (s : State) (r : Reg) (idx : List Nat) (v : Nat) : (s.wr r idx v).pending = s.pending := by
  unfold State.wr; split <;> rfl
@[simp] theorem State.wr_heldWords (s : State) (r : Reg) (idx : List Nat) (v : Nat) : (s.wr r idx v).heldWords = s.heldWords := by
  unfold State.wr; split <;> rfl
@[simp] theorem State.wr_mem (s : State) (r : Reg) (idx : List Nat) (v : Nat) : (s.wr r idx v).mem = s.mem := by
  unfold State.wr; split <;> rfl
@[simp] theorem State.wr_ue (s : State) (r : Reg) (idx : List Nat) (v : Nat) : (s.wr r idx v).ue = s.ue := by
  unfold State.wr; split <;> rfl
@[simp] theorem State.wr_ce (s : State) (r : Reg) (idx : List Nat) (v : Nat) : (s.wr r idx v).ce = s.ce := by
  unfold State.wr; split <;> rfl
@[simp] theorem State.wr_patrol (s : State) (r : Reg) (idx : List Nat) (v : Nat) : (s.wr r idx v).patrol = s.patrol := by
  unfold State.wr; split <;> rfl
@[simp] theorem State.wr_heldWrites (s : State) (r : Reg) (idx : List Nat) (v : Nat) : (s.wr r idx v).heldWrites = s.heldWrites := by
  unfold State.wr; split <;> rfl
@[simp] theorem State.wr_dShare (s : State) (r : Reg) (idx : List Nat) (v : Nat) : (s.wr r idx v).dShare = s.dShare := by
  unfold State.wr; split <;> rfl
@[simp] theorem State.wr_cShare (s : State) (r : Reg) (idx : List Nat) (v : Nat) : (s.wr r idx v).cShare = s.cShare := by
  unfold State.wr; split <;> rfl
@[simp] theorem State.wr_partitions (s : State) (r : Reg) (idx : List Nat) (v : Nat) : (s.wr r idx v).partitions = s.partitions := by
  unfold State.wr; split <;> rfl
@[simp] theorem State.wr_arbiters (s : State) (r : Reg) (idx : List Nat) (v : Nat) : (s.wr r idx v).arbiters = s.arbiters := by
  unfold State.wr; split <;> rfl
@[simp] theorem State.wr_tokens (s : State) (r : Reg) (idx : List Nat) (v : Nat) : (s.wr r idx v).tokens = s.tokens := by
  unfold State.wr; split <;> rfl
@[simp] theorem State.wr_tokFaulted (s : State) (r : Reg) (idx : List Nat) (v : Nat) : (s.wr r idx v).tokFaulted = s.tokFaulted := by
  unfold State.wr; split <;> rfl
@[simp] theorem State.wr_tokBase (s : State) (r : Reg) (idx : List Nat) (v : Nat) : (s.wr r idx v).tokBase = s.tokBase := by
  unfold State.wr; split <;> rfl
@[simp] theorem State.wr_nextId (s : State) (r : Reg) (idx : List Nat) (v : Nat) : (s.wr r idx v).nextId = s.nextId := by
  unfold State.wr; split <;> rfl
@[simp] theorem State.wr_flight (s : State) (r : Reg) (idx : List Nat) (v : Nat) : (s.wr r idx v).flight = s.flight := by
  unfold State.wr; split <;> rfl
@[simp] theorem State.wr_fetchHold (s : State) (r : Reg) (idx : List Nat) (v : Nat) : (s.wr r idx v).fetchHold = s.fetchHold := by
  unfold State.wr; split <;> rfl
@[simp] theorem State.wr_fetchBuf (s : State) (r : Reg) (idx : List Nat) (v : Nat) : (s.wr r idx v).fetchBuf = s.fetchBuf := by
  unfold State.wr; split <;> rfl
@[simp] theorem State.wr_hostReads (s : State) (r : Reg) (idx : List Nat) (v : Nat) : (s.wr r idx v).hostReads = s.hostReads := by
  unfold State.wr; split <;> rfl
@[simp] theorem State.wr_descs (s : State) (r : Reg) (idx : List Nat) (v : Nat) : (s.wr r idx v).descs = s.descs := by
  unfold State.wr; split <;> rfl
@[simp] theorem State.wr_retries (s : State) (r : Reg) (idx : List Nat) (v : Nat) : (s.wr r idx v).retries = s.retries := by
  unfold State.wr; split <;> rfl
@[simp] theorem State.wr_heldReads (s : State) (r : Reg) (idx : List Nat) (v : Nat) : (s.wr r idx v).heldReads = s.heldReads := by
  unfold State.wr; split <;> rfl
@[simp] theorem State.wr_step (s : State) (r : Reg) (idx : List Nat) (v : Nat) : (s.wr r idx v).step = s.step := by
  unfold State.wr; split <;> rfl
@[simp] theorem State.wr_commit (s : State) (r : Reg) (idx : List Nat) (v : Nat) : (s.wr r idx v).commit = s.commit := by
  unfold State.wr; split <;> rfl
@[simp] theorem State.wr_groups (s : State) (r : Reg) (idx : List Nat) (v : Nat) : (s.wr r idx v).groups = s.groups := by
  unfold State.wr; split <;> rfl
@[simp] theorem State.wr_slots (s : State) (r : Reg) (idx : List Nat) (v : Nat) : (s.wr r idx v).slots = s.slots := by
  unfold State.wr; split <;> rfl
@[simp] theorem State.wr_reef (s : State) (r : Reg) (idx : List Nat) (v : Nat) : (s.wr r idx v).reef = s.reef := by
  unfold State.wr; split <;> rfl
@[simp] theorem State.wr_rewrites (s : State) (r : Reg) (idx : List Nat) (v : Nat) : (s.wr r idx v).rewrites = s.rewrites := by
  unfold State.wr; split <;> rfl
@[simp] theorem State.wr_rewritesDue (s : State) (r : Reg) (idx : List Nat) (v : Nat) : (s.wr r idx v).rewritesDue = s.rewritesDue := by
  unfold State.wr; split <;> rfl
@[simp] theorem State.wr_rewriteStream (s : State) (r : Reg) (idx : List Nat) (v : Nat) : (s.wr r idx v).rewriteStream = s.rewriteStream := by
  unfold State.wr; split <;> rfl
@[simp] theorem State.wr_ilog (s : State) (r : Reg) (idx : List Nat) (v : Nat) : (s.wr r idx v).ilog = s.ilog := by
  unfold State.wr; split <;> rfl
@[simp] theorem State.wr_aoNow (s : State) (r : Reg) (idx : List Nat) (v : Nat) : (s.wr r idx v).aoNow = s.aoNow := by
  unfold State.wr; split <;> rfl
@[simp] theorem State.wr_pcieUp (s : State) (r : Reg) (idx : List Nat) (v : Nat) : (s.wr r idx v).pcieUp = s.pcieUp := by
  unfold State.wr; split <;> rfl
@[simp] theorem State.wr_heldOut (s : State) (r : Reg) (idx : List Nat) (v : Nat) : (s.wr r idx v).heldOut = s.heldOut := by
  unfold State.wr; split <;> rfl
@[simp] theorem State.wr_lateRecords (s : State) (r : Reg) (idx : List Nat) (v : Nat) : (s.wr r idx v).lateRecords = s.lateRecords := by
  unfold State.wr; split <;> rfl
@[simp] theorem State.wr_key (s : State) (r : Reg) (idx : List Nat) (v : Nat) : (s.wr r idx v).key = s.key := by
  unfold State.wr; split <;> rfl
@[simp] theorem State.wr_reports (s : State) (r : Reg) (idx : List Nat) (v : Nat) : (s.wr r idx v).reports = s.reports := by
  unfold State.wr; split <;> rfl
@[simp] theorem State.wr_reportSeq (s : State) (r : Reg) (idx : List Nat) (v : Nat) : (s.wr r idx v).reportSeq = s.reportSeq := by
  unfold State.wr; split <;> rfl
@[simp] theorem State.wr_attLog (s : State) (r : Reg) (idx : List Nat) (v : Nat) : (s.wr r idx v).attLog = s.attLog := by
  unfold State.wr; split <;> rfl
@[simp] theorem State.wr_ports (s : State) (r : Reg) (idx : List Nat) (v : Nat) : (s.wr r idx v).ports = s.ports := by
  unfold State.wr; split <;> rfl
@[simp] theorem State.wr_delivered (s : State) (r : Reg) (idx : List Nat) (v : Nat) : (s.wr r idx v).delivered = s.delivered := by
  unfold State.wr; split <;> rfl
@[simp] theorem State.wr_rankNodes (s : State) (r : Reg) (idx : List Nat) (v : Nat) : (s.wr r idx v).rankNodes = s.rankNodes := by
  unfold State.wr; split <;> rfl
@[simp] theorem State.wr_colls (s : State) (r : Reg) (idx : List Nat) (v : Nat) : (s.wr r idx v).colls = s.colls := by
  unfold State.wr; split <;> rfl
@[simp] theorem State.wr_endedColls (s : State) (r : Reg) (idx : List Nat) (v : Nat) : (s.wr r idx v).endedColls = s.endedColls := by
  unfold State.wr; split <;> rfl
@[simp] theorem State.wr_reserved (s : State) (r : Reg) (idx : List Nat) (v : Nat) : (s.wr r idx v).reserved = s.reserved := by
  unfold State.wr; split <;> rfl
@[simp] theorem State.wr_heldMsgs (s : State) (r : Reg) (idx : List Nat) (v : Nat) : (s.wr r idx v).heldMsgs = s.heldMsgs := by
  unfold State.wr; split <;> rfl
@[simp] theorem State.wr_prep (s : State) (r : Reg) (idx : List Nat) (v : Nat) : (s.wr r idx v).prep = s.prep := by
  unfold State.wr; split <;> rfl
@[simp] theorem State.wr_top (s : State) (r : Reg) (idx : List Nat) (v : Nat) : (s.wr r idx v).top = s.top := by
  unfold State.wr; split <;> rfl
@[simp] theorem State.wr_lastEpoch (s : State) (r : Reg) (idx : List Nat) (v : Nat) : (s.wr r idx v).lastEpoch = s.lastEpoch := by
  unfold State.wr; split <;> rfl
@[simp] theorem State.wr_sysMembers (s : State) (r : Reg) (idx : List Nat) (v : Nat) : (s.wr r idx v).sysMembers = s.sysMembers := by
  unfold State.wr; split <;> rfl
@[simp] theorem State.wr_chunkRule (s : State) (r : Reg) (idx : List Nat) (v : Nat) : (s.wr r idx v).chunkRule = s.chunkRule := by
  unfold State.wr; split <;> rfl
@[simp] theorem State.wr_memberIds (s : State) (r : Reg) (idx : List Nat) (v : Nat) : (s.wr r idx v).memberIds = s.memberIds := by
  unfold State.wr; split <;> rfl
@[simp] theorem State.wr_memberHealth (s : State) (r : Reg) (idx : List Nat) (v : Nat) : (s.wr r idx v).memberHealth = s.memberHealth := by
  unfold State.wr; split <;> rfl
@[simp] theorem State.wr_verdicts (s : State) (r : Reg) (idx : List Nat) (v : Nat) : (s.wr r idx v).verdicts = s.verdicts := by
  unfold State.wr; split <;> rfl
@[simp] theorem State.wr_heard (s : State) (r : Reg) (idx : List Nat) (v : Nat) : (s.wr r idx v).heard = s.heard := by
  unfold State.wr; split <;> rfl
@[simp] theorem State.wr_mgrHeard (s : State) (r : Reg) (idx : List Nat) (v : Nat) : (s.wr r idx v).mgrHeard = s.mgrHeard := by
  unfold State.wr; split <;> rfl
@[simp] theorem State.wr_mgrMissed (s : State) (r : Reg) (idx : List Nat) (v : Nat) : (s.wr r idx v).mgrMissed = s.mgrMissed := by
  unfold State.wr; split <;> rfl
@[simp] theorem State.wr_tests (s : State) (r : Reg) (idx : List Nat) (v : Nat) : (s.wr r idx v).tests = s.tests := by
  unfold State.wr; split <;> rfl
@[simp] theorem State.wr_testFails (s : State) (r : Reg) (idx : List Nat) (v : Nat) : (s.wr r idx v).testFails = s.testFails := by
  unfold State.wr; split <;> rfl
@[simp] theorem State.wr_dispatched (s : State) (r : Reg) (idx : List Nat) (v : Nat) : (s.wr r idx v).dispatched = s.dispatched := by
  unfold State.wr; split <;> rfl
@[simp] theorem State.wr_llsTest (s : State) (r : Reg) (idx : List Nat) (v : Nat) : (s.wr r idx v).llsTest = s.llsTest := by
  unfold State.wr; split <;> rfl
@[simp] theorem State.wr_testClock (s : State) (r : Reg) (idx : List Nat) (v : Nat) : (s.wr r idx v).testClock = s.testClock := by
  unfold State.wr; split <;> rfl
@[simp] theorem State.wr_samples (s : State) (r : Reg) (idx : List Nat) (v : Nat) : (s.wr r idx v).samples = s.samples := by
  unfold State.wr; split <;> rfl
@[simp] theorem State.wr_cycleBase (s : State) (r : Reg) (idx : List Nat) (v : Nat) : (s.wr r idx v).cycleBase = s.cycleBase := by
  unfold State.wr; split <;> rfl
@[simp] theorem State.wr_power (s : State) (r : Reg) (idx : List Nat) (v : Nat) : (s.wr r idx v).power = s.power := by
  unfold State.wr; split <;> rfl
@[simp] theorem State.wr_resetting (s : State) (r : Reg) (idx : List Nat) (v : Nat) : (s.wr r idx v).resetting = s.resetting := by
  unfold State.wr; split <;> rfl
@[simp] theorem State.wr_startDone (s : State) (r : Reg) (idx : List Nat) (v : Nat) : (s.wr r idx v).startDone = s.startDone := by
  unfold State.wr; split <;> rfl
@[simp] theorem State.wr_perst (s : State) (r : Reg) (idx : List Nat) (v : Nat) : (s.wr r idx v).perst = s.perst := by
  unfold State.wr; split <;> rfl
@[simp] theorem State.wr_pwrGood (s : State) (r : Reg) (idx : List Nat) (v : Nat) : (s.wr r idx v).pwrGood = s.pwrGood := by
  unfold State.wr; split <;> rfl
@[simp] theorem State.wr_thermtrip (s : State) (r : Reg) (idx : List Nat) (v : Nat) : (s.wr r idx v).thermtrip = s.thermtrip := by
  unfold State.wr; split <;> rfl
@[simp] theorem State.wr_refclk (s : State) (r : Reg) (idx : List Nat) (v : Nat) : (s.wr r idx v).refclk = s.refclk := by
  unfold State.wr; split <;> rfl
@[simp] theorem State.wr_duty (s : State) (r : Reg) (idx : List Nat) (v : Nat) : (s.wr r idx v).duty = s.duty := by
  unfold State.wr; split <;> rfl
@[simp] theorem State.wr_powerLog (s : State) (r : Reg) (idx : List Nat) (v : Nat) : (s.wr r idx v).powerLog = s.powerLog := by
  unfold State.wr; split <;> rfl
@[simp] theorem State.wr_drooped (s : State) (r : Reg) (idx : List Nat) (v : Nat) : (s.wr r idx v).drooped = s.drooped := by
  unfold State.wr; split <;> rfl
@[simp] theorem State.wr_riskEvents (s : State) (r : Reg) (idx : List Nat) (v : Nat) : (s.wr r idx v).riskEvents = s.riskEvents := by
  unfold State.wr; split <;> rfl
@[simp] theorem State.wr_attJumps (s : State) (r : Reg) (idx : List Nat) (v : Nat) : (s.wr r idx v).attJumps = s.attJumps := by
  unfold State.wr; split <;> rfl
@[simp] theorem State.wr_riskQuiet (s : State) (r : Reg) (idx : List Nat) (v : Nat) : (s.wr r idx v).riskQuiet = s.riskQuiet := by
  unfold State.wr; split <;> rfl
@[simp] theorem State.wr_critTicks (s : State) (r : Reg) (idx : List Nat) (v : Nat) : (s.wr r idx v).critTicks = s.critTicks := by
  unfold State.wr; split <;> rfl
@[simp] theorem State.wr_flashMap (s : State) (r : Reg) (idx : List Nat) (v : Nat) : (s.wr r idx v).flashMap = s.flashMap := by
  unfold State.wr; split <;> rfl
@[simp] theorem State.wr_areaA (s : State) (r : Reg) (idx : List Nat) (v : Nat) : (s.wr r idx v).areaA = s.areaA := by
  unfold State.wr; split <;> rfl
@[simp] theorem State.wr_areaB (s : State) (r : Reg) (idx : List Nat) (v : Nat) : (s.wr r idx v).areaB = s.areaB := by
  unfold State.wr; split <;> rfl
@[simp] theorem State.wr_active (s : State) (r : Reg) (idx : List Nat) (v : Nat) : (s.wr r idx v).active = s.active := by
  unfold State.wr; split <;> rfl
@[simp] theorem State.wr_running (s : State) (r : Reg) (idx : List Nat) (v : Nat) : (s.wr r idx v).running = s.running := by
  unfold State.wr; split <;> rfl
@[simp] theorem State.wr_recovery (s : State) (r : Reg) (idx : List Nat) (v : Nat) : (s.wr r idx v).recovery = s.recovery := by
  unfold State.wr; split <;> rfl
@[simp] theorem State.wr_groupTable (s : State) (r : Reg) (idx : List Nat) (v : Nat) : (s.wr r idx v).groupTable = s.groupTable := by
  unfold State.wr; split <;> rfl
@[simp] theorem State.wr_copy (s : State) (r : Reg) (idx : List Nat) (v : Nat) : (s.wr r idx v).copy = s.copy := by
  unfold State.wr; split <;> rfl
@[simp] theorem State.wr_copyWas (s : State) (r : Reg) (idx : List Nat) (v : Nat) : (s.wr r idx v).copyWas = s.copyWas := by
  unfold State.wr; split <;> rfl
@[simp] theorem State.wr_copyDue (s : State) (r : Reg) (idx : List Nat) (v : Nat) : (s.wr r idx v).copyDue = s.copyDue := by
  unfold State.wr; split <;> rfl
@[simp] theorem State.wr_cursor (s : State) (r : Reg) (idx : List Nat) (v : Nat) : (s.wr r idx v).cursor = s.cursor := by
  unfold State.wr; split <;> rfl
@[simp] theorem State.wr_signing (s : State) (r : Reg) (idx : List Nat) (v : Nat) : (s.wr r idx v).signing = s.signing := by
  unfold State.wr; split <;> rfl
@[simp] theorem State.wr_hold (s : State) (r : Reg) (idx : List Nat) (v : Nat) : (s.wr r idx v).hold = s.hold := by
  unfold State.wr; split <;> rfl
@[simp] theorem State.wr_newest (s : State) (r : Reg) (idx : List Nat) (v : Nat) : (s.wr r idx v).newest = s.newest := by
  unfold State.wr; split <;> rfl
@[simp] theorem State.wr_serve (s : State) (r : Reg) (idx : List Nat) (v : Nat) : (s.wr r idx v).serve = s.serve := by
  unfold State.wr; split <;> rfl
@[simp] theorem State.wr_restore (s : State) (r : Reg) (idx : List Nat) (v : Nat) : (s.wr r idx v).restore = s.restore := by
  unfold State.wr; split <;> rfl
@[simp] theorem State.wr_joins (s : State) (r : Reg) (idx : List Nat) (v : Nat) : (s.wr r idx v).joins = s.joins := by
  unfold State.wr; split <;> rfl
@[simp] theorem State.wr_cfg (s : State) (r : Reg) (idx : List Nat) (v : Nat) : (s.wr r idx v).cfg = s.cfg := by
  unfold State.wr; split <;> rfl
@[simp] theorem State.wr_identityKey (s : State) (r : Reg) (idx : List Nat) (v : Nat) : (s.wr r idx v).identityKey = s.identityKey := by
  unfold State.wr; split <;> rfl
@[simp] theorem State.wr_eid (s : State) (r : Reg) (idx : List Nat) (v : Nat) : (s.wr r idx v).eid = s.eid := by
  unfold State.wr; split <;> rfl
@[simp] theorem State.wr_bwStart (s : State) (r : Reg) (idx : List Nat) (v : Nat) : (s.wr r idx v).bwStart = s.bwStart := by
  unfold State.wr; split <;> rfl
@[simp] theorem State.wr_bwWindow (s : State) (r : Reg) (idx : List Nat) (v : Nat) : (s.wr r idx v).bwWindow = s.bwWindow := by
  unfold State.wr; split <;> rfl
@[simp] theorem State.wr_bwTotals (s : State) (r : Reg) (idx : List Nat) (v : Nat) : (s.wr r idx v).bwTotals = s.bwTotals := by
  unfold State.wr; split <;> rfl
@[simp] theorem State.wr_bwLast (s : State) (r : Reg) (idx : List Nat) (v : Nat) : (s.wr r idx v).bwLast = s.bwLast := by
  unfold State.wr; split <;> rfl
@[simp] theorem State.wr_out (s : State) (r : Reg) (idx : List Nat) (v : Nat) : (s.wr r idx v).out = s.out := by
  unfold State.wr; split <;> rfl
@[simp] theorem State.wr_free (s : State) (r : Reg) (idx : List Nat) (v : Nat) : (s.wr r idx v).free = s.free := by
  unfold State.wr; split <;> rfl

/-! Counters are register writes. -/

@[simp] theorem State.count_pending (s : State) (r : Reg) (idx : List Nat) (n : Nat) : (s.count r idx n).pending = s.pending :=
  State.wr_pending ..
@[simp] theorem State.count_heldWords (s : State) (r : Reg) (idx : List Nat) (n : Nat) : (s.count r idx n).heldWords = s.heldWords :=
  State.wr_heldWords ..
@[simp] theorem State.count_mem (s : State) (r : Reg) (idx : List Nat) (n : Nat) : (s.count r idx n).mem = s.mem :=
  State.wr_mem ..
@[simp] theorem State.count_ue (s : State) (r : Reg) (idx : List Nat) (n : Nat) : (s.count r idx n).ue = s.ue :=
  State.wr_ue ..
@[simp] theorem State.count_ce (s : State) (r : Reg) (idx : List Nat) (n : Nat) : (s.count r idx n).ce = s.ce :=
  State.wr_ce ..
@[simp] theorem State.count_patrol (s : State) (r : Reg) (idx : List Nat) (n : Nat) : (s.count r idx n).patrol = s.patrol :=
  State.wr_patrol ..
@[simp] theorem State.count_heldWrites (s : State) (r : Reg) (idx : List Nat) (n : Nat) : (s.count r idx n).heldWrites = s.heldWrites :=
  State.wr_heldWrites ..
@[simp] theorem State.count_dShare (s : State) (r : Reg) (idx : List Nat) (n : Nat) : (s.count r idx n).dShare = s.dShare :=
  State.wr_dShare ..
@[simp] theorem State.count_cShare (s : State) (r : Reg) (idx : List Nat) (n : Nat) : (s.count r idx n).cShare = s.cShare :=
  State.wr_cShare ..
@[simp] theorem State.count_partitions (s : State) (r : Reg) (idx : List Nat) (n : Nat) : (s.count r idx n).partitions = s.partitions :=
  State.wr_partitions ..
@[simp] theorem State.count_arbiters (s : State) (r : Reg) (idx : List Nat) (n : Nat) : (s.count r idx n).arbiters = s.arbiters :=
  State.wr_arbiters ..
@[simp] theorem State.count_tokens (s : State) (r : Reg) (idx : List Nat) (n : Nat) : (s.count r idx n).tokens = s.tokens :=
  State.wr_tokens ..
@[simp] theorem State.count_tokFaulted (s : State) (r : Reg) (idx : List Nat) (n : Nat) : (s.count r idx n).tokFaulted = s.tokFaulted :=
  State.wr_tokFaulted ..
@[simp] theorem State.count_tokBase (s : State) (r : Reg) (idx : List Nat) (n : Nat) : (s.count r idx n).tokBase = s.tokBase :=
  State.wr_tokBase ..
@[simp] theorem State.count_nextId (s : State) (r : Reg) (idx : List Nat) (n : Nat) : (s.count r idx n).nextId = s.nextId :=
  State.wr_nextId ..
@[simp] theorem State.count_flight (s : State) (r : Reg) (idx : List Nat) (n : Nat) : (s.count r idx n).flight = s.flight :=
  State.wr_flight ..
@[simp] theorem State.count_fetchHold (s : State) (r : Reg) (idx : List Nat) (n : Nat) : (s.count r idx n).fetchHold = s.fetchHold :=
  State.wr_fetchHold ..
@[simp] theorem State.count_fetchBuf (s : State) (r : Reg) (idx : List Nat) (n : Nat) : (s.count r idx n).fetchBuf = s.fetchBuf :=
  State.wr_fetchBuf ..
@[simp] theorem State.count_hostReads (s : State) (r : Reg) (idx : List Nat) (n : Nat) : (s.count r idx n).hostReads = s.hostReads :=
  State.wr_hostReads ..
@[simp] theorem State.count_descs (s : State) (r : Reg) (idx : List Nat) (n : Nat) : (s.count r idx n).descs = s.descs :=
  State.wr_descs ..
@[simp] theorem State.count_retries (s : State) (r : Reg) (idx : List Nat) (n : Nat) : (s.count r idx n).retries = s.retries :=
  State.wr_retries ..
@[simp] theorem State.count_heldReads (s : State) (r : Reg) (idx : List Nat) (n : Nat) : (s.count r idx n).heldReads = s.heldReads :=
  State.wr_heldReads ..
@[simp] theorem State.count_step (s : State) (r : Reg) (idx : List Nat) (n : Nat) : (s.count r idx n).step = s.step :=
  State.wr_step ..
@[simp] theorem State.count_commit (s : State) (r : Reg) (idx : List Nat) (n : Nat) : (s.count r idx n).commit = s.commit :=
  State.wr_commit ..
@[simp] theorem State.count_groups (s : State) (r : Reg) (idx : List Nat) (n : Nat) : (s.count r idx n).groups = s.groups :=
  State.wr_groups ..
@[simp] theorem State.count_slots (s : State) (r : Reg) (idx : List Nat) (n : Nat) : (s.count r idx n).slots = s.slots :=
  State.wr_slots ..
@[simp] theorem State.count_reef (s : State) (r : Reg) (idx : List Nat) (n : Nat) : (s.count r idx n).reef = s.reef :=
  State.wr_reef ..
@[simp] theorem State.count_rewrites (s : State) (r : Reg) (idx : List Nat) (n : Nat) : (s.count r idx n).rewrites = s.rewrites :=
  State.wr_rewrites ..
@[simp] theorem State.count_rewritesDue (s : State) (r : Reg) (idx : List Nat) (n : Nat) : (s.count r idx n).rewritesDue = s.rewritesDue :=
  State.wr_rewritesDue ..
@[simp] theorem State.count_rewriteStream (s : State) (r : Reg) (idx : List Nat) (n : Nat) : (s.count r idx n).rewriteStream = s.rewriteStream :=
  State.wr_rewriteStream ..
@[simp] theorem State.count_ilog (s : State) (r : Reg) (idx : List Nat) (n : Nat) : (s.count r idx n).ilog = s.ilog :=
  State.wr_ilog ..
@[simp] theorem State.count_aoNow (s : State) (r : Reg) (idx : List Nat) (n : Nat) : (s.count r idx n).aoNow = s.aoNow :=
  State.wr_aoNow ..
@[simp] theorem State.count_pcieUp (s : State) (r : Reg) (idx : List Nat) (n : Nat) : (s.count r idx n).pcieUp = s.pcieUp :=
  State.wr_pcieUp ..
@[simp] theorem State.count_heldOut (s : State) (r : Reg) (idx : List Nat) (n : Nat) : (s.count r idx n).heldOut = s.heldOut :=
  State.wr_heldOut ..
@[simp] theorem State.count_lateRecords (s : State) (r : Reg) (idx : List Nat) (n : Nat) : (s.count r idx n).lateRecords = s.lateRecords :=
  State.wr_lateRecords ..
@[simp] theorem State.count_key (s : State) (r : Reg) (idx : List Nat) (n : Nat) : (s.count r idx n).key = s.key :=
  State.wr_key ..
@[simp] theorem State.count_reports (s : State) (r : Reg) (idx : List Nat) (n : Nat) : (s.count r idx n).reports = s.reports :=
  State.wr_reports ..
@[simp] theorem State.count_reportSeq (s : State) (r : Reg) (idx : List Nat) (n : Nat) : (s.count r idx n).reportSeq = s.reportSeq :=
  State.wr_reportSeq ..
@[simp] theorem State.count_attLog (s : State) (r : Reg) (idx : List Nat) (n : Nat) : (s.count r idx n).attLog = s.attLog :=
  State.wr_attLog ..
@[simp] theorem State.count_ports (s : State) (r : Reg) (idx : List Nat) (n : Nat) : (s.count r idx n).ports = s.ports :=
  State.wr_ports ..
@[simp] theorem State.count_delivered (s : State) (r : Reg) (idx : List Nat) (n : Nat) : (s.count r idx n).delivered = s.delivered :=
  State.wr_delivered ..
@[simp] theorem State.count_rankNodes (s : State) (r : Reg) (idx : List Nat) (n : Nat) : (s.count r idx n).rankNodes = s.rankNodes :=
  State.wr_rankNodes ..
@[simp] theorem State.count_colls (s : State) (r : Reg) (idx : List Nat) (n : Nat) : (s.count r idx n).colls = s.colls :=
  State.wr_colls ..
@[simp] theorem State.count_endedColls (s : State) (r : Reg) (idx : List Nat) (n : Nat) : (s.count r idx n).endedColls = s.endedColls :=
  State.wr_endedColls ..
@[simp] theorem State.count_reserved (s : State) (r : Reg) (idx : List Nat) (n : Nat) : (s.count r idx n).reserved = s.reserved :=
  State.wr_reserved ..
@[simp] theorem State.count_heldMsgs (s : State) (r : Reg) (idx : List Nat) (n : Nat) : (s.count r idx n).heldMsgs = s.heldMsgs :=
  State.wr_heldMsgs ..
@[simp] theorem State.count_prep (s : State) (r : Reg) (idx : List Nat) (n : Nat) : (s.count r idx n).prep = s.prep :=
  State.wr_prep ..
@[simp] theorem State.count_top (s : State) (r : Reg) (idx : List Nat) (n : Nat) : (s.count r idx n).top = s.top :=
  State.wr_top ..
@[simp] theorem State.count_lastEpoch (s : State) (r : Reg) (idx : List Nat) (n : Nat) : (s.count r idx n).lastEpoch = s.lastEpoch :=
  State.wr_lastEpoch ..
@[simp] theorem State.count_sysMembers (s : State) (r : Reg) (idx : List Nat) (n : Nat) : (s.count r idx n).sysMembers = s.sysMembers :=
  State.wr_sysMembers ..
@[simp] theorem State.count_chunkRule (s : State) (r : Reg) (idx : List Nat) (n : Nat) : (s.count r idx n).chunkRule = s.chunkRule :=
  State.wr_chunkRule ..
@[simp] theorem State.count_memberIds (s : State) (r : Reg) (idx : List Nat) (n : Nat) : (s.count r idx n).memberIds = s.memberIds :=
  State.wr_memberIds ..
@[simp] theorem State.count_memberHealth (s : State) (r : Reg) (idx : List Nat) (n : Nat) : (s.count r idx n).memberHealth = s.memberHealth :=
  State.wr_memberHealth ..
@[simp] theorem State.count_verdicts (s : State) (r : Reg) (idx : List Nat) (n : Nat) : (s.count r idx n).verdicts = s.verdicts :=
  State.wr_verdicts ..
@[simp] theorem State.count_heard (s : State) (r : Reg) (idx : List Nat) (n : Nat) : (s.count r idx n).heard = s.heard :=
  State.wr_heard ..
@[simp] theorem State.count_mgrHeard (s : State) (r : Reg) (idx : List Nat) (n : Nat) : (s.count r idx n).mgrHeard = s.mgrHeard :=
  State.wr_mgrHeard ..
@[simp] theorem State.count_mgrMissed (s : State) (r : Reg) (idx : List Nat) (n : Nat) : (s.count r idx n).mgrMissed = s.mgrMissed :=
  State.wr_mgrMissed ..
@[simp] theorem State.count_tests (s : State) (r : Reg) (idx : List Nat) (n : Nat) : (s.count r idx n).tests = s.tests :=
  State.wr_tests ..
@[simp] theorem State.count_testFails (s : State) (r : Reg) (idx : List Nat) (n : Nat) : (s.count r idx n).testFails = s.testFails :=
  State.wr_testFails ..
@[simp] theorem State.count_dispatched (s : State) (r : Reg) (idx : List Nat) (n : Nat) : (s.count r idx n).dispatched = s.dispatched :=
  State.wr_dispatched ..
@[simp] theorem State.count_llsTest (s : State) (r : Reg) (idx : List Nat) (n : Nat) : (s.count r idx n).llsTest = s.llsTest :=
  State.wr_llsTest ..
@[simp] theorem State.count_testClock (s : State) (r : Reg) (idx : List Nat) (n : Nat) : (s.count r idx n).testClock = s.testClock :=
  State.wr_testClock ..
@[simp] theorem State.count_samples (s : State) (r : Reg) (idx : List Nat) (n : Nat) : (s.count r idx n).samples = s.samples :=
  State.wr_samples ..
@[simp] theorem State.count_cycleBase (s : State) (r : Reg) (idx : List Nat) (n : Nat) : (s.count r idx n).cycleBase = s.cycleBase :=
  State.wr_cycleBase ..
@[simp] theorem State.count_power (s : State) (r : Reg) (idx : List Nat) (n : Nat) : (s.count r idx n).power = s.power :=
  State.wr_power ..
@[simp] theorem State.count_resetting (s : State) (r : Reg) (idx : List Nat) (n : Nat) : (s.count r idx n).resetting = s.resetting :=
  State.wr_resetting ..
@[simp] theorem State.count_startDone (s : State) (r : Reg) (idx : List Nat) (n : Nat) : (s.count r idx n).startDone = s.startDone :=
  State.wr_startDone ..
@[simp] theorem State.count_perst (s : State) (r : Reg) (idx : List Nat) (n : Nat) : (s.count r idx n).perst = s.perst :=
  State.wr_perst ..
@[simp] theorem State.count_pwrGood (s : State) (r : Reg) (idx : List Nat) (n : Nat) : (s.count r idx n).pwrGood = s.pwrGood :=
  State.wr_pwrGood ..
@[simp] theorem State.count_thermtrip (s : State) (r : Reg) (idx : List Nat) (n : Nat) : (s.count r idx n).thermtrip = s.thermtrip :=
  State.wr_thermtrip ..
@[simp] theorem State.count_refclk (s : State) (r : Reg) (idx : List Nat) (n : Nat) : (s.count r idx n).refclk = s.refclk :=
  State.wr_refclk ..
@[simp] theorem State.count_duty (s : State) (r : Reg) (idx : List Nat) (n : Nat) : (s.count r idx n).duty = s.duty :=
  State.wr_duty ..
@[simp] theorem State.count_powerLog (s : State) (r : Reg) (idx : List Nat) (n : Nat) : (s.count r idx n).powerLog = s.powerLog :=
  State.wr_powerLog ..
@[simp] theorem State.count_drooped (s : State) (r : Reg) (idx : List Nat) (n : Nat) : (s.count r idx n).drooped = s.drooped :=
  State.wr_drooped ..
@[simp] theorem State.count_riskEvents (s : State) (r : Reg) (idx : List Nat) (n : Nat) : (s.count r idx n).riskEvents = s.riskEvents :=
  State.wr_riskEvents ..
@[simp] theorem State.count_attJumps (s : State) (r : Reg) (idx : List Nat) (n : Nat) : (s.count r idx n).attJumps = s.attJumps :=
  State.wr_attJumps ..
@[simp] theorem State.count_riskQuiet (s : State) (r : Reg) (idx : List Nat) (n : Nat) : (s.count r idx n).riskQuiet = s.riskQuiet :=
  State.wr_riskQuiet ..
@[simp] theorem State.count_critTicks (s : State) (r : Reg) (idx : List Nat) (n : Nat) : (s.count r idx n).critTicks = s.critTicks :=
  State.wr_critTicks ..
@[simp] theorem State.count_flashMap (s : State) (r : Reg) (idx : List Nat) (n : Nat) : (s.count r idx n).flashMap = s.flashMap :=
  State.wr_flashMap ..
@[simp] theorem State.count_areaA (s : State) (r : Reg) (idx : List Nat) (n : Nat) : (s.count r idx n).areaA = s.areaA :=
  State.wr_areaA ..
@[simp] theorem State.count_areaB (s : State) (r : Reg) (idx : List Nat) (n : Nat) : (s.count r idx n).areaB = s.areaB :=
  State.wr_areaB ..
@[simp] theorem State.count_active (s : State) (r : Reg) (idx : List Nat) (n : Nat) : (s.count r idx n).active = s.active :=
  State.wr_active ..
@[simp] theorem State.count_running (s : State) (r : Reg) (idx : List Nat) (n : Nat) : (s.count r idx n).running = s.running :=
  State.wr_running ..
@[simp] theorem State.count_recovery (s : State) (r : Reg) (idx : List Nat) (n : Nat) : (s.count r idx n).recovery = s.recovery :=
  State.wr_recovery ..
@[simp] theorem State.count_groupTable (s : State) (r : Reg) (idx : List Nat) (n : Nat) : (s.count r idx n).groupTable = s.groupTable :=
  State.wr_groupTable ..
@[simp] theorem State.count_copy (s : State) (r : Reg) (idx : List Nat) (n : Nat) : (s.count r idx n).copy = s.copy :=
  State.wr_copy ..
@[simp] theorem State.count_copyWas (s : State) (r : Reg) (idx : List Nat) (n : Nat) : (s.count r idx n).copyWas = s.copyWas :=
  State.wr_copyWas ..
@[simp] theorem State.count_copyDue (s : State) (r : Reg) (idx : List Nat) (n : Nat) : (s.count r idx n).copyDue = s.copyDue :=
  State.wr_copyDue ..
@[simp] theorem State.count_cursor (s : State) (r : Reg) (idx : List Nat) (n : Nat) : (s.count r idx n).cursor = s.cursor :=
  State.wr_cursor ..
@[simp] theorem State.count_signing (s : State) (r : Reg) (idx : List Nat) (n : Nat) : (s.count r idx n).signing = s.signing :=
  State.wr_signing ..
@[simp] theorem State.count_hold (s : State) (r : Reg) (idx : List Nat) (n : Nat) : (s.count r idx n).hold = s.hold :=
  State.wr_hold ..
@[simp] theorem State.count_newest (s : State) (r : Reg) (idx : List Nat) (n : Nat) : (s.count r idx n).newest = s.newest :=
  State.wr_newest ..
@[simp] theorem State.count_serve (s : State) (r : Reg) (idx : List Nat) (n : Nat) : (s.count r idx n).serve = s.serve :=
  State.wr_serve ..
@[simp] theorem State.count_restore (s : State) (r : Reg) (idx : List Nat) (n : Nat) : (s.count r idx n).restore = s.restore :=
  State.wr_restore ..
@[simp] theorem State.count_joins (s : State) (r : Reg) (idx : List Nat) (n : Nat) : (s.count r idx n).joins = s.joins :=
  State.wr_joins ..
@[simp] theorem State.count_cfg (s : State) (r : Reg) (idx : List Nat) (n : Nat) : (s.count r idx n).cfg = s.cfg :=
  State.wr_cfg ..
@[simp] theorem State.count_identityKey (s : State) (r : Reg) (idx : List Nat) (n : Nat) : (s.count r idx n).identityKey = s.identityKey :=
  State.wr_identityKey ..
@[simp] theorem State.count_eid (s : State) (r : Reg) (idx : List Nat) (n : Nat) : (s.count r idx n).eid = s.eid :=
  State.wr_eid ..
@[simp] theorem State.count_bwStart (s : State) (r : Reg) (idx : List Nat) (n : Nat) : (s.count r idx n).bwStart = s.bwStart :=
  State.wr_bwStart ..
@[simp] theorem State.count_bwWindow (s : State) (r : Reg) (idx : List Nat) (n : Nat) : (s.count r idx n).bwWindow = s.bwWindow :=
  State.wr_bwWindow ..
@[simp] theorem State.count_bwTotals (s : State) (r : Reg) (idx : List Nat) (n : Nat) : (s.count r idx n).bwTotals = s.bwTotals :=
  State.wr_bwTotals ..
@[simp] theorem State.count_bwLast (s : State) (r : Reg) (idx : List Nat) (n : Nat) : (s.count r idx n).bwLast = s.bwLast :=
  State.wr_bwLast ..
@[simp] theorem State.count_out (s : State) (r : Reg) (idx : List Nat) (n : Nat) : (s.count r idx n).out = s.out :=
  State.wr_out ..
@[simp] theorem State.count_free (s : State) (r : Reg) (idx : List Nat) (n : Nat) : (s.count r idx n).free = s.free :=
  State.wr_free ..
@[simp] theorem State.bump_pending (s : State) (r : Reg) (idx : List Nat) (n : Nat) : (s.bump r idx n).pending = s.pending :=
  State.wr_pending ..
@[simp] theorem State.bump_heldWords (s : State) (r : Reg) (idx : List Nat) (n : Nat) : (s.bump r idx n).heldWords = s.heldWords :=
  State.wr_heldWords ..
@[simp] theorem State.bump_mem (s : State) (r : Reg) (idx : List Nat) (n : Nat) : (s.bump r idx n).mem = s.mem :=
  State.wr_mem ..
@[simp] theorem State.bump_ue (s : State) (r : Reg) (idx : List Nat) (n : Nat) : (s.bump r idx n).ue = s.ue :=
  State.wr_ue ..
@[simp] theorem State.bump_ce (s : State) (r : Reg) (idx : List Nat) (n : Nat) : (s.bump r idx n).ce = s.ce :=
  State.wr_ce ..
@[simp] theorem State.bump_patrol (s : State) (r : Reg) (idx : List Nat) (n : Nat) : (s.bump r idx n).patrol = s.patrol :=
  State.wr_patrol ..
@[simp] theorem State.bump_heldWrites (s : State) (r : Reg) (idx : List Nat) (n : Nat) : (s.bump r idx n).heldWrites = s.heldWrites :=
  State.wr_heldWrites ..
@[simp] theorem State.bump_dShare (s : State) (r : Reg) (idx : List Nat) (n : Nat) : (s.bump r idx n).dShare = s.dShare :=
  State.wr_dShare ..
@[simp] theorem State.bump_cShare (s : State) (r : Reg) (idx : List Nat) (n : Nat) : (s.bump r idx n).cShare = s.cShare :=
  State.wr_cShare ..
@[simp] theorem State.bump_partitions (s : State) (r : Reg) (idx : List Nat) (n : Nat) : (s.bump r idx n).partitions = s.partitions :=
  State.wr_partitions ..
@[simp] theorem State.bump_arbiters (s : State) (r : Reg) (idx : List Nat) (n : Nat) : (s.bump r idx n).arbiters = s.arbiters :=
  State.wr_arbiters ..
@[simp] theorem State.bump_tokens (s : State) (r : Reg) (idx : List Nat) (n : Nat) : (s.bump r idx n).tokens = s.tokens :=
  State.wr_tokens ..
@[simp] theorem State.bump_tokFaulted (s : State) (r : Reg) (idx : List Nat) (n : Nat) : (s.bump r idx n).tokFaulted = s.tokFaulted :=
  State.wr_tokFaulted ..
@[simp] theorem State.bump_tokBase (s : State) (r : Reg) (idx : List Nat) (n : Nat) : (s.bump r idx n).tokBase = s.tokBase :=
  State.wr_tokBase ..
@[simp] theorem State.bump_nextId (s : State) (r : Reg) (idx : List Nat) (n : Nat) : (s.bump r idx n).nextId = s.nextId :=
  State.wr_nextId ..
@[simp] theorem State.bump_flight (s : State) (r : Reg) (idx : List Nat) (n : Nat) : (s.bump r idx n).flight = s.flight :=
  State.wr_flight ..
@[simp] theorem State.bump_fetchHold (s : State) (r : Reg) (idx : List Nat) (n : Nat) : (s.bump r idx n).fetchHold = s.fetchHold :=
  State.wr_fetchHold ..
@[simp] theorem State.bump_fetchBuf (s : State) (r : Reg) (idx : List Nat) (n : Nat) : (s.bump r idx n).fetchBuf = s.fetchBuf :=
  State.wr_fetchBuf ..
@[simp] theorem State.bump_hostReads (s : State) (r : Reg) (idx : List Nat) (n : Nat) : (s.bump r idx n).hostReads = s.hostReads :=
  State.wr_hostReads ..
@[simp] theorem State.bump_descs (s : State) (r : Reg) (idx : List Nat) (n : Nat) : (s.bump r idx n).descs = s.descs :=
  State.wr_descs ..
@[simp] theorem State.bump_retries (s : State) (r : Reg) (idx : List Nat) (n : Nat) : (s.bump r idx n).retries = s.retries :=
  State.wr_retries ..
@[simp] theorem State.bump_heldReads (s : State) (r : Reg) (idx : List Nat) (n : Nat) : (s.bump r idx n).heldReads = s.heldReads :=
  State.wr_heldReads ..
@[simp] theorem State.bump_step (s : State) (r : Reg) (idx : List Nat) (n : Nat) : (s.bump r idx n).step = s.step :=
  State.wr_step ..
@[simp] theorem State.bump_commit (s : State) (r : Reg) (idx : List Nat) (n : Nat) : (s.bump r idx n).commit = s.commit :=
  State.wr_commit ..
@[simp] theorem State.bump_groups (s : State) (r : Reg) (idx : List Nat) (n : Nat) : (s.bump r idx n).groups = s.groups :=
  State.wr_groups ..
@[simp] theorem State.bump_slots (s : State) (r : Reg) (idx : List Nat) (n : Nat) : (s.bump r idx n).slots = s.slots :=
  State.wr_slots ..
@[simp] theorem State.bump_reef (s : State) (r : Reg) (idx : List Nat) (n : Nat) : (s.bump r idx n).reef = s.reef :=
  State.wr_reef ..
@[simp] theorem State.bump_rewrites (s : State) (r : Reg) (idx : List Nat) (n : Nat) : (s.bump r idx n).rewrites = s.rewrites :=
  State.wr_rewrites ..
@[simp] theorem State.bump_rewritesDue (s : State) (r : Reg) (idx : List Nat) (n : Nat) : (s.bump r idx n).rewritesDue = s.rewritesDue :=
  State.wr_rewritesDue ..
@[simp] theorem State.bump_rewriteStream (s : State) (r : Reg) (idx : List Nat) (n : Nat) : (s.bump r idx n).rewriteStream = s.rewriteStream :=
  State.wr_rewriteStream ..
@[simp] theorem State.bump_ilog (s : State) (r : Reg) (idx : List Nat) (n : Nat) : (s.bump r idx n).ilog = s.ilog :=
  State.wr_ilog ..
@[simp] theorem State.bump_aoNow (s : State) (r : Reg) (idx : List Nat) (n : Nat) : (s.bump r idx n).aoNow = s.aoNow :=
  State.wr_aoNow ..
@[simp] theorem State.bump_pcieUp (s : State) (r : Reg) (idx : List Nat) (n : Nat) : (s.bump r idx n).pcieUp = s.pcieUp :=
  State.wr_pcieUp ..
@[simp] theorem State.bump_heldOut (s : State) (r : Reg) (idx : List Nat) (n : Nat) : (s.bump r idx n).heldOut = s.heldOut :=
  State.wr_heldOut ..
@[simp] theorem State.bump_lateRecords (s : State) (r : Reg) (idx : List Nat) (n : Nat) : (s.bump r idx n).lateRecords = s.lateRecords :=
  State.wr_lateRecords ..
@[simp] theorem State.bump_key (s : State) (r : Reg) (idx : List Nat) (n : Nat) : (s.bump r idx n).key = s.key :=
  State.wr_key ..
@[simp] theorem State.bump_reports (s : State) (r : Reg) (idx : List Nat) (n : Nat) : (s.bump r idx n).reports = s.reports :=
  State.wr_reports ..
@[simp] theorem State.bump_reportSeq (s : State) (r : Reg) (idx : List Nat) (n : Nat) : (s.bump r idx n).reportSeq = s.reportSeq :=
  State.wr_reportSeq ..
@[simp] theorem State.bump_attLog (s : State) (r : Reg) (idx : List Nat) (n : Nat) : (s.bump r idx n).attLog = s.attLog :=
  State.wr_attLog ..
@[simp] theorem State.bump_ports (s : State) (r : Reg) (idx : List Nat) (n : Nat) : (s.bump r idx n).ports = s.ports :=
  State.wr_ports ..
@[simp] theorem State.bump_delivered (s : State) (r : Reg) (idx : List Nat) (n : Nat) : (s.bump r idx n).delivered = s.delivered :=
  State.wr_delivered ..
@[simp] theorem State.bump_rankNodes (s : State) (r : Reg) (idx : List Nat) (n : Nat) : (s.bump r idx n).rankNodes = s.rankNodes :=
  State.wr_rankNodes ..
@[simp] theorem State.bump_colls (s : State) (r : Reg) (idx : List Nat) (n : Nat) : (s.bump r idx n).colls = s.colls :=
  State.wr_colls ..
@[simp] theorem State.bump_endedColls (s : State) (r : Reg) (idx : List Nat) (n : Nat) : (s.bump r idx n).endedColls = s.endedColls :=
  State.wr_endedColls ..
@[simp] theorem State.bump_reserved (s : State) (r : Reg) (idx : List Nat) (n : Nat) : (s.bump r idx n).reserved = s.reserved :=
  State.wr_reserved ..
@[simp] theorem State.bump_heldMsgs (s : State) (r : Reg) (idx : List Nat) (n : Nat) : (s.bump r idx n).heldMsgs = s.heldMsgs :=
  State.wr_heldMsgs ..
@[simp] theorem State.bump_prep (s : State) (r : Reg) (idx : List Nat) (n : Nat) : (s.bump r idx n).prep = s.prep :=
  State.wr_prep ..
@[simp] theorem State.bump_top (s : State) (r : Reg) (idx : List Nat) (n : Nat) : (s.bump r idx n).top = s.top :=
  State.wr_top ..
@[simp] theorem State.bump_lastEpoch (s : State) (r : Reg) (idx : List Nat) (n : Nat) : (s.bump r idx n).lastEpoch = s.lastEpoch :=
  State.wr_lastEpoch ..
@[simp] theorem State.bump_sysMembers (s : State) (r : Reg) (idx : List Nat) (n : Nat) : (s.bump r idx n).sysMembers = s.sysMembers :=
  State.wr_sysMembers ..
@[simp] theorem State.bump_chunkRule (s : State) (r : Reg) (idx : List Nat) (n : Nat) : (s.bump r idx n).chunkRule = s.chunkRule :=
  State.wr_chunkRule ..
@[simp] theorem State.bump_memberIds (s : State) (r : Reg) (idx : List Nat) (n : Nat) : (s.bump r idx n).memberIds = s.memberIds :=
  State.wr_memberIds ..
@[simp] theorem State.bump_memberHealth (s : State) (r : Reg) (idx : List Nat) (n : Nat) : (s.bump r idx n).memberHealth = s.memberHealth :=
  State.wr_memberHealth ..
@[simp] theorem State.bump_verdicts (s : State) (r : Reg) (idx : List Nat) (n : Nat) : (s.bump r idx n).verdicts = s.verdicts :=
  State.wr_verdicts ..
@[simp] theorem State.bump_heard (s : State) (r : Reg) (idx : List Nat) (n : Nat) : (s.bump r idx n).heard = s.heard :=
  State.wr_heard ..
@[simp] theorem State.bump_mgrHeard (s : State) (r : Reg) (idx : List Nat) (n : Nat) : (s.bump r idx n).mgrHeard = s.mgrHeard :=
  State.wr_mgrHeard ..
@[simp] theorem State.bump_mgrMissed (s : State) (r : Reg) (idx : List Nat) (n : Nat) : (s.bump r idx n).mgrMissed = s.mgrMissed :=
  State.wr_mgrMissed ..
@[simp] theorem State.bump_tests (s : State) (r : Reg) (idx : List Nat) (n : Nat) : (s.bump r idx n).tests = s.tests :=
  State.wr_tests ..
@[simp] theorem State.bump_testFails (s : State) (r : Reg) (idx : List Nat) (n : Nat) : (s.bump r idx n).testFails = s.testFails :=
  State.wr_testFails ..
@[simp] theorem State.bump_dispatched (s : State) (r : Reg) (idx : List Nat) (n : Nat) : (s.bump r idx n).dispatched = s.dispatched :=
  State.wr_dispatched ..
@[simp] theorem State.bump_llsTest (s : State) (r : Reg) (idx : List Nat) (n : Nat) : (s.bump r idx n).llsTest = s.llsTest :=
  State.wr_llsTest ..
@[simp] theorem State.bump_testClock (s : State) (r : Reg) (idx : List Nat) (n : Nat) : (s.bump r idx n).testClock = s.testClock :=
  State.wr_testClock ..
@[simp] theorem State.bump_samples (s : State) (r : Reg) (idx : List Nat) (n : Nat) : (s.bump r idx n).samples = s.samples :=
  State.wr_samples ..
@[simp] theorem State.bump_cycleBase (s : State) (r : Reg) (idx : List Nat) (n : Nat) : (s.bump r idx n).cycleBase = s.cycleBase :=
  State.wr_cycleBase ..
@[simp] theorem State.bump_power (s : State) (r : Reg) (idx : List Nat) (n : Nat) : (s.bump r idx n).power = s.power :=
  State.wr_power ..
@[simp] theorem State.bump_resetting (s : State) (r : Reg) (idx : List Nat) (n : Nat) : (s.bump r idx n).resetting = s.resetting :=
  State.wr_resetting ..
@[simp] theorem State.bump_startDone (s : State) (r : Reg) (idx : List Nat) (n : Nat) : (s.bump r idx n).startDone = s.startDone :=
  State.wr_startDone ..
@[simp] theorem State.bump_perst (s : State) (r : Reg) (idx : List Nat) (n : Nat) : (s.bump r idx n).perst = s.perst :=
  State.wr_perst ..
@[simp] theorem State.bump_pwrGood (s : State) (r : Reg) (idx : List Nat) (n : Nat) : (s.bump r idx n).pwrGood = s.pwrGood :=
  State.wr_pwrGood ..
@[simp] theorem State.bump_thermtrip (s : State) (r : Reg) (idx : List Nat) (n : Nat) : (s.bump r idx n).thermtrip = s.thermtrip :=
  State.wr_thermtrip ..
@[simp] theorem State.bump_refclk (s : State) (r : Reg) (idx : List Nat) (n : Nat) : (s.bump r idx n).refclk = s.refclk :=
  State.wr_refclk ..
@[simp] theorem State.bump_duty (s : State) (r : Reg) (idx : List Nat) (n : Nat) : (s.bump r idx n).duty = s.duty :=
  State.wr_duty ..
@[simp] theorem State.bump_powerLog (s : State) (r : Reg) (idx : List Nat) (n : Nat) : (s.bump r idx n).powerLog = s.powerLog :=
  State.wr_powerLog ..
@[simp] theorem State.bump_drooped (s : State) (r : Reg) (idx : List Nat) (n : Nat) : (s.bump r idx n).drooped = s.drooped :=
  State.wr_drooped ..
@[simp] theorem State.bump_riskEvents (s : State) (r : Reg) (idx : List Nat) (n : Nat) : (s.bump r idx n).riskEvents = s.riskEvents :=
  State.wr_riskEvents ..
@[simp] theorem State.bump_attJumps (s : State) (r : Reg) (idx : List Nat) (n : Nat) : (s.bump r idx n).attJumps = s.attJumps :=
  State.wr_attJumps ..
@[simp] theorem State.bump_riskQuiet (s : State) (r : Reg) (idx : List Nat) (n : Nat) : (s.bump r idx n).riskQuiet = s.riskQuiet :=
  State.wr_riskQuiet ..
@[simp] theorem State.bump_critTicks (s : State) (r : Reg) (idx : List Nat) (n : Nat) : (s.bump r idx n).critTicks = s.critTicks :=
  State.wr_critTicks ..
@[simp] theorem State.bump_flashMap (s : State) (r : Reg) (idx : List Nat) (n : Nat) : (s.bump r idx n).flashMap = s.flashMap :=
  State.wr_flashMap ..
@[simp] theorem State.bump_areaA (s : State) (r : Reg) (idx : List Nat) (n : Nat) : (s.bump r idx n).areaA = s.areaA :=
  State.wr_areaA ..
@[simp] theorem State.bump_areaB (s : State) (r : Reg) (idx : List Nat) (n : Nat) : (s.bump r idx n).areaB = s.areaB :=
  State.wr_areaB ..
@[simp] theorem State.bump_active (s : State) (r : Reg) (idx : List Nat) (n : Nat) : (s.bump r idx n).active = s.active :=
  State.wr_active ..
@[simp] theorem State.bump_running (s : State) (r : Reg) (idx : List Nat) (n : Nat) : (s.bump r idx n).running = s.running :=
  State.wr_running ..
@[simp] theorem State.bump_recovery (s : State) (r : Reg) (idx : List Nat) (n : Nat) : (s.bump r idx n).recovery = s.recovery :=
  State.wr_recovery ..
@[simp] theorem State.bump_groupTable (s : State) (r : Reg) (idx : List Nat) (n : Nat) : (s.bump r idx n).groupTable = s.groupTable :=
  State.wr_groupTable ..
@[simp] theorem State.bump_copy (s : State) (r : Reg) (idx : List Nat) (n : Nat) : (s.bump r idx n).copy = s.copy :=
  State.wr_copy ..
@[simp] theorem State.bump_copyWas (s : State) (r : Reg) (idx : List Nat) (n : Nat) : (s.bump r idx n).copyWas = s.copyWas :=
  State.wr_copyWas ..
@[simp] theorem State.bump_copyDue (s : State) (r : Reg) (idx : List Nat) (n : Nat) : (s.bump r idx n).copyDue = s.copyDue :=
  State.wr_copyDue ..
@[simp] theorem State.bump_cursor (s : State) (r : Reg) (idx : List Nat) (n : Nat) : (s.bump r idx n).cursor = s.cursor :=
  State.wr_cursor ..
@[simp] theorem State.bump_signing (s : State) (r : Reg) (idx : List Nat) (n : Nat) : (s.bump r idx n).signing = s.signing :=
  State.wr_signing ..
@[simp] theorem State.bump_hold (s : State) (r : Reg) (idx : List Nat) (n : Nat) : (s.bump r idx n).hold = s.hold :=
  State.wr_hold ..
@[simp] theorem State.bump_newest (s : State) (r : Reg) (idx : List Nat) (n : Nat) : (s.bump r idx n).newest = s.newest :=
  State.wr_newest ..
@[simp] theorem State.bump_serve (s : State) (r : Reg) (idx : List Nat) (n : Nat) : (s.bump r idx n).serve = s.serve :=
  State.wr_serve ..
@[simp] theorem State.bump_restore (s : State) (r : Reg) (idx : List Nat) (n : Nat) : (s.bump r idx n).restore = s.restore :=
  State.wr_restore ..
@[simp] theorem State.bump_joins (s : State) (r : Reg) (idx : List Nat) (n : Nat) : (s.bump r idx n).joins = s.joins :=
  State.wr_joins ..
@[simp] theorem State.bump_cfg (s : State) (r : Reg) (idx : List Nat) (n : Nat) : (s.bump r idx n).cfg = s.cfg :=
  State.wr_cfg ..
@[simp] theorem State.bump_identityKey (s : State) (r : Reg) (idx : List Nat) (n : Nat) : (s.bump r idx n).identityKey = s.identityKey :=
  State.wr_identityKey ..
@[simp] theorem State.bump_eid (s : State) (r : Reg) (idx : List Nat) (n : Nat) : (s.bump r idx n).eid = s.eid :=
  State.wr_eid ..
@[simp] theorem State.bump_bwStart (s : State) (r : Reg) (idx : List Nat) (n : Nat) : (s.bump r idx n).bwStart = s.bwStart :=
  State.wr_bwStart ..
@[simp] theorem State.bump_bwWindow (s : State) (r : Reg) (idx : List Nat) (n : Nat) : (s.bump r idx n).bwWindow = s.bwWindow :=
  State.wr_bwWindow ..
@[simp] theorem State.bump_bwTotals (s : State) (r : Reg) (idx : List Nat) (n : Nat) : (s.bump r idx n).bwTotals = s.bwTotals :=
  State.wr_bwTotals ..
@[simp] theorem State.bump_bwLast (s : State) (r : Reg) (idx : List Nat) (n : Nat) : (s.bump r idx n).bwLast = s.bwLast :=
  State.wr_bwLast ..
@[simp] theorem State.bump_out (s : State) (r : Reg) (idx : List Nat) (n : Nat) : (s.bump r idx n).out = s.out :=
  State.wr_out ..
@[simp] theorem State.bump_free (s : State) (r : Reg) (idx : List Nat) (n : Nat) : (s.bump r idx n).free = s.free :=
  State.wr_free ..

/-! Something that leaves the module is appended to the output alone. -/

@[simp] theorem State.emit_pending (s : State) (x : Out) : (s.emit x).pending = s.pending := rfl
@[simp] theorem State.emit_regs (s : State) (x : Out) : (s.emit x).regs = s.regs := rfl
@[simp] theorem State.emit_heldWords (s : State) (x : Out) : (s.emit x).heldWords = s.heldWords := rfl
@[simp] theorem State.emit_mem (s : State) (x : Out) : (s.emit x).mem = s.mem := rfl
@[simp] theorem State.emit_ue (s : State) (x : Out) : (s.emit x).ue = s.ue := rfl
@[simp] theorem State.emit_ce (s : State) (x : Out) : (s.emit x).ce = s.ce := rfl
@[simp] theorem State.emit_patrol (s : State) (x : Out) : (s.emit x).patrol = s.patrol := rfl
@[simp] theorem State.emit_heldWrites (s : State) (x : Out) : (s.emit x).heldWrites = s.heldWrites := rfl
@[simp] theorem State.emit_dShare (s : State) (x : Out) : (s.emit x).dShare = s.dShare := rfl
@[simp] theorem State.emit_cShare (s : State) (x : Out) : (s.emit x).cShare = s.cShare := rfl
@[simp] theorem State.emit_partitions (s : State) (x : Out) : (s.emit x).partitions = s.partitions := rfl
@[simp] theorem State.emit_arbiters (s : State) (x : Out) : (s.emit x).arbiters = s.arbiters := rfl
@[simp] theorem State.emit_tokens (s : State) (x : Out) : (s.emit x).tokens = s.tokens := rfl
@[simp] theorem State.emit_tokFaulted (s : State) (x : Out) : (s.emit x).tokFaulted = s.tokFaulted := rfl
@[simp] theorem State.emit_tokBase (s : State) (x : Out) : (s.emit x).tokBase = s.tokBase := rfl
@[simp] theorem State.emit_nextId (s : State) (x : Out) : (s.emit x).nextId = s.nextId := rfl
@[simp] theorem State.emit_flight (s : State) (x : Out) : (s.emit x).flight = s.flight := rfl
@[simp] theorem State.emit_fetchHold (s : State) (x : Out) : (s.emit x).fetchHold = s.fetchHold := rfl
@[simp] theorem State.emit_fetchBuf (s : State) (x : Out) : (s.emit x).fetchBuf = s.fetchBuf := rfl
@[simp] theorem State.emit_hostReads (s : State) (x : Out) : (s.emit x).hostReads = s.hostReads := rfl
@[simp] theorem State.emit_descs (s : State) (x : Out) : (s.emit x).descs = s.descs := rfl
@[simp] theorem State.emit_retries (s : State) (x : Out) : (s.emit x).retries = s.retries := rfl
@[simp] theorem State.emit_heldReads (s : State) (x : Out) : (s.emit x).heldReads = s.heldReads := rfl
@[simp] theorem State.emit_step (s : State) (x : Out) : (s.emit x).step = s.step := rfl
@[simp] theorem State.emit_commit (s : State) (x : Out) : (s.emit x).commit = s.commit := rfl
@[simp] theorem State.emit_groups (s : State) (x : Out) : (s.emit x).groups = s.groups := rfl
@[simp] theorem State.emit_slots (s : State) (x : Out) : (s.emit x).slots = s.slots := rfl
@[simp] theorem State.emit_reef (s : State) (x : Out) : (s.emit x).reef = s.reef := rfl
@[simp] theorem State.emit_rewrites (s : State) (x : Out) : (s.emit x).rewrites = s.rewrites := rfl
@[simp] theorem State.emit_rewritesDue (s : State) (x : Out) : (s.emit x).rewritesDue = s.rewritesDue := rfl
@[simp] theorem State.emit_rewriteStream (s : State) (x : Out) : (s.emit x).rewriteStream = s.rewriteStream := rfl
@[simp] theorem State.emit_ilog (s : State) (x : Out) : (s.emit x).ilog = s.ilog := rfl
@[simp] theorem State.emit_aoNow (s : State) (x : Out) : (s.emit x).aoNow = s.aoNow := rfl
@[simp] theorem State.emit_pcieUp (s : State) (x : Out) : (s.emit x).pcieUp = s.pcieUp := rfl
@[simp] theorem State.emit_heldOut (s : State) (x : Out) : (s.emit x).heldOut = s.heldOut := rfl
@[simp] theorem State.emit_lateRecords (s : State) (x : Out) : (s.emit x).lateRecords = s.lateRecords := rfl
@[simp] theorem State.emit_key (s : State) (x : Out) : (s.emit x).key = s.key := rfl
@[simp] theorem State.emit_reports (s : State) (x : Out) : (s.emit x).reports = s.reports := rfl
@[simp] theorem State.emit_reportSeq (s : State) (x : Out) : (s.emit x).reportSeq = s.reportSeq := rfl
@[simp] theorem State.emit_attLog (s : State) (x : Out) : (s.emit x).attLog = s.attLog := rfl
@[simp] theorem State.emit_ports (s : State) (x : Out) : (s.emit x).ports = s.ports := rfl
@[simp] theorem State.emit_delivered (s : State) (x : Out) : (s.emit x).delivered = s.delivered := rfl
@[simp] theorem State.emit_rankNodes (s : State) (x : Out) : (s.emit x).rankNodes = s.rankNodes := rfl
@[simp] theorem State.emit_colls (s : State) (x : Out) : (s.emit x).colls = s.colls := rfl
@[simp] theorem State.emit_endedColls (s : State) (x : Out) : (s.emit x).endedColls = s.endedColls := rfl
@[simp] theorem State.emit_reserved (s : State) (x : Out) : (s.emit x).reserved = s.reserved := rfl
@[simp] theorem State.emit_heldMsgs (s : State) (x : Out) : (s.emit x).heldMsgs = s.heldMsgs := rfl
@[simp] theorem State.emit_prep (s : State) (x : Out) : (s.emit x).prep = s.prep := rfl
@[simp] theorem State.emit_top (s : State) (x : Out) : (s.emit x).top = s.top := rfl
@[simp] theorem State.emit_lastEpoch (s : State) (x : Out) : (s.emit x).lastEpoch = s.lastEpoch := rfl
@[simp] theorem State.emit_sysMembers (s : State) (x : Out) : (s.emit x).sysMembers = s.sysMembers := rfl
@[simp] theorem State.emit_chunkRule (s : State) (x : Out) : (s.emit x).chunkRule = s.chunkRule := rfl
@[simp] theorem State.emit_memberIds (s : State) (x : Out) : (s.emit x).memberIds = s.memberIds := rfl
@[simp] theorem State.emit_memberHealth (s : State) (x : Out) : (s.emit x).memberHealth = s.memberHealth := rfl
@[simp] theorem State.emit_verdicts (s : State) (x : Out) : (s.emit x).verdicts = s.verdicts := rfl
@[simp] theorem State.emit_heard (s : State) (x : Out) : (s.emit x).heard = s.heard := rfl
@[simp] theorem State.emit_mgrHeard (s : State) (x : Out) : (s.emit x).mgrHeard = s.mgrHeard := rfl
@[simp] theorem State.emit_mgrMissed (s : State) (x : Out) : (s.emit x).mgrMissed = s.mgrMissed := rfl
@[simp] theorem State.emit_tests (s : State) (x : Out) : (s.emit x).tests = s.tests := rfl
@[simp] theorem State.emit_testFails (s : State) (x : Out) : (s.emit x).testFails = s.testFails := rfl
@[simp] theorem State.emit_dispatched (s : State) (x : Out) : (s.emit x).dispatched = s.dispatched := rfl
@[simp] theorem State.emit_llsTest (s : State) (x : Out) : (s.emit x).llsTest = s.llsTest := rfl
@[simp] theorem State.emit_testClock (s : State) (x : Out) : (s.emit x).testClock = s.testClock := rfl
@[simp] theorem State.emit_samples (s : State) (x : Out) : (s.emit x).samples = s.samples := rfl
@[simp] theorem State.emit_cycleBase (s : State) (x : Out) : (s.emit x).cycleBase = s.cycleBase := rfl
@[simp] theorem State.emit_power (s : State) (x : Out) : (s.emit x).power = s.power := rfl
@[simp] theorem State.emit_resetting (s : State) (x : Out) : (s.emit x).resetting = s.resetting := rfl
@[simp] theorem State.emit_startDone (s : State) (x : Out) : (s.emit x).startDone = s.startDone := rfl
@[simp] theorem State.emit_perst (s : State) (x : Out) : (s.emit x).perst = s.perst := rfl
@[simp] theorem State.emit_pwrGood (s : State) (x : Out) : (s.emit x).pwrGood = s.pwrGood := rfl
@[simp] theorem State.emit_thermtrip (s : State) (x : Out) : (s.emit x).thermtrip = s.thermtrip := rfl
@[simp] theorem State.emit_refclk (s : State) (x : Out) : (s.emit x).refclk = s.refclk := rfl
@[simp] theorem State.emit_duty (s : State) (x : Out) : (s.emit x).duty = s.duty := rfl
@[simp] theorem State.emit_powerLog (s : State) (x : Out) : (s.emit x).powerLog = s.powerLog := rfl
@[simp] theorem State.emit_drooped (s : State) (x : Out) : (s.emit x).drooped = s.drooped := rfl
@[simp] theorem State.emit_riskEvents (s : State) (x : Out) : (s.emit x).riskEvents = s.riskEvents := rfl
@[simp] theorem State.emit_attJumps (s : State) (x : Out) : (s.emit x).attJumps = s.attJumps := rfl
@[simp] theorem State.emit_riskQuiet (s : State) (x : Out) : (s.emit x).riskQuiet = s.riskQuiet := rfl
@[simp] theorem State.emit_critTicks (s : State) (x : Out) : (s.emit x).critTicks = s.critTicks := rfl
@[simp] theorem State.emit_flashMap (s : State) (x : Out) : (s.emit x).flashMap = s.flashMap := rfl
@[simp] theorem State.emit_areaA (s : State) (x : Out) : (s.emit x).areaA = s.areaA := rfl
@[simp] theorem State.emit_areaB (s : State) (x : Out) : (s.emit x).areaB = s.areaB := rfl
@[simp] theorem State.emit_active (s : State) (x : Out) : (s.emit x).active = s.active := rfl
@[simp] theorem State.emit_running (s : State) (x : Out) : (s.emit x).running = s.running := rfl
@[simp] theorem State.emit_recovery (s : State) (x : Out) : (s.emit x).recovery = s.recovery := rfl
@[simp] theorem State.emit_groupTable (s : State) (x : Out) : (s.emit x).groupTable = s.groupTable := rfl
@[simp] theorem State.emit_copy (s : State) (x : Out) : (s.emit x).copy = s.copy := rfl
@[simp] theorem State.emit_copyWas (s : State) (x : Out) : (s.emit x).copyWas = s.copyWas := rfl
@[simp] theorem State.emit_copyDue (s : State) (x : Out) : (s.emit x).copyDue = s.copyDue := rfl
@[simp] theorem State.emit_cursor (s : State) (x : Out) : (s.emit x).cursor = s.cursor := rfl
@[simp] theorem State.emit_signing (s : State) (x : Out) : (s.emit x).signing = s.signing := rfl
@[simp] theorem State.emit_hold (s : State) (x : Out) : (s.emit x).hold = s.hold := rfl
@[simp] theorem State.emit_newest (s : State) (x : Out) : (s.emit x).newest = s.newest := rfl
@[simp] theorem State.emit_serve (s : State) (x : Out) : (s.emit x).serve = s.serve := rfl
@[simp] theorem State.emit_restore (s : State) (x : Out) : (s.emit x).restore = s.restore := rfl
@[simp] theorem State.emit_joins (s : State) (x : Out) : (s.emit x).joins = s.joins := rfl
@[simp] theorem State.emit_cfg (s : State) (x : Out) : (s.emit x).cfg = s.cfg := rfl
@[simp] theorem State.emit_identityKey (s : State) (x : Out) : (s.emit x).identityKey = s.identityKey := rfl
@[simp] theorem State.emit_eid (s : State) (x : Out) : (s.emit x).eid = s.eid := rfl
@[simp] theorem State.emit_bwStart (s : State) (x : Out) : (s.emit x).bwStart = s.bwStart := rfl
@[simp] theorem State.emit_bwWindow (s : State) (x : Out) : (s.emit x).bwWindow = s.bwWindow := rfl
@[simp] theorem State.emit_bwTotals (s : State) (x : Out) : (s.emit x).bwTotals = s.bwTotals := rfl
@[simp] theorem State.emit_bwLast (s : State) (x : Out) : (s.emit x).bwLast = s.bwLast := rfl
@[simp] theorem State.emit_free (s : State) (x : Out) : (s.emit x).free = s.free := rfl
@[simp] theorem State.emit_out (s : State) (x : Out) : (s.emit x).out = s.out ++ [x] := rfl

/-! Tokens. -/

@[simp] theorem State.raiseToken_pending (s : State) (t n : Nat) : (s.raiseToken t n).pending = s.pending := rfl
@[simp] theorem State.setFaulted_pending (s : State) (t : Nat) (b : Bool) : (s.setFaulted t b).pending = s.pending := rfl
@[simp] theorem State.raiseToken_regs (s : State) (t n : Nat) : (s.raiseToken t n).regs = s.regs := rfl
@[simp] theorem State.setFaulted_regs (s : State) (t : Nat) (b : Bool) : (s.setFaulted t b).regs = s.regs := rfl
@[simp] theorem State.raiseToken_heldWords (s : State) (t n : Nat) : (s.raiseToken t n).heldWords = s.heldWords := rfl
@[simp] theorem State.setFaulted_heldWords (s : State) (t : Nat) (b : Bool) : (s.setFaulted t b).heldWords = s.heldWords := rfl
@[simp] theorem State.raiseToken_mem (s : State) (t n : Nat) : (s.raiseToken t n).mem = s.mem := rfl
@[simp] theorem State.setFaulted_mem (s : State) (t : Nat) (b : Bool) : (s.setFaulted t b).mem = s.mem := rfl
@[simp] theorem State.raiseToken_ue (s : State) (t n : Nat) : (s.raiseToken t n).ue = s.ue := rfl
@[simp] theorem State.raiseToken_ce (s : State) (t n : Nat) : (s.raiseToken t n).ce = s.ce := rfl
@[simp] theorem State.raiseToken_patrol (s : State) (t n : Nat) : (s.raiseToken t n).patrol = s.patrol := rfl
@[simp] theorem State.raiseToken_heldWrites (s : State) (t n : Nat) : (s.raiseToken t n).heldWrites = s.heldWrites := rfl
@[simp] theorem State.setFaulted_ue (s : State) (t : Nat) (b : Bool) : (s.setFaulted t b).ue = s.ue := rfl
@[simp] theorem State.setFaulted_ce (s : State) (t : Nat) (b : Bool) : (s.setFaulted t b).ce = s.ce := rfl
@[simp] theorem State.setFaulted_patrol (s : State) (t : Nat) (b : Bool) : (s.setFaulted t b).patrol = s.patrol := rfl
@[simp] theorem State.setFaulted_heldWrites (s : State) (t : Nat) (b : Bool) : (s.setFaulted t b).heldWrites = s.heldWrites := rfl
@[simp] theorem State.raiseToken_dShare (s : State) (t n : Nat) : (s.raiseToken t n).dShare = s.dShare := rfl
@[simp] theorem State.setFaulted_dShare (s : State) (t : Nat) (b : Bool) : (s.setFaulted t b).dShare = s.dShare := rfl
@[simp] theorem State.raiseToken_cShare (s : State) (t n : Nat) : (s.raiseToken t n).cShare = s.cShare := rfl
@[simp] theorem State.setFaulted_cShare (s : State) (t : Nat) (b : Bool) : (s.setFaulted t b).cShare = s.cShare := rfl
@[simp] theorem State.raiseToken_partitions (s : State) (t n : Nat) : (s.raiseToken t n).partitions = s.partitions := rfl
@[simp] theorem State.setFaulted_partitions (s : State) (t : Nat) (b : Bool) : (s.setFaulted t b).partitions = s.partitions := rfl
@[simp] theorem State.raiseToken_arbiters (s : State) (t n : Nat) : (s.raiseToken t n).arbiters = s.arbiters := rfl
@[simp] theorem State.setFaulted_arbiters (s : State) (t : Nat) (b : Bool) : (s.setFaulted t b).arbiters = s.arbiters := rfl
@[simp] theorem State.setFaulted_tokens (s : State) (t : Nat) (b : Bool) : (s.setFaulted t b).tokens = s.tokens := rfl
@[simp] theorem State.raiseToken_tokFaulted (s : State) (t n : Nat) : (s.raiseToken t n).tokFaulted = s.tokFaulted := rfl
@[simp] theorem State.raiseToken_tokBase (s : State) (t n : Nat) : (s.raiseToken t n).tokBase = s.tokBase := rfl
@[simp] theorem State.setFaulted_tokBase (s : State) (t : Nat) (b : Bool) : (s.setFaulted t b).tokBase = s.tokBase := rfl
@[simp] theorem State.raiseToken_nextId (s : State) (t n : Nat) : (s.raiseToken t n).nextId = s.nextId := rfl
@[simp] theorem State.setFaulted_nextId (s : State) (t : Nat) (b : Bool) : (s.setFaulted t b).nextId = s.nextId := rfl
@[simp] theorem State.raiseToken_flight (s : State) (t n : Nat) : (s.raiseToken t n).flight = s.flight := rfl
@[simp] theorem State.setFaulted_flight (s : State) (t : Nat) (b : Bool) : (s.setFaulted t b).flight = s.flight := rfl
@[simp] theorem State.raiseToken_fetchHold (s : State) (t n : Nat) : (s.raiseToken t n).fetchHold = s.fetchHold := rfl
@[simp] theorem State.setFaulted_fetchHold (s : State) (t : Nat) (b : Bool) : (s.setFaulted t b).fetchHold = s.fetchHold := rfl
@[simp] theorem State.raiseToken_fetchBuf (s : State) (t n : Nat) : (s.raiseToken t n).fetchBuf = s.fetchBuf := rfl
@[simp] theorem State.setFaulted_fetchBuf (s : State) (t : Nat) (b : Bool) : (s.setFaulted t b).fetchBuf = s.fetchBuf := rfl
@[simp] theorem State.raiseToken_hostReads (s : State) (t n : Nat) : (s.raiseToken t n).hostReads = s.hostReads := rfl
@[simp] theorem State.setFaulted_hostReads (s : State) (t : Nat) (b : Bool) : (s.setFaulted t b).hostReads = s.hostReads := rfl
@[simp] theorem State.raiseToken_descs (s : State) (t n : Nat) : (s.raiseToken t n).descs = s.descs := rfl
@[simp] theorem State.setFaulted_descs (s : State) (t : Nat) (b : Bool) : (s.setFaulted t b).descs = s.descs := rfl
@[simp] theorem State.raiseToken_retries (s : State) (t n : Nat) : (s.raiseToken t n).retries = s.retries := rfl
@[simp] theorem State.setFaulted_retries (s : State) (t : Nat) (b : Bool) : (s.setFaulted t b).retries = s.retries := rfl
@[simp] theorem State.raiseToken_heldReads (s : State) (t n : Nat) : (s.raiseToken t n).heldReads = s.heldReads := rfl
@[simp] theorem State.setFaulted_heldReads (s : State) (t : Nat) (b : Bool) : (s.setFaulted t b).heldReads = s.heldReads := rfl
@[simp] theorem State.raiseToken_step (s : State) (t n : Nat) : (s.raiseToken t n).step = s.step := rfl
@[simp] theorem State.setFaulted_step (s : State) (t : Nat) (b : Bool) : (s.setFaulted t b).step = s.step := rfl
@[simp] theorem State.raiseToken_commit (s : State) (t n : Nat) : (s.raiseToken t n).commit = s.commit := rfl
@[simp] theorem State.setFaulted_commit (s : State) (t : Nat) (b : Bool) : (s.setFaulted t b).commit = s.commit := rfl
@[simp] theorem State.raiseToken_groups (s : State) (t n : Nat) : (s.raiseToken t n).groups = s.groups := rfl
@[simp] theorem State.setFaulted_groups (s : State) (t : Nat) (b : Bool) : (s.setFaulted t b).groups = s.groups := rfl
@[simp] theorem State.raiseToken_slots (s : State) (t n : Nat) : (s.raiseToken t n).slots = s.slots := rfl
@[simp] theorem State.setFaulted_slots (s : State) (t : Nat) (b : Bool) : (s.setFaulted t b).slots = s.slots := rfl
@[simp] theorem State.raiseToken_reef (s : State) (t n : Nat) : (s.raiseToken t n).reef = s.reef := rfl
@[simp] theorem State.setFaulted_reef (s : State) (t : Nat) (b : Bool) : (s.setFaulted t b).reef = s.reef := rfl
@[simp] theorem State.raiseToken_rewrites (s : State) (t n : Nat) : (s.raiseToken t n).rewrites = s.rewrites := rfl
@[simp] theorem State.setFaulted_rewrites (s : State) (t : Nat) (b : Bool) : (s.setFaulted t b).rewrites = s.rewrites := rfl
@[simp] theorem State.raiseToken_rewritesDue (s : State) (t n : Nat) : (s.raiseToken t n).rewritesDue = s.rewritesDue := rfl
@[simp] theorem State.raiseToken_rewriteStream (s : State) (t n : Nat) : (s.raiseToken t n).rewriteStream = s.rewriteStream := rfl
@[simp] theorem State.setFaulted_rewritesDue (s : State) (t : Nat) (b : Bool) : (s.setFaulted t b).rewritesDue = s.rewritesDue := rfl
@[simp] theorem State.setFaulted_rewriteStream (s : State) (t : Nat) (b : Bool) : (s.setFaulted t b).rewriteStream = s.rewriteStream := rfl
@[simp] theorem State.raiseToken_ilog (s : State) (t n : Nat) : (s.raiseToken t n).ilog = s.ilog := rfl
@[simp] theorem State.setFaulted_ilog (s : State) (t : Nat) (b : Bool) : (s.setFaulted t b).ilog = s.ilog := rfl
@[simp] theorem State.raiseToken_aoNow (s : State) (t n : Nat) : (s.raiseToken t n).aoNow = s.aoNow := rfl
@[simp] theorem State.setFaulted_aoNow (s : State) (t : Nat) (b : Bool) : (s.setFaulted t b).aoNow = s.aoNow := rfl
@[simp] theorem State.raiseToken_pcieUp (s : State) (t n : Nat) : (s.raiseToken t n).pcieUp = s.pcieUp := rfl
@[simp] theorem State.setFaulted_pcieUp (s : State) (t : Nat) (b : Bool) : (s.setFaulted t b).pcieUp = s.pcieUp := rfl
@[simp] theorem State.raiseToken_heldOut (s : State) (t n : Nat) : (s.raiseToken t n).heldOut = s.heldOut := rfl
@[simp] theorem State.raiseToken_lateRecords (s : State) (t n : Nat) : (s.raiseToken t n).lateRecords = s.lateRecords := rfl
@[simp] theorem State.setFaulted_heldOut (s : State) (t : Nat) (b : Bool) : (s.setFaulted t b).heldOut = s.heldOut := rfl
@[simp] theorem State.setFaulted_lateRecords (s : State) (t : Nat) (b : Bool) : (s.setFaulted t b).lateRecords = s.lateRecords := rfl
@[simp] theorem State.raiseToken_key (s : State) (t n : Nat) : (s.raiseToken t n).key = s.key := rfl
@[simp] theorem State.setFaulted_key (s : State) (t : Nat) (b : Bool) : (s.setFaulted t b).key = s.key := rfl
@[simp] theorem State.raiseToken_reports (s : State) (t n : Nat) : (s.raiseToken t n).reports = s.reports := rfl
@[simp] theorem State.setFaulted_reports (s : State) (t : Nat) (b : Bool) : (s.setFaulted t b).reports = s.reports := rfl
@[simp] theorem State.raiseToken_reportSeq (s : State) (t n : Nat) : (s.raiseToken t n).reportSeq = s.reportSeq := rfl
@[simp] theorem State.setFaulted_reportSeq (s : State) (t : Nat) (b : Bool) : (s.setFaulted t b).reportSeq = s.reportSeq := rfl
@[simp] theorem State.raiseToken_attLog (s : State) (t n : Nat) : (s.raiseToken t n).attLog = s.attLog := rfl
@[simp] theorem State.setFaulted_attLog (s : State) (t : Nat) (b : Bool) : (s.setFaulted t b).attLog = s.attLog := rfl
@[simp] theorem State.raiseToken_ports (s : State) (t n : Nat) : (s.raiseToken t n).ports = s.ports := rfl
@[simp] theorem State.setFaulted_ports (s : State) (t : Nat) (b : Bool) : (s.setFaulted t b).ports = s.ports := rfl
@[simp] theorem State.raiseToken_delivered (s : State) (t n : Nat) : (s.raiseToken t n).delivered = s.delivered := rfl
@[simp] theorem State.setFaulted_delivered (s : State) (t : Nat) (b : Bool) : (s.setFaulted t b).delivered = s.delivered := rfl
@[simp] theorem State.raiseToken_rankNodes (s : State) (t n : Nat) : (s.raiseToken t n).rankNodes = s.rankNodes := rfl
@[simp] theorem State.setFaulted_rankNodes (s : State) (t : Nat) (b : Bool) : (s.setFaulted t b).rankNodes = s.rankNodes := rfl
@[simp] theorem State.raiseToken_colls (s : State) (t n : Nat) : (s.raiseToken t n).colls = s.colls := rfl
@[simp] theorem State.setFaulted_colls (s : State) (t : Nat) (b : Bool) : (s.setFaulted t b).colls = s.colls := rfl
@[simp] theorem State.raiseToken_endedColls (s : State) (t n : Nat) : (s.raiseToken t n).endedColls = s.endedColls := rfl
@[simp] theorem State.setFaulted_endedColls (s : State) (t : Nat) (b : Bool) : (s.setFaulted t b).endedColls = s.endedColls := rfl
@[simp] theorem State.raiseToken_reserved (s : State) (t n : Nat) : (s.raiseToken t n).reserved = s.reserved := rfl
@[simp] theorem State.setFaulted_reserved (s : State) (t : Nat) (b : Bool) : (s.setFaulted t b).reserved = s.reserved := rfl
@[simp] theorem State.raiseToken_heldMsgs (s : State) (t n : Nat) : (s.raiseToken t n).heldMsgs = s.heldMsgs := rfl
@[simp] theorem State.setFaulted_heldMsgs (s : State) (t : Nat) (b : Bool) : (s.setFaulted t b).heldMsgs = s.heldMsgs := rfl
@[simp] theorem State.raiseToken_prep (s : State) (t n : Nat) : (s.raiseToken t n).prep = s.prep := rfl
@[simp] theorem State.setFaulted_prep (s : State) (t : Nat) (b : Bool) : (s.setFaulted t b).prep = s.prep := rfl
@[simp] theorem State.raiseToken_top (s : State) (t n : Nat) : (s.raiseToken t n).top = s.top := rfl
@[simp] theorem State.setFaulted_top (s : State) (t : Nat) (b : Bool) : (s.setFaulted t b).top = s.top := rfl
@[simp] theorem State.raiseToken_lastEpoch (s : State) (t n : Nat) : (s.raiseToken t n).lastEpoch = s.lastEpoch := rfl
@[simp] theorem State.setFaulted_lastEpoch (s : State) (t : Nat) (b : Bool) : (s.setFaulted t b).lastEpoch = s.lastEpoch := rfl
@[simp] theorem State.raiseToken_sysMembers (s : State) (t n : Nat) : (s.raiseToken t n).sysMembers = s.sysMembers := rfl
@[simp] theorem State.setFaulted_sysMembers (s : State) (t : Nat) (b : Bool) : (s.setFaulted t b).sysMembers = s.sysMembers := rfl
@[simp] theorem State.raiseToken_chunkRule (s : State) (t n : Nat) : (s.raiseToken t n).chunkRule = s.chunkRule := rfl
@[simp] theorem State.setFaulted_chunkRule (s : State) (t : Nat) (b : Bool) : (s.setFaulted t b).chunkRule = s.chunkRule := rfl
@[simp] theorem State.raiseToken_memberIds (s : State) (t n : Nat) : (s.raiseToken t n).memberIds = s.memberIds := rfl
@[simp] theorem State.setFaulted_memberIds (s : State) (t : Nat) (b : Bool) : (s.setFaulted t b).memberIds = s.memberIds := rfl
@[simp] theorem State.raiseToken_memberHealth (s : State) (t n : Nat) : (s.raiseToken t n).memberHealth = s.memberHealth := rfl
@[simp] theorem State.setFaulted_memberHealth (s : State) (t : Nat) (b : Bool) : (s.setFaulted t b).memberHealth = s.memberHealth := rfl
@[simp] theorem State.raiseToken_verdicts (s : State) (t n : Nat) : (s.raiseToken t n).verdicts = s.verdicts := rfl
@[simp] theorem State.setFaulted_verdicts (s : State) (t : Nat) (b : Bool) : (s.setFaulted t b).verdicts = s.verdicts := rfl
@[simp] theorem State.raiseToken_heard (s : State) (t n : Nat) : (s.raiseToken t n).heard = s.heard := rfl
@[simp] theorem State.setFaulted_heard (s : State) (t : Nat) (b : Bool) : (s.setFaulted t b).heard = s.heard := rfl
@[simp] theorem State.raiseToken_mgrHeard (s : State) (t n : Nat) : (s.raiseToken t n).mgrHeard = s.mgrHeard := rfl
@[simp] theorem State.setFaulted_mgrHeard (s : State) (t : Nat) (b : Bool) : (s.setFaulted t b).mgrHeard = s.mgrHeard := rfl
@[simp] theorem State.raiseToken_mgrMissed (s : State) (t n : Nat) : (s.raiseToken t n).mgrMissed = s.mgrMissed := rfl
@[simp] theorem State.setFaulted_mgrMissed (s : State) (t : Nat) (b : Bool) : (s.setFaulted t b).mgrMissed = s.mgrMissed := rfl
@[simp] theorem State.raiseToken_tests (s : State) (t n : Nat) : (s.raiseToken t n).tests = s.tests := rfl
@[simp] theorem State.setFaulted_tests (s : State) (t : Nat) (b : Bool) : (s.setFaulted t b).tests = s.tests := rfl
@[simp] theorem State.raiseToken_testFails (s : State) (t n : Nat) : (s.raiseToken t n).testFails = s.testFails := rfl
@[simp] theorem State.setFaulted_testFails (s : State) (t : Nat) (b : Bool) : (s.setFaulted t b).testFails = s.testFails := rfl
@[simp] theorem State.raiseToken_dispatched (s : State) (t n : Nat) : (s.raiseToken t n).dispatched = s.dispatched := rfl
@[simp] theorem State.setFaulted_dispatched (s : State) (t : Nat) (b : Bool) : (s.setFaulted t b).dispatched = s.dispatched := rfl
@[simp] theorem State.raiseToken_llsTest (s : State) (t n : Nat) : (s.raiseToken t n).llsTest = s.llsTest := rfl
@[simp] theorem State.raiseToken_testClock (s : State) (t n : Nat) : (s.raiseToken t n).testClock = s.testClock := rfl
@[simp] theorem State.setFaulted_llsTest (s : State) (t : Nat) (b : Bool) : (s.setFaulted t b).llsTest = s.llsTest := rfl
@[simp] theorem State.setFaulted_testClock (s : State) (t : Nat) (b : Bool) : (s.setFaulted t b).testClock = s.testClock := rfl
@[simp] theorem State.raiseToken_samples (s : State) (t n : Nat) : (s.raiseToken t n).samples = s.samples := rfl
@[simp] theorem State.setFaulted_samples (s : State) (t : Nat) (b : Bool) : (s.setFaulted t b).samples = s.samples := rfl
@[simp] theorem State.raiseToken_cycleBase (s : State) (t n : Nat) : (s.raiseToken t n).cycleBase = s.cycleBase := rfl
@[simp] theorem State.setFaulted_cycleBase (s : State) (t : Nat) (b : Bool) : (s.setFaulted t b).cycleBase = s.cycleBase := rfl
@[simp] theorem State.raiseToken_power (s : State) (t n : Nat) : (s.raiseToken t n).power = s.power := rfl
@[simp] theorem State.setFaulted_power (s : State) (t : Nat) (b : Bool) : (s.setFaulted t b).power = s.power := rfl
@[simp] theorem State.raiseToken_resetting (s : State) (t n : Nat) : (s.raiseToken t n).resetting = s.resetting := rfl
@[simp] theorem State.setFaulted_resetting (s : State) (t : Nat) (b : Bool) : (s.setFaulted t b).resetting = s.resetting := rfl
@[simp] theorem State.raiseToken_startDone (s : State) (t n : Nat) : (s.raiseToken t n).startDone = s.startDone := rfl
@[simp] theorem State.setFaulted_startDone (s : State) (t : Nat) (b : Bool) : (s.setFaulted t b).startDone = s.startDone := rfl
@[simp] theorem State.raiseToken_perst (s : State) (t n : Nat) : (s.raiseToken t n).perst = s.perst := rfl
@[simp] theorem State.setFaulted_perst (s : State) (t : Nat) (b : Bool) : (s.setFaulted t b).perst = s.perst := rfl
@[simp] theorem State.raiseToken_pwrGood (s : State) (t n : Nat) : (s.raiseToken t n).pwrGood = s.pwrGood := rfl
@[simp] theorem State.setFaulted_pwrGood (s : State) (t : Nat) (b : Bool) : (s.setFaulted t b).pwrGood = s.pwrGood := rfl
@[simp] theorem State.raiseToken_thermtrip (s : State) (t n : Nat) : (s.raiseToken t n).thermtrip = s.thermtrip := rfl
@[simp] theorem State.setFaulted_thermtrip (s : State) (t : Nat) (b : Bool) : (s.setFaulted t b).thermtrip = s.thermtrip := rfl
@[simp] theorem State.raiseToken_refclk (s : State) (t n : Nat) : (s.raiseToken t n).refclk = s.refclk := rfl
@[simp] theorem State.setFaulted_refclk (s : State) (t : Nat) (b : Bool) : (s.setFaulted t b).refclk = s.refclk := rfl
@[simp] theorem State.raiseToken_duty (s : State) (t n : Nat) : (s.raiseToken t n).duty = s.duty := rfl
@[simp] theorem State.setFaulted_duty (s : State) (t : Nat) (b : Bool) : (s.setFaulted t b).duty = s.duty := rfl
@[simp] theorem State.raiseToken_powerLog (s : State) (t n : Nat) : (s.raiseToken t n).powerLog = s.powerLog := rfl
@[simp] theorem State.setFaulted_powerLog (s : State) (t : Nat) (b : Bool) : (s.setFaulted t b).powerLog = s.powerLog := rfl
@[simp] theorem State.raiseToken_drooped (s : State) (t n : Nat) : (s.raiseToken t n).drooped = s.drooped := rfl
@[simp] theorem State.setFaulted_drooped (s : State) (t : Nat) (b : Bool) : (s.setFaulted t b).drooped = s.drooped := rfl
@[simp] theorem State.raiseToken_riskEvents (s : State) (t n : Nat) : (s.raiseToken t n).riskEvents = s.riskEvents := rfl
@[simp] theorem State.setFaulted_riskEvents (s : State) (t : Nat) (b : Bool) : (s.setFaulted t b).riskEvents = s.riskEvents := rfl
@[simp] theorem State.raiseToken_attJumps (s : State) (t n : Nat) : (s.raiseToken t n).attJumps = s.attJumps := rfl
@[simp] theorem State.setFaulted_attJumps (s : State) (t : Nat) (b : Bool) : (s.setFaulted t b).attJumps = s.attJumps := rfl
@[simp] theorem State.raiseToken_riskQuiet (s : State) (t n : Nat) : (s.raiseToken t n).riskQuiet = s.riskQuiet := rfl
@[simp] theorem State.setFaulted_riskQuiet (s : State) (t : Nat) (b : Bool) : (s.setFaulted t b).riskQuiet = s.riskQuiet := rfl
@[simp] theorem State.raiseToken_critTicks (s : State) (t n : Nat) : (s.raiseToken t n).critTicks = s.critTicks := rfl
@[simp] theorem State.setFaulted_critTicks (s : State) (t : Nat) (b : Bool) : (s.setFaulted t b).critTicks = s.critTicks := rfl
@[simp] theorem State.raiseToken_flashMap (s : State) (t n : Nat) : (s.raiseToken t n).flashMap = s.flashMap := rfl
@[simp] theorem State.setFaulted_flashMap (s : State) (t : Nat) (b : Bool) : (s.setFaulted t b).flashMap = s.flashMap := rfl
@[simp] theorem State.raiseToken_areaA (s : State) (t n : Nat) : (s.raiseToken t n).areaA = s.areaA := rfl
@[simp] theorem State.setFaulted_areaA (s : State) (t : Nat) (b : Bool) : (s.setFaulted t b).areaA = s.areaA := rfl
@[simp] theorem State.raiseToken_areaB (s : State) (t n : Nat) : (s.raiseToken t n).areaB = s.areaB := rfl
@[simp] theorem State.setFaulted_areaB (s : State) (t : Nat) (b : Bool) : (s.setFaulted t b).areaB = s.areaB := rfl
@[simp] theorem State.raiseToken_active (s : State) (t n : Nat) : (s.raiseToken t n).active = s.active := rfl
@[simp] theorem State.setFaulted_active (s : State) (t : Nat) (b : Bool) : (s.setFaulted t b).active = s.active := rfl
@[simp] theorem State.raiseToken_running (s : State) (t n : Nat) : (s.raiseToken t n).running = s.running := rfl
@[simp] theorem State.setFaulted_running (s : State) (t : Nat) (b : Bool) : (s.setFaulted t b).running = s.running := rfl
@[simp] theorem State.raiseToken_recovery (s : State) (t n : Nat) : (s.raiseToken t n).recovery = s.recovery := rfl
@[simp] theorem State.setFaulted_recovery (s : State) (t : Nat) (b : Bool) : (s.setFaulted t b).recovery = s.recovery := rfl
@[simp] theorem State.raiseToken_groupTable (s : State) (t n : Nat) : (s.raiseToken t n).groupTable = s.groupTable := rfl
@[simp] theorem State.setFaulted_groupTable (s : State) (t : Nat) (b : Bool) : (s.setFaulted t b).groupTable = s.groupTable := rfl
@[simp] theorem State.raiseToken_copy (s : State) (t n : Nat) : (s.raiseToken t n).copy = s.copy := rfl
@[simp] theorem State.raiseToken_copyWas (s : State) (t n : Nat) : (s.raiseToken t n).copyWas = s.copyWas := rfl
@[simp] theorem State.setFaulted_copy (s : State) (t : Nat) (b : Bool) : (s.setFaulted t b).copy = s.copy := rfl
@[simp] theorem State.setFaulted_copyWas (s : State) (t : Nat) (b : Bool) : (s.setFaulted t b).copyWas = s.copyWas := rfl
@[simp] theorem State.raiseToken_copyDue (s : State) (t n : Nat) : (s.raiseToken t n).copyDue = s.copyDue := rfl
@[simp] theorem State.setFaulted_copyDue (s : State) (t : Nat) (b : Bool) : (s.setFaulted t b).copyDue = s.copyDue := rfl
@[simp] theorem State.raiseToken_cursor (s : State) (t n : Nat) : (s.raiseToken t n).cursor = s.cursor := rfl
@[simp] theorem State.setFaulted_cursor (s : State) (t : Nat) (b : Bool) : (s.setFaulted t b).cursor = s.cursor := rfl
@[simp] theorem State.raiseToken_signing (s : State) (t n : Nat) : (s.raiseToken t n).signing = s.signing := rfl
@[simp] theorem State.setFaulted_signing (s : State) (t : Nat) (b : Bool) : (s.setFaulted t b).signing = s.signing := rfl
@[simp] theorem State.raiseToken_hold (s : State) (t n : Nat) : (s.raiseToken t n).hold = s.hold := rfl
@[simp] theorem State.raiseToken_newest (s : State) (t n : Nat) : (s.raiseToken t n).newest = s.newest := rfl
@[simp] theorem State.setFaulted_hold (s : State) (t : Nat) (b : Bool) : (s.setFaulted t b).hold = s.hold := rfl
@[simp] theorem State.setFaulted_newest (s : State) (t : Nat) (b : Bool) : (s.setFaulted t b).newest = s.newest := rfl
@[simp] theorem State.raiseToken_serve (s : State) (t n : Nat) : (s.raiseToken t n).serve = s.serve := rfl
@[simp] theorem State.setFaulted_serve (s : State) (t : Nat) (b : Bool) : (s.setFaulted t b).serve = s.serve := rfl
@[simp] theorem State.raiseToken_restore (s : State) (t n : Nat) : (s.raiseToken t n).restore = s.restore := rfl
@[simp] theorem State.setFaulted_restore (s : State) (t : Nat) (b : Bool) : (s.setFaulted t b).restore = s.restore := rfl
@[simp] theorem State.raiseToken_joins (s : State) (t n : Nat) : (s.raiseToken t n).joins = s.joins := rfl
@[simp] theorem State.setFaulted_joins (s : State) (t : Nat) (b : Bool) : (s.setFaulted t b).joins = s.joins := rfl
@[simp] theorem State.raiseToken_cfg (s : State) (t n : Nat) : (s.raiseToken t n).cfg = s.cfg := rfl
@[simp] theorem State.setFaulted_cfg (s : State) (t : Nat) (b : Bool) : (s.setFaulted t b).cfg = s.cfg := rfl
@[simp] theorem State.raiseToken_identityKey (s : State) (t n : Nat) : (s.raiseToken t n).identityKey = s.identityKey := rfl
@[simp] theorem State.setFaulted_identityKey (s : State) (t : Nat) (b : Bool) : (s.setFaulted t b).identityKey = s.identityKey := rfl
@[simp] theorem State.raiseToken_eid (s : State) (t n : Nat) : (s.raiseToken t n).eid = s.eid := rfl
@[simp] theorem State.setFaulted_eid (s : State) (t : Nat) (b : Bool) : (s.setFaulted t b).eid = s.eid := rfl
@[simp] theorem State.raiseToken_bwStart (s : State) (t n : Nat) : (s.raiseToken t n).bwStart = s.bwStart := rfl
@[simp] theorem State.setFaulted_bwStart (s : State) (t : Nat) (b : Bool) : (s.setFaulted t b).bwStart = s.bwStart := rfl
@[simp] theorem State.raiseToken_bwWindow (s : State) (t n : Nat) : (s.raiseToken t n).bwWindow = s.bwWindow := rfl
@[simp] theorem State.raiseToken_bwTotals (s : State) (t n : Nat) : (s.raiseToken t n).bwTotals = s.bwTotals := rfl
@[simp] theorem State.raiseToken_bwLast (s : State) (t n : Nat) : (s.raiseToken t n).bwLast = s.bwLast := rfl
@[simp] theorem State.setFaulted_bwWindow (s : State) (t : Nat) (b : Bool) : (s.setFaulted t b).bwWindow = s.bwWindow := rfl
@[simp] theorem State.setFaulted_bwTotals (s : State) (t : Nat) (b : Bool) : (s.setFaulted t b).bwTotals = s.bwTotals := rfl
@[simp] theorem State.setFaulted_bwLast (s : State) (t : Nat) (b : Bool) : (s.setFaulted t b).bwLast = s.bwLast := rfl
@[simp] theorem State.raiseToken_out (s : State) (t n : Nat) : (s.raiseToken t n).out = s.out := rfl
@[simp] theorem State.setFaulted_out (s : State) (t : Nat) (b : Bool) : (s.setFaulted t b).out = s.out := rfl
@[simp] theorem State.raiseToken_free (s : State) (t n : Nat) : (s.raiseToken t n).free = s.free := rfl
@[simp] theorem State.setFaulted_free (s : State) (t : Nat) (b : Bool) : (s.setFaulted t b).free = s.free := rfl

/-! The end of a packet changes the packets in flight alone. -/

@[simp] theorem State.endPacket_pending (s : State) (pid : Nat) (st : Status) (d : Nat) : (s.endPacket pid st d).pending = s.pending := rfl
@[simp] theorem State.endPacket_regs (s : State) (pid : Nat) (st : Status) (d : Nat) : (s.endPacket pid st d).regs = s.regs := rfl
@[simp] theorem State.endPacket_heldWords (s : State) (pid : Nat) (st : Status) (d : Nat) : (s.endPacket pid st d).heldWords = s.heldWords := rfl
@[simp] theorem State.endPacket_mem (s : State) (pid : Nat) (st : Status) (d : Nat) : (s.endPacket pid st d).mem = s.mem := rfl
@[simp] theorem State.endPacket_ue (s : State) (pid : Nat) (st : Status) (d : Nat) : (s.endPacket pid st d).ue = s.ue := rfl
@[simp] theorem State.endPacket_ce (s : State) (pid : Nat) (st : Status) (d : Nat) : (s.endPacket pid st d).ce = s.ce := rfl
@[simp] theorem State.endPacket_patrol (s : State) (pid : Nat) (st : Status) (d : Nat) : (s.endPacket pid st d).patrol = s.patrol := rfl
@[simp] theorem State.endPacket_heldWrites (s : State) (pid : Nat) (st : Status) (d : Nat) : (s.endPacket pid st d).heldWrites = s.heldWrites := rfl
@[simp] theorem State.endPacket_dShare (s : State) (pid : Nat) (st : Status) (d : Nat) : (s.endPacket pid st d).dShare = s.dShare := rfl
@[simp] theorem State.endPacket_cShare (s : State) (pid : Nat) (st : Status) (d : Nat) : (s.endPacket pid st d).cShare = s.cShare := rfl
@[simp] theorem State.endPacket_partitions (s : State) (pid : Nat) (st : Status) (d : Nat) : (s.endPacket pid st d).partitions = s.partitions := rfl
@[simp] theorem State.endPacket_arbiters (s : State) (pid : Nat) (st : Status) (d : Nat) : (s.endPacket pid st d).arbiters = s.arbiters := rfl
@[simp] theorem State.endPacket_tokens (s : State) (pid : Nat) (st : Status) (d : Nat) : (s.endPacket pid st d).tokens = s.tokens := rfl
@[simp] theorem State.endPacket_tokFaulted (s : State) (pid : Nat) (st : Status) (d : Nat) : (s.endPacket pid st d).tokFaulted = s.tokFaulted := rfl
@[simp] theorem State.endPacket_tokBase (s : State) (pid : Nat) (st : Status) (d : Nat) : (s.endPacket pid st d).tokBase = s.tokBase := rfl
@[simp] theorem State.endPacket_nextId (s : State) (pid : Nat) (st : Status) (d : Nat) : (s.endPacket pid st d).nextId = s.nextId := rfl
@[simp] theorem State.endPacket_fetchHold (s : State) (pid : Nat) (st : Status) (d : Nat) : (s.endPacket pid st d).fetchHold = s.fetchHold := rfl
@[simp] theorem State.endPacket_fetchBuf (s : State) (pid : Nat) (st : Status) (d : Nat) : (s.endPacket pid st d).fetchBuf = s.fetchBuf := rfl
@[simp] theorem State.endPacket_hostReads (s : State) (pid : Nat) (st : Status) (d : Nat) : (s.endPacket pid st d).hostReads = s.hostReads := rfl
@[simp] theorem State.endPacket_descs (s : State) (pid : Nat) (st : Status) (d : Nat) : (s.endPacket pid st d).descs = s.descs := rfl
@[simp] theorem State.endPacket_retries (s : State) (pid : Nat) (st : Status) (d : Nat) : (s.endPacket pid st d).retries = s.retries := rfl
@[simp] theorem State.endPacket_heldReads (s : State) (pid : Nat) (st : Status) (d : Nat) : (s.endPacket pid st d).heldReads = s.heldReads := rfl
@[simp] theorem State.endPacket_step (s : State) (pid : Nat) (st : Status) (d : Nat) : (s.endPacket pid st d).step = s.step := rfl
@[simp] theorem State.endPacket_commit (s : State) (pid : Nat) (st : Status) (d : Nat) : (s.endPacket pid st d).commit = s.commit := rfl
@[simp] theorem State.endPacket_groups (s : State) (pid : Nat) (st : Status) (d : Nat) : (s.endPacket pid st d).groups = s.groups := rfl
@[simp] theorem State.endPacket_slots (s : State) (pid : Nat) (st : Status) (d : Nat) : (s.endPacket pid st d).slots = s.slots := rfl
@[simp] theorem State.endPacket_reef (s : State) (pid : Nat) (st : Status) (d : Nat) : (s.endPacket pid st d).reef = s.reef := rfl
@[simp] theorem State.endPacket_rewrites (s : State) (pid : Nat) (st : Status) (d : Nat) : (s.endPacket pid st d).rewrites = s.rewrites := rfl
@[simp] theorem State.endPacket_rewritesDue (s : State) (pid : Nat) (st : Status) (d : Nat) : (s.endPacket pid st d).rewritesDue = s.rewritesDue := rfl
@[simp] theorem State.endPacket_rewriteStream (s : State) (pid : Nat) (st : Status) (d : Nat) : (s.endPacket pid st d).rewriteStream = s.rewriteStream := rfl
@[simp] theorem State.endPacket_ilog (s : State) (pid : Nat) (st : Status) (d : Nat) : (s.endPacket pid st d).ilog = s.ilog := rfl
@[simp] theorem State.endPacket_aoNow (s : State) (pid : Nat) (st : Status) (d : Nat) : (s.endPacket pid st d).aoNow = s.aoNow := rfl
@[simp] theorem State.endPacket_pcieUp (s : State) (pid : Nat) (st : Status) (d : Nat) : (s.endPacket pid st d).pcieUp = s.pcieUp := rfl
@[simp] theorem State.endPacket_heldOut (s : State) (pid : Nat) (st : Status) (d : Nat) : (s.endPacket pid st d).heldOut = s.heldOut := rfl
@[simp] theorem State.endPacket_lateRecords (s : State) (pid : Nat) (st : Status) (d : Nat) : (s.endPacket pid st d).lateRecords = s.lateRecords := rfl
@[simp] theorem State.endPacket_key (s : State) (pid : Nat) (st : Status) (d : Nat) : (s.endPacket pid st d).key = s.key := rfl
@[simp] theorem State.endPacket_reports (s : State) (pid : Nat) (st : Status) (d : Nat) : (s.endPacket pid st d).reports = s.reports := rfl
@[simp] theorem State.endPacket_reportSeq (s : State) (pid : Nat) (st : Status) (d : Nat) : (s.endPacket pid st d).reportSeq = s.reportSeq := rfl
@[simp] theorem State.endPacket_attLog (s : State) (pid : Nat) (st : Status) (d : Nat) : (s.endPacket pid st d).attLog = s.attLog := rfl
@[simp] theorem State.endPacket_ports (s : State) (pid : Nat) (st : Status) (d : Nat) : (s.endPacket pid st d).ports = s.ports := rfl
@[simp] theorem State.endPacket_delivered (s : State) (pid : Nat) (st : Status) (d : Nat) : (s.endPacket pid st d).delivered = s.delivered := rfl
@[simp] theorem State.endPacket_rankNodes (s : State) (pid : Nat) (st : Status) (d : Nat) : (s.endPacket pid st d).rankNodes = s.rankNodes := rfl
@[simp] theorem State.endPacket_colls (s : State) (pid : Nat) (st : Status) (d : Nat) : (s.endPacket pid st d).colls = s.colls := rfl
@[simp] theorem State.endPacket_endedColls (s : State) (pid : Nat) (st : Status) (d : Nat) : (s.endPacket pid st d).endedColls = s.endedColls := rfl
@[simp] theorem State.endPacket_reserved (s : State) (pid : Nat) (st : Status) (d : Nat) : (s.endPacket pid st d).reserved = s.reserved := rfl
@[simp] theorem State.endPacket_heldMsgs (s : State) (pid : Nat) (st : Status) (d : Nat) : (s.endPacket pid st d).heldMsgs = s.heldMsgs := rfl
@[simp] theorem State.endPacket_prep (s : State) (pid : Nat) (st : Status) (d : Nat) : (s.endPacket pid st d).prep = s.prep := rfl
@[simp] theorem State.endPacket_top (s : State) (pid : Nat) (st : Status) (d : Nat) : (s.endPacket pid st d).top = s.top := rfl
@[simp] theorem State.endPacket_lastEpoch (s : State) (pid : Nat) (st : Status) (d : Nat) : (s.endPacket pid st d).lastEpoch = s.lastEpoch := rfl
@[simp] theorem State.endPacket_sysMembers (s : State) (pid : Nat) (st : Status) (d : Nat) : (s.endPacket pid st d).sysMembers = s.sysMembers := rfl
@[simp] theorem State.endPacket_chunkRule (s : State) (pid : Nat) (st : Status) (d : Nat) : (s.endPacket pid st d).chunkRule = s.chunkRule := rfl
@[simp] theorem State.endPacket_memberIds (s : State) (pid : Nat) (st : Status) (d : Nat) : (s.endPacket pid st d).memberIds = s.memberIds := rfl
@[simp] theorem State.endPacket_memberHealth (s : State) (pid : Nat) (st : Status) (d : Nat) : (s.endPacket pid st d).memberHealth = s.memberHealth := rfl
@[simp] theorem State.endPacket_verdicts (s : State) (pid : Nat) (st : Status) (d : Nat) : (s.endPacket pid st d).verdicts = s.verdicts := rfl
@[simp] theorem State.endPacket_heard (s : State) (pid : Nat) (st : Status) (d : Nat) : (s.endPacket pid st d).heard = s.heard := rfl
@[simp] theorem State.endPacket_mgrHeard (s : State) (pid : Nat) (st : Status) (d : Nat) : (s.endPacket pid st d).mgrHeard = s.mgrHeard := rfl
@[simp] theorem State.endPacket_mgrMissed (s : State) (pid : Nat) (st : Status) (d : Nat) : (s.endPacket pid st d).mgrMissed = s.mgrMissed := rfl
@[simp] theorem State.endPacket_tests (s : State) (pid : Nat) (st : Status) (d : Nat) : (s.endPacket pid st d).tests = s.tests := rfl
@[simp] theorem State.endPacket_testFails (s : State) (pid : Nat) (st : Status) (d : Nat) : (s.endPacket pid st d).testFails = s.testFails := rfl
@[simp] theorem State.endPacket_dispatched (s : State) (pid : Nat) (st : Status) (d : Nat) : (s.endPacket pid st d).dispatched = s.dispatched := rfl
@[simp] theorem State.endPacket_llsTest (s : State) (pid : Nat) (st : Status) (d : Nat) : (s.endPacket pid st d).llsTest = s.llsTest := rfl
@[simp] theorem State.endPacket_testClock (s : State) (pid : Nat) (st : Status) (d : Nat) : (s.endPacket pid st d).testClock = s.testClock := rfl
@[simp] theorem State.endPacket_samples (s : State) (pid : Nat) (st : Status) (d : Nat) : (s.endPacket pid st d).samples = s.samples := rfl
@[simp] theorem State.endPacket_cycleBase (s : State) (pid : Nat) (st : Status) (d : Nat) : (s.endPacket pid st d).cycleBase = s.cycleBase := rfl
@[simp] theorem State.endPacket_power (s : State) (pid : Nat) (st : Status) (d : Nat) : (s.endPacket pid st d).power = s.power := rfl
@[simp] theorem State.endPacket_resetting (s : State) (pid : Nat) (st : Status) (d : Nat) : (s.endPacket pid st d).resetting = s.resetting := rfl
@[simp] theorem State.endPacket_startDone (s : State) (pid : Nat) (st : Status) (d : Nat) : (s.endPacket pid st d).startDone = s.startDone := rfl
@[simp] theorem State.endPacket_perst (s : State) (pid : Nat) (st : Status) (d : Nat) : (s.endPacket pid st d).perst = s.perst := rfl
@[simp] theorem State.endPacket_pwrGood (s : State) (pid : Nat) (st : Status) (d : Nat) : (s.endPacket pid st d).pwrGood = s.pwrGood := rfl
@[simp] theorem State.endPacket_thermtrip (s : State) (pid : Nat) (st : Status) (d : Nat) : (s.endPacket pid st d).thermtrip = s.thermtrip := rfl
@[simp] theorem State.endPacket_refclk (s : State) (pid : Nat) (st : Status) (d : Nat) : (s.endPacket pid st d).refclk = s.refclk := rfl
@[simp] theorem State.endPacket_duty (s : State) (pid : Nat) (st : Status) (d : Nat) : (s.endPacket pid st d).duty = s.duty := rfl
@[simp] theorem State.endPacket_powerLog (s : State) (pid : Nat) (st : Status) (d : Nat) : (s.endPacket pid st d).powerLog = s.powerLog := rfl
@[simp] theorem State.endPacket_drooped (s : State) (pid : Nat) (st : Status) (d : Nat) : (s.endPacket pid st d).drooped = s.drooped := rfl
@[simp] theorem State.endPacket_riskEvents (s : State) (pid : Nat) (st : Status) (d : Nat) : (s.endPacket pid st d).riskEvents = s.riskEvents := rfl
@[simp] theorem State.endPacket_attJumps (s : State) (pid : Nat) (st : Status) (d : Nat) : (s.endPacket pid st d).attJumps = s.attJumps := rfl
@[simp] theorem State.endPacket_riskQuiet (s : State) (pid : Nat) (st : Status) (d : Nat) : (s.endPacket pid st d).riskQuiet = s.riskQuiet := rfl
@[simp] theorem State.endPacket_critTicks (s : State) (pid : Nat) (st : Status) (d : Nat) : (s.endPacket pid st d).critTicks = s.critTicks := rfl
@[simp] theorem State.endPacket_flashMap (s : State) (pid : Nat) (st : Status) (d : Nat) : (s.endPacket pid st d).flashMap = s.flashMap := rfl
@[simp] theorem State.endPacket_areaA (s : State) (pid : Nat) (st : Status) (d : Nat) : (s.endPacket pid st d).areaA = s.areaA := rfl
@[simp] theorem State.endPacket_areaB (s : State) (pid : Nat) (st : Status) (d : Nat) : (s.endPacket pid st d).areaB = s.areaB := rfl
@[simp] theorem State.endPacket_active (s : State) (pid : Nat) (st : Status) (d : Nat) : (s.endPacket pid st d).active = s.active := rfl
@[simp] theorem State.endPacket_running (s : State) (pid : Nat) (st : Status) (d : Nat) : (s.endPacket pid st d).running = s.running := rfl
@[simp] theorem State.endPacket_recovery (s : State) (pid : Nat) (st : Status) (d : Nat) : (s.endPacket pid st d).recovery = s.recovery := rfl
@[simp] theorem State.endPacket_groupTable (s : State) (pid : Nat) (st : Status) (d : Nat) : (s.endPacket pid st d).groupTable = s.groupTable := rfl
@[simp] theorem State.endPacket_copy (s : State) (pid : Nat) (st : Status) (d : Nat) : (s.endPacket pid st d).copy = s.copy := rfl
@[simp] theorem State.endPacket_copyWas (s : State) (pid : Nat) (st : Status) (d : Nat) : (s.endPacket pid st d).copyWas = s.copyWas := rfl
@[simp] theorem State.endPacket_copyDue (s : State) (pid : Nat) (st : Status) (d : Nat) : (s.endPacket pid st d).copyDue = s.copyDue := rfl
@[simp] theorem State.endPacket_cursor (s : State) (pid : Nat) (st : Status) (d : Nat) : (s.endPacket pid st d).cursor = s.cursor := rfl
@[simp] theorem State.endPacket_signing (s : State) (pid : Nat) (st : Status) (d : Nat) : (s.endPacket pid st d).signing = s.signing := rfl
@[simp] theorem State.endPacket_hold (s : State) (pid : Nat) (st : Status) (d : Nat) : (s.endPacket pid st d).hold = s.hold := rfl
@[simp] theorem State.endPacket_newest (s : State) (pid : Nat) (st : Status) (d : Nat) : (s.endPacket pid st d).newest = s.newest := rfl
@[simp] theorem State.endPacket_serve (s : State) (pid : Nat) (st : Status) (d : Nat) : (s.endPacket pid st d).serve = s.serve := rfl
@[simp] theorem State.endPacket_restore (s : State) (pid : Nat) (st : Status) (d : Nat) : (s.endPacket pid st d).restore = s.restore := rfl
@[simp] theorem State.endPacket_joins (s : State) (pid : Nat) (st : Status) (d : Nat) : (s.endPacket pid st d).joins = s.joins := rfl
@[simp] theorem State.endPacket_cfg (s : State) (pid : Nat) (st : Status) (d : Nat) : (s.endPacket pid st d).cfg = s.cfg := rfl
@[simp] theorem State.endPacket_identityKey (s : State) (pid : Nat) (st : Status) (d : Nat) : (s.endPacket pid st d).identityKey = s.identityKey := rfl
@[simp] theorem State.endPacket_eid (s : State) (pid : Nat) (st : Status) (d : Nat) : (s.endPacket pid st d).eid = s.eid := rfl
@[simp] theorem State.endPacket_bwStart (s : State) (pid : Nat) (st : Status) (d : Nat) : (s.endPacket pid st d).bwStart = s.bwStart := rfl
@[simp] theorem State.endPacket_bwWindow (s : State) (pid : Nat) (st : Status) (d : Nat) : (s.endPacket pid st d).bwWindow = s.bwWindow := rfl
@[simp] theorem State.endPacket_bwTotals (s : State) (pid : Nat) (st : Status) (d : Nat) : (s.endPacket pid st d).bwTotals = s.bwTotals := rfl
@[simp] theorem State.endPacket_bwLast (s : State) (pid : Nat) (st : Status) (d : Nat) : (s.endPacket pid st d).bwLast = s.bwLast := rfl
@[simp] theorem State.endPacket_out (s : State) (pid : Nat) (st : Status) (d : Nat) : (s.endPacket pid st d).out = s.out := rfl
@[simp] theorem State.endPacket_free (s : State) (pid : Nat) (st : Status) (d : Nat) : (s.endPacket pid st d).free = s.free := rfl

end Sys2Proof.Machine
end

