-- ==== Sys2Proof/Laws/DoesOps.lean ====
section
/-! SUPPORT. What the operations of Machine/Ops.lean may change. -/

set_option Elab.async false
set_option linter.unusedTactic false
set_option linter.unreachableTactic false
set_option maxRecDepth 2000

namespace Sys2Proof.Machine

variable {fs : List Field} {s0 : State}

theorem State.withBwTotals_does (s : State) (v) (h0 : Does fs s0 s)
    (hs : Field.sub [.bwTotals] fs = true := by decide) : Does fs s0 { s with bwTotals := v } := by
  refine Does.step (gs := [.bwTotals]) (Does.leaf Does.refl rfl ?_ rfl rfl rfl rfl) h0 hs
  intro f hf
  cases f <;> first | rfl | exact absurd (by decide) hf

theorem State.withBwWindow_does (s : State) (v) (h0 : Does fs s0 s)
    (hs : Field.sub [.bwWindow] fs = true := by decide) : Does fs s0 { s with bwWindow := v } := by
  refine Does.step (gs := [.bwWindow]) (Does.leaf Does.refl rfl ?_ rfl rfl rfl rfl) h0 hs
  intro f hf
  cases f <;> first | rfl | exact absurd (by decide) hf

theorem State.withCe_does (s : State) (v) (h0 : Does fs s0 s)
    (hs : Field.sub [.ce] fs = true := by decide) : Does fs s0 { s with ce := v } := by
  refine Does.step (gs := [.ce]) (Does.leaf Does.refl rfl ?_ rfl rfl rfl rfl) h0 hs
  intro f hf
  cases f <;> first | rfl | exact absurd (by decide) hf

theorem State.withHeldOut_does (s : State) (v) (h0 : Does fs s0 s)
    (hs : Field.sub [.heldOut] fs = true := by decide) : Does fs s0 { s with heldOut := v } := by
  refine Does.step (gs := [.heldOut]) (Does.leaf Does.refl rfl ?_ rfl rfl rfl rfl) h0 hs
  intro f hf
  cases f <;> first | rfl | exact absurd (by decide) hf

theorem State.withIlog_does (s : State) (v) (h0 : Does fs s0 s)
    (hs : Field.sub [.ilog] fs = true := by decide) : Does fs s0 { s with ilog := v } := by
  refine Does.step (gs := [.ilog]) (Does.leaf Does.refl rfl ?_ rfl rfl rfl rfl) h0 hs
  intro f hf
  cases f <;> first | rfl | exact absurd (by decide) hf

theorem State.withLateRecords_does (s : State) (v) (h0 : Does fs s0 s)
    (hs : Field.sub [.lateRecords] fs = true := by decide) : Does fs s0 { s with lateRecords := v } := by
  refine Does.step (gs := [.lateRecords]) (Does.leaf Does.refl rfl ?_ rfl rfl rfl rfl) h0 hs
  intro f hf
  cases f <;> first | rfl | exact absurd (by decide) hf

theorem State.withOut_does (s : State) (v) (h0 : Does fs s0 s)
    (hs : Field.sub [.out] fs = true := by decide) : Does fs s0 { s with out := v } := by
  refine Does.step (gs := [.out]) (Does.leaf Does.refl rfl ?_ rfl rfl rfl rfl) h0 hs
  intro f hf
  cases f <;> first | rfl | exact absurd (by decide) hf

theorem State.withReportSeq_does (s : State) (v) (h0 : Does fs s0 s)
    (hs : Field.sub [.reportSeq] fs = true := by decide) : Does fs s0 { s with reportSeq := v } := by
  refine Does.step (gs := [.reportSeq]) (Does.leaf Does.refl rfl ?_ rfl rfl rfl rfl) h0 hs
  intro f hf
  cases f <;> first | rfl | exact absurd (by decide) hf

theorem State.withRiskEvents_does (s : State) (v) (h0 : Does fs s0 s)
    (hs : Field.sub [.riskEvents] fs = true := by decide) : Does fs s0 { s with riskEvents := v } := by
  refine Does.step (gs := [.riskEvents]) (Does.leaf Does.refl rfl ?_ rfl rfl rfl rfl) h0 hs
  intro f hf
  cases f <;> first | rfl | exact absurd (by decide) hf

theorem State.withSamples_does (s : State) (v) (h0 : Does fs s0 s)
    (hs : Field.sub [.samples] fs = true := by decide) : Does fs s0 { s with samples := v } := by
  refine Does.step (gs := [.samples]) (Does.leaf Does.refl rfl ?_ rfl rfl rfl rfl) h0 hs
  intro f hf
  cases f <;> first | rfl | exact absurd (by decide) hf

theorem State.withTokFaulted_does (s : State) (v) (h0 : Does fs s0 s)
    (hs : Field.sub [.tokFaulted] fs = true := by decide) : Does fs s0 { s with tokFaulted := v } := by
  refine Does.step (gs := [.tokFaulted]) (Does.leaf Does.refl rfl ?_ rfl rfl rfl rfl) h0 hs
  intro f hf
  cases f <;> first | rfl | exact absurd (by decide) hf

theorem State.withTokens_does (s : State) (v) (h0 : Does fs s0 s)
    (hs : Field.sub [.tokens] fs = true := by decide) : Does fs s0 { s with tokens := v } := by
  refine Does.step (gs := [.tokens]) (Does.leaf Does.refl rfl ?_ rfl rfl rfl rfl) h0 hs
  intro f hf
  cases f <;> first | rfl | exact absurd (by decide) hf

theorem State.withUe_does (s : State) (v) (h0 : Does fs s0 s)
    (hs : Field.sub [.ue] fs = true := by decide) : Does fs s0 { s with ue := v } := by
  refine Does.step (gs := [.ue]) (Does.leaf Does.refl rfl ?_ rfl rfl rfl rfl) h0 hs
  intro f hf
  cases f <;> first | rfl | exact absurd (by decide) hf

theorem State.emit_does (s : State) (o : Out) (h0 : Does fs s0 s) (hs : Field.sub [.out] fs = true := by decide) :
    Does fs s0 (State.emit s o) := by
  refine Does.step (gs := [.out]) ?_ h0 hs
  unfold State.emit
  try dsimp only
  repeat' first
    | with_reducible exact Does.refl
    | with_reducible assumption
    | with_reducible refine Does.ite ?_ ?_
    | split
    | (with_reducible refine State.withOut_does _ _ ?_)
    | ((with_reducible refine Does.leaf ?_ rfl ?_ rfl rfl rfl rfl); rotate_left; (intro f hf; cases f <;> first | rfl | exact absurd (by decide) hf))
    | dsimp only

theorem State.freeVal_does (s : State) (w : Nat) (h0 : Does fs s0 s) (hs : Field.sub [.free] fs = true := by decide) :
    Does fs s0 (s.freeVal w).2 := by
  refine Does.step (gs := [.free]) ?_ h0 hs
  unfold State.freeVal
  refine Does.leaf Does.refl rfl ?_ rfl rfl rfl rfl
  intro f hf
  cases f <;> first | rfl | exact absurd (by decide) hf

theorem State.count_does (s : State) (r : Reg) (idx : List Nat) (n : Nat) (h0 : Does fs s0 s) (hs : Field.sub [.regs] fs = true := by decide) :
    Does fs s0 (State.count s r idx n) := by
  refine Does.step (gs := [.regs]) ?_ h0 hs
  unfold State.count
  try dsimp only
  repeat' first
    | with_reducible exact Does.refl
    | with_reducible assumption
    | (with_reducible refine State.wr_does _ _ _ _ ?_)
    | with_reducible refine Does.ite ?_ ?_
    | split
    | dsimp only

theorem State.bump_does (s : State) (r : Reg) (idx : List Nat) (n : Nat) (h0 : Does fs s0 s) (hs : Field.sub [.regs] fs = true := by decide) :
    Does fs s0 (State.bump s r idx n) := by
  refine Does.step (gs := [.regs]) ?_ h0 hs
  unfold State.bump
  try dsimp only
  repeat' first
    | with_reducible exact Does.refl
    | with_reducible assumption
    | (with_reducible refine State.wr_does _ _ _ _ ?_)
    | with_reducible refine Does.ite ?_ ?_
    | split
    | dsimp only

theorem State.sendDatagram_does (s : State) (bytes : List Byte) (h0 : Does fs s0 s) (hs : Field.sub [.out] fs = true := by decide) :
    Does fs s0 (State.sendDatagram s bytes) := by
  refine Does.step (gs := [.out]) ?_ h0 hs
  unfold State.sendDatagram
  try dsimp only
  repeat' first
    | with_reducible exact Does.refl
    | with_reducible assumption
    | (with_reducible refine State.emit_does _ _ ?_)
    | with_reducible refine Does.ite ?_ ?_
    | split
    | dsimp only

theorem State.report_does (s : State) (type : Nat) (body : List Byte) (h0 : Does fs s0 s) (hs : Field.sub [.regs, .reports, .reportSeq, .out] fs = true := by decide) :
    Does fs s0 (State.report s type body) := by
  refine Does.step (gs := [.regs, .reports, .reportSeq, .out]) ?_ h0 hs
  unfold State.report
  try dsimp only
  repeat' first
    | with_reducible exact Does.refl
    | with_reducible assumption
    | (with_reducible refine State.count_does _ _ _ _ ?_)
    | (with_reducible refine State.bump_does _ _ _ _ ?_)
    | (with_reducible refine State.sendDatagram_does _ _ ?_)
    | with_reducible refine Does.ite ?_ ?_
    | split
    | (with_reducible refine State.withReportSeq_does _ _ ?_)
    | ((with_reducible refine Does.leaf ?_ rfl ?_ rfl rfl rfl rfl); rotate_left; (intro f hf; cases f <;> first | rfl | exact absurd (by decide) hf))
    | dsimp only

theorem State.log_does (s : State) (type code addr tag uclass uindex detail : Nat) (h0 : Does fs s0 s) (hs : Field.sub [.regs, .ilog, .reports, .reportSeq, .out] fs = true := by decide) :
    Does fs s0 (State.log s type code addr tag uclass uindex detail) := by
  refine Does.step (gs := [.regs, .ilog, .reports, .reportSeq, .out]) ?_ h0 hs
  unfold State.log
  try dsimp only
  repeat' first
    | with_reducible exact Does.refl
    | with_reducible assumption
    | (with_reducible refine State.wr_does _ _ _ _ ?_)
    | (with_reducible refine State.report_does _ _ _ ?_)
    | with_reducible refine Does.ite ?_ ?_
    | split
    | (with_reducible refine State.withIlog_does _ _ ?_)
    | ((with_reducible refine Does.leaf ?_ rfl ?_ rfl rfl rfl rfl); rotate_left; (intro f hf; cases f <;> first | rfl | exact absurd (by decide) hf))
    | dsimp only

theorem countProg_does (c ev : Nat) (quad : Option Nat) (n : Nat) (s : State) (i : Nat) (h0 : Does fs s0 s) (hs : Field.sub [.regs] fs = true := by decide) :
    Does fs s0 (countProg c ev quad n s i) := by
  refine Does.step (gs := [.regs]) ?_ h0 hs
  unfold countProg
  try dsimp only
  repeat' first
    | with_reducible exact Does.refl
    | with_reducible assumption
    | (with_reducible refine State.bump_does _ _ _ _ ?_)
    | with_reducible refine Does.ite ?_ ?_
    | split
    | dsimp only

theorem State.countEvent_does (s : State) (c ev n : Nat) (h0 : Does fs s0 s) (hs : Field.sub [.regs] fs = true := by decide) :
    Does fs s0 (State.countEvent s c ev n) := by
  refine Does.step (gs := [.regs]) ?_ h0 hs
  unfold State.countEvent
  try dsimp only
  repeat' first
    | with_reducible exact Does.refl
    | with_reducible assumption
    | (with_reducible refine countProg_does _ _ _ _ _ _ ?_)
    | with_reducible refine Does.ite ?_ ?_
    | ((with_reducible refine Does.foldl (fun x b h => ?_) _ ?_); try dsimp only)
    | ((with_reducible refine Does.foldl_fst (fun x b h => ?_) _ ?_); try dsimp only)
    | split
    | dsimp only

theorem State.countCluster_does (s : State) (k e n : Nat) (h0 : Does fs s0 s) (hs : Field.sub [.regs] fs = true := by decide) :
    Does fs s0 (State.countCluster s k e n) := by
  refine Does.step (gs := [.regs]) ?_ h0 hs
  unfold State.countCluster
  try dsimp only
  repeat' first
    | with_reducible exact Does.refl
    | with_reducible assumption
    | (with_reducible refine State.bump_does _ _ _ _ ?_)
    | (with_reducible refine countProg_does _ _ _ _ _ _ ?_)
    | with_reducible refine Does.ite ?_ ?_
    | ((with_reducible refine Does.foldl (fun x b h => ?_) _ ?_); try dsimp only)
    | ((with_reducible refine Does.foldl_fst (fun x b h => ?_) _ ?_); try dsimp only)
    | split
    | dsimp only

theorem State.countBw_does (s : State) (p : Nat) (inward : Bool) (n : Nat) (h0 : Does fs s0 s) (hs : Field.sub [.bwWindow, .bwTotals] fs = true := by decide) :
    Does fs s0 (State.countBw s p inward n) := by
  refine Does.step (gs := [.bwWindow, .bwTotals]) ?_ h0 hs
  unfold State.countBw
  try dsimp only
  repeat' first
    | with_reducible exact Does.refl
    | with_reducible assumption
    | with_reducible refine Does.ite ?_ ?_
    | split
    | (with_reducible refine State.withBwTotals_does _ _ ?_)
    | (with_reducible refine State.withBwWindow_does _ _ ?_)
    | ((with_reducible refine Does.leaf ?_ rfl ?_ rfl rfl rfl rfl); rotate_left; (intro f hf; cases f <;> first | rfl | exact absurd (by decide) hf))
    | dsimp only

theorem State.tlpOut_does (s : State) (n : Nat) (h0 : Does fs s0 s) (hs : Field.sub [.regs, .bwWindow, .bwTotals] fs = true := by decide) :
    Does fs s0 (State.tlpOut s n) := by
  refine Does.step (gs := [.regs, .bwWindow, .bwTotals]) ?_ h0 hs
  unfold State.tlpOut
  try dsimp only
  repeat' first
    | with_reducible exact Does.refl
    | with_reducible assumption
    | (with_reducible refine State.countEvent_does _ _ _ _ ?_)
    | (with_reducible refine State.countBw_does _ _ _ _ ?_)
    | with_reducible refine Does.ite ?_ ?_
    | split
    | dsimp only

theorem State.tlpIn_does (s : State) (n : Nat) (h0 : Does fs s0 s) (hs : Field.sub [.regs, .bwWindow, .bwTotals] fs = true := by decide) :
    Does fs s0 (State.tlpIn s n) := by
  refine Does.step (gs := [.regs, .bwWindow, .bwTotals]) ?_ h0 hs
  unfold State.tlpIn
  try dsimp only
  repeat' first
    | with_reducible exact Does.refl
    | with_reducible assumption
    | (with_reducible refine State.countEvent_does _ _ _ _ ?_)
    | (with_reducible refine State.countBw_does _ _ _ _ ?_)
    | with_reducible refine Does.ite ?_ ?_
    | split
    | dsimp only

theorem State.emitHost_does (s : State) (o : Out) (h0 : Does fs s0 s) (hs : Field.sub [.regs, .heldOut, .bwWindow, .bwTotals, .out] fs = true := by decide) :
    Does fs s0 (State.emitHost s o) := by
  refine Does.step (gs := [.regs, .heldOut, .bwWindow, .bwTotals, .out]) ?_ h0 hs
  unfold State.emitHost
  try dsimp only
  repeat' first
    | with_reducible exact Does.refl
    | with_reducible assumption
    | (with_reducible refine State.emit_does _ _ ?_)
    | (with_reducible refine State.countEvent_does _ _ _ _ ?_)
    | (with_reducible refine State.tlpOut_does _ _ ?_)
    | (with_reducible refine State.hostWrite_does _ _ _ _ ?_)
    | with_reducible refine Does.ite ?_ ?_
    | split
    | (with_reducible refine State.withHeldOut_does _ _ ?_)
    | ((with_reducible refine Does.leaf ?_ rfl ?_ rfl rfl rfl rfl); rotate_left; (intro f hf; cases f <;> first | rfl | exact absurd (by decide) hf))
    | dsimp only

theorem State.noteRisk_does (s : State) (kind n : Nat) (h0 : Does fs s0 s) (hs : Field.sub [.riskEvents] fs = true := by decide) :
    Does fs s0 (State.noteRisk s kind n) := by
  refine Does.step (gs := [.riskEvents]) ?_ h0 hs
  unfold State.noteRisk
  try dsimp only
  repeat' first
    | with_reducible exact Does.refl
    | with_reducible assumption
    | with_reducible refine Does.ite ?_ ?_
    | split
    | (with_reducible refine State.withRiskEvents_does _ _ ?_)
    | ((with_reducible refine Does.leaf ?_ rfl ?_ rfl rfl rfl rfl); rotate_left; (intro f hf; cases f <;> first | rfl | exact absurd (by decide) hf))
    | dsimp only

theorem State.sampleStart_does (s : State) (c : Nat) (h0 : Does fs s0 s) (hs : Field.sub [.regs] fs = true := by decide) :
    Does fs s0 (State.sampleStart s c).1 := by
  refine Does.step (gs := [.regs]) ?_ h0 hs
  unfold State.sampleStart
  try dsimp only
  repeat' first
    | with_reducible exact Does.refl
    | with_reducible assumption
    | (with_reducible refine State.wr_does _ _ _ _ ?_)
    | with_reducible refine Does.ite ?_ ?_
    | split
    | dsimp only

theorem State.putSample_does (s : State) (c : Nat) (d : Sampled) (issue start fin flags : Nat) (h0 : Does fs s0 s) (hs : Field.sub [.regs, .samples, .free] fs = true := by decide) :
    Does fs s0 (State.putSample s c d issue start fin flags) := by
  refine Does.step (gs := [.regs, .samples, .free]) ?_ h0 hs
  unfold State.putSample
  try dsimp only
  repeat' first
    | with_reducible exact Does.refl
    | with_reducible assumption
    | (with_reducible refine State.wr_does _ _ _ _ ?_)
    | (with_reducible refine State.freeVal_does _ _ ?_)
    | with_reducible refine Does.ite ?_ ?_
    | split
    | (with_reducible refine State.withSamples_does _ _ ?_)
    | ((with_reducible refine Does.leaf ?_ rfl ?_ rfl rfl rfl rfl); rotate_left; (intro f hf; cases f <;> first | rfl | exact absurd (by decide) hf))
    | dsimp only

theorem State.sampleOnce_does (s : State) (c kind index operand tag : Nat) (h0 : Does fs s0 s) (hs : Field.sub [.regs, .nextId, .samples, .free] fs = true := by decide) :
    Does fs s0 (State.sampleOnce s c kind index operand tag) := by
  refine Does.step (gs := [.regs, .nextId, .samples, .free]) ?_ h0 hs
  unfold State.sampleOnce
  try dsimp only
  repeat' first
    | with_reducible exact Does.refl
    | with_reducible assumption
    | (with_reducible refine State.sampleStart_does _ _ ?_)
    | (with_reducible refine State.putSample_does _ _ _ _ _ _ _ ?_)
    | with_reducible refine Does.ite ?_ ?_
    | split
    | ((with_reducible refine Does.leaf ?_ rfl ?_ rfl rfl rfl rfl); rotate_left; (intro f hf; cases f <;> first | rfl | exact absurd (by decide) hf))
    | ((with_reducible refine Does.update ?_ rfl ?_ id id pids_self (Nat.le_add_right _ _)); rotate_left; (intro f hf; cases f <;> first | rfl | exact absurd (by decide) hf))
    | dsimp only

theorem State.makePending_does (s : State) (x cause : Nat) (h0 : Does fs s0 s) (hs : Field.sub [.regs, .ilog, .reports, .reportSeq, .riskEvents, .out] fs = true := by decide) :
    Does fs s0 (State.makePending s x cause) := by
  refine Does.step (gs := [.regs, .ilog, .reports, .reportSeq, .riskEvents, .out]) ?_ h0 hs
  unfold State.makePending
  try dsimp only
  repeat' first
    | with_reducible exact Does.refl
    | with_reducible assumption
    | (with_reducible refine State.wr_does _ _ _ _ ?_)
    | (with_reducible refine State.log_does _ _ _ _ _ _ _ _ ?_)
    | (with_reducible refine State.noteRisk_does _ _ _ ?_)
    | with_reducible refine Does.ite ?_ ?_
    | split
    | dsimp only

theorem State.stayMove_does (s : State) (d c n : Nat) (h0 : Does fs s0 s) (hs : Field.sub [.regs, .bwWindow, .bwTotals] fs = true := by decide) :
    Does fs s0 (State.stayMove s d c n) := by
  refine Does.step (gs := [.regs, .bwWindow, .bwTotals]) ?_ h0 hs
  unfold State.stayMove
  try dsimp only
  repeat' first
    | with_reducible exact Does.refl
    | with_reducible assumption
    | (with_reducible refine State.countEvent_does _ _ _ _ ?_)
    | (with_reducible refine State.countBw_does _ _ _ _ ?_)
    | with_reducible refine Does.ite ?_ ?_
    | ((with_reducible refine Does.foldl (fun x b h => ?_) _ ?_); try dsimp only)
    | ((with_reducible refine Does.foldl_fst (fun x b h => ?_) _ ?_); try dsimp only)
    | split
    | dsimp only

theorem State.wake_does (s : State) (dom : Nat) (h0 : Does fs s0 s) (hs : Field.sub [.regs] fs = true := by decide) :
    Does fs s0 (State.wake s dom) := by
  refine Does.step (gs := [.regs]) ?_ h0 hs
  unfold State.wake
  try dsimp only
  repeat' first
    | with_reducible exact Does.refl
    | with_reducible assumption
    | (with_reducible refine State.wr_does _ _ _ _ ?_)
    | with_reducible refine Does.ite ?_ ?_
    | split
    | dsimp only

theorem State.wakeStack_does (s : State) (x : Nat) (h0 : Does fs s0 s) (hs : Field.sub [.regs] fs = true := by decide) :
    Does fs s0 (State.wakeStack s x) := by
  refine Does.step (gs := [.regs]) ?_ h0 hs
  unfold State.wakeStack
  try dsimp only
  repeat' first
    | with_reducible exact Does.refl
    | with_reducible assumption
    | (with_reducible refine State.wake_does _ _ ?_)
    | with_reducible refine Does.ite ?_ ?_
    | split
    | dsimp only

theorem State.stackEvent_does (s : State) (st j n : Nat) (h0 : Does fs s0 s) (hs : Field.sub [.regs] fs = true := by decide) :
    Does fs s0 (State.stackEvent s st j n) := by
  refine Does.step (gs := [.regs]) ?_ h0 hs
  unfold State.stackEvent
  try dsimp only
  repeat' first
    | with_reducible exact Does.refl
    | with_reducible assumption
    | (with_reducible refine State.countEvent_does _ _ _ _ ?_)
    | with_reducible refine Does.ite ?_ ?_
    | split
    | dsimp only

theorem State.corrected_does (s : State) (x n : Nat) (h0 : Does fs s0 s) (hs : Field.sub [.regs, .ilog, .reports, .reportSeq, .riskEvents, .out] fs = true := by decide) :
    Does fs s0 (State.corrected s x n) := by
  refine Does.step (gs := [.regs, .ilog, .reports, .reportSeq, .riskEvents, .out]) ?_ h0 hs
  unfold State.corrected
  try dsimp only
  repeat' first
    | with_reducible exact Does.refl
    | with_reducible assumption
    | (with_reducible refine State.count_does _ _ _ _ ?_)
    | (with_reducible refine State.noteRisk_does _ _ _ ?_)
    | (with_reducible refine State.makePending_does _ _ _ ?_)
    | (with_reducible refine State.stackEvent_does _ _ _ _ ?_)
    | with_reducible refine Does.ite ?_ ?_
    | split
    | dsimp only

theorem State.fillBolt_does (s : State) (x miss : Nat) (h0 : Does fs s0 s) (hs : Field.sub [.regs, .bwWindow, .bwTotals] fs = true := by decide) :
    Does fs s0 (State.fillBolt s x miss) := by
  refine Does.step (gs := [.regs, .bwWindow, .bwTotals]) ?_ h0 hs
  unfold State.fillBolt
  try dsimp only
  repeat' first
    | with_reducible exact Does.refl
    | with_reducible assumption
    | (with_reducible refine State.countBw_does _ _ _ _ ?_)
    | (with_reducible refine State.wakeStack_does _ _ ?_)
    | (with_reducible refine State.stackEvent_does _ _ _ _ ?_)
    | with_reducible refine Does.ite ?_ ?_
    | split
    | dsimp only

theorem State.storeBolt_does (s : State) (x n : Nat) (h0 : Does fs s0 s) (hs : Field.sub [.regs, .bwWindow, .bwTotals] fs = true := by decide) :
    Does fs s0 (State.storeBolt s x n) := by
  refine Does.step (gs := [.regs, .bwWindow, .bwTotals]) ?_ h0 hs
  unfold State.storeBolt
  try dsimp only
  repeat' first
    | with_reducible exact Does.refl
    | with_reducible assumption
    | (with_reducible refine State.countBw_does _ _ _ _ ?_)
    | (with_reducible refine State.wakeStack_does _ _ ?_)
    | (with_reducible refine State.stackEvent_does _ _ _ _ ?_)
    | with_reducible refine Does.ite ?_ ?_
    | split
    | dsimp only

theorem State.readBursts_does (s : State) (x b : Nat) (h0 : Does fs s0 s) (hs : Field.sub [.regs, .ilog, .reports, .reportSeq, .riskEvents, .out] fs = true := by decide) :
    Does fs s0 (State.readBursts s x b) := by
  refine Does.step (gs := [.regs, .ilog, .reports, .reportSeq, .riskEvents, .out]) ?_ h0 hs
  unfold State.readBursts
  try dsimp only
  repeat' first
    | with_reducible exact Does.refl
    | with_reducible assumption
    | (with_reducible refine State.corrected_does _ _ _ ?_)
    | with_reducible refine Does.ite ?_ ?_
    | split
    | dsimp only

theorem State.readBolt_does (s : State) (via : Via) (b k : Nat) (h0 : Does fs s0 s) (hs : Field.sub [.regs, .ilog, .reports, .reportSeq, .riskEvents, .bwWindow, .bwTotals, .out, .free] fs = true := by decide) :
    Does fs s0 (State.readBolt s via b k) := by
  refine Does.step (gs := [.regs, .ilog, .reports, .reportSeq, .riskEvents, .bwWindow, .bwTotals, .out, .free]) ?_ h0 hs
  unfold State.readBolt
  try dsimp only
  repeat' first
    | with_reducible exact Does.refl
    | with_reducible assumption
    | (with_reducible refine State.freeVal_does _ _ ?_)
    | (with_reducible refine State.countEvent_does _ _ _ _ ?_)
    | (with_reducible refine State.countBw_does _ _ _ _ ?_)
    | (with_reducible refine State.stayMove_does _ _ _ _ ?_)
    | (with_reducible refine State.wakeStack_does _ _ ?_)
    | (with_reducible refine State.stackEvent_does _ _ _ _ ?_)
    | (with_reducible refine State.fillBolt_does _ _ _ ?_)
    | (with_reducible refine State.readBursts_does _ _ _ ?_)
    | with_reducible refine Does.ite ?_ ?_
    | split
    | dsimp only

theorem State.writeBolt_does (s : State) (via : Via) (b k : Nat) (h0 : Does fs s0 s)
    (hs : Field.sub [.regs, .ce, .ilog, .reports, .reportSeq, .riskEvents, .bwWindow, .bwTotals, .out, .free] fs = true := by decide) : Does fs s0 (s.writeBolt via b k) := by
  refine Does.step (gs := [.regs, .ce, .ilog, .reports, .reportSeq, .riskEvents, .bwWindow, .bwTotals, .out, .free]) ?_ h0 hs
  unfold State.writeBolt
  split
  · exact State.countEvent_does _ _ _ _ (State.countBw_does _ _ _ _ (State.stayMove_does _ _ _ _ Does.refl))
  · refine State.withCe_does _ _ (State.storeBolt_does _ _ _ (State.countEvent_does _ _ _ _ ?_))
    refine Does.ite ?_ (State.readBursts_does _ _ _ ?_) <;>
    exact State.fillBolt_does _ _ _ (State.stackEvent_does _ _ _ _ (State.countEvent_does _ _ _ _
      (State.freeVal_does _ _ (State.freeVal_does _ _ (State.countBw_does _ _ _ _ (State.stayMove_does _ _ _ _ Does.refl))))))
  · exact State.withCe_does _ _ (State.countBw_does _ _ _ _ (State.stackEvent_does _ _ _ _ (State.countEvent_does _ _ _ _
      (State.wakeStack_does _ _ (State.freeVal_does _ _ Does.refl)))))
  · exact State.withCe_does _ _ (State.countBw_does _ _ _ _ (State.stackEvent_does _ _ _ _ (State.countEvent_does _ _ _ _
      (State.wakeStack_does _ _ (State.freeVal_does _ _ Does.refl)))))
  · exact Does.refl

theorem State.readTraffic_does (s : State) (via : Via) (a n : Nat) (h0 : Does fs s0 s) (hs : Field.sub [.regs, .ilog, .reports, .reportSeq, .riskEvents, .bwWindow, .bwTotals, .out, .free] fs = true := by decide) :
    Does fs s0 (State.readTraffic s via a n) := by
  refine Does.step (gs := [.regs, .ilog, .reports, .reportSeq, .riskEvents, .bwWindow, .bwTotals, .out, .free]) ?_ h0 hs
  unfold State.readTraffic
  try dsimp only
  repeat' first
    | with_reducible exact Does.refl
    | with_reducible assumption
    | (with_reducible refine State.readBolt_does _ _ _ _ ?_)
    | with_reducible refine Does.ite ?_ ?_
    | ((with_reducible refine Does.foldl (fun x b h => ?_) _ ?_); try dsimp only)
    | ((with_reducible refine Does.foldl_fst (fun x b h => ?_) _ ?_); try dsimp only)
    | split
    | dsimp only

theorem State.writeTraffic_does (s : State) (via : Via) (a n : Nat) (h0 : Does fs s0 s) (hs : Field.sub [.regs, .ce, .ilog, .reports, .reportSeq, .riskEvents, .bwWindow, .bwTotals, .out, .free] fs = true := by decide) :
    Does fs s0 (State.writeTraffic s via a n) := by
  refine Does.step (gs := [.regs, .ce, .ilog, .reports, .reportSeq, .riskEvents, .bwWindow, .bwTotals, .out, .free]) ?_ h0 hs
  unfold State.writeTraffic
  try dsimp only
  repeat' first
    | with_reducible exact Does.refl
    | with_reducible assumption
    | (with_reducible refine State.writeBolt_does _ _ _ _ ?_)
    | with_reducible refine Does.ite ?_ ?_
    | ((with_reducible refine Does.foldl (fun x b h => ?_) _ ?_); try dsimp only)
    | ((with_reducible refine Does.foldl_fst (fun x b h => ?_) _ ?_); try dsimp only)
    | split
    | dsimp only

theorem State.readsTraffic_does (s : State) (via : Via) (rs : List (Nat × Nat)) (h0 : Does fs s0 s) (hs : Field.sub [.regs, .ilog, .reports, .reportSeq, .riskEvents, .bwWindow, .bwTotals, .out, .free] fs = true := by decide) :
    Does fs s0 (State.readsTraffic s via rs) := by
  refine Does.step (gs := [.regs, .ilog, .reports, .reportSeq, .riskEvents, .bwWindow, .bwTotals, .out, .free]) ?_ h0 hs
  unfold State.readsTraffic
  try dsimp only
  repeat' first
    | with_reducible exact Does.refl
    | with_reducible assumption
    | (with_reducible refine State.readTraffic_does _ _ _ _ ?_)
    | with_reducible refine Does.ite ?_ ?_
    | ((with_reducible refine Does.foldl (fun x b h => ?_) _ ?_); try dsimp only)
    | ((with_reducible refine Does.foldl_fst (fun x b h => ?_) _ ?_); try dsimp only)
    | split
    | dsimp only

theorem State.noteBad_does (s : State) (tag b : Nat) (h0 : Does fs s0 s) (hs : Field.sub [.regs, .ilog, .reports, .reportSeq, .riskEvents, .out] fs = true := by decide) :
    Does fs s0 (State.noteBad s tag b) := by
  refine Does.step (gs := [.regs, .ilog, .reports, .reportSeq, .riskEvents, .out]) ?_ h0 hs
  unfold State.noteBad
  try dsimp only
  repeat' first
    | with_reducible exact Does.refl
    | with_reducible assumption
    | (with_reducible refine State.count_does _ _ _ _ ?_)
    | (with_reducible refine State.log_does _ _ _ _ _ _ _ _ ?_)
    | (with_reducible refine State.noteRisk_does _ _ _ ?_)
    | (with_reducible refine State.makePending_does _ _ _ ?_)
    | with_reducible refine Does.ite ?_ ?_
    | split
    | dsimp only

theorem State.noteBads_does (s : State) (tag : Nat) (bs : List Nat) (h0 : Does fs s0 s) (hs : Field.sub [.regs, .ilog, .reports, .reportSeq, .riskEvents, .out] fs = true := by decide) :
    Does fs s0 (State.noteBads s tag bs) := by
  refine Does.step (gs := [.regs, .ilog, .reports, .reportSeq, .riskEvents, .out]) ?_ h0 hs
  unfold State.noteBads
  try dsimp only
  repeat' first
    | with_reducible exact Does.refl
    | with_reducible assumption
    | (with_reducible refine State.noteBad_does _ _ _ ?_)
    | with_reducible refine Does.ite ?_ ?_
    | ((with_reducible refine Does.foldl (fun x b h => ?_) _ ?_); try dsimp only)
    | ((with_reducible refine Does.foldl_fst (fun x b h => ?_) _ ?_); try dsimp only)
    | split
    | dsimp only

theorem State.clearBolt_does (s : State) (b : Nat) (h0 : Does fs s0 s) (hs : Field.sub [.regs, .ue] fs = true := by decide) :
    Does fs s0 (State.clearBolt s b) := by
  refine Does.step (gs := [.regs, .ue]) ?_ h0 hs
  unfold State.clearBolt
  try dsimp only
  repeat' first
    | with_reducible exact Does.refl
    | with_reducible assumption
    | (with_reducible refine State.wr_does _ _ _ _ ?_)
    | with_reducible refine Does.ite ?_ ?_
    | ((with_reducible refine Does.foldl (fun x b h => ?_) _ ?_); try dsimp only)
    | ((with_reducible refine Does.foldl_fst (fun x b h => ?_) _ ?_); try dsimp only)
    | split
    | (with_reducible refine State.withUe_does _ _ ?_)
    | ((with_reducible refine Does.leaf ?_ rfl ?_ rfl rfl rfl rfl); rotate_left; (intro f hf; cases f <;> first | rfl | exact absurd (by decide) hf))
    | dsimp only

theorem State.writeMem_does (s : State) (via : Via) (tag a : Nat) (bs : List Byte) (h0 : Does fs s0 s)
    (hs : Field.sub [.regs, .mem, .ue, .ce, .ilog, .reports, .reportSeq, .riskEvents, .bwWindow, .bwTotals, .out, .free] fs = true := by decide) : Does fs s0 (s.writeMem via tag a bs).1 := by
  refine Does.step (gs := [.regs, .mem, .ue, .ce, .ilog, .reports, .reportSeq, .riskEvents, .bwWindow, .bwTotals, .out, .free]) ?_ h0 hs
  unfold State.writeMem
  have ht : Does [.regs, .mem, .ue, .ce, .ilog, .reports, .reportSeq, .riskEvents, .bwWindow, .bwTotals, .out, .free] s (s.writeTraffic via a bs.length) := State.writeTraffic_does _ _ _ _ Does.refl
  revert ht
  generalize s.writeTraffic via a bs.length = u
  intro ht
  dsimp only
  split
  · exact State.withMem_does _ _ (Mem.wf_write _ _) ht
  · refine State.noteBads_does _ _ _ ?_
    refine State.withMem_does _ _ ?_ (Does.foldl (fun x b h => State.clearBolt_does _ _ h) _ ht)
    intro hw
    split
    · exact Mem.wf_write _ _ hw
    · refine Mem.wf_foldl _ (fun m b hm => ?_) _ hw
      split
      · exact hm
      · exact Mem.wf_write _ _ hm

theorem State.writeMems_does (s : State) (via : Via) (tag : Nat) (ws : List (Nat × List Byte)) (h0 : Does fs s0 s)
    (hs : Field.sub [.regs, .mem, .ue, .ce, .ilog, .reports, .reportSeq, .riskEvents, .bwWindow, .bwTotals, .out, .free] fs = true := by decide) : Does fs s0 (s.writeMems via tag ws).1 := by
  refine Does.step (gs := [.regs, .mem, .ue, .ce, .ilog, .reports, .reportSeq, .riskEvents, .bwWindow, .bwTotals, .out, .free]) ?_ h0 hs
  unfold State.writeMems
  refine Does.foldl_fst (fun x b h => ?_) _ Does.refl
  exact State.writeMem_does _ _ _ _ _ h

theorem State.spoil_does (s : State) (a n : Nat) (h0 : Does fs s0 s) (hs : Field.sub [.mem, .free] fs = true := by decide) :
    Does fs s0 (s.spoil a n) := by
  refine Does.step (gs := [.mem, .free]) ?_ h0 hs
  unfold State.spoil
  exact State.withMem_does _ _ (Mem.wf_write _ _) (State.freeVal_does _ _ Does.refl)

theorem State.spoils_does (s : State) (rs : List (Nat × Nat)) (h0 : Does fs s0 s) (hs : Field.sub [.mem, .free] fs = true := by decide) :
    Does fs s0 (State.spoils s rs) := by
  refine Does.step (gs := [.mem, .free]) ?_ h0 hs
  unfold State.spoils
  try dsimp only
  repeat' first
    | with_reducible exact Does.refl
    | with_reducible assumption
    | (with_reducible refine State.spoil_does _ _ _ ?_)
    | with_reducible refine Does.ite ?_ ?_
    | ((with_reducible refine Does.foldl (fun x b h => ?_) _ ?_); try dsimp only)
    | ((with_reducible refine Does.foldl_fst (fun x b h => ?_) _ ?_); try dsimp only)
    | split
    | dsimp only

theorem State.spoilBolt_does (s : State) (d : TDesc) (b i : Nat) (h0 : Does fs s0 s) (hs : Field.sub [.mem, .free] fs = true := by decide) :
    Does fs s0 (s.spoilBolt d b i) := by
  refine Does.step (gs := [.mem, .free]) ?_ h0 hs
  unfold State.spoilBolt
  dsimp only
  split
  · exact State.freeVal_does _ _ Does.refl
  · exact State.withMem_does _ _ (Mem.wf_write _ _) (State.freeVal_does _ _ (State.freeVal_does _ _ Does.refl))

theorem State.spoilTensor_does (s : State) (d : TDesc) (h0 : Does fs s0 s) (hs : Field.sub [.mem, .free] fs = true := by decide) :
    Does fs s0 (State.spoilTensor s d) := by
  refine Does.step (gs := [.mem, .free]) ?_ h0 hs
  unfold State.spoilTensor
  try dsimp only
  repeat' first
    | with_reducible exact Does.refl
    | with_reducible assumption
    | (with_reducible refine State.spoils_does _ _ ?_)
    | (with_reducible refine State.spoilBolt_does _ _ _ _ ?_)
    | with_reducible refine Does.ite ?_ ?_
    | ((with_reducible refine Does.foldl (fun x b h => ?_) _ ?_); try dsimp only)
    | ((with_reducible refine Does.foldl_fst (fun x b h => ?_) _ ?_); try dsimp only)
    | split
    | dsimp only

theorem State.spoilTensors_does (s : State) (ds : List TDesc) (h0 : Does fs s0 s) (hs : Field.sub [.mem, .free] fs = true := by decide) :
    Does fs s0 (State.spoilTensors s ds) := by
  refine Does.step (gs := [.mem, .free]) ?_ h0 hs
  unfold State.spoilTensors
  try dsimp only
  repeat' first
    | with_reducible exact Does.refl
    | with_reducible assumption
    | (with_reducible refine State.spoilTensor_does _ _ ?_)
    | with_reducible refine Does.ite ?_ ?_
    | ((with_reducible refine Does.foldl (fun x b h => ?_) _ ?_); try dsimp only)
    | ((with_reducible refine Does.foldl_fst (fun x b h => ?_) _ ?_); try dsimp only)
    | split
    | dsimp only

theorem State.raiseToken_does (s : State) (t n : Nat) (h0 : Does fs s0 s) (hs : Field.sub [.tokens] fs = true := by decide) :
    Does fs s0 (State.raiseToken s t n) := by
  refine Does.step (gs := [.tokens]) ?_ h0 hs
  unfold State.raiseToken
  try dsimp only
  repeat' first
    | with_reducible exact Does.refl
    | with_reducible assumption
    | with_reducible refine Does.ite ?_ ?_
    | split
    | (with_reducible refine State.withTokens_does _ _ ?_)
    | ((with_reducible refine Does.leaf ?_ rfl ?_ rfl rfl rfl rfl); rotate_left; (intro f hf; cases f <;> first | rfl | exact absurd (by decide) hf))
    | dsimp only

theorem State.setFaulted_does (s : State) (t : Nat) (b : Bool) (h0 : Does fs s0 s) (hs : Field.sub [.tokFaulted] fs = true := by decide) :
    Does fs s0 (State.setFaulted s t b) := by
  refine Does.step (gs := [.tokFaulted]) ?_ h0 hs
  unfold State.setFaulted
  try dsimp only
  repeat' first
    | with_reducible exact Does.refl
    | with_reducible assumption
    | with_reducible refine Does.ite ?_ ?_
    | split
    | (with_reducible refine State.withTokFaulted_does _ _ ?_)
    | ((with_reducible refine Does.leaf ?_ rfl ?_ rfl rfl rfl rfl); rotate_left; (intro f hf; cases f <;> first | rfl | exact absurd (by decide) hf))
    | dsimp only

theorem State.signal_does (s : State) (t : Nat) (st : Status) (h0 : Does fs s0 s) (hs : Field.sub [.tokens, .tokFaulted] fs = true := by decide) :
    Does fs s0 (State.signal s t st) := by
  refine Does.step (gs := [.tokens, .tokFaulted]) ?_ h0 hs
  unfold State.signal
  try dsimp only
  repeat' first
    | with_reducible exact Does.refl
    | with_reducible assumption
    | (with_reducible refine State.raiseToken_does _ _ _ ?_)
    | (with_reducible refine State.setFaulted_does _ _ _ ?_)
    | with_reducible refine Does.ite ?_ ?_
    | split
    | dsimp only

theorem State.writeRecord_does (s : State) (r tag opcode : Nat) (st : Status) (detail slot : Nat)
    (faultedWait signalled : Bool) (signal ended : Nat) (h0 : Does fs s0 s) (hs : Field.sub [.regs, .heldOut, .bwWindow, .bwTotals, .out] fs = true := by decide) :
    Does fs s0 (State.writeRecord s r tag opcode st detail slot faultedWait signalled signal ended) := by
  refine Does.step (gs := [.regs, .heldOut, .bwWindow, .bwTotals, .out]) ?_ h0 hs
  unfold State.writeRecord
  try dsimp only
  repeat' first
    | with_reducible exact Does.refl
    | with_reducible assumption
    | (with_reducible refine State.bump_does _ _ _ _ ?_)
    | (with_reducible refine State.countEvent_does _ _ _ _ ?_)
    | (with_reducible refine State.emitHost_does _ _ ?_)
    | (with_reducible refine State.hostWrite_does _ _ _ _ ?_)
    | with_reducible refine Does.ite ?_ ?_
    | split
    | dsimp only

theorem State.setPacket_does (s : State) (p : Packet) (h0 : Does fs s0 s) (hs : Field.sub [.flight] fs = true := by decide) :
    Does fs s0 (s.setPacket p) := by
  refine Does.step (gs := [.flight]) (Does.flight (s := s) ?_ ?_ rfl rfl rfl) h0 hs
  · intro q hq
    obtain ⟨x, hx, rfl⟩ := List.mem_map.1 hq
    refine ⟨x, hx, ?_⟩
    split
    · exact Eq.symm ‹_›
    · rfl
  · intro f hf
    cases f <;> first | rfl | exact absurd (by decide) hf

theorem State.updPacket_does (s : State) (pid : Nat) (f : Packet → Packet) (h0 : Does fs s0 s)
    (hf : ∀ p, (f p).pid = p.pid := by intro p; first | rfl | (dsimp only; split <;> rfl))
    (hs : Field.sub [.flight] fs = true := by decide) : Does fs s0 (s.updPacket pid f) := by
  refine Does.step (gs := [.flight]) (Does.flight (s := s) ?_ ?_ rfl rfl rfl) h0 hs
  · intro q hq
    obtain ⟨x, hx, rfl⟩ := List.mem_map.1 hq
    refine ⟨x, hx, ?_⟩
    split
    · exact hf x
    · rfl
  · intro f hf
    cases f <;> first | rfl | exact absurd (by decide) hf

theorem State.dropPacket_does (s : State) (pid : Nat) (h0 : Does fs s0 s) (hs : Field.sub [.flight] fs = true := by decide) :
    Does fs s0 (s.dropPacket pid) := by
  refine Does.step (gs := [.flight]) (Does.flight (s := s) ?_ ?_ rfl rfl rfl) h0 hs
  · intro q hq
    exact ⟨q, (List.mem_filter.1 hq).1, rfl⟩
  · intro f hf
    cases f <;> first | rfl | exact absurd (by decide) hf

theorem State.endPacket_does (s : State) (pid : Nat) (st : Status) (d : Nat) (h0 : Does fs s0 s)
    (hs : Field.sub [.flight] fs = true := by decide) : Does fs s0 (s.endPacket pid st d) :=
  State.updPacket_does _ _ _ h0 (fun p => by split <;> rfl) hs

theorem State.endBad_does (s : State) (pid tag : Nat) (bs : List Nat) (h0 : Does fs s0 s) (hs : Field.sub [.regs, .flight, .ilog, .reports, .reportSeq, .riskEvents, .out] fs = true := by decide) :
    Does fs s0 (State.endBad s pid tag bs) := by
  refine Does.step (gs := [.regs, .flight, .ilog, .reports, .reportSeq, .riskEvents, .out]) ?_ h0 hs
  unfold State.endBad
  try dsimp only
  repeat' first
    | with_reducible exact Does.refl
    | with_reducible assumption
    | (with_reducible refine State.noteBads_does _ _ _ ?_)
    | (with_reducible refine State.endPacket_does _ _ _ _ ?_)
    | with_reducible refine Does.ite ?_ ?_
    | split
    | dsimp only

theorem State.reportEnd_does (s : State) (l : LateRecord) (h0 : Does fs s0 s) (hs : Field.sub [.regs, .tokens, .tokFaulted, .flight, .heldOut, .bwWindow, .bwTotals, .out] fs = true := by decide) :
    Does fs s0 (State.reportEnd s l) := by
  refine Does.step (gs := [.regs, .tokens, .tokFaulted, .flight, .heldOut, .bwWindow, .bwTotals, .out]) ?_ h0 hs
  unfold State.reportEnd
  try dsimp only
  repeat' first
    | with_reducible exact Does.refl
    | with_reducible assumption
    | (with_reducible refine State.countEvent_does _ _ _ _ ?_)
    | (with_reducible refine State.signal_does _ _ _ ?_)
    | (with_reducible refine State.writeRecord_does _ _ _ _ _ _ _ _ _ _ _ ?_)
    | (with_reducible refine State.dropPacket_does _ _ ?_)
    | with_reducible refine Does.ite ?_ ?_
    | split
    | dsimp only

theorem State.flushStops_does (s : State) (r : Nat) (h0 : Does fs s0 s) (hs : Field.sub [.regs, .tokens, .tokFaulted, .flight, .heldOut, .lateRecords, .bwWindow, .bwTotals, .out] fs = true := by decide) :
    Does fs s0 (State.flushStops s r) := by
  refine Does.step (gs := [.regs, .tokens, .tokFaulted, .flight, .heldOut, .lateRecords, .bwWindow, .bwTotals, .out]) ?_ h0 hs
  unfold State.flushStops
  try dsimp only
  repeat' first
    | with_reducible exact Does.refl
    | with_reducible assumption
    | (with_reducible refine State.reportEnd_does _ _ ?_)
    | with_reducible refine Does.ite ?_ ?_
    | ((with_reducible refine Does.foldl (fun x b h => ?_) _ ?_); try dsimp only)
    | ((with_reducible refine Does.foldl_fst (fun x b h => ?_) _ ?_); try dsimp only)
    | split
    | (with_reducible refine State.withLateRecords_does _ _ ?_)
    | ((with_reducible refine Does.leaf ?_ rfl ?_ rfl rfl rfl rfl); rotate_left; (intro f hf; cases f <;> first | rfl | exact absurd (by decide) hf))
    | dsimp only

theorem State.finishLate_does (s : State) (l : LateRecord) (h0 : Does fs s0 s) (hs : Field.sub [.regs, .tokens, .tokFaulted, .flight, .heldOut, .lateRecords, .bwWindow, .bwTotals, .out] fs = true := by decide) :
    Does fs s0 (State.finishLate s l) := by
  refine Does.step (gs := [.regs, .tokens, .tokFaulted, .flight, .heldOut, .lateRecords, .bwWindow, .bwTotals, .out]) ?_ h0 hs
  unfold State.finishLate
  try dsimp only
  repeat' first
    | with_reducible exact Does.refl
    | with_reducible assumption
    | (with_reducible refine State.reportEnd_does _ _ ?_)
    | (with_reducible refine State.flushStops_does _ _ ?_)
    | with_reducible refine Does.ite ?_ ?_
    | split
    | (with_reducible refine State.withLateRecords_does _ _ ?_)
    | ((with_reducible refine Does.leaf ?_ rfl ?_ rfl rfl rfl rfl); rotate_left; (intro f hf; cases f <;> first | rfl | exact absurd (by decide) hf))
    | dsimp only

theorem State.finishPacket_does (s : State) (pid : Nat) (h0 : Does fs s0 s) (hs : Field.sub [.regs, .tokens, .tokFaulted, .flight, .heldOut, .lateRecords, .bwWindow, .bwTotals, .out] fs = true := by decide) :
    Does fs s0 (State.finishPacket s pid) := by
  refine Does.step (gs := [.regs, .tokens, .tokFaulted, .flight, .heldOut, .lateRecords, .bwWindow, .bwTotals, .out]) ?_ h0 hs
  unfold State.finishPacket
  try dsimp only
  repeat' first
    | with_reducible exact Does.refl
    | with_reducible assumption
    | (with_reducible refine State.updPacket_does _ _ _ ?_)
    | (with_reducible refine State.reportEnd_does _ _ ?_)
    | with_reducible refine Does.ite ?_ ?_
    | split
    | (with_reducible refine State.withLateRecords_does _ _ ?_)
    | ((with_reducible refine Does.leaf ?_ rfl ?_ rfl rfl rfl rfl); rotate_left; (intro f hf; cases f <;> first | rfl | exact absurd (by decide) hf))
    | dsimp only

end Sys2Proof.Machine
end

