-- ==== Sys2Proof/Laws/DoesPayload.lean ====
section
/-! SUPPORT. What the operations of Machine/Payload.lean may change. -/

set_option Elab.async false
set_option linter.unusedTactic false
set_option linter.unreachableTactic false
set_option maxRecDepth 2000

namespace Sys2Proof.Machine

variable {fs : List Field} {s0 : State}

theorem State.assignSeq_does (s : State) (op : Op) (h0 : Does fs s0 s) (hs : Field.sub [.regs, .reserved] fs = true := by decide) :
    Does fs s0 (s.assignSeq op).2 := by
  refine Does.step (gs := [.regs, .reserved]) ?_ h0 hs
  have hr : ∀ l, Does [.regs, .reserved] s { s with reserved := l } := fun l => by
    refine Does.leaf Does.refl rfl ?_ rfl rfl rfl rfl
    intro f hf
    cases f <;> first | rfl | exact absurd (by decide) hf
  unfold State.assignSeq
  dsimp only
  split
  · split
    · exact Does.refl
    · exact State.wr_does _ _ _ _ (hr _)
  · split
    · exact hr _
    · exact State.wr_does _ _ _ _ Does.refl
  · exact Does.refl

/-- A packet that takes the next number enters flight. -/
theorem State.enter_does (s a : State) (p : Packet) (h : Does fs s a) (hp : p.pid = a.nextId) (n : Nat)
    (hn : n = a.nextId + 1) (hs : Field.sub [.flight, .nextId] fs = true := by decide) :
    Does fs s { a with flight := a.flight ++ [p], nextId := n } := by
  refine Does.step (gs := [.flight, .nextId]) ⟨?_, ?_⟩ h hs
  · intro f hf
    cases f <;> first | rfl | exact absurd (by decide) hf
  · rintro ⟨h1, h2, h3⟩
    refine ⟨h1, h2, fun q hq => ?_⟩
    subst hn
    rcases List.mem_append.1 hq with hq | hq
    · exact Nat.lt_succ_of_lt (h3 q hq)
    · rw [List.mem_singleton.1 hq, hp]
      exact Nat.lt_succ_self _

theorem State.noteBads_nextId (s : State) (tag : Nat) (bs : List Nat) : (s.noteBads tag bs).nextId = s.nextId :=
  (State.noteBads_does (fs := [.regs, .ilog, .reports, .reportSeq, .riskEvents, .out]) s tag bs Does.refl).only .nextId (by decide)

theorem State.assignSeq_nextId (s : State) (op : Op) : (s.assignSeq op).2.nextId = s.nextId :=
  (State.assignSeq_does (fs := [.regs, .reserved]) s op Does.refl).only .nextId (by decide)

theorem State.readsTraffic_nextId (s : State) (via : Via) (rs : List (Nat × Nat)) : (s.readsTraffic via rs).nextId = s.nextId :=
  (State.readsTraffic_does (fs := [.regs, .ilog, .reports, .reportSeq, .riskEvents, .bwWindow, .bwTotals, .out, .free]) s via rs Does.refl).only .nextId (by decide)

theorem State.fetchPacket_does (s : State) (h : PktHdr) (op : Op) (h0 : Does fs s0 s)
    (hs : Field.sub [.regs, .nextId, .flight, .ilog, .reports, .reportSeq, .reserved, .riskEvents, .bwWindow, .bwTotals, .out, .free] fs = true := by decide) : Does fs s0 (s.fetchPacket h op) := by
  refine Does.step (gs := [.regs, .nextId, .flight, .ilog, .reports, .reportSeq, .reserved, .riskEvents, .bwWindow, .bwTotals, .out, .free]) ?_ h0 hs
  unfold State.fetchPacket
  extract_lets slot att pid r c failed itself again phase q cd p s1 s1' s2 held s3
  have hq : Does [.regs, .nextId, .flight, .ilog, .reports, .reportSeq, .reserved, .riskEvents, .bwWindow, .bwTotals, .out, .free] s q.2 ∧ q.2.nextId = s.nextId := by
    unfold q
    split
    · exact ⟨State.assignSeq_does _ _ Does.refl, State.assignSeq_nextId ..⟩
    · exact ⟨Does.refl, rfl⟩
  have h1 : Does [.regs, .nextId, .flight, .ilog, .reports, .reportSeq, .reserved, .riskEvents, .bwWindow, .bwTotals, .out, .free] s s1 ∧ s1.nextId = s.nextId := by
    unfold s1
    cases failed
    · exact hq
    · dsimp only
      split
      · exact hq
      · exact ⟨State.noteBads_does _ _ _ hq.1, (State.noteBads_nextId ..).trans hq.2⟩
  have h1' : Does [.regs, .nextId, .flight, .ilog, .reports, .reportSeq, .reserved, .riskEvents, .bwWindow, .bwTotals, .out, .free] s s1' ∧ s1'.nextId = s.nextId :=
    ⟨State.readsTraffic_does _ _ _ h1.1, (State.readsTraffic_nextId ..).trans h1.2⟩
  have h2 : Does [.regs, .nextId, .flight, .ilog, .reports, .reportSeq, .reserved, .riskEvents, .bwWindow, .bwTotals, .out, .free] s s2 ∧ s2.nextId = s.nextId :=
    ⟨State.bump_does _ _ _ _ h1'.1, (State.wr_nextId ..).trans h1'.2⟩
  have h3 : Does [.regs, .nextId, .flight, .ilog, .reports, .reportSeq, .reserved, .riskEvents, .bwWindow, .bwTotals, .out, .free] s s3 ∧ s3.nextId = s.nextId := by
    unfold s3
    split
    · exact h2
    · exact ⟨State.wr_does _ _ _ _ h2.1, (State.wr_nextId ..).trans h2.2⟩
  refine State.countEvent_does _ _ _ _ (State.enter_does s s3 p h3.1 h3.2.symm _ ?_)
  rw [h3.2]

theorem State.stopRing_does (s : State) (r tag opcode : Nat) (st : Status) (detail : Nat) (h0 : Does fs s0 s) (hs : Field.sub [.regs, .tokens, .tokFaulted, .flight, .heldOut, .lateRecords, .bwWindow, .bwTotals, .out] fs = true := by decide) :
    Does fs s0 (State.stopRing s r tag opcode st detail) := by
  refine Does.step (gs := [.regs, .tokens, .tokFaulted, .flight, .heldOut, .lateRecords, .bwWindow, .bwTotals, .out]) ?_ h0 hs
  unfold State.stopRing
  try dsimp only
  repeat' first
    | with_reducible exact Does.refl
    | with_reducible assumption
    | (with_reducible refine State.wr_does _ _ _ _ ?_)
    | (with_reducible refine State.reportEnd_does _ _ ?_)
    | with_reducible refine Does.ite ?_ ?_
    | split
    | (with_reducible refine State.withLateRecords_does _ _ ?_)
    | ((with_reducible refine Does.leaf ?_ rfl ?_ rfl rfl rfl rfl); rotate_left; (intro f hf; cases f <;> first | rfl | exact absurd (by decide) hf))
    | dsimp only

end Sys2Proof.Machine
end

