-- ==== Sys2Proof/Laws/DoesLinkOps.lean ====
section
/-! SUPPORT. What the operations of Machine/LinkOps.lean may change. -/

set_option Elab.async false
set_option linter.unusedTactic false
set_option linter.unreachableTactic false
set_option maxRecDepth 2000

namespace Sys2Proof.Machine

variable {fs : List Field} {s0 : State}

theorem State.withArbiters_does (s : State) (v) (h0 : Does fs s0 s)
    (hs : Field.sub [.arbiters] fs = true := by decide) : Does fs s0 { s with arbiters := v } := by
  refine Does.step (gs := [.arbiters]) (Does.leaf Does.refl rfl ?_ rfl rfl rfl rfl) h0 hs
  intro f hf
  cases f <;> first | rfl | exact absurd (by decide) hf

theorem State.withCopy_does (s : State) (v) (h0 : Does fs s0 s)
    (hs : Field.sub [.copy] fs = true := by decide) : Does fs s0 { s with copy := v } := by
  refine Does.step (gs := [.copy]) (Does.leaf Does.refl rfl ?_ rfl rfl rfl rfl) h0 hs
  intro f hf
  cases f <;> first | rfl | exact absurd (by decide) hf

theorem State.withDelivered_does (s : State) (v) (h0 : Does fs s0 s)
    (hs : Field.sub [.delivered] fs = true := by decide) : Does fs s0 { s with delivered := v } := by
  refine Does.step (gs := [.delivered]) (Does.leaf Does.refl rfl ?_ rfl rfl rfl rfl) h0 hs
  intro f hf
  cases f <;> first | rfl | exact absurd (by decide) hf

theorem State.withPorts_does (s : State) (v) (h0 : Does fs s0 s)
    (hs : Field.sub [.ports] fs = true := by decide) : Does fs s0 { s with ports := v } := by
  refine Does.step (gs := [.ports]) (Does.leaf Does.refl rfl ?_ rfl rfl rfl rfl) h0 hs
  intro f hf
  cases f <;> first | rfl | exact absurd (by decide) hf

theorem State.setPort_does (s : State) (p : Nat) (q : PortSt) (h0 : Does fs s0 s) (hs : Field.sub [.regs, .ports] fs = true := by decide) :
    Does fs s0 (State.setPort s p q) := by
  refine Does.step (gs := [.regs, .ports]) ?_ h0 hs
  unfold State.setPort
  try dsimp only
  repeat' first
    | with_reducible exact Does.refl
    | with_reducible assumption
    | (with_reducible refine State.wr_does _ _ _ _ ?_)
    | with_reducible refine Does.ite ?_ ?_
    | ((with_reducible refine Does.foldl (fun x b h => ?_) _ ?_); try dsimp only)
    | ((with_reducible refine Does.foldl_fst (fun x b h => ?_) _ ?_); try dsimp only)
    | split
    | (with_reducible refine State.withPorts_does _ _ ?_)
    | ((with_reducible refine Does.leaf ?_ rfl ?_ rfl rfl rfl rfl); rotate_left; (intro f hf; cases f <;> first | rfl | exact absurd (by decide) hf))
    | dsimp only

theorem State.portEvent_does (s : State) (p j n : Nat) (h0 : Does fs s0 s) (hs : Field.sub [.regs] fs = true := by decide) :
    Does fs s0 (State.portEvent s p j n) := by
  refine Does.step (gs := [.regs]) ?_ h0 hs
  unfold State.portEvent
  try dsimp only
  repeat' first
    | with_reducible exact Does.refl
    | with_reducible assumption
    | (with_reducible refine State.countEvent_does _ _ _ _ ?_)
    | with_reducible refine Does.ite ?_ ?_
    | split
    | dsimp only

theorem State.groupEvent_does (s : State) (j n : Nat) (h0 : Does fs s0 s) (hs : Field.sub [.regs, .free] fs = true := by decide) :
    Does fs s0 (State.groupEvent s j n) := by
  refine Does.step (gs := [.regs, .free]) ?_ h0 hs
  unfold State.groupEvent
  try dsimp only
  repeat' first
    | with_reducible exact Does.refl
    | with_reducible assumption
    | (with_reducible refine State.freeVal_does _ _ ?_)
    | (with_reducible refine State.countEvent_does _ _ _ _ ?_)
    | with_reducible refine Does.ite ?_ ?_
    | split
    | dsimp only

theorem State.sendFlit_does (s : State) (p type vc seq : Nat) (payload : List Byte) (h0 : Does fs s0 s) (hs : Field.sub [.regs, .ports, .bwWindow, .bwTotals, .out] fs = true := by decide) :
    Does fs s0 (State.sendFlit s p type vc seq payload) := by
  refine Does.step (gs := [.regs, .ports, .bwWindow, .bwTotals, .out]) ?_ h0 hs
  unfold State.sendFlit
  try dsimp only
  repeat' first
    | with_reducible exact Does.refl
    | with_reducible assumption
    | (with_reducible refine State.emit_does _ _ ?_)
    | (with_reducible refine State.bump_does _ _ _ _ ?_)
    | (with_reducible refine State.countBw_does _ _ _ _ ?_)
    | (with_reducible refine State.setPort_does _ _ _ ?_)
    | (with_reducible refine State.portEvent_does _ _ _ _ ?_)
    | with_reducible refine Does.ite ?_ ?_
    | split
    | dsimp only

theorem State.sendNak_does (s : State) (p : Nat) (h0 : Does fs s0 s) (hs : Field.sub [.regs, .ports, .bwWindow, .bwTotals, .out] fs = true := by decide) :
    Does fs s0 (State.sendNak s p) := by
  refine Does.step (gs := [.regs, .ports, .bwWindow, .bwTotals, .out]) ?_ h0 hs
  unfold State.sendNak
  try dsimp only
  repeat' first
    | with_reducible exact Does.refl
    | with_reducible assumption
    | (with_reducible refine State.sendFlit_does _ _ _ _ _ _ ?_)
    | with_reducible refine Does.ite ?_ ?_
    | split
    | dsimp only

theorem State.startCell_does (s : State) (p vc : Nat) (h0 : Does fs s0 s) (hs : Field.sub [.regs, .ports, .copy, .copyWas, .free] fs = true := by decide) :
    Does fs s0 (State.startCell s p vc) := by
  refine Does.step (gs := [.regs, .ports, .copy, .copyWas, .free]) ?_ h0 hs
  unfold State.startCell
  try dsimp only
  repeat' first
    | with_reducible exact Does.refl
    | with_reducible assumption
    | (with_reducible refine State.wr_does _ _ _ _ ?_)
    | (with_reducible refine State.setPort_does _ _ _ ?_)
    | (with_reducible refine State.groupEvent_does _ _ _ ?_)
    | with_reducible refine Does.ite ?_ ?_
    | split
    | (with_reducible refine State.withCopy_does _ _ ?_)
    | ((with_reducible refine Does.leaf ?_ rfl ?_ rfl rfl rfl rfl); rotate_left; (intro f hf; cases f <;> first | rfl | exact absurd (by decide) hf))
    | dsimp only

theorem State.sendData_does (s : State) (p vc : Nat) (h0 : Does fs s0 s) (hs : Field.sub [.regs, .ports, .copy, .copyWas, .bwWindow, .bwTotals, .out, .free] fs = true := by decide) :
    Does fs s0 (State.sendData s p vc) := by
  refine Does.step (gs := [.regs, .ports, .copy, .copyWas, .bwWindow, .bwTotals, .out, .free]) ?_ h0 hs
  unfold State.sendData
  try dsimp only
  repeat' first
    | with_reducible exact Does.refl
    | with_reducible assumption
    | (with_reducible refine State.setPort_does _ _ _ ?_)
    | (with_reducible refine State.sendFlit_does _ _ _ _ _ _ ?_)
    | (with_reducible refine State.startCell_does _ _ _ ?_)
    | with_reducible refine Does.ite ?_ ?_
    | split
    | dsimp only

theorem State.pumpFlits_does (p n : Nat) (s : State) (h0 : Does fs s0 s)
    (hs : Field.sub [.regs, .arbiters, .ports, .copy, .copyWas, .bwWindow, .bwTotals, .out, .free] fs = true := by decide) : Does fs s0 (State.pumpFlits p n s) := by
  refine Does.step (gs := [.regs, .arbiters, .ports, .copy, .copyWas, .bwWindow, .bwTotals, .out, .free]) ?_ h0 hs
  have h : ∀ x, Does [.regs, .arbiters, .ports, .copy, .copyWas, .bwWindow, .bwTotals, .out, .free] s x → Does [.regs, .arbiters, .ports, .copy, .copyWas, .bwWindow, .bwTotals, .out, .free] s (State.pumpFlits p n x) := by
    induction n with
    | zero => exact fun x h => h
    | succ n ih =>
      intro x h
      rw [State.pumpFlits]
      dsimp only
      split
      · exact h
      · exact ih _ (State.sendData_does _ _ _ (State.withArbiters_does _ _ h))
  exact h s Does.refl

theorem State.pump_does (s : State) (p : Nat) (h0 : Does fs s0 s) (hs : Field.sub [.regs, .arbiters, .ports, .copy, .copyWas, .bwWindow, .bwTotals, .out, .free] fs = true := by decide) :
    Does fs s0 (State.pump s p) := by
  refine Does.step (gs := [.regs, .arbiters, .ports, .copy, .copyWas, .bwWindow, .bwTotals, .out, .free]) ?_ h0 hs
  unfold State.pump
  try dsimp only
  repeat' first
    | with_reducible exact Does.refl
    | with_reducible assumption
    | (with_reducible refine State.pumpFlits_does _ _ _ ?_)
    | with_reducible refine Does.ite ?_ ?_
    | split
    | dsimp only

theorem State.idleFlit_does (s : State) (p : Nat) (h0 : Does fs s0 s) (hs : Field.sub [.regs, .ports, .bwWindow, .bwTotals, .out] fs = true := by decide) :
    Does fs s0 (State.idleFlit s p) := by
  refine Does.step (gs := [.regs, .ports, .bwWindow, .bwTotals, .out]) ?_ h0 hs
  unfold State.idleFlit
  try dsimp only
  repeat' first
    | with_reducible exact Does.refl
    | with_reducible assumption
    | (with_reducible refine State.sendFlit_does _ _ _ _ _ _ ?_)
    | with_reducible refine Does.ite ?_ ?_
    | split
    | dsimp only

theorem State.queueCell_does (s : State) (p vc : Nat) (bytes : List Byte) (h0 : Does fs s0 s) (hs : Field.sub [.regs, .arbiters, .ports, .copy, .copyWas, .bwWindow, .bwTotals, .out, .free] fs = true := by decide) :
    Does fs s0 (State.queueCell s p vc bytes) := by
  refine Does.step (gs := [.regs, .arbiters, .ports, .copy, .copyWas, .bwWindow, .bwTotals, .out, .free]) ?_ h0 hs
  unfold State.queueCell
  try dsimp only
  repeat' first
    | with_reducible exact Does.refl
    | with_reducible assumption
    | (with_reducible refine State.setPort_does _ _ _ ?_)
    | (with_reducible refine State.pump_does _ _ ?_)
    | with_reducible refine Does.ite ?_ ?_
    | split
    | dsimp only

theorem State.sendCell_does (s : State) (vc dest kind stream : Nat) (body : List Byte) (h0 : Does fs s0 s) (hs : Field.sub [.regs, .arbiters, .ports, .delivered, .copy, .copyWas, .bwWindow, .bwTotals, .out, .free] fs = true := by decide) :
    Does fs s0 (State.sendCell s vc dest kind stream body) := by
  refine Does.step (gs := [.regs, .arbiters, .ports, .delivered, .copy, .copyWas, .bwWindow, .bwTotals, .out, .free]) ?_ h0 hs
  unfold State.sendCell
  try dsimp only
  repeat' first
    | with_reducible exact Does.refl
    | with_reducible assumption
    | (with_reducible refine State.count_does _ _ _ _ ?_)
    | (with_reducible refine State.queueCell_does _ _ _ _ ?_)
    | with_reducible refine Does.ite ?_ ?_
    | split
    | (with_reducible refine State.withDelivered_does _ _ ?_)
    | ((with_reducible refine Does.leaf ?_ rfl ?_ rfl rfl rfl rfl); rotate_left; (intro f hf; cases f <;> first | rfl | exact absurd (by decide) hf))
    | dsimp only

theorem State.takeTotals_does (s : State) (p ack cvc credits : Nat) (h0 : Does fs s0 s) (hs : Field.sub [.regs, .ports] fs = true := by decide) :
    Does fs s0 (State.takeTotals s p ack cvc credits) := by
  refine Does.step (gs := [.regs, .ports]) ?_ h0 hs
  unfold State.takeTotals
  try dsimp only
  repeat' first
    | with_reducible exact Does.refl
    | with_reducible assumption
    | (with_reducible refine State.wr_does _ _ _ _ ?_)
    | (with_reducible refine State.setPort_does _ _ _ ?_)
    | with_reducible refine Does.ite ?_ ?_
    | split
    | dsimp only

theorem State.resendAll_does (s : State) (p : Nat) (h0 : Does fs s0 s) (hs : Field.sub [.regs, .ports, .bwWindow, .bwTotals, .out] fs = true := by decide) :
    Does fs s0 (State.resendAll s p) := by
  refine Does.step (gs := [.regs, .ports, .bwWindow, .bwTotals, .out]) ?_ h0 hs
  unfold State.resendAll
  try dsimp only
  repeat' first
    | with_reducible exact Does.refl
    | with_reducible assumption
    | (with_reducible refine State.count_does _ _ _ _ ?_)
    | (with_reducible refine State.portEvent_does _ _ _ _ ?_)
    | (with_reducible refine State.sendFlit_does _ _ _ _ _ _ ?_)
    | with_reducible refine Does.ite ?_ ?_
    | ((with_reducible refine Does.foldl (fun x b h => ?_) _ ?_); try dsimp only)
    | ((with_reducible refine Does.foldl_fst (fun x b h => ?_) _ ?_); try dsimp only)
    | split
    | dsimp only

theorem State.retrain_does (s : State) (p : Nat) (h0 : Does fs s0 s) (hs : Field.sub [.regs, .reports, .reportSeq, .riskEvents, .out] fs = true := by decide) :
    Does fs s0 (State.retrain s p) := by
  refine Does.step (gs := [.regs, .reports, .reportSeq, .riskEvents, .out]) ?_ h0 hs
  unfold State.retrain
  try dsimp only
  repeat' first
    | with_reducible exact Does.refl
    | with_reducible assumption
    | (with_reducible refine State.wr_does _ _ _ _ ?_)
    | (with_reducible refine State.count_does _ _ _ _ ?_)
    | (with_reducible refine State.report_does _ _ _ ?_)
    | (with_reducible refine State.noteRisk_does _ _ _ ?_)
    | with_reducible refine Does.ite ?_ ?_
    | split
    | dsimp only

theorem State.resendOrRetrain_does (s : State) (p : Nat) (h0 : Does fs s0 s) (hs : Field.sub [.regs, .reports, .reportSeq, .ports, .riskEvents, .bwWindow, .bwTotals, .out] fs = true := by decide) :
    Does fs s0 (State.resendOrRetrain s p) := by
  refine Does.step (gs := [.regs, .reports, .reportSeq, .ports, .riskEvents, .bwWindow, .bwTotals, .out]) ?_ h0 hs
  unfold State.resendOrRetrain
  try dsimp only
  repeat' first
    | with_reducible exact Does.refl
    | with_reducible assumption
    | (with_reducible refine State.setPort_does _ _ _ ?_)
    | (with_reducible refine State.resendAll_does _ _ ?_)
    | (with_reducible refine State.retrain_does _ _ ?_)
    | with_reducible refine Does.ite ?_ ?_
    | split
    | dsimp only

theorem State.discardPort_does (s : State) (p : Nat) (h0 : Does fs s0 s) (hs : Field.sub [.regs, .ports] fs = true := by decide) :
    Does fs s0 (State.discardPort s p) := by
  refine Does.step (gs := [.regs, .ports]) ?_ h0 hs
  unfold State.discardPort
  try dsimp only
  repeat' first
    | with_reducible exact Does.refl
    | with_reducible assumption
    | (with_reducible refine State.wr_does _ _ _ _ ?_)
    | (with_reducible refine State.count_does _ _ _ _ ?_)
    | (with_reducible refine State.setPort_does _ _ _ ?_)
    | with_reducible refine Does.ite ?_ ?_
    | ((with_reducible refine Does.foldl (fun x b h => ?_) _ ?_); try dsimp only)
    | ((with_reducible refine Does.foldl_fst (fun x b h => ?_) _ ?_); try dsimp only)
    | split
    | dsimp only

theorem State.takeSync_does (s : State) (p : Nat) (t : FlitTotals) (peerId peerPort session : Nat) (credits : List Nat) (h0 : Does fs s0 s) (hs : Field.sub [.regs, .arbiters, .reports, .reportSeq, .ports, .copy, .copyWas, .bwWindow, .bwTotals, .out, .free] fs = true := by decide) :
    Does fs s0 (State.takeSync s p t peerId peerPort session credits) := by
  refine Does.step (gs := [.regs, .arbiters, .reports, .reportSeq, .ports, .copy, .copyWas, .bwWindow, .bwTotals, .out, .free]) ?_ h0 hs
  unfold State.takeSync
  try dsimp only
  repeat' first
    | with_reducible exact Does.refl
    | with_reducible assumption
    | (with_reducible refine State.wr_does _ _ _ _ ?_)
    | (with_reducible refine State.report_does _ _ _ ?_)
    | (with_reducible refine State.setPort_does _ _ _ ?_)
    | (with_reducible refine State.pump_does _ _ ?_)
    | (with_reducible refine State.takeTotals_does _ _ _ _ _ ?_)
    | (with_reducible refine State.resendAll_does _ _ ?_)
    | (with_reducible refine State.discardPort_does _ _ ?_)
    | (with_reducible refine State.ack_does _ _ ?_)
    | with_reducible refine Does.ite ?_ ?_
    | ((with_reducible refine Does.foldl (fun x b h => ?_) _ ?_); try dsimp only)
    | ((with_reducible refine Does.foldl_fst (fun x b h => ?_) _ ?_); try dsimp only)
    | split
    | dsimp only

end Sys2Proof.Machine
end

