-- ==== Sys2Proof/Laws/DoesCollOps.lean ====
section
/-! SUPPORT. What the operations of Machine/CollOps.lean may change. -/

set_option Elab.async false
set_option linter.unusedTactic false
set_option linter.unreachableTactic false
set_option maxRecDepth 2000

namespace Sys2Proof.Machine

variable {fs : List Field} {s0 : State}

theorem State.withColls_does (s : State) (v) (h0 : Does fs s0 s)
    (hs : Field.sub [.colls] fs = true := by decide) : Does fs s0 { s with colls := v } := by
  refine Does.step (gs := [.colls]) (Does.leaf Does.refl rfl ?_ rfl rfl rfl rfl) h0 hs
  intro f hf
  cases f <;> first | rfl | exact absurd (by decide) hf

theorem State.withEndedColls_does (s : State) (v) (h0 : Does fs s0 s)
    (hs : Field.sub [.endedColls] fs = true := by decide) : Does fs s0 { s with endedColls := v } := by
  refine Does.step (gs := [.endedColls]) (Does.leaf Does.refl rfl ?_ rfl rfl rfl rfl) h0 hs
  intro f hf
  cases f <;> first | rfl | exact absurd (by decide) hf

theorem State.withHeldMsgs_does (s : State) (v) (h0 : Does fs s0 s)
    (hs : Field.sub [.heldMsgs] fs = true := by decide) : Does fs s0 { s with heldMsgs := v } := by
  refine Does.step (gs := [.heldMsgs]) (Does.leaf Does.refl rfl ?_ rfl rfl rfl rfl) h0 hs
  intro f hf
  cases f <;> first | rfl | exact absurd (by decide) hf

theorem State.withStep_does (s : State) (v) (h0 : Does fs s0 s)
    (hs : Field.sub [.step] fs = true := by decide) : Does fs s0 { s with step := v } := by
  refine Does.step (gs := [.step]) (Does.leaf Does.refl rfl ?_ rfl rfl rfl rfl) h0 hs
  intro f hf
  cases f <;> first | rfl | exact absurd (by decide) hf

theorem State.sendColl_does (s : State) (c : CollSt) (rank vc phase msg : Nat) (content : List Byte) (h0 : Does fs s0 s) (hs : Field.sub [.regs, .arbiters, .ports, .delivered, .copy, .copyWas, .bwWindow, .bwTotals, .out, .free] fs = true := by decide) :
    Does fs s0 (State.sendColl s c rank vc phase msg content) := by
  refine Does.step (gs := [.regs, .arbiters, .ports, .delivered, .copy, .copyWas, .bwWindow, .bwTotals, .out, .free]) ?_ h0 hs
  unfold State.sendColl
  try dsimp only
  repeat' first
    | with_reducible exact Does.refl
    | with_reducible assumption
    | (with_reducible refine State.sendCell_does _ _ _ _ _ _ ?_)
    | with_reducible refine Does.ite ?_ ?_
    | split
    | dsimp only

theorem State.sendUnit_does (s : State) (c : CollSt) (rank phase unit : Nat) (narrow : Bool) (a : Nat) (bs : List Byte) (h0 : Does fs s0 s) (hs : Field.sub [.regs, .arbiters, .nextId, .ports, .delivered, .samples, .copy, .copyWas, .bwWindow, .bwTotals, .out, .free] fs = true := by decide) :
    Does fs s0 (State.sendUnit s c rank phase unit narrow a bs) := by
  refine Does.step (gs := [.regs, .arbiters, .nextId, .ports, .delivered, .samples, .copy, .copyWas, .bwWindow, .bwTotals, .out, .free]) ?_ h0 hs
  unfold State.sendUnit
  try dsimp only
  repeat' first
    | with_reducible exact Does.refl
    | with_reducible assumption
    | (with_reducible refine State.sampleOnce_does _ _ _ _ _ _ ?_)
    | (with_reducible refine State.sendCell_does _ _ _ _ _ _ ?_)
    | (with_reducible refine State.sendColl_does _ _ _ _ _ _ _ ?_)
    | with_reducible refine Does.ite ?_ ?_
    | ((with_reducible refine Does.foldl (fun x b h => ?_) _ ?_); try dsimp only)
    | ((with_reducible refine Does.foldl_fst (fun x b h => ?_) _ ?_); try dsimp only)
    | split
    | dsimp only

theorem State.setColl_does (s : State) (c : CollSt) (h0 : Does fs s0 s) (hs : Field.sub [.colls] fs = true := by decide) :
    Does fs s0 (State.setColl s c) := by
  refine Does.step (gs := [.colls]) ?_ h0 hs
  unfold State.setColl
  try dsimp only
  repeat' first
    | with_reducible exact Does.refl
    | with_reducible assumption
    | with_reducible refine Does.ite ?_ ?_
    | split
    | (with_reducible refine State.withColls_does _ _ ?_)
    | ((with_reducible refine Does.leaf ?_ rfl ?_ rfl rfl rfl rfl); rotate_left; (intro f hf; cases f <;> first | rfl | exact absurd (by decide) hf))
    | dsimp only

theorem State.noteColl_does (s : State) (c : CollSt) (vector : Nat) (st : Status) (field rank : Nat) (h0 : Does fs s0 s) (hs : Field.sub [.step] fs = true := by decide) :
    Does fs s0 (State.noteColl s c vector st field rank) := by
  refine Does.step (gs := [.step]) ?_ h0 hs
  unfold State.noteColl
  try dsimp only
  repeat' first
    | with_reducible exact Does.refl
    | with_reducible assumption
    | with_reducible refine Does.ite ?_ ?_
    | split
    | (with_reducible refine State.withStep_does _ _ ?_)
    | ((with_reducible refine Does.leaf ?_ rfl ?_ rfl rfl rfl rfl); rotate_left; (intro f hf; cases f <;> first | rfl | exact absurd (by decide) hf))
    | dsimp only

theorem State.sendAborts_does (s : State) (c : CollSt) (cause field rank : Nat) (h0 : Does fs s0 s) (hs : Field.sub [.regs, .arbiters, .ports, .delivered, .copy, .copyWas, .bwWindow, .bwTotals, .out, .free] fs = true := by decide) :
    Does fs s0 (State.sendAborts s c cause field rank) := by
  refine Does.step (gs := [.regs, .arbiters, .ports, .delivered, .copy, .copyWas, .bwWindow, .bwTotals, .out, .free]) ?_ h0 hs
  unfold State.sendAborts
  try dsimp only
  repeat' first
    | with_reducible exact Does.refl
    | with_reducible assumption
    | (with_reducible refine State.sendColl_does _ _ _ _ _ _ _ ?_)
    | with_reducible refine Does.ite ?_ ?_
    | ((with_reducible refine Does.foldl (fun x b h => ?_) _ ?_); try dsimp only)
    | ((with_reducible refine Does.foldl_fst (fun x b h => ?_) _ ?_); try dsimp only)
    | split
    | dsimp only

theorem State.failColl_does (s : State) (c : CollSt) (st : Status) (cause field rank : Nat) (h0 : Does fs s0 s) (hs : Field.sub [.regs, .mem, .flight, .step, .colls, .endedColls, .riskEvents, .free] fs = true := by decide) :
    Does fs s0 (State.failColl s c st cause field rank) := by
  refine Does.step (gs := [.regs, .mem, .flight, .step, .colls, .endedColls, .riskEvents, .free]) ?_ h0 hs
  unfold State.failColl
  try dsimp only
  repeat' first
    | with_reducible exact Does.refl
    | with_reducible assumption
    | (with_reducible refine State.wr_does _ _ _ _ ?_)
    | (with_reducible refine State.noteRisk_does _ _ _ ?_)
    | (with_reducible refine State.spoils_does _ _ ?_)
    | (with_reducible refine State.endPacket_does _ _ _ _ ?_)
    | (with_reducible refine State.groupEvent_does _ _ _ ?_)
    | (with_reducible refine State.noteColl_does _ _ _ _ _ _ ?_)
    | (with_reducible refine State.collTimeout_does _ _ ?_)
    | with_reducible refine Does.ite ?_ ?_
    | split
    | (with_reducible refine State.withColls_does _ _ ?_)
    | (with_reducible refine State.withEndedColls_does _ _ ?_)
    | ((with_reducible refine Does.leaf ?_ rfl ?_ rfl rfl rfl rfl); rotate_left; (intro f hf; cases f <;> first | rfl | exact absurd (by decide) hf))
    | dsimp only

theorem State.failCheck_does (s : State) (c : CollSt) (h0 : Does fs s0 s) (hs : Field.sub [.regs, .mem, .arbiters, .flight, .step, .ports, .delivered, .colls, .endedColls, .riskEvents, .copy, .copyWas, .bwWindow, .bwTotals, .out, .free] fs = true := by decide) :
    Does fs s0 (State.failCheck s c) := by
  refine Does.step (gs := [.regs, .mem, .arbiters, .flight, .step, .ports, .delivered, .colls, .endedColls, .riskEvents, .copy, .copyWas, .bwWindow, .bwTotals, .out, .free]) ?_ h0 hs
  unfold State.failCheck
  try dsimp only
  repeat' first
    | with_reducible exact Does.refl
    | with_reducible assumption
    | (with_reducible refine State.sendAborts_does _ _ _ _ _ ?_)
    | (with_reducible refine State.failColl_does _ _ _ _ _ _ ?_)
    | with_reducible refine Does.ite ?_ ?_
    | split
    | dsimp only

theorem State.ownFault_does (s : State) (c : CollSt) (u : Nat) (h0 : Does fs s0 s) (hs : Field.sub [.regs, .ilog, .reports, .reportSeq, .riskEvents, .out] fs = true := by decide) :
    Does fs s0 (State.ownFault s c u) := by
  refine Does.step (gs := [.regs, .ilog, .reports, .reportSeq, .riskEvents, .out]) ?_ h0 hs
  unfold State.ownFault
  try dsimp only
  repeat' first
    | with_reducible exact Does.refl
    | with_reducible assumption
    | (with_reducible refine State.log_does _ _ _ _ _ _ _ _ ?_)
    | (with_reducible refine State.noteBads_does _ _ _ ?_)
    | with_reducible refine Does.ite ?_ ?_
    | split
    | dsimp only

theorem State.sendOwed_does (r n : Nat) (s : State) (c : CollSt) (h0 : Does fs s0 s)
    (hs : Field.sub [.regs, .arbiters, .nextId, .ilog, .reports, .reportSeq, .ports, .delivered, .samples, .riskEvents, .copy, .copyWas, .bwWindow, .bwTotals, .out, .free] fs = true := by decide) : Does fs s0 (State.sendOwed r n s c).1 := by
  refine Does.step (gs := [.regs, .arbiters, .nextId, .ilog, .reports, .reportSeq, .ports, .delivered, .samples, .riskEvents, .copy, .copyWas, .bwWindow, .bwTotals, .out, .free]) ?_ h0 hs
  have h : ∀ x c, Does [.regs, .arbiters, .nextId, .ilog, .reports, .reportSeq, .ports, .delivered, .samples, .riskEvents, .copy, .copyWas, .bwWindow, .bwTotals, .out, .free] s x → Does [.regs, .arbiters, .nextId, .ilog, .reports, .reportSeq, .ports, .delivered, .samples, .riskEvents, .copy, .copyWas, .bwWindow, .bwTotals, .out, .free] s (State.sendOwed r n x c).1 := by
    induction n with
    | zero => exact fun x c h => h
    | succ n ih =>
      intro x c h
      rw [State.sendOwed]
      extract_lets i u
      split
      · exact h
      · split
        · dsimp only
          with_reducible refine State.ownFault_does _ _ _ h ?_
          decide
        · with_reducible refine ih _ _ (State.sendUnit_does _ _ _ _ _ _ _ _ (State.readTraffic_does _ _ _ _ h ?_) ?_) <;> decide
  exact h s c Does.refl

theorem State.sendGathered_does (c : CollSt) (r : Nat) (s : State) (q : Nat) (h0 : Does fs s0 s) (hs : Field.sub [.regs, .arbiters, .nextId, .ports, .delivered, .samples, .copy, .copyWas, .bwWindow, .bwTotals, .out, .free] fs = true := by decide) :
    Does fs s0 (State.sendGathered c r s q) := by
  refine Does.step (gs := [.regs, .arbiters, .nextId, .ports, .delivered, .samples, .copy, .copyWas, .bwWindow, .bwTotals, .out, .free]) ?_ h0 hs
  unfold State.sendGathered
  try dsimp only
  repeat' first
    | with_reducible exact Does.refl
    | with_reducible assumption
    | (with_reducible refine State.sendColl_does _ _ _ _ _ _ _ ?_)
    | (with_reducible refine State.sendUnit_does _ _ _ _ _ _ _ _ ?_)
    | with_reducible refine Does.ite ?_ ?_
    | ((with_reducible refine Does.foldl (fun x b h => ?_) _ ?_); try dsimp only)
    | ((with_reducible refine Does.foldl_fst (fun x b h => ?_) _ ?_); try dsimp only)
    | split
    | dsimp only

theorem State.combineUnit_does (s : State) (c : CollSt) (i : Nat) (q : State × List Event × Bool)
    (hq : s.combineUnit c i = some q) (h0 : Does fs s0 s) (hs : Field.sub [.regs, .mem, .ue, .ce, .ilog, .reports, .reportSeq, .riskEvents, .bwWindow, .bwTotals, .out, .free] fs = true := by decide) :
    Does fs s0 q.1 := by
  refine Does.step (gs := [.regs, .mem, .ue, .ce, .ilog, .reports, .reportSeq, .riskEvents, .bwWindow, .bwTotals, .out, .free]) ?_ h0 hs
  unfold State.combineUnit at hq
  extract_lets u others at hq
  split at hq
  · cases hq
  · split at hq
    · rw [← Option.some.inj hq]
      dsimp only
      with_reducible refine State.ownFault_does _ _ _ Does.refl ?_
      decide
    · rw [← Option.some.inj hq]
      dsimp only
      with_reducible refine State.writeMem_does _ _ _ _ _ Does.refl ?_
      decide

theorem State.combineChunks_does (n : Nat) (s : State) (c : CollSt) (h0 : Does fs s0 s)
    (hs : Field.sub [.regs, .mem, .ue, .ce, .arbiters, .nextId, .ilog, .reports, .reportSeq, .ports, .delivered, .samples, .riskEvents, .copy, .copyWas, .bwWindow, .bwTotals, .out, .free] fs = true := by decide) : Does fs s0 (State.combineChunks n s c).1 := by
  refine Does.step (gs := [.regs, .mem, .ue, .ce, .arbiters, .nextId, .ilog, .reports, .reportSeq, .ports, .delivered, .samples, .riskEvents, .copy, .copyWas, .bwWindow, .bwTotals, .out, .free]) ?_ h0 hs
  have h : ∀ x c, Does [.regs, .mem, .ue, .ce, .arbiters, .nextId, .ilog, .reports, .reportSeq, .ports, .delivered, .samples, .riskEvents, .copy, .copyWas, .bwWindow, .bwTotals, .out, .free] s x → Does [.regs, .mem, .ue, .ce, .arbiters, .nextId, .ilog, .reports, .reportSeq, .ports, .delivered, .samples, .riskEvents, .copy, .copyWas, .bwWindow, .bwTotals, .out, .free] s (State.combineChunks n x c).1 := by
    induction n with
    | zero => exact fun x c h => h
    | succ n ih =>
      intro x c h
      rw [State.combineChunks]
      split
      · exact h
      · have hr : ∀ (us : List Nat) (a : Option (State × List Event × Bool)), (∀ q, a = some q → Does [.regs, .mem, .ue, .ce, .arbiters, .nextId, .ilog, .reports, .reportSeq, .ports, .delivered, .samples, .riskEvents, .copy, .copyWas, .bwWindow, .bwTotals, .out, .free] s q.1) →
            ∀ q, us.foldl (fun (acc : Option (State × List Event × Bool)) i =>
              match acc with
              | some (s, ev, true) => (s.combineUnit c i).map (fun q => (q.1, ev ++ q.2.1, q.2.2))
              | x => x) a = some q → Does [.regs, .mem, .ue, .ce, .arbiters, .nextId, .ilog, .reports, .reportSeq, .ports, .delivered, .samples, .riskEvents, .copy, .copyWas, .bwWindow, .bwTotals, .out, .free] s q.1 := by
          intro us
          induction us with
          | nil => exact fun a ha q hq => ha q hq
          | cons i us ihu =>
            intro a ha q hq
            refine ihu _ ?_ q hq
            intro q' hq'
            dsimp only at hq'
            split at hq'
            · obtain ⟨p, hp, rfl⟩ := Option.map_eq_some_iff.1 hq'
              have hy := ha _ rfl
              exact State.combineUnit_does _ _ _ p hp hy
            · exact ha q' hq'
        have hx := hr (c.chunkUnits c.combined) (some (x, [], true)) (fun q hq => by cases hq; exact h)
        dsimp only
        split
        · exact h
        · exact hx _ ‹_›
        · refine ih _ _ (Does.foldl (fun y b hy => State.sendColl_does _ _ _ _ _ _ _ hy) _ ?_)
          exact State.sampleOnce_does _ _ _ _ _ _ (State.groupEvent_does _ _ _ (State.bump_does _ _ _ _ (hx _ ‹_›)))
  exact h s c Does.refl

theorem State.sendTo_does (acc : State × CollSt × Bool) (r : Nat) (h0 : Does fs s0 acc.1) (hs : Field.sub [.regs, .arbiters, .nextId, .ilog, .reports, .reportSeq, .ports, .delivered, .samples, .riskEvents, .copy, .copyWas, .bwWindow, .bwTotals, .out, .free] fs = true := by decide) :
    Does fs s0 (State.sendTo acc r).1 := by
  refine Does.step (gs := [.regs, .arbiters, .nextId, .ilog, .reports, .reportSeq, .ports, .delivered, .samples, .riskEvents, .copy, .copyWas, .bwWindow, .bwTotals, .out, .free]) ?_ h0 hs
  unfold State.sendTo
  try dsimp only
  repeat' first
    | with_reducible exact Does.refl
    | with_reducible assumption
    | (with_reducible refine State.sendOwed_does _ _ _ _ ?_)
    | (with_reducible refine State.sendGathered_does _ _ _ _ ?_)
    | with_reducible refine Does.ite ?_ ?_
    | ((with_reducible refine Does.foldl (fun x b h => ?_) _ ?_); try dsimp only)
    | ((with_reducible refine Does.foldl_fst (fun x b h => ?_) _ ?_); try dsimp only)
    | split
    | dsimp only

theorem State.copyOwn_does (s : State) (c : CollSt) (h0 : Does fs s0 s) (hs : Field.sub [.regs, .mem, .ue, .ce, .ilog, .reports, .reportSeq, .riskEvents, .bwWindow, .bwTotals, .out, .free] fs = true := by decide) :
    Does fs s0 (State.copyOwn s c).1 := by
  refine Does.step (gs := [.regs, .mem, .ue, .ce, .ilog, .reports, .reportSeq, .riskEvents, .bwWindow, .bwTotals, .out, .free]) ?_ h0 hs
  unfold State.copyOwn
  try dsimp only
  repeat' first
    | with_reducible exact Does.refl
    | with_reducible assumption
    | (with_reducible refine State.writeMem_does _ _ _ _ _ ?_)
    | (with_reducible refine State.ownFault_does _ _ _ ?_)
    | with_reducible refine Does.ite ?_ ?_
    | ((with_reducible refine Does.foldl (fun x b h => ?_) _ ?_); try dsimp only)
    | ((with_reducible refine Does.foldl_fst (fun x b h => ?_) _ ?_); try dsimp only)
    | split
    | dsimp only

theorem State.advance_does (s : State) (c : CollSt) (h0 : Does fs s0 s) (hs : Field.sub [.regs, .mem, .ue, .ce, .arbiters, .nextId, .flight, .step, .ilog, .reports, .reportSeq, .ports, .delivered, .colls, .endedColls, .samples, .riskEvents, .copy, .copyWas, .bwWindow, .bwTotals, .out, .free] fs = true := by decide) :
    Does fs s0 (State.advance s c) := by
  refine Does.step (gs := [.regs, .mem, .ue, .ce, .arbiters, .nextId, .flight, .step, .ilog, .reports, .reportSeq, .ports, .delivered, .colls, .endedColls, .samples, .riskEvents, .copy, .copyWas, .bwWindow, .bwTotals, .out, .free]) ?_ h0 hs
  unfold State.advance
  try dsimp only
  repeat' first
    | with_reducible exact Does.refl
    | with_reducible assumption
    | (with_reducible refine State.sendColl_does _ _ _ _ _ _ _ ?_)
    | (with_reducible refine State.setColl_does _ _ ?_)
    | (with_reducible refine State.failCheck_does _ _ ?_)
    | (with_reducible refine State.combineChunks_does _ _ _ ?_)
    | (with_reducible refine State.sendTo_does _ _ ?_)
    | (with_reducible refine State.copyOwn_does _ _ ?_)
    | with_reducible refine Does.ite ?_ ?_
    | ((with_reducible refine Does.foldl (fun x b h => ?_) _ ?_); try dsimp only)
    | ((with_reducible refine Does.foldl_fst (fun x b h => ?_) _ ?_); try dsimp only)
    | split
    | dsimp only

theorem State.takeUnit_does (s : State) (c : CollSt) (k phase : Nat) (bs : List Byte) (h0 : Does fs s0 s) (hs : Field.sub [.regs, .mem, .ue, .ce, .arbiters, .nextId, .flight, .step, .ilog, .reports, .reportSeq, .ports, .delivered, .colls, .endedColls, .samples, .riskEvents, .copy, .copyWas, .bwWindow, .bwTotals, .out, .free] fs = true := by decide) :
    Does fs s0 (State.takeUnit s c k phase bs) := by
  refine Does.step (gs := [.regs, .mem, .ue, .ce, .arbiters, .nextId, .flight, .step, .ilog, .reports, .reportSeq, .ports, .delivered, .colls, .endedColls, .samples, .riskEvents, .copy, .copyWas, .bwWindow, .bwTotals, .out, .free]) ?_ h0 hs
  unfold State.takeUnit
  try dsimp only
  repeat' first
    | with_reducible exact Does.refl
    | with_reducible assumption
    | (with_reducible refine State.log_does _ _ _ _ _ _ _ _ ?_)
    | (with_reducible refine State.writeMem_does _ _ _ _ _ ?_)
    | (with_reducible refine State.sendAborts_does _ _ _ _ _ ?_)
    | (with_reducible refine State.failColl_does _ _ _ _ _ _ ?_)
    | (with_reducible refine State.failCheck_does _ _ ?_)
    | (with_reducible refine State.advance_does _ _ ?_)
    | with_reducible refine Does.ite ?_ ?_
    | split
    | dsimp only

theorem State.dropStale_does (s : State) (h0 : Does fs s0 s) (hs : Field.sub [.regs, .heldMsgs] fs = true := by decide) :
    Does fs s0 (State.dropStale s) := by
  refine Does.step (gs := [.regs, .heldMsgs]) ?_ h0 hs
  unfold State.dropStale
  try dsimp only
  repeat' first
    | with_reducible exact Does.refl
    | with_reducible assumption
    | (with_reducible refine State.count_does _ _ _ _ ?_)
    | with_reducible refine Does.ite ?_ ?_
    | split
    | (with_reducible refine State.withHeldMsgs_does _ _ ?_)
    | ((with_reducible refine Does.leaf ?_ rfl ?_ rfl rfl rfl rfl); rotate_left; (intro f hf; cases f <;> first | rfl | exact absurd (by decide) hf))
    | dsimp only

theorem State.takeLaunch_does (s : State) (c : CollSt) (k : Nat) (m : LaunchMsg) (h0 : Does fs s0 s) (hs : Field.sub [.regs, .mem, .ue, .ce, .arbiters, .nextId, .flight, .step, .ilog, .reports, .reportSeq, .ports, .delivered, .colls, .endedColls, .samples, .riskEvents, .copy, .copyWas, .bwWindow, .bwTotals, .out, .free] fs = true := by decide) :
    Does fs s0 (State.takeLaunch s c k m) := by
  refine Does.step (gs := [.regs, .mem, .ue, .ce, .arbiters, .nextId, .flight, .step, .ilog, .reports, .reportSeq, .ports, .delivered, .colls, .endedColls, .samples, .riskEvents, .copy, .copyWas, .bwWindow, .bwTotals, .out, .free]) ?_ h0 hs
  unfold State.takeLaunch
  try dsimp only
  repeat' first
    | with_reducible exact Does.refl
    | with_reducible assumption
    | (with_reducible refine State.count_does _ _ _ _ ?_)
    | (with_reducible refine State.sendAborts_does _ _ _ _ _ ?_)
    | (with_reducible refine State.failColl_does _ _ _ _ _ _ ?_)
    | (with_reducible refine State.advance_does _ _ ?_)
    | with_reducible refine Does.ite ?_ ?_
    | split
    | dsimp only

theorem State.takeAbort_does (s : State) (c : CollSt) (cause field rank : Nat) (h0 : Does fs s0 s) (hs : Field.sub [.regs, .mem, .flight, .step, .colls, .endedColls, .riskEvents, .free] fs = true := by decide) :
    Does fs s0 (State.takeAbort s c cause field rank) := by
  refine Does.step (gs := [.regs, .mem, .flight, .step, .colls, .endedColls, .riskEvents, .free]) ?_ h0 hs
  unfold State.takeAbort
  try dsimp only
  repeat' first
    | with_reducible exact Does.refl
    | with_reducible assumption
    | (with_reducible refine State.count_does _ _ _ _ ?_)
    | (with_reducible refine State.failColl_does _ _ _ _ _ _ ?_)
    | (with_reducible refine State.collTimeout_does _ _ ?_)
    | with_reducible refine Does.ite ?_ ?_
    | split
    | dsimp only

theorem State.completeColl_does (s : State) (c : CollSt) (h0 : Does fs s0 s) (hs : Field.sub [.regs, .flight, .step, .colls, .free] fs = true := by decide) :
    Does fs s0 (State.completeColl s c) := by
  refine Does.step (gs := [.regs, .flight, .step, .colls, .free]) ?_ h0 hs
  unfold State.completeColl
  try dsimp only
  repeat' first
    | with_reducible exact Does.refl
    | with_reducible assumption
    | (with_reducible refine State.bump_does _ _ _ _ ?_)
    | (with_reducible refine State.updPacket_does _ _ _ ?_)
    | (with_reducible refine State.endPacket_does _ _ _ _ ?_)
    | (with_reducible refine State.groupEvent_does _ _ _ ?_)
    | (with_reducible refine State.noteColl_does _ _ _ _ _ _ ?_)
    | with_reducible refine Does.ite ?_ ?_
    | split
    | (with_reducible refine State.withColls_does _ _ ?_)
    | ((with_reducible refine Does.leaf ?_ rfl ?_ rfl rfl rfl rfl); rotate_left; (intro f hf; cases f <;> first | rfl | exact absurd (by decide) hf))
    | dsimp only

theorem State.sendSlow_does (reason : Nat) (s : State) (c : CollSt) (h0 : Does fs s0 s) (hs : Field.sub [.regs, .arbiters, .ports, .delivered, .colls, .copy, .copyWas, .bwWindow, .bwTotals, .out, .free] fs = true := by decide) :
    Does fs s0 (State.sendSlow reason s c) := by
  refine Does.step (gs := [.regs, .arbiters, .ports, .delivered, .colls, .copy, .copyWas, .bwWindow, .bwTotals, .out, .free]) ?_ h0 hs
  unfold State.sendSlow
  try dsimp only
  repeat' first
    | with_reducible exact Does.refl
    | with_reducible assumption
    | (with_reducible refine State.count_does _ _ _ _ ?_)
    | (with_reducible refine State.groupEvent_does _ _ _ ?_)
    | (with_reducible refine State.sendColl_does _ _ _ _ _ _ _ ?_)
    | (with_reducible refine State.setColl_does _ _ ?_)
    | with_reducible refine Does.ite ?_ ?_
    | ((with_reducible refine Does.foldl (fun x b h => ?_) _ ?_); try dsimp only)
    | ((with_reducible refine Does.foldl_fst (fun x b h => ?_) _ ?_); try dsimp only)
    | split
    | dsimp only

theorem State.slowCheck_does (s : State) (h0 : Does fs s0 s) (hs : Field.sub [.regs, .arbiters, .ports, .delivered, .colls, .copy, .copyWas, .bwWindow, .bwTotals, .out, .free] fs = true := by decide) :
    Does fs s0 (State.slowCheck s) := by
  refine Does.step (gs := [.regs, .arbiters, .ports, .delivered, .colls, .copy, .copyWas, .bwWindow, .bwTotals, .out, .free]) ?_ h0 hs
  unfold State.slowCheck
  try dsimp only
  repeat' first
    | with_reducible exact Does.refl
    | with_reducible assumption
    | (with_reducible refine State.sendSlow_does _ _ _ ?_)
    | with_reducible refine Does.ite ?_ ?_
    | ((with_reducible refine Does.foldl (fun x b h => ?_) _ ?_); try dsimp only)
    | ((with_reducible refine Does.foldl_fst (fun x b h => ?_) _ ?_); try dsimp only)
    | split
    | (with_reducible refine State.withColls_does _ _ ?_)
    | ((with_reducible refine Does.leaf ?_ rfl ?_ rfl rfl rfl rfl); rotate_left; (intro f hf; cases f <;> first | rfl | exact absurd (by decide) hf))
    | dsimp only

end Sys2Proof.Machine
end

