-- ==== Sys2Proof/Laws/DoesGroupOps.lean ====
section
/-! SUPPORT. What the operations of Machine/GroupOps.lean may change. -/

set_option Elab.async false
set_option linter.unusedTactic false
set_option linter.unreachableTactic false
set_option maxRecDepth 2000

namespace Sys2Proof.Machine

variable {fs : List Field} {s0 : State}

theorem State.withRankNodes_does (s : State) (v) (h0 : Does fs s0 s)
    (hs : Field.sub [.rankNodes] fs = true := by decide) : Does fs s0 { s with rankNodes := v } := by
  refine Does.step (gs := [.rankNodes]) (Does.leaf Does.refl rfl ?_ rfl rfl rfl rfl) h0 hs
  intro f hf
  cases f <;> first | rfl | exact absurd (by decide) hf

theorem State.withSysMembers_does (s : State) (v) (h0 : Does fs s0 s)
    (hs : Field.sub [.sysMembers] fs = true := by decide) : Does fs s0 { s with sysMembers := v } := by
  refine Does.step (gs := [.sysMembers]) (Does.leaf Does.refl rfl ?_ rfl rfl rfl rfl) h0 hs
  intro f hf
  cases f <;> first | rfl | exact absurd (by decide) hf

theorem State.withTop_does (s : State) (v) (h0 : Does fs s0 s)
    (hs : Field.sub [.top] fs = true := by decide) : Does fs s0 { s with top := v } := by
  refine Does.step (gs := [.top]) (Does.leaf Does.refl rfl ?_ rfl rfl rfl rfl) h0 hs
  intro f hf
  cases f <;> first | rfl | exact absurd (by decide) hf

theorem State.sendGroup_does (s : State) (dest msg epoch : Nat) (content : List Byte) (h0 : Does fs s0 s) (hs : Field.sub [.regs, .arbiters, .ports, .delivered, .copy, .copyWas, .bwWindow, .bwTotals, .out, .free] fs = true := by decide) :
    Does fs s0 (State.sendGroup s dest msg epoch content) := by
  refine Does.step (gs := [.regs, .arbiters, .ports, .delivered, .copy, .copyWas, .bwWindow, .bwTotals, .out, .free]) ?_ h0 hs
  unfold State.sendGroup
  try dsimp only
  repeat' first
    | with_reducible exact Does.refl
    | with_reducible assumption
    | (with_reducible refine State.sendCell_does _ _ _ _ _ _ ?_)
    | with_reducible refine Does.ite ?_ ?_
    | split
    | dsimp only

theorem State.termCheck_does (s : State) (src term : Nat) (h0 : Does fs s0 s) (hs : Field.sub [.regs] fs = true := by decide) :
    Does fs s0 (State.termCheck s src term).1 := by
  refine Does.step (gs := [.regs]) ?_ h0 hs
  unfold State.termCheck
  try dsimp only
  repeat' first
    | with_reducible exact Does.refl
    | with_reducible assumption
    | (with_reducible refine State.wr_does _ _ _ _ ?_)
    | (with_reducible refine State.count_does _ _ _ _ ?_)
    | with_reducible refine Does.ite ?_ ?_
    | split
    | dsimp only

theorem State.sendPrepare_does (s : State) (epoch : Nat) (nodes : List Nat) (dest : Nat) (h0 : Does fs s0 s) (hs : Field.sub [.regs, .arbiters, .ports, .delivered, .copy, .copyWas, .bwWindow, .bwTotals, .out, .free] fs = true := by decide) :
    Does fs s0 (State.sendPrepare s epoch nodes dest) := by
  refine Does.step (gs := [.regs, .arbiters, .ports, .delivered, .copy, .copyWas, .bwWindow, .bwTotals, .out, .free]) ?_ h0 hs
  unfold State.sendPrepare
  try dsimp only
  repeat' first
    | with_reducible exact Does.refl
    | with_reducible assumption
    | (with_reducible refine State.sendGroup_does _ _ _ _ _ ?_)
    | with_reducible refine Does.ite ?_ ?_
    | ((with_reducible refine Does.foldl (fun x b h => ?_) _ ?_); try dsimp only)
    | ((with_reducible refine Does.foldl_fst (fun x b h => ?_) _ ?_); try dsimp only)
    | split
    | dsimp only

theorem State.startEpoch_does (s : State) (h0 : Does fs s0 s) (hs : Field.sub [.regs, .arbiters, .ports, .delivered, .top, .lastEpoch, .copy, .copyWas, .bwWindow, .bwTotals, .out, .free] fs = true := by decide) :
    Does fs s0 (State.startEpoch s) := by
  refine Does.step (gs := [.regs, .arbiters, .ports, .delivered, .top, .lastEpoch, .copy, .copyWas, .bwWindow, .bwTotals, .out, .free]) ?_ h0 hs
  unfold State.startEpoch
  try dsimp only
  repeat' first
    | with_reducible exact Does.refl
    | with_reducible assumption
    | (with_reducible refine State.sendPrepare_does _ _ _ _ ?_)
    | with_reducible refine Does.ite ?_ ?_
    | ((with_reducible refine Does.foldl (fun x b h => ?_) _ ?_); try dsimp only)
    | ((with_reducible refine Does.foldl_fst (fun x b h => ?_) _ ?_); try dsimp only)
    | split
    | (with_reducible refine State.withTop_does _ _ ?_)
    | ((with_reducible refine Does.leaf ?_ rfl ?_ rfl rfl rfl rfl); rotate_left; (intro f hf; cases f <;> first | rfl | exact absurd (by decide) hf))
    | dsimp only

theorem State.memberChange_does (s : State) (node mstate : Nat) (h0 : Does fs s0 s) (hs : Field.sub [.regs, .arbiters, .ports, .delivered, .top, .lastEpoch, .sysMembers, .copy, .copyWas, .bwWindow, .bwTotals, .out, .free] fs = true := by decide) :
    Does fs s0 (State.memberChange s node mstate) := by
  refine Does.step (gs := [.regs, .arbiters, .ports, .delivered, .top, .lastEpoch, .sysMembers, .copy, .copyWas, .bwWindow, .bwTotals, .out, .free]) ?_ h0 hs
  unfold State.memberChange
  try dsimp only
  repeat' first
    | with_reducible exact Does.refl
    | with_reducible assumption
    | (with_reducible refine State.startEpoch_does _ ?_)
    | with_reducible refine Does.ite ?_ ?_
    | split
    | (with_reducible refine State.withSysMembers_does _ _ ?_)
    | ((with_reducible refine Does.leaf ?_ rfl ?_ rfl rfl rfl rfl); rotate_left; (intro f hf; cases f <;> first | rfl | exact absurd (by decide) hf))
    | dsimp only

theorem State.noteGrisk_does (s : State) (h0 : Does fs s0 s) (hs : Field.sub [.regs] fs = true := by decide) :
    Does fs s0 (State.noteGrisk s) := by
  refine Does.step (gs := [.regs]) ?_ h0 hs
  unfold State.noteGrisk
  try dsimp only
  repeat' first
    | with_reducible exact Does.refl
    | with_reducible assumption
    | (with_reducible refine State.wr_does _ _ _ _ ?_)
    | with_reducible refine Does.ite ?_ ?_
    | split
    | dsimp only

theorem State.reportChange_does (s : State) (node mstate : Nat) (h0 : Does fs s0 s) (hs : Field.sub [.regs, .arbiters, .ports, .delivered, .top, .lastEpoch, .sysMembers, .copy, .copyWas, .bwWindow, .bwTotals, .out, .free] fs = true := by decide) :
    Does fs s0 (State.reportChange s node mstate) := by
  refine Does.step (gs := [.regs, .arbiters, .ports, .delivered, .top, .lastEpoch, .sysMembers, .copy, .copyWas, .bwWindow, .bwTotals, .out, .free]) ?_ h0 hs
  unfold State.reportChange
  try dsimp only
  repeat' first
    | with_reducible exact Does.refl
    | with_reducible assumption
    | (with_reducible refine State.sendGroup_does _ _ _ _ _ ?_)
    | (with_reducible refine State.memberChange_does _ _ _ ?_)
    | (with_reducible refine State.noteGrisk_does _ ?_)
    | with_reducible refine Does.ite ?_ ?_
    | split
    | dsimp only

theorem State.setMstate_does (s : State) (m st : Nat) (h0 : Does fs s0 s) (hs : Field.sub [.regs, .arbiters, .ports, .delivered, .top, .lastEpoch, .sysMembers, .copy, .copyWas, .bwWindow, .bwTotals, .out, .free] fs = true := by decide) :
    Does fs s0 (State.setMstate s m st) := by
  refine Does.step (gs := [.regs, .arbiters, .ports, .delivered, .top, .lastEpoch, .sysMembers, .copy, .copyWas, .bwWindow, .bwTotals, .out, .free]) ?_ h0 hs
  unfold State.setMstate
  try dsimp only
  repeat' first
    | with_reducible exact Does.refl
    | with_reducible assumption
    | (with_reducible refine State.wr_does _ _ _ _ ?_)
    | (with_reducible refine State.reportChange_does _ _ _ ?_)
    | with_reducible refine Does.ite ?_ ?_
    | split
    | dsimp only

theorem State.followList_does (nodes : List Nat) (s : State) (m : Nat) (h0 : Does fs s0 s) (hs : Field.sub [.regs, .arbiters, .ports, .delivered, .top, .lastEpoch, .sysMembers, .copy, .copyWas, .bwWindow, .bwTotals, .out, .free] fs = true := by decide) :
    Does fs s0 (State.followList nodes s m) := by
  refine Does.step (gs := [.regs, .arbiters, .ports, .delivered, .top, .lastEpoch, .sysMembers, .copy, .copyWas, .bwWindow, .bwTotals, .out, .free]) ?_ h0 hs
  unfold State.followList
  try dsimp only
  repeat' first
    | with_reducible exact Does.refl
    | with_reducible assumption
    | (with_reducible refine State.wr_does _ _ _ _ ?_)
    | (with_reducible refine State.setMstate_does _ _ _ ?_)
    | with_reducible refine Does.ite ?_ ?_
    | split
    | dsimp only

theorem State.installEpoch_does (s : State) (p : PrepSt) (h0 : Does fs s0 s) (hs : Field.sub [.regs, .arbiters, .ports, .delivered, .rankNodes, .reserved, .prep, .top, .lastEpoch, .sysMembers, .chunkRule, .verdicts, .copy, .copyWas, .bwWindow, .bwTotals, .out, .free] fs = true := by decide) :
    Does fs s0 (State.installEpoch s p) := by
  refine Does.step (gs := [.regs, .arbiters, .ports, .delivered, .rankNodes, .reserved, .prep, .top, .lastEpoch, .sysMembers, .chunkRule, .verdicts, .copy, .copyWas, .bwWindow, .bwTotals, .out, .free]) ?_ h0 hs
  unfold State.installEpoch
  try dsimp only
  repeat' first
    | with_reducible exact Does.refl
    | with_reducible assumption
    | (with_reducible refine State.wr_does _ _ _ _ ?_)
    | (with_reducible refine State.followList_does _ _ _ ?_)
    | with_reducible refine Does.ite ?_ ?_
    | ((with_reducible refine Does.foldl (fun x b h => ?_) _ ?_); try dsimp only)
    | ((with_reducible refine Does.foldl_fst (fun x b h => ?_) _ ?_); try dsimp only)
    | split
    | (with_reducible refine State.withRankNodes_does _ _ ?_)
    | ((with_reducible refine Does.leaf ?_ rfl ?_ rfl rfl rfl rfl); rotate_left; (intro f hf; cases f <;> first | rfl | exact absurd (by decide) hf))
    | dsimp only

theorem State.staleColls_does (s : State) (epoch : Nat) (h0 : Does fs s0 s) (hs : Field.sub [.regs, .mem, .arbiters, .flight, .step, .ports, .delivered, .colls, .endedColls, .riskEvents, .copy, .copyWas, .bwWindow, .bwTotals, .out, .free] fs = true := by decide) :
    Does fs s0 (State.staleColls s epoch) := by
  refine Does.step (gs := [.regs, .mem, .arbiters, .flight, .step, .ports, .delivered, .colls, .endedColls, .riskEvents, .copy, .copyWas, .bwWindow, .bwTotals, .out, .free]) ?_ h0 hs
  unfold State.staleColls
  try dsimp only
  repeat' first
    | with_reducible exact Does.refl
    | with_reducible assumption
    | (with_reducible refine State.sendAborts_does _ _ _ _ _ ?_)
    | (with_reducible refine State.failColl_does _ _ _ _ _ _ ?_)
    | with_reducible refine Does.ite ?_ ?_
    | ((with_reducible refine Does.foldl (fun x b h => ?_) _ ?_); try dsimp only)
    | ((with_reducible refine Does.foldl_fst (fun x b h => ?_) _ ?_); try dsimp only)
    | split
    | dsimp only

theorem State.heartbeatTo_does (s : State) (h0 : Does fs s0 s) (hs : Field.sub [.free] fs = true := by decide) :
    Does fs s0 (State.heartbeatTo s).2 := by
  refine Does.step (gs := [.free]) ?_ h0 hs
  unfold State.heartbeatTo
  try dsimp only
  repeat' first
    | with_reducible exact Does.refl
    | with_reducible assumption
    | (with_reducible refine State.freeVal_does _ _ ?_)
    | with_reducible refine Does.ite ?_ ?_
    | split
    | dsimp only

theorem State.sendJoin_does (s : State) (h0 : Does fs s0 s) (hs : Field.sub [.regs, .arbiters, .ports, .delivered, .copy, .copyWas, .bwWindow, .bwTotals, .out, .free] fs = true := by decide) :
    Does fs s0 (State.sendJoin s) := by
  refine Does.step (gs := [.regs, .arbiters, .ports, .delivered, .copy, .copyWas, .bwWindow, .bwTotals, .out, .free]) ?_ h0 hs
  unfold State.sendJoin
  try dsimp only
  repeat' first
    | with_reducible exact Does.refl
    | with_reducible assumption
    | (with_reducible refine State.sendGroup_does _ _ _ _ _ ?_)
    | with_reducible refine Does.ite ?_ ?_
    | split
    | dsimp only

end Sys2Proof.Machine
end

