-- ==== Sys2Proof/Laws/DoesParamOps.lean ====
section
/-! SUPPORT. What the operations of Machine/ParamOps.lean may change. -/

set_option Elab.async false
set_option linter.unusedTactic false
set_option linter.unreachableTactic false
set_option maxRecDepth 2000

namespace Sys2Proof.Machine

variable {fs : List Field} {s0 : State}

theorem State.withDescs_does (s : State) (v) (h0 : Does fs s0 s)
    (hs : Field.sub [.descs] fs = true := by decide) : Does fs s0 { s with descs := v } := by
  refine Does.step (gs := [.descs]) (Does.leaf Does.refl rfl ?_ rfl rfl rfl rfl) h0 hs
  intro f hf
  cases f <;> first | rfl | exact absurd (by decide) hf

theorem State.keepScale_does (s : State) (e : Nat) (h0 : Does fs s0 s) (hs : Field.sub [.regs] fs = true := by decide) :
    Does fs s0 (State.keepScale s e) := by
  refine Does.step (gs := [.regs]) ?_ h0 hs
  unfold State.keepScale
  try dsimp only
  repeat' first
    | with_reducible exact Does.refl
    | with_reducible assumption
    | (with_reducible refine State.wr_does _ _ _ _ ?_)
    | with_reducible refine Does.ite ?_ ?_
    | split
    | dsimp only

theorem State.keepScales_does (s : State) (h0 : Does fs s0 s) (hs : Field.sub [.regs] fs = true := by decide) :
    Does fs s0 (State.keepScales s) := by
  refine Does.step (gs := [.regs]) ?_ h0 hs
  unfold State.keepScales
  try dsimp only
  repeat' first
    | with_reducible exact Does.refl
    | with_reducible assumption
    | (with_reducible refine State.keepScale_does _ _ ?_)
    | with_reducible refine Does.ite ?_ ?_
    | ((with_reducible refine Does.foldl (fun x b h => ?_) _ ?_); try dsimp only)
    | ((with_reducible refine Does.foldl_fst (fun x b h => ?_) _ ?_); try dsimp only)
    | split
    | dsimp only

theorem State.freshScales_does (s : State) (h0 : Does fs s0 s) (hs : Field.sub [.regs] fs = true := by decide) :
    Does fs s0 s.freshScales :=
  State.withRegs_does _ _ (sorted_clearFields _ _ _ _) h0 hs

theorem State.loadLive_does (s : State) (h0 : Does fs s0 s) (hs : Field.sub [.regs] fs = true := by decide) :
    Does fs s0 (State.loadLive s) := by
  refine Does.step (gs := [.regs]) ?_ h0 hs
  unfold State.loadLive
  try dsimp only
  repeat' first
    | with_reducible exact Does.refl
    | with_reducible assumption
    | (with_reducible refine State.wr_does _ _ _ _ ?_)
    | with_reducible refine Does.ite ?_ ?_
    | split
    | dsimp only

theorem State.writeLive_does (s : State) (off : Nat) (bs : List Byte) (h0 : Does fs s0 s) (hs : Field.sub [.regs, .mem, .ue, .ce, .ilog, .reports, .reportSeq, .riskEvents, .bwWindow, .bwTotals, .out, .free] fs = true := by decide) :
    Does fs s0 (State.writeLive s off bs).1 := by
  refine Does.step (gs := [.regs, .mem, .ue, .ce, .ilog, .reports, .reportSeq, .riskEvents, .bwWindow, .bwTotals, .out, .free]) ?_ h0 hs
  unfold State.writeLive
  try dsimp only
  repeat' first
    | with_reducible exact Does.refl
    | with_reducible assumption
    | (with_reducible refine State.writeMem_does _ _ _ _ _ ?_)
    | with_reducible refine Does.ite ?_ ?_
    | split
    | dsimp only

theorem State.writeNextCopy_does (s : State) (last : Option Nat) (gs : F32) (clean : Nat) (baselines : List (Nat × F32 × Nat))
    (histories : List (Nat × List F32)) (h0 : Does fs s0 s) (hs : Field.sub [.regs, .mem, .ue, .ce, .ilog, .reports, .reportSeq, .riskEvents, .bwWindow, .bwTotals, .out, .free] fs = true := by decide) :
    Does fs s0 (s.writeNextCopy last gs clean baselines histories).1 := by
  refine Does.step (gs := [.regs, .mem, .ue, .ce, .ilog, .reports, .reportSeq, .riskEvents, .bwWindow, .bwTotals, .out, .free]) ?_ h0 hs
  unfold State.writeNextCopy
  extract_lets c s1 bad s2 commit lastStep m1 m2 m3 s3 lost s4
  have h1 : Does [.regs, .mem, .ue, .ce, .ilog, .reports, .reportSeq, .riskEvents, .bwWindow, .bwTotals, .out, .free] s s1 := State.readTraffic_does _ _ _ _ Does.refl
  split
  · exact State.noteBads_does _ _ _ h1
  · have h2 : Does [.regs, .mem, .ue, .ce, .ilog, .reports, .reportSeq, .riskEvents, .bwWindow, .bwTotals, .out, .free] s s2 := Does.foldl (fun x b h => State.keepScale_does _ _ h) _ h1
    have h3 : Does [.regs, .mem, .ue, .ce, .ilog, .reports, .reportSeq, .riskEvents, .bwWindow, .bwTotals, .out, .free] s s3 := State.writeTraffic_does _ _ _ _ h2
    have e3 : s3.mem = s2.mem := (State.writeTraffic_does (fs := [.regs, .ce, .ilog, .reports, .reportSeq, .riskEvents, .bwWindow, .bwTotals, .out, .free]) s2 _ _ _ Does.refl).only .mem (by decide)
    have hw : s3.mem.wf = true → (m3.write c.2 (copyHeader commit lastStep gs clean)).wf = true := fun hw => by
      rw [e3] at hw
      refine Mem.wf_write _ _ (Mem.wf_foldl _ (fun _ _ h => Mem.wf_write _ _ h) _ ?_)
      exact Mem.wf_foldl _ (fun _ _ h => Mem.wf_write _ _ h) _ (Mem.wf_move _ _ _ hw)
    have h4 : Does [.regs, .mem, .ue, .ce, .ilog, .reports, .reportSeq, .riskEvents, .bwWindow, .bwTotals, .out, .free] s s4 := Does.foldl (fun x b h => State.clearBolt_does _ _ h) _ (State.withMem_does _ _ hw h3)
    with_reducible exact State.noteBads_does _ _ _ (State.loadLive_does _ h4)

theorem State.logChecks_does (s : State) (tag : Nat) (cs : List (Nat × Nat)) (h0 : Does fs s0 s) (hs : Field.sub [.regs, .ilog, .reports, .reportSeq, .out] fs = true := by decide) :
    Does fs s0 (State.logChecks s tag cs) := by
  refine Does.step (gs := [.regs, .ilog, .reports, .reportSeq, .out]) ?_ h0 hs
  unfold State.logChecks
  try dsimp only
  repeat' first
    | with_reducible exact Does.refl
    | with_reducible assumption
    | (with_reducible refine State.log_does _ _ _ _ _ _ _ _ ?_)
    | with_reducible refine Does.ite ?_ ?_
    | ((with_reducible refine Does.foldl (fun x b h => ?_) _ ?_); try dsimp only)
    | ((with_reducible refine Does.foldl_fst (fun x b h => ?_) _ ?_); try dsimp only)
    | split
    | dsimp only

theorem mixBolts_does (new : Mem) (l : List Nat) (m : Mem) (s : State) (h0 : Does fs s0 s)
    (hs : Field.sub [.free] fs = true := by decide) : Does fs s0 (mixBolts new l m s).2 := by
  induction l generalizing m s with
  | nil => exact h0
  | cons b t ih =>
    rw [mixBolts]
    split
    · exact ih _ _ h0
    · exact ih _ _ (State.freeVal_does _ _ h0 hs)

theorem State.mixParts_does (s : State) (bolts : List Nat) (h0 : Does fs s0 s)
    (hs : Field.sub [.descs, .free] fs = true := by decide) : Does fs s0 (s.mixParts bolts) := by
  refine Does.step (gs := [.descs, .free]) ?_ h0 hs
  unfold State.mixParts
  refine Does.foldl (fun x d h => ?_) _ Does.refl
  split
  · have hm : Does [.descs, .free] s (mixBolts x.mem bolts d.read x).2 := mixBolts_does _ _ _ _ h
    revert hm
    generalize mixBolts x.mem bolts d.read x = r
    intro hm
    with_reducible refine State.withDescs_does _ _ hm ?_
    decide
  · exact h

theorem State.writeWork_does (s : State) (g : ParamGroup) (sh : Shard) (stepField : Nat) (inAttempt : Bool) (h0 : Does fs s0 s)
    (hs : Field.sub [.regs, .mem, .ue, .ce, .descs, .ilog, .reports, .reportSeq, .riskEvents, .bwWindow, .bwTotals, .out, .free] fs = true := by decide) :
    (∀ q, s.writeWork g sh stepField inAttempt = .ok q → Does fs s0 q.1) ∧
    (∀ e, s.writeWork g sh stepField inAttempt = .error e → Does fs s0 e.2) := by
  unfold State.writeWork
  extract_lets st d bad vals o via s1 r
  split
  · exact ⟨fun q hq => by cases hq; exact h0, fun e he => by cases he⟩
  · split
    · exact ⟨fun q hq => by (cases hq), fun e he => by cases he; exact (State.noteBads_does s _ _ Does.refl).step h0 hs⟩
    · split
      · exact ⟨fun q hq => by (cases hq), fun e he => by cases he; exact (State.logChecks_does s _ _ Does.refl).step h0 hs⟩
      · have hr : Does fs s0 r.1 := (State.writeMems_does s1 via _ _ (State.readTraffic_does _ _ _ _ Does.refl)).step h0 hs
        split
        · exact ⟨fun q hq => by cases hq; exact (State.mixParts_does r.1 _ Does.refl).step hr hs, fun e he => by cases he⟩
        · exact ⟨fun q hq => by (cases hq), fun e he => by cases he; exact hr⟩

theorem State.writeWorks_does (s : State) (g : ParamGroup) (stepField : Nat) (inAttempt : Bool) (l : List Shard) (h0 : Does fs s0 s)
    (hs : Field.sub [.regs, .mem, .ue, .ce, .descs, .ilog, .reports, .reportSeq, .riskEvents, .bwWindow, .bwTotals, .out, .free] fs = true := by decide) :
    (∀ q, s.writeWorks g stepField inAttempt l = .ok q → Does fs s0 q.1) ∧
    (∀ e, s.writeWorks g stepField inAttempt l = .error e → Does fs s0 e.2.1) := by
  induction l generalizing s with
  | nil => exact ⟨fun q hq => by cases hq; exact h0, fun e he => by cases he⟩
  | cons sh t ih =>
    rw [State.writeWorks]
    have hw := State.writeWork_does s g sh stepField inAttempt h0 hs
    split
    · exact ⟨fun q hq => by (cases hq), fun e he => by cases he; exact hw.2 _ ‹_›⟩
    · have hi := ih _ (hw.1 _ ‹_›)
      refine ⟨fun q hq => ?_, fun e he => ?_⟩
      · cases hx : State.writeWorks _ g stepField inAttempt t with
        | ok r =>
          rw [hx] at hq
          cases hq
          exact hi.1 r hx
        | error e =>
          rw [hx] at hq
          cases hq
      · cases hx : State.writeWorks _ g stepField inAttempt t with
        | ok r =>
          rw [hx] at he
          cases he
        | error e' =>
          rw [hx] at he
          cases he
          exact hi.2 _ hx

theorem State.spoilWorks_does (s : State) (l : List (ParamGroup × Shard)) (h0 : Does fs s0 s) (hs : Field.sub [.mem, .free] fs = true := by decide) :
    Does fs s0 (State.spoilWorks s l) := by
  refine Does.step (gs := [.mem, .free]) ?_ h0 hs
  unfold State.spoilWorks
  try dsimp only
  repeat' first
    | with_reducible exact Does.refl
    | with_reducible assumption
    | (with_reducible refine State.spoilTensors_does _ _ ?_)
    | with_reducible refine Does.ite ?_ ?_
    | split
    | dsimp only

theorem State.engineFault_does (s : State) (st : Nat) (e : Status) (group : Nat) (h0 : Does fs s0 s) (hs : Field.sub [.regs] fs = true := by decide) :
    Does fs s0 (State.engineFault s st e group) := by
  refine Does.step (gs := [.regs]) ?_ h0 hs
  unfold State.engineFault
  try dsimp only
  repeat' first
    | with_reducible exact Does.refl
    | with_reducible assumption
    | (with_reducible refine State.wr_does _ _ _ _ ?_)
    | with_reducible refine Does.ite ?_ ?_
    | split
    | dsimp only

theorem State.rewriteAll_does (s : State) (stepField : Nat) (inAttempt : Bool) (l : List (ParamGroup × Shard)) (h0 : Does fs s0 s)
    (hs : Field.sub [.regs, .mem, .ue, .ce, .descs, .ilog, .reports, .reportSeq, .riskEvents, .bwWindow, .bwTotals, .out, .free] fs = true := by decide) : Does fs s0 (s.rewriteAll stepField inAttempt l).1 := by
  induction l generalizing s with
  | nil => exact h0
  | cons p t ih =>
    rw [State.rewriteAll]
    have hw := State.writeWork_does s p.1 p.2 stepField inAttempt h0 hs
    split
    · extract_lets st s1 r
      refine ih _ ?_
      unfold s1
      split
      · exact hw.2 _ ‹_›
      · exact (State.engineFault_does _ _ _ _ Does.refl).step (hw.2 _ ‹_›) hs
    · exact ih _ (hw.1 _ ‹_›)

end Sys2Proof.Machine
end

