-- ==== Sys2Proof/Laws/DoesShroudSend.lean ====
section
/-! SUPPORT. What the operations of Machine/ShroudSend.lean may change. -/

set_option Elab.async false
set_option linter.unusedTactic false
set_option linter.unreachableTactic false
set_option maxRecDepth 2000

namespace Sys2Proof.Machine

variable {fs : List Field} {s0 : State}

theorem State.withCopyDue_does (s : State) (v) (h0 : Does fs s0 s)
    (hs : Field.sub [.copyDue] fs = true := by decide) : Does fs s0 { s with copyDue := v } := by
  refine Does.step (gs := [.copyDue]) (Does.leaf Does.refl rfl ?_ rfl rfl rfl rfl) h0 hs
  intro f hf
  cases f <;> first | rfl | exact absurd (by decide) hf

theorem State.sendShroud_does (s : State) (dest msg slot stack part bolt sourceId : Nat) (content : List Byte) (h0 : Does fs s0 s) (hs : Field.sub [.regs, .arbiters, .ports, .delivered, .copy, .copyWas, .bwWindow, .bwTotals, .out, .free] fs = true := by decide) :
    Does fs s0 (State.sendShroud s dest msg slot stack part bolt sourceId content) := by
  refine Does.step (gs := [.regs, .arbiters, .ports, .delivered, .copy, .copyWas, .bwWindow, .bwTotals, .out, .free]) ?_ h0 hs
  unfold State.sendShroud
  try dsimp only
  repeat' first
    | with_reducible exact Does.refl
    | with_reducible assumption
    | (with_reducible refine State.sendCell_does _ _ _ _ _ _ ?_)
    | with_reducible refine Does.ite ?_ ?_
    | split
    | dsimp only

theorem State.sendForStack_does (s : State) (dest msg slot stack part bolt : Nat) (content : List Byte) (h0 : Does fs s0 s) (hs : Field.sub [.regs, .arbiters, .ports, .delivered, .copy, .copyWas, .bwWindow, .bwTotals, .out, .free] fs = true := by decide) :
    Does fs s0 (State.sendForStack s dest msg slot stack part bolt content) := by
  refine Does.step (gs := [.regs, .arbiters, .ports, .delivered, .copy, .copyWas, .bwWindow, .bwTotals, .out, .free]) ?_ h0 hs
  unfold State.sendForStack
  try dsimp only
  repeat' first
    | with_reducible exact Does.refl
    | with_reducible assumption
    | (with_reducible refine State.queueCell_does _ _ _ _ ?_)
    | (with_reducible refine State.sendCell_does _ _ _ _ _ _ ?_)
    | with_reducible refine Does.ite ?_ ?_
    | split
    | dsimp only

theorem State.reportShroud_does (s : State) (event cause step : Nat) (h0 : Does fs s0 s) (hs : Field.sub [.regs, .reports, .reportSeq, .out] fs = true := by decide) :
    Does fs s0 (State.reportShroud s event cause step) := by
  refine Does.step (gs := [.regs, .reports, .reportSeq, .out]) ?_ h0 hs
  unfold State.reportShroud
  try dsimp only
  repeat' first
    | with_reducible exact Does.refl
    | with_reducible assumption
    | (with_reducible refine State.report_does _ _ _ ?_)
    | with_reducible refine Does.ite ?_ ?_
    | split
    | dsimp only

theorem State.setSrcState_does (s : State) (v : Nat) (h0 : Does fs s0 s) (hs : Field.sub [.regs, .reports, .reportSeq, .out] fs = true := by decide) :
    Does fs s0 (State.setSrcState s v) := by
  refine Does.step (gs := [.regs, .reports, .reportSeq, .out]) ?_ h0 hs
  unfold State.setSrcState
  try dsimp only
  repeat' first
    | with_reducible exact Does.refl
    | with_reducible assumption
    | (with_reducible refine State.wr_does _ _ _ _ ?_)
    | (with_reducible refine State.reportShroud_does _ _ _ _ ?_)
    | with_reducible refine Does.ite ?_ ?_
    | split
    | dsimp only

theorem State.computeImage_does (s : State) (h0 : Does fs s0 s) (hs : Field.sub [.regs] fs = true := by decide) :
    Does fs s0 (State.computeImage s) := by
  refine Does.step (gs := [.regs]) ?_ h0 hs
  unfold State.computeImage
  try dsimp only
  repeat' first
    | with_reducible exact Does.refl
    | with_reducible assumption
    | (with_reducible refine State.wr_does _ _ _ _ ?_)
    | with_reducible refine Does.ite ?_ ?_
    | ((with_reducible refine Does.foldl (fun x b h => ?_) _ ?_); try dsimp only)
    | ((with_reducible refine Does.foldl_fst (fun x b h => ?_) _ ?_); try dsimp only)
    | split
    | dsimp only

theorem State.sendBolt_does (s : State) (st i a : Nat) (h0 : Does fs s0 s) (hs : Field.sub [.regs, .arbiters, .ports, .delivered, .copy, .copyWas, .bwWindow, .bwTotals, .out, .free] fs = true := by decide) :
    Does fs s0 (State.sendBolt s st i a) := by
  refine Does.step (gs := [.regs, .arbiters, .ports, .delivered, .copy, .copyWas, .bwWindow, .bwTotals, .out, .free]) ?_ h0 hs
  unfold State.sendBolt
  try dsimp only
  repeat' first
    | with_reducible exact Does.refl
    | with_reducible assumption
    | (with_reducible refine State.sendForStack_does _ _ _ _ _ _ _ _ ?_)
    | with_reducible refine Does.ite ?_ ?_
    | split
    | (with_reducible refine State.withCopy_does _ _ ?_)
    | ((with_reducible refine Does.leaf ?_ rfl ?_ rfl rfl rfl rfl); rotate_left; (intro f hf; cases f <;> first | rfl | exact absurd (by decide) hf))
    | dsimp only

theorem State.sendStack_does (s : State) (st : Nat) (p : Nat → Bool) (h0 : Does fs s0 s) (hs : Field.sub [.regs, .arbiters, .ports, .delivered, .copy, .copyWas, .bwWindow, .bwTotals, .out, .free] fs = true := by decide) :
    Does fs s0 (State.sendStack s st p) := by
  refine Does.step (gs := [.regs, .arbiters, .ports, .delivered, .copy, .copyWas, .bwWindow, .bwTotals, .out, .free]) ?_ h0 hs
  unfold State.sendStack
  try dsimp only
  repeat' first
    | with_reducible exact Does.refl
    | with_reducible assumption
    | (with_reducible refine State.sendBolt_does _ _ _ _ ?_)
    | with_reducible refine Does.ite ?_ ?_
    | ((with_reducible refine Does.foldl (fun x b h => ?_) _ ?_); try dsimp only)
    | ((with_reducible refine Does.foldl_fst (fun x b h => ?_) _ ?_); try dsimp only)
    | split
    | dsimp only

theorem State.sendWritten_does (s : State) (sh : Shard) (rs : List (Nat × Nat)) (h0 : Does fs s0 s) (hs : Field.sub [.regs, .arbiters, .ports, .delivered, .copy, .copyWas, .bwWindow, .bwTotals, .out, .free] fs = true := by decide) :
    Does fs s0 (State.sendWritten s sh rs) := by
  refine Does.step (gs := [.regs, .arbiters, .ports, .delivered, .copy, .copyWas, .bwWindow, .bwTotals, .out, .free]) ?_ h0 hs
  unfold State.sendWritten
  try dsimp only
  repeat' first
    | with_reducible exact Does.refl
    | with_reducible assumption
    | (with_reducible refine State.sendStack_does _ _ _ ?_)
    | with_reducible refine Does.ite ?_ ?_
    | split
    | dsimp only

theorem State.sendGroupBolts_does (s : State) (g : ParamGroup) (h0 : Does fs s0 s) (hs : Field.sub [.regs, .arbiters, .ports, .delivered, .copy, .copyWas, .bwWindow, .bwTotals, .out, .free] fs = true := by decide) :
    Does fs s0 (State.sendGroupBolts s g) := by
  refine Does.step (gs := [.regs, .arbiters, .ports, .delivered, .copy, .copyWas, .bwWindow, .bwTotals, .out, .free]) ?_ h0 hs
  unfold State.sendGroupBolts
  try dsimp only
  repeat' first
    | with_reducible exact Does.refl
    | with_reducible assumption
    | (with_reducible refine State.sendStack_does _ _ _ ?_)
    | with_reducible refine Does.ite ?_ ?_
    | ((with_reducible refine Does.foldl (fun x b h => ?_) _ ?_); try dsimp only)
    | ((with_reducible refine Does.foldl_fst (fun x b h => ?_) _ ?_); try dsimp only)
    | split
    | dsimp only

theorem State.sendDigests_does (s : State) (h0 : Does fs s0 s) (hs : Field.sub [.regs, .arbiters, .ports, .delivered, .copy, .copyWas, .signing, .bwWindow, .bwTotals, .out, .free] fs = true := by decide) :
    Does fs s0 (State.sendDigests s) := by
  refine Does.step (gs := [.regs, .arbiters, .ports, .delivered, .copy, .copyWas, .signing, .bwWindow, .bwTotals, .out, .free]) ?_ h0 hs
  unfold State.sendDigests
  try dsimp only
  repeat' first
    | with_reducible exact Does.refl
    | with_reducible assumption
    | (with_reducible refine State.sendForStack_does _ _ _ _ _ _ _ _ ?_)
    | with_reducible refine Does.ite ?_ ?_
    | ((with_reducible refine Does.foldl (fun x b h => ?_) _ ?_); try dsimp only)
    | ((with_reducible refine Does.foldl_fst (fun x b h => ?_) _ ?_); try dsimp only)
    | split
    | (with_reducible refine State.withCopy_does _ _ ?_)
    | ((with_reducible refine Does.leaf ?_ rfl ?_ rfl rfl rfl rfl); rotate_left; (intro f hf; cases f <;> first | rfl | exact absurd (by decide) hf))
    | dsimp only

theorem State.sendCopyEnd_does (s : State) (h0 : Does fs s0 s) (hs : Field.sub [.regs, .arbiters, .ports, .delivered, .copy, .copyWas, .signing, .bwWindow, .bwTotals, .out, .free] fs = true := by decide) :
    Does fs s0 (State.sendCopyEnd s) := by
  refine Does.step (gs := [.regs, .arbiters, .ports, .delivered, .copy, .copyWas, .signing, .bwWindow, .bwTotals, .out, .free]) ?_ h0 hs
  unfold State.sendCopyEnd
  try dsimp only
  repeat' first
    | with_reducible exact Does.refl
    | with_reducible assumption
    | (with_reducible refine State.sendStack_does _ _ _ ?_)
    | (with_reducible refine State.sendDigests_does _ ?_)
    | with_reducible refine Does.ite ?_ ?_
    | split
    | dsimp only

theorem State.countAbandon_does (s : State) (cause step : Nat) (h0 : Does fs s0 s) (hs : Field.sub [.regs, .reports, .reportSeq, .out] fs = true := by decide) :
    Does fs s0 (State.countAbandon s cause step) := by
  refine Does.step (gs := [.regs, .reports, .reportSeq, .out]) ?_ h0 hs
  unfold State.countAbandon
  try dsimp only
  repeat' first
    | with_reducible exact Does.refl
    | with_reducible assumption
    | (with_reducible refine State.wr_does _ _ _ _ ?_)
    | (with_reducible refine State.count_does _ _ _ _ ?_)
    | (with_reducible refine State.reportShroud_does _ _ _ _ ?_)
    | with_reducible refine Does.ite ?_ ?_
    | split
    | dsimp only

theorem State.sendHello_does (s : State) (holder step : Nat) (h0 : Does fs s0 s) (hs : Field.sub [.regs, .arbiters, .ports, .delivered, .copy, .copyWas, .bwWindow, .bwTotals, .out, .free] fs = true := by decide) :
    Does fs s0 (State.sendHello s holder step) := by
  refine Does.step (gs := [.regs, .arbiters, .ports, .delivered, .copy, .copyWas, .bwWindow, .bwTotals, .out, .free]) ?_ h0 hs
  unfold State.sendHello
  try dsimp only
  repeat' first
    | with_reducible exact Does.refl
    | with_reducible assumption
    | (with_reducible refine State.sendShroud_does _ _ _ _ _ _ _ _ _ ?_)
    | with_reducible refine Does.ite ?_ ?_
    | split
    | dsimp only

theorem State.beginCopy_does (s : State) (pid : Option Nat) (step : Nat) (h0 : Does fs s0 s) (hs : Field.sub [.regs, .arbiters, .reports, .reportSeq, .ports, .delivered, .copy, .copyWas, .copyDue, .bwWindow, .bwTotals, .out, .free] fs = true := by decide) :
    Does fs s0 (State.beginCopy s pid step).1 := by
  refine Does.step (gs := [.regs, .arbiters, .reports, .reportSeq, .ports, .delivered, .copy, .copyWas, .copyDue, .bwWindow, .bwTotals, .out, .free]) ?_ h0 hs
  unfold State.beginCopy
  try dsimp only
  repeat' first
    | with_reducible exact Does.refl
    | with_reducible assumption
    | (with_reducible refine State.countAbandon_does _ _ _ ?_)
    | (with_reducible refine State.sendHello_does _ _ _ ?_)
    | with_reducible refine Does.ite ?_ ?_
    | split
    | (with_reducible refine State.withCopy_does _ _ ?_)
    | (with_reducible refine State.withCopyDue_does _ _ ?_)
    | ((with_reducible refine Does.leaf ?_ rfl ?_ rfl rfl rfl rfl); rotate_left; (intro f hf; cases f <;> first | rfl | exact absurd (by decide) hf))
    | dsimp only

end Sys2Proof.Machine
end

