-- ==== Sys2Proof/Laws/DoesStepOps.lean ====
section
/-! SUPPORT. What the operations of Machine/StepOps.lean may change. -/

set_option Elab.async false
set_option linter.unusedTactic false
set_option linter.unreachableTactic false
set_option maxRecDepth 2000

namespace Sys2Proof.Machine

variable {fs : List Field} {s0 : State}

theorem State.withAttJumps_does (s : State) (v) (h0 : Does fs s0 s)
    (hs : Field.sub [.attJumps] fs = true := by decide) : Does fs s0 { s with attJumps := v } := by
  refine Does.step (gs := [.attJumps]) (Does.leaf Does.refl rfl ?_ rfl rfl rfl rfl) h0 hs
  intro f hf
  cases f <;> first | rfl | exact absurd (by decide) hf

theorem State.withCommit_does (s : State) (v) (h0 : Does fs s0 s)
    (hs : Field.sub [.commit] fs = true := by decide) : Does fs s0 { s with commit := v } := by
  refine Does.step (gs := [.commit]) (Does.leaf Does.refl rfl ?_ rfl rfl rfl rfl) h0 hs
  intro f hf
  cases f <;> first | rfl | exact absurd (by decide) hf

theorem State.withReef_does (s : State) (v) (h0 : Does fs s0 s)
    (hs : Field.sub [.reef] fs = true := by decide) : Does fs s0 { s with reef := v } := by
  refine Does.step (gs := [.reef]) (Does.leaf Does.refl rfl ?_ rfl rfl rfl rfl) h0 hs
  intro f hf
  cases f <;> first | rfl | exact absurd (by decide) hf

theorem State.withVerdicts_does (s : State) (v) (h0 : Does fs s0 s)
    (hs : Field.sub [.verdicts] fs = true := by decide) : Does fs s0 { s with verdicts := v } := by
  refine Does.step (gs := [.verdicts]) (Does.leaf Does.refl rfl ?_ rfl rfl rfl rfl) h0 hs
  intro f hf
  cases f <;> first | rfl | exact absurd (by decide) hf

theorem State.setReef_does (on : Bool) (s : State) (layer : Nat) (h0 : Does fs s0 s) (hs : Field.sub [.regs] fs = true := by decide) :
    Does fs s0 (State.setReef on s layer) := by
  refine Does.step (gs := [.regs]) ?_ h0 hs
  unfold State.setReef
  try dsimp only
  repeat' first
    | with_reducible exact Does.refl
    | with_reducible assumption
    | (with_reducible refine State.wr_does _ _ _ _ ?_)
    | with_reducible refine Does.ite ?_ ?_
    | split
    | dsimp only

theorem State.wakeEngines_does (s : State) (stream sts : List Nat) (h0 : Does fs s0 s) (hs : Field.sub [.regs] fs = true := by decide) :
    Does fs s0 (State.wakeEngines s stream sts) := by
  refine Does.step (gs := [.regs]) ?_ h0 hs
  unfold State.wakeEngines
  try dsimp only
  repeat' first
    | with_reducible exact Does.refl
    | with_reducible assumption
    | (with_reducible refine State.wake_does _ _ ?_)
    | with_reducible refine Does.ite ?_ ?_
    | ((with_reducible refine Does.foldl (fun x b h => ?_) _ ?_); try dsimp only)
    | ((with_reducible refine Does.foldl_fst (fun x b h => ?_) _ ?_); try dsimp only)
    | split
    | dsimp only

theorem State.applyReef_does (s : State) (h0 : Does fs s0 s) (hs : Field.sub [.regs, .reef, .rewrites, .rewritesDue, .rewriteStream] fs = true := by decide) :
    Does fs s0 (State.applyReef s) := by
  refine Does.step (gs := [.regs, .reef, .rewrites, .rewritesDue, .rewriteStream]) ?_ h0 hs
  unfold State.applyReef
  try dsimp only
  repeat' first
    | with_reducible exact Does.refl
    | with_reducible assumption
    | (with_reducible refine State.wakeEngines_does _ _ _ ?_)
    | with_reducible refine Does.ite ?_ ?_
    | split
    | (with_reducible refine State.withReef_does _ _ ?_)
    | ((with_reducible refine Does.leaf ?_ rfl ?_ rfl rfl rfl rfl); rotate_left; (intro f hf; cases f <;> first | rfl | exact absurd (by decide) hf))
    | dsimp only

theorem State.startAttempt_does (s : State) (n : Nat) (h0 : Does fs s0 s) (hs : Field.sub [.regs, .tokBase, .step, .reef, .rewrites, .rewritesDue, .rewriteStream, .reserved, .heldMsgs] fs = true := by decide) :
    Does fs s0 (s.startAttempt n) := by
  refine Does.step (gs := [.regs, .tokBase, .step, .reef, .rewrites, .rewritesDue, .rewriteStream, .reserved, .heldMsgs]) ?_ h0 hs
  unfold State.startAttempt
  split
  · exact Does.refl
  · extract_lets s1 s2 s3 seq t'
    have h1 : Does [.regs, .tokBase, .step, .reef, .rewrites, .rewritesDue, .rewriteStream, .reserved, .heldMsgs] s s1 := State.applyReef_does _ (State.wr_does _ _ _ _ (State.wr_does _ _ _ _ Does.refl))
    have h2 : Does [.regs, .tokBase, .step, .reef, .rewrites, .rewritesDue, .rewriteStream, .reserved, .heldMsgs] s s2 := Does.foldl (fun x b h => State.countEvent_does _ _ _ _ h) _ h1
    have h3 : Does [.regs, .tokBase, .step, .reef, .rewrites, .rewritesDue, .rewriteStream, .reserved, .heldMsgs] s s3 :=
      Does.foldl (fun x b h => State.wr_does _ _ _ _ (State.wr_does _ _ _ _ (State.wr_does _ _ _ _ h))) _ h2
    have h4 : Does [.regs, .tokBase, .step, .reef, .rewrites, .rewritesDue, .rewriteStream, .reserved, .heldMsgs] s (s3.wr .collCollSeq [] seq) := State.wr_does _ _ _ _ h3
    with_reducible refine State.dropStale_does _ ?_
    with_reducible refine Does.leaf h4 rfl ?_ rfl rfl rfl rfl
    intro f hf
    cases f <;> first | exact absurd (by decide) hf | rfl

theorem State.raise_does (s : State) (bits : Nat) (h0 : Does fs s0 s) (hs : Field.sub [.step] fs = true := by decide) :
    Does fs s0 (State.raise s bits) := by
  refine Does.step (gs := [.step]) ?_ h0 hs
  unfold State.raise
  try dsimp only
  repeat' first
    | with_reducible exact Does.refl
    | with_reducible assumption
    | with_reducible refine Does.ite ?_ ?_
    | split
    | (with_reducible refine State.withStep_does _ _ ?_)
    | ((with_reducible refine Does.leaf ?_ rfl ?_ rfl rfl rfl rfl); rotate_left; (intro f hf; cases f <;> first | rfl | exact absurd (by decide) hf))
    | dsimp only

theorem State.writeStepRecord_does (s : State) (c : CloseInfo) (h0 : Does fs s0 s) (hs : Field.sub [.regs, .mem, .ue, .ce, .ilog, .reports, .reportSeq, .riskEvents, .bwWindow, .bwTotals, .out, .free] fs = true := by decide) :
    Does fs s0 (State.writeStepRecord s c) := by
  refine Does.step (gs := [.regs, .mem, .ue, .ce, .ilog, .reports, .reportSeq, .riskEvents, .bwWindow, .bwTotals, .out, .free]) ?_ h0 hs
  unfold State.writeStepRecord
  try dsimp only
  repeat' first
    | with_reducible exact Does.refl
    | with_reducible assumption
    | (with_reducible refine State.wr_does _ _ _ _ ?_)
    | (with_reducible refine State.log_does _ _ _ _ _ _ _ _ ?_)
    | (with_reducible refine State.writeMem_does _ _ _ _ _ ?_)
    | with_reducible refine Does.ite ?_ ?_
    | split
    | dsimp only

theorem State.leaveStep_does (s : State) (h0 : Does fs s0 s) (hs : Field.sub [.regs, .step, .commit] fs = true := by decide) :
    Does fs s0 (State.leaveStep s) := by
  refine Does.step (gs := [.regs, .step, .commit]) ?_ h0 hs
  unfold State.leaveStep
  try dsimp only
  repeat' first
    | with_reducible exact Does.refl
    | with_reducible assumption
    | (with_reducible refine State.wr_does _ _ _ _ ?_)
    | with_reducible refine Does.ite ?_ ?_
    | split
    | (with_reducible refine State.withStep_does _ _ ?_)
    | ((with_reducible refine Does.leaf ?_ rfl ?_ rfl rfl rfl rfl); rotate_left; (intro f hf; cases f <;> first | rfl | exact absurd (by decide) hf))
    | dsimp only

theorem State.endStepEnd_does (s : State) (st : Status) (reasons verdict : Nat) (h0 : Does fs s0 s) (hs : Field.sub [.regs, .tokens, .tokFaulted, .flight, .heldOut, .lateRecords, .bwWindow, .bwTotals, .out] fs = true := by decide) :
    Does fs s0 (State.endStepEnd s st reasons verdict) := by
  refine Does.step (gs := [.regs, .tokens, .tokFaulted, .flight, .heldOut, .lateRecords, .bwWindow, .bwTotals, .out]) ?_ h0 hs
  unfold State.endStepEnd
  try dsimp only
  repeat' first
    | with_reducible exact Does.refl
    | with_reducible assumption
    | (with_reducible refine State.endPacket_does _ _ _ _ ?_)
    | (with_reducible refine State.finishPacket_does _ _ ?_)
    | with_reducible refine Does.ite ?_ ?_
    | split
    | dsimp only

theorem State.noteMissing_does (s : State) (h0 : Does fs s0 s) (hs : Field.sub [.regs] fs = true := by decide) :
    Does fs s0 (State.noteMissing s) := by
  refine Does.step (gs := [.regs]) ?_ h0 hs
  unfold State.noteMissing
  try dsimp only
  repeat' first
    | with_reducible exact Does.refl
    | with_reducible assumption
    | (with_reducible refine State.wr_does _ _ _ _ ?_)
    | with_reducible refine Does.ite ?_ ?_
    | ((with_reducible refine Does.foldl (fun x b h => ?_) _ ?_); try dsimp only)
    | ((with_reducible refine Does.foldl_fst (fun x b h => ?_) _ ?_); try dsimp only)
    | split
    | dsimp only

theorem State.noteAttempt_does (s : State) (h0 : Does fs s0 s) (hs : Field.sub [.attJumps] fs = true := by decide) :
    Does fs s0 (State.noteAttempt s) := by
  refine Does.step (gs := [.attJumps]) ?_ h0 hs
  unfold State.noteAttempt
  try dsimp only
  repeat' first
    | with_reducible exact Does.refl
    | with_reducible assumption
    | with_reducible refine Does.ite ?_ ?_
    | split
    | (with_reducible refine State.withAttJumps_does _ _ ?_)
    | ((with_reducible refine Does.leaf ?_ rfl ?_ rfl rfl rfl rfl); rotate_left; (intro f hf; cases f <;> first | rfl | exact absurd (by decide) hf))
    | dsimp only

theorem State.closeAborted_does (s : State) (h0 : Does fs s0 s) (hs : Field.sub [.regs, .mem, .ue, .ce, .tokens, .tokFaulted, .flight, .step, .commit, .ilog, .reports, .reportSeq, .riskEvents, .bwWindow, .bwTotals, .out, .free] fs = true := by decide) :
    Does fs s0 (State.closeAborted s) := by
  refine Does.step (gs := [.regs, .mem, .ue, .ce, .tokens, .tokFaulted, .flight, .step, .commit, .ilog, .reports, .reportSeq, .riskEvents, .bwWindow, .bwTotals, .out, .free]) ?_ h0 hs
  unfold State.closeAborted
  try dsimp only
  repeat' first
    | with_reducible exact Does.refl
    | with_reducible assumption
    | (with_reducible refine State.raiseToken_does _ _ _ ?_)
    | (with_reducible refine State.setFaulted_does _ _ _ ?_)
    | (with_reducible refine State.dropPacket_does _ _ ?_)
    | (with_reducible refine State.raise_does _ _ ?_)
    | (with_reducible refine State.writeStepRecord_does _ _ ?_)
    | (with_reducible refine State.leaveStep_does _ ?_)
    | (with_reducible refine State.noteMissing_does _ ?_)
    | with_reducible refine Does.ite ?_ ?_
    | split
    | dsimp only

theorem State.abortStep_does (s : State) (h0 : Does fs s0 s) (hs : Field.sub [.regs, .mem, .ue, .ce, .tokens, .tokFaulted, .flight, .step, .commit, .ilog, .reports, .reportSeq, .riskEvents, .attJumps, .bwWindow, .bwTotals, .out, .free] fs = true := by decide) :
    Does fs s0 (State.abortStep s) := by
  refine Does.step (gs := [.regs, .mem, .ue, .ce, .tokens, .tokFaulted, .flight, .step, .commit, .ilog, .reports, .reportSeq, .riskEvents, .attJumps, .bwWindow, .bwTotals, .out, .free]) ?_ h0 hs
  unfold State.abortStep
  try dsimp only
  repeat' first
    | with_reducible exact Does.refl
    | with_reducible assumption
    | (with_reducible refine State.noteAttempt_does _ ?_)
    | (with_reducible refine State.closeAborted_does _ ?_)
    | with_reducible refine Does.ite ?_ ?_
    | split
    | dsimp only

theorem State.closeReplay_does (s : State) (reasons : Nat) (plan : OutlierPlan) (h0 : Does fs s0 s) (hs : Field.sub [.regs, .mem, .ue, .ce, .tokens, .tokFaulted, .tokBase, .flight, .step, .commit, .reef, .rewrites, .rewritesDue, .rewriteStream, .ilog, .heldOut, .lateRecords, .reports, .reportSeq, .reserved, .heldMsgs, .riskEvents, .bwWindow, .bwTotals, .out, .free] fs = true := by decide) :
    Does fs s0 (State.closeReplay s reasons plan) := by
  refine Does.step (gs := [.regs, .mem, .ue, .ce, .tokens, .tokFaulted, .tokBase, .flight, .step, .commit, .reef, .rewrites, .rewritesDue, .rewriteStream, .ilog, .heldOut, .lateRecords, .reports, .reportSeq, .reserved, .heldMsgs, .riskEvents, .bwWindow, .bwTotals, .out, .free]) ?_ h0 hs
  unfold State.closeReplay
  try dsimp only
  repeat' first
    | with_reducible exact Does.refl
    | with_reducible assumption
    | (with_reducible refine State.wr_does _ _ _ _ ?_)
    | (with_reducible refine State.raiseToken_does _ _ _ ?_)
    | (with_reducible refine State.setFaulted_does _ _ _ ?_)
    | (with_reducible refine State.startAttempt_does _ _ ?_)
    | (with_reducible refine State.writeStepRecord_does _ _ ?_)
    | (with_reducible refine State.endStepEnd_does _ _ _ _ ?_)
    | (with_reducible refine State.closeAborted_does _ ?_)
    | with_reducible refine Does.ite ?_ ?_
    | ((with_reducible refine Does.foldl (fun x b h => ?_) _ ?_); try dsimp only)
    | ((with_reducible refine Does.foldl_fst (fun x b h => ?_) _ ?_); try dsimp only)
    | split
    | (with_reducible refine State.withStep_does _ _ ?_)
    | ((with_reducible refine Does.leaf ?_ rfl ?_ rfl rfl rfl rfl); rotate_left; (intro f hf; cases f <;> first | rfl | exact absurd (by decide) hf))
    | dsimp only

theorem State.closeFinal_does (s : State) (info : CloseInfo) (st : Status) (h0 : Does fs s0 s) (hs : Field.sub [.regs, .mem, .ue, .ce, .tokens, .tokFaulted, .flight, .step, .commit, .ilog, .heldOut, .lateRecords, .reports, .reportSeq, .riskEvents, .bwWindow, .bwTotals, .out, .free] fs = true := by decide) :
    Does fs s0 (State.closeFinal s info st) := by
  refine Does.step (gs := [.regs, .mem, .ue, .ce, .tokens, .tokFaulted, .flight, .step, .commit, .ilog, .heldOut, .lateRecords, .reports, .reportSeq, .riskEvents, .bwWindow, .bwTotals, .out, .free]) ?_ h0 hs
  unfold State.closeFinal
  try dsimp only
  repeat' first
    | with_reducible exact Does.refl
    | with_reducible assumption
    | (with_reducible refine State.writeStepRecord_does _ _ ?_)
    | (with_reducible refine State.leaveStep_does _ ?_)
    | (with_reducible refine State.endStepEnd_does _ _ _ _ ?_)
    | with_reducible refine Does.ite ?_ ?_
    | split
    | dsimp only

/-- The open step and the commit phase are replaced. -/
theorem State.withSteps_does (s : State) (t : Option StepSt) (c : Option CommitSt) (h0 : Does fs s0 s)
    (hs : Field.sub [.step, .commit] fs = true := by decide) : Does fs s0 { s with step := t, commit := c } := by
  refine Does.step (gs := [.step, .commit]) (Does.leaf Does.refl rfl ?_ rfl rfl rfl rfl) h0 hs
  intro f hf
  cases f <;> first | rfl | exact absurd (by decide) hf

theorem State.commitStop_does (s : State) (st : Status) (stack : Option Nat) (h0 : Does fs s0 s)
    (hs : Field.sub [.regs, .mem, .ue, .ce, .tokens, .tokFaulted, .flight, .step, .commit, .groups, .ilog, .heldOut, .lateRecords, .reports, .reportSeq, .riskEvents, .bwWindow, .bwTotals, .out, .free] fs = true := by decide) : Does fs s0 (s.commitStop st stack) := by
  refine Does.step (gs := [.regs, .mem, .ue, .ce, .tokens, .tokFaulted, .flight, .step, .commit, .groups, .ilog, .heldOut, .lateRecords, .reports, .reportSeq, .riskEvents, .bwWindow, .bwTotals, .out, .free]) ?_ h0 hs
  unfold State.commitStop
  split
  · extract_lets g entry t s1 s2 s3
    have h2 : Does [.regs, .mem, .ue, .ce, .tokens, .tokFaulted, .flight, .step, .commit, .groups, .ilog, .heldOut, .lateRecords, .reports, .reportSeq, .riskEvents, .bwWindow, .bwTotals, .out, .free] s s2 := State.wr_does _ _ _ _ (State.wr_does _ _ _ _ (State.wr_does _ _ _ _ (State.wr_does _ _ _ _
      (State.withSteps_does _ _ _ Does.refl))))
    refine State.closeFinal_does _ _ _ ?_
    unfold s3
    split
    · exact Does.ite h2 (State.engineFault_does _ _ _ _ h2)
    · exact h2
  · exact Does.refl

theorem State.commitDone_does (s : State) (h0 : Does fs s0 s) (hs : Field.sub [.regs, .mem, .ue, .ce, .arbiters, .tokens, .tokFaulted, .flight, .step, .commit, .groups, .ilog, .heldOut, .lateRecords, .reports, .reportSeq, .ports, .delivered, .riskEvents, .copy, .copyWas, .signing, .bwWindow, .bwTotals, .out, .free] fs = true := by decide) :
    Does fs s0 (State.commitDone s) := by
  refine Does.step (gs := [.regs, .mem, .ue, .ce, .arbiters, .tokens, .tokFaulted, .flight, .step, .commit, .groups, .ilog, .heldOut, .lateRecords, .reports, .reportSeq, .ports, .delivered, .riskEvents, .copy, .copyWas, .signing, .bwWindow, .bwTotals, .out, .free]) ?_ h0 hs
  unfold State.commitDone
  try dsimp only
  repeat' first
    | with_reducible exact Does.refl
    | with_reducible assumption
    | (with_reducible refine State.wr_does _ _ _ _ ?_)
    | (with_reducible refine State.writeNextCopy_does _ _ _ _ _ _ ?_)
    | (with_reducible refine State.sendCopyEnd_does _ ?_)
    | (with_reducible refine State.closeFinal_does _ _ _ ?_)
    | (with_reducible refine State.commitStop_does _ _ _ ?_)
    | with_reducible refine Does.ite ?_ ?_
    | split
    | (with_reducible refine State.withCommit_does _ _ ?_)
    | ((with_reducible refine Does.leaf ?_ rfl ?_ rfl rfl rfl rfl); rotate_left; (intro f hf; cases f <;> first | rfl | exact absurd (by decide) hf))
    | dsimp only

theorem State.groupStop_does (s : State) (g : ParamGroup) (q : State × Status × Option Nat) (hq : s.groupStop g = some q)
    (h0 : Does fs s0 s) (hs : Field.sub [.regs, .ilog, .reports, .reportSeq, .riskEvents, .out] fs = true := by decide) : Does fs s0 q.1 := by
  unfold State.groupStop at hq
  dsimp only at hq
  split at hq
  · cases hq
    exact h0
  · split at hq
    · cases hq
      exact (State.noteBads_does s _ _ Does.refl).step h0 hs
    · split at hq
      · cases hq
      · cases hq
        exact (State.logChecks_does s _ _ Does.refl).step h0 hs

theorem State.readGroupTraffic_does (s : State) (g : ParamGroup) (h0 : Does fs s0 s) (hs : Field.sub [.regs, .ilog, .reports, .reportSeq, .riskEvents, .bwWindow, .bwTotals, .out, .free] fs = true := by decide) :
    Does fs s0 (State.readGroupTraffic s g) := by
  refine Does.step (gs := [.regs, .ilog, .reports, .reportSeq, .riskEvents, .bwWindow, .bwTotals, .out, .free]) ?_ h0 hs
  unfold State.readGroupTraffic
  try dsimp only
  repeat' first
    | with_reducible exact Does.refl
    | with_reducible assumption
    | (with_reducible refine State.readsTraffic_does _ _ _ ?_)
    | with_reducible refine Does.ite ?_ ?_
    | ((with_reducible refine Does.foldl (fun x b h => ?_) _ ?_); try dsimp only)
    | ((with_reducible refine Does.foldl_fst (fun x b h => ?_) _ ?_); try dsimp only)
    | split
    | dsimp only

theorem State.startGroups_does (s : State) (l : List Nat) (h0 : Does fs s0 s)
    (hs : Field.sub [.regs, .mem, .ue, .ce, .arbiters, .tokens, .tokFaulted, .flight, .step, .commit, .groups, .ilog, .heldOut, .lateRecords, .reports, .reportSeq, .ports, .delivered, .riskEvents, .copy, .copyWas, .signing, .bwWindow, .bwTotals, .out, .free] fs = true := by decide) : Does fs s0 (s.startGroups l) := by
  refine Does.step (gs := [.regs, .mem, .ue, .ce, .arbiters, .tokens, .tokFaulted, .flight, .step, .commit, .groups, .ilog, .heldOut, .lateRecords, .reports, .reportSeq, .ports, .delivered, .riskEvents, .copy, .copyWas, .signing, .bwWindow, .bwTotals, .out, .free]) ?_ h0 hs
  have h : ∀ x, Does [.regs, .mem, .ue, .ce, .arbiters, .tokens, .tokFaulted, .flight, .step, .commit, .groups, .ilog, .heldOut, .lateRecords, .reports, .reportSeq, .ports, .delivered, .riskEvents, .copy, .copyWas, .signing, .bwWindow, .bwTotals, .out, .free] s x → Does [.regs, .mem, .ue, .ce, .arbiters, .tokens, .tokFaulted, .flight, .step, .commit, .groups, .ilog, .heldOut, .lateRecords, .reports, .reportSeq, .ports, .delivered, .riskEvents, .copy, .copyWas, .signing, .bwWindow, .bwTotals, .out, .free] s (x.startGroups l) := by
    induction l with
    | nil => exact fun x h => State.commitDone_does _ h
    | cons n rest ih =>
      intro x hx
      rw [State.startGroups]
      split
      · extract_lets s1 h cnt bias ratio lo hi hold s2 t s3
        have h1 : Does [.regs, .mem, .ue, .ce, .arbiters, .tokens, .tokFaulted, .flight, .step, .commit, .groups, .ilog, .heldOut, .lateRecords, .reports, .reportSeq, .ports, .delivered, .riskEvents, .copy, .copyWas, .signing, .bwWindow, .bwTotals, .out, .free] s s1 := State.withCommit_does _ _ hx
        split
        · exact State.withCommit_does _ _ hx
        · split
          · exact State.commitStop_does _ _ _ (State.groupStop_does _ _ _ ‹_› h1)
          · have h2 : Does [.regs, .mem, .ue, .ce, .arbiters, .tokens, .tokFaulted, .flight, .step, .commit, .groups, .ilog, .heldOut, .lateRecords, .reports, .reportSeq, .ports, .delivered, .riskEvents, .copy, .copyWas, .signing, .bwWindow, .bwTotals, .out, .free] s s2 := by
              unfold s2
              exact Does.ite (State.readGroupTraffic_does _ _ h1) h1
            split
            · refine ih _ (State.withSteps_does _ _ _ (State.sendGroupBolts_does _ _ ?_))
              exact Does.ite (State.readGroupTraffic_does _ _ h2) h2
            · exact State.withCommit_does _ _ h2
      · exact hx
  exact h s Does.refl

theorem State.resumeCommit_does (s : State) (h0 : Does fs s0 s) (hs : Field.sub [.regs, .mem, .ue, .ce, .arbiters, .tokens, .tokFaulted, .flight, .step, .commit, .groups, .ilog, .heldOut, .lateRecords, .reports, .reportSeq, .ports, .delivered, .riskEvents, .copy, .copyWas, .signing, .bwWindow, .bwTotals, .out, .free] fs = true := by decide) :
    Does fs s0 (State.resumeCommit s) := by
  refine Does.step (gs := [.regs, .mem, .ue, .ce, .arbiters, .tokens, .tokFaulted, .flight, .step, .commit, .groups, .ilog, .heldOut, .lateRecords, .reports, .reportSeq, .ports, .delivered, .riskEvents, .copy, .copyWas, .signing, .bwWindow, .bwTotals, .out, .free]) ?_ h0 hs
  unfold State.resumeCommit
  try dsimp only
  repeat' first
    | with_reducible exact Does.refl
    | with_reducible assumption
    | (with_reducible refine State.startGroups_does _ _ ?_)
    | with_reducible refine Does.ite ?_ ?_
    | split
    | (with_reducible refine State.withCommit_does _ _ ?_)
    | ((with_reducible refine Does.leaf ?_ rfl ?_ rfl rfl rfl rfl); rotate_left; (intro f hf; cases f <;> first | rfl | exact absurd (by decide) hf))
    | dsimp only

theorem State.startCommit_does (s : State) (h0 : Does fs s0 s) (hs : Field.sub [.regs, .mem, .ue, .ce, .arbiters, .tokens, .tokFaulted, .flight, .step, .commit, .groups, .ilog, .heldOut, .lateRecords, .reports, .reportSeq, .ports, .delivered, .riskEvents, .copy, .copyWas, .copyDue, .signing, .bwWindow, .bwTotals, .out, .free] fs = true := by decide) :
    Does fs s0 (State.startCommit s) := by
  refine Does.step (gs := [.regs, .mem, .ue, .ce, .arbiters, .tokens, .tokFaulted, .flight, .step, .commit, .groups, .ilog, .heldOut, .lateRecords, .reports, .reportSeq, .ports, .delivered, .riskEvents, .copy, .copyWas, .copyDue, .signing, .bwWindow, .bwTotals, .out, .free]) ?_ h0 hs
  unfold State.startCommit
  try dsimp only
  repeat' first
    | with_reducible exact Does.refl
    | with_reducible assumption
    | (with_reducible refine State.wr_does _ _ _ _ ?_)
    | (with_reducible refine State.beginCopy_does _ _ _ ?_)
    | (with_reducible refine State.wakeEngines_does _ _ _ ?_)
    | (with_reducible refine State.startGroups_does _ _ ?_)
    | with_reducible refine Does.ite ?_ ?_
    | ((with_reducible refine Does.foldl (fun x b h => ?_) _ ?_); try dsimp only)
    | ((with_reducible refine Does.foldl_fst (fun x b h => ?_) _ ?_); try dsimp only)
    | split
    | (with_reducible refine State.withCommit_does _ _ ?_)
    | ((with_reducible refine Does.leaf ?_ rfl ?_ rfl rfl rfl rfl); rotate_left; (intro f hf; cases f <;> first | rfl | exact absurd (by decide) hf))
    | dsimp only

theorem State.commitSkip_does (s : State) (reasons : Nat) (h0 : Does fs s0 s) (hs : Field.sub [.regs, .mem, .ue, .ce, .tokens, .tokFaulted, .flight, .step, .commit, .ilog, .heldOut, .lateRecords, .reports, .reportSeq, .riskEvents, .bwWindow, .bwTotals, .out, .free] fs = true := by decide) :
    Does fs s0 (State.commitSkip s reasons) := by
  refine Does.step (gs := [.regs, .mem, .ue, .ce, .tokens, .tokFaulted, .flight, .step, .commit, .ilog, .heldOut, .lateRecords, .reports, .reportSeq, .riskEvents, .bwWindow, .bwTotals, .out, .free]) ?_ h0 hs
  unfold State.commitSkip
  try dsimp only
  repeat' first
    | with_reducible exact Does.refl
    | with_reducible assumption
    | (with_reducible refine State.wr_does _ _ _ _ ?_)
    | (with_reducible refine State.writeNextCopy_does _ _ _ _ _ _ ?_)
    | (with_reducible refine State.closeFinal_does _ _ _ ?_)
    | with_reducible refine Does.ite ?_ ?_
    | split
    | dsimp only

theorem State.applyVerdict_does (s : State) (verdict reasons : Nat) (plan : OutlierPlan) (other : Status) (h0 : Does fs s0 s) (hs : Field.sub [.regs, .mem, .ue, .ce, .arbiters, .tokens, .tokFaulted, .tokBase, .flight, .step, .commit, .groups, .reef, .rewrites, .rewritesDue, .rewriteStream, .ilog, .heldOut, .lateRecords, .reports, .reportSeq, .ports, .delivered, .reserved, .heldMsgs, .riskEvents, .copy, .copyWas, .copyDue, .signing, .bwWindow, .bwTotals, .out, .free] fs = true := by decide) :
    Does fs s0 (State.applyVerdict s verdict reasons plan other) := by
  refine Does.step (gs := [.regs, .mem, .ue, .ce, .arbiters, .tokens, .tokFaulted, .tokBase, .flight, .step, .commit, .groups, .reef, .rewrites, .rewritesDue, .rewriteStream, .ilog, .heldOut, .lateRecords, .reports, .reportSeq, .ports, .delivered, .reserved, .heldMsgs, .riskEvents, .copy, .copyWas, .copyDue, .signing, .bwWindow, .bwTotals, .out, .free]) ?_ h0 hs
  unfold State.applyVerdict
  try dsimp only
  repeat' first
    | with_reducible exact Does.refl
    | with_reducible assumption
    | (with_reducible refine State.closeReplay_does _ _ _ ?_)
    | (with_reducible refine State.closeFinal_does _ _ _ ?_)
    | (with_reducible refine State.startCommit_does _ ?_)
    | (with_reducible refine State.commitSkip_does _ _ ?_)
    | with_reducible refine Does.ite ?_ ?_
    | split
    | (with_reducible refine State.withStep_does _ _ ?_)
    | ((with_reducible refine Does.leaf ?_ rfl ?_ rfl rfl rfl rfl); rotate_left; (intro f hf; cases f <;> first | rfl | exact absurd (by decide) hf))
    | dsimp only

theorem State.readLoss_does (s : State) (h0 : Does fs s0 s) (hs : Field.sub [.regs, .step, .ilog, .reports, .reportSeq, .riskEvents, .bwWindow, .bwTotals, .out, .free] fs = true := by decide) :
    Does fs s0 (State.readLoss s) := by
  refine Does.step (gs := [.regs, .step, .ilog, .reports, .reportSeq, .riskEvents, .bwWindow, .bwTotals, .out, .free]) ?_ h0 hs
  unfold State.readLoss
  try dsimp only
  repeat' first
    | with_reducible exact Does.refl
    | with_reducible assumption
    | (with_reducible refine State.log_does _ _ _ _ _ _ _ _ ?_)
    | (with_reducible refine State.readTraffic_does _ _ _ _ ?_)
    | (with_reducible refine State.noteBads_does _ _ _ ?_)
    | (with_reducible refine State.raise_does _ _ ?_)
    | with_reducible refine Does.ite ?_ ?_
    | split
    | (with_reducible refine State.withStep_does _ _ ?_)
    | ((with_reducible refine Does.leaf ?_ rfl ?_ rfl rfl rfl rfl); rotate_left; (intro f hf; cases f <;> first | rfl | exact absurd (by decide) hf))
    | dsimp only

theorem State.agreeVerdict_does (s : State) (h0 : Does fs s0 s) (hs : Field.sub [.regs, .mem, .ue, .ce, .arbiters, .tokens, .tokFaulted, .tokBase, .flight, .step, .commit, .groups, .reef, .rewrites, .rewritesDue, .rewriteStream, .ilog, .heldOut, .lateRecords, .reports, .reportSeq, .ports, .delivered, .reserved, .heldMsgs, .verdicts, .riskEvents, .copy, .copyWas, .copyDue, .signing, .bwWindow, .bwTotals, .out, .free] fs = true := by decide) :
    Does fs s0 (State.agreeVerdict s) := by
  refine Does.step (gs := [.regs, .mem, .ue, .ce, .arbiters, .tokens, .tokFaulted, .tokBase, .flight, .step, .commit, .groups, .reef, .rewrites, .rewritesDue, .rewriteStream, .ilog, .heldOut, .lateRecords, .reports, .reportSeq, .ports, .delivered, .reserved, .heldMsgs, .verdicts, .riskEvents, .copy, .copyWas, .copyDue, .signing, .bwWindow, .bwTotals, .out, .free]) ?_ h0 hs
  unfold State.agreeVerdict
  try dsimp only
  repeat' first
    | with_reducible exact Does.refl
    | with_reducible assumption
    | (with_reducible refine State.applyVerdict_does _ _ _ _ _ ?_)
    | with_reducible refine Does.ite ?_ ?_
    | ((with_reducible refine Does.foldl (fun x b h => ?_) _ ?_); try dsimp only)
    | ((with_reducible refine Does.foldl_fst (fun x b h => ?_) _ ?_); try dsimp only)
    | split
    | (with_reducible refine State.withVerdicts_does _ _ ?_)
    | ((with_reducible refine Does.leaf ?_ rfl ?_ rfl rfl rfl rfl); rotate_left; (intro f hf; cases f <;> first | rfl | exact absurd (by decide) hf))
    | dsimp only

theorem State.closeAttempt_does (s : State) (h0 : Does fs s0 s) (hs : Field.sub [.regs, .mem, .ue, .ce, .arbiters, .tokens, .tokFaulted, .tokBase, .flight, .step, .commit, .groups, .reef, .rewrites, .rewritesDue, .rewriteStream, .ilog, .heldOut, .lateRecords, .reports, .reportSeq, .ports, .delivered, .reserved, .heldMsgs, .verdicts, .riskEvents, .attJumps, .copy, .copyWas, .copyDue, .signing, .bwWindow, .bwTotals, .out, .free] fs = true := by decide) :
    Does fs s0 (State.closeAttempt s) := by
  refine Does.step (gs := [.regs, .mem, .ue, .ce, .arbiters, .tokens, .tokFaulted, .tokBase, .flight, .step, .commit, .groups, .reef, .rewrites, .rewritesDue, .rewriteStream, .ilog, .heldOut, .lateRecords, .reports, .reportSeq, .ports, .delivered, .reserved, .heldMsgs, .verdicts, .riskEvents, .attJumps, .copy, .copyWas, .copyDue, .signing, .bwWindow, .bwTotals, .out, .free]) ?_ h0 hs
  unfold State.closeAttempt
  try dsimp only
  repeat' first
    | with_reducible exact Does.refl
    | with_reducible assumption
    | (with_reducible refine State.sendGroup_does _ _ _ _ _ ?_)
    | (with_reducible refine State.setReef_does _ _ _ ?_)
    | (with_reducible refine State.noteMissing_does _ ?_)
    | (with_reducible refine State.noteAttempt_does _ ?_)
    | (with_reducible refine State.applyVerdict_does _ _ _ _ _ ?_)
    | (with_reducible refine State.readLoss_does _ ?_)
    | (with_reducible refine State.agreeVerdict_does _ ?_)
    | with_reducible refine Does.ite ?_ ?_
    | ((with_reducible refine Does.foldl (fun x b h => ?_) _ ?_); try dsimp only)
    | ((with_reducible refine Does.foldl_fst (fun x b h => ?_) _ ?_); try dsimp only)
    | split
    | (with_reducible refine State.withStep_does _ _ ?_)
    | ((with_reducible refine Does.leaf ?_ rfl ?_ rfl rfl rfl rfl); rotate_left; (intro f hf; cases f <;> first | rfl | exact absurd (by decide) hf))
    | dsimp only

end Sys2Proof.Machine
end

