-- ==== Sys2Proof/Laws/DoesProductOps.lean ====
section
/-! SUPPORT. What the operations of Machine/ProductOps.lean may change. -/

set_option Elab.async false
set_option linter.unusedTactic false
set_option linter.unreachableTactic false
set_option maxRecDepth 2000

namespace Sys2Proof.Machine

variable {fs : List Field} {s0 : State}

theorem State.withDispatched_does (s : State) (v) (h0 : Does fs s0 s)
    (hs : Field.sub [.dispatched] fs = true := by decide) : Does fs s0 { s with dispatched := v } := by
  refine Does.step (gs := [.dispatched]) (Does.leaf Does.refl rfl ?_ rfl rfl rfl rfl) h0 hs
  intro f hf
  cases f <;> first | rfl | exact absurd (by decide) hf

theorem State.withRetries_does (s : State) (v) (h0 : Does fs s0 s)
    (hs : Field.sub [.retries] fs = true := by decide) : Does fs s0 { s with retries := v } := by
  refine Does.step (gs := [.retries]) (Does.leaf Does.refl rfl ?_ rfl rfl rfl rfl) h0 hs
  intro f hf
  cases f <;> first | rfl | exact absurd (by decide) hf

theorem State.spoilPacket_does (s : State) (p : Packet) (h0 : Does fs s0 s) (hs : Field.sub [.mem, .free] fs = true := by decide) :
    Does fs s0 (State.spoilPacket s p) := by
  refine Does.step (gs := [.mem, .free]) ?_ h0 hs
  unfold State.spoilPacket
  try dsimp only
  repeat' first
    | with_reducible exact Does.refl
    | with_reducible assumption
    | (with_reducible refine State.spoils_does _ _ ?_)
    | (with_reducible refine State.spoilTensor_does _ _ ?_)
    | with_reducible refine Does.ite ?_ ?_
    | split
    | dsimp only

theorem State.spoilDest_does (s : State) (pid : Nat) (h0 : Does fs s0 s) (hs : Field.sub [.mem, .free] fs = true := by decide) :
    Does fs s0 (State.spoilDest s pid) := by
  refine Does.step (gs := [.mem, .free]) ?_ h0 hs
  unfold State.spoilDest
  try dsimp only
  repeat' first
    | with_reducible exact Does.refl
    | with_reducible assumption
    | (with_reducible refine State.spoilPacket_does _ _ ?_)
    | with_reducible refine Does.ite ?_ ?_
    | split
    | dsimp only

theorem State.wakeQuad_does (s : State) (c : Nat) (h0 : Does fs s0 s) (hs : Field.sub [.regs] fs = true := by decide) :
    Does fs s0 (State.wakeQuad s c) := by
  refine Does.step (gs := [.regs]) ?_ h0 hs
  unfold State.wakeQuad
  try dsimp only
  repeat' first
    | with_reducible exact Does.refl
    | with_reducible assumption
    | (with_reducible refine State.wake_does _ _ ?_)
    | with_reducible refine Does.ite ?_ ?_
    | split
    | dsimp only

theorem State.writeSample_does (s : State) (d : Desc) (u : ExecUnit) (fault : Bool) (h0 : Does fs s0 s) (hs : Field.sub [.regs, .samples, .free] fs = true := by decide) :
    Does fs s0 (State.writeSample s d u fault) := by
  refine Does.step (gs := [.regs, .samples, .free]) ?_ h0 hs
  unfold State.writeSample
  try dsimp only
  repeat' first
    | with_reducible exact Does.refl
    | with_reducible assumption
    | (with_reducible refine State.putSample_does _ _ _ _ _ _ _ ?_)
    | with_reducible refine Does.ite ?_ ?_
    | split
    | dsimp only

theorem State.failCompute_does (s : State) (pid : Nat) (st : Status) (detail : Nat) (h0 : Does fs s0 s) (hs : Field.sub [.regs, .mem, .flight, .descs, .retries, .samples, .free] fs = true := by decide) :
    Does fs s0 (State.failCompute s pid st detail) := by
  refine Does.step (gs := [.regs, .mem, .flight, .descs, .retries, .samples, .free]) ?_ h0 hs
  unfold State.failCompute
  try dsimp only
  repeat' first
    | with_reducible exact Does.refl
    | with_reducible assumption
    | (with_reducible refine State.endPacket_does _ _ _ _ ?_)
    | (with_reducible refine State.spoilDest_does _ _ ?_)
    | (with_reducible refine State.writeSample_does _ _ _ _ ?_)
    | with_reducible refine Does.ite ?_ ?_
    | ((with_reducible refine Does.foldl (fun x b h => ?_) _ ?_); try dsimp only)
    | ((with_reducible refine Does.foldl_fst (fun x b h => ?_) _ ?_); try dsimp only)
    | split
    | (with_reducible refine State.withRetries_does _ _ ?_)
    | ((with_reducible refine Does.leaf ?_ rfl ?_ rfl rfl rfl rfl); rotate_left; (intro f hf; cases f <;> first | rfl | exact absurd (by decide) hf))
    | dsimp only

theorem State.wakeFor_does (s : State) (p : Packet) (h0 : Does fs s0 s) (hs : Field.sub [.regs] fs = true := by decide) :
    Does fs s0 (State.wakeFor s p) := by
  refine Does.step (gs := [.regs]) ?_ h0 hs
  unfold State.wakeFor
  try dsimp only
  repeat' first
    | with_reducible exact Does.refl
    | with_reducible assumption
    | (with_reducible refine State.wake_does _ _ ?_)
    | (with_reducible refine State.wakeQuad_does _ _ ?_)
    | with_reducible refine Does.ite ?_ ?_
    | ((with_reducible refine Does.foldl (fun x b h => ?_) _ ?_); try dsimp only)
    | ((with_reducible refine Does.foldl_fst (fun x b h => ?_) _ ?_); try dsimp only)
    | split
    | dsimp only

theorem State.placeDescs_does (s : State) (p : Packet) (h0 : Does fs s0 s) (hs : Field.sub [.regs, .nextId, .descs] fs = true := by decide) :
    Does fs s0 (State.placeDescs s p) := by
  refine Does.step (gs := [.regs, .nextId, .descs]) ?_ h0 hs
  unfold State.placeDescs
  try dsimp only
  repeat' first
    | with_reducible exact Does.refl
    | with_reducible assumption
    | (with_reducible refine State.countEvent_does _ _ _ _ ?_)
    | (with_reducible refine State.wakeFor_does _ _ ?_)
    | with_reducible refine Does.ite ?_ ?_
    | split
    | (with_reducible refine State.withDescs_does _ _ ?_)
    | ((with_reducible refine Does.leaf ?_ rfl ?_ rfl rfl rfl rfl); rotate_left; (intro f hf; cases f <;> first | rfl | exact absurd (by decide) hf))
    | ((with_reducible refine Does.update ?_ rfl ?_ id id pids_self (Nat.le_add_right _ _)); rotate_left; (intro f hf; cases f <;> first | rfl | exact absurd (by decide) hf))
    | dsimp only

theorem State.startCompute_does (s : State) (pid : Nat) (h0 : Does fs s0 s) (hs : Field.sub [.regs, .mem, .nextId, .flight, .descs, .ilog, .reports, .reportSeq, .riskEvents, .out, .free] fs = true := by decide) :
    Does fs s0 (State.startCompute s pid) := by
  refine Does.step (gs := [.regs, .mem, .nextId, .flight, .descs, .ilog, .reports, .reportSeq, .riskEvents, .out, .free]) ?_ h0 hs
  unfold State.startCompute
  try dsimp only
  repeat' first
    | with_reducible exact Does.refl
    | with_reducible assumption
    | (with_reducible refine State.setPacket_does _ _ ?_)
    | (with_reducible refine State.endPacket_does _ _ _ _ ?_)
    | (with_reducible refine State.endBad_does _ _ _ _ ?_)
    | (with_reducible refine State.logChecks_does _ _ _ ?_)
    | (with_reducible refine State.spoilPacket_does _ _ ?_)
    | (with_reducible refine State.placeDescs_does _ _ ?_)
    | with_reducible refine Does.ite ?_ ?_
    | split
    | dsimp only

theorem State.setDesc_does (s : State) (d : Desc) (h0 : Does fs s0 s) (hs : Field.sub [.descs] fs = true := by decide) :
    Does fs s0 (State.setDesc s d) := by
  refine Does.step (gs := [.descs]) ?_ h0 hs
  unfold State.setDesc
  try dsimp only
  repeat' first
    | with_reducible exact Does.refl
    | with_reducible assumption
    | with_reducible refine Does.ite ?_ ?_
    | split
    | (with_reducible refine State.withDescs_does _ _ ?_)
    | ((with_reducible refine Does.leaf ?_ rfl ?_ rfl rfl rfl rfl); rotate_left; (intro f hf; cases f <;> first | rfl | exact absurd (by decide) hf))
    | dsimp only

theorem State.dispatch_does (s : State) (u : ExecUnit) (k : DescKind) (h0 : Does fs s0 s) (hs : Field.sub [.dispatched] fs = true := by decide) :
    Does fs s0 (State.dispatch s u k).1 := by
  refine Does.step (gs := [.dispatched]) ?_ h0 hs
  unfold State.dispatch
  try dsimp only
  repeat' first
    | with_reducible exact Does.refl
    | with_reducible assumption
    | with_reducible refine Does.ite ?_ ?_
    | split
    | (with_reducible refine State.withDispatched_does _ _ ?_)
    | ((with_reducible refine Does.leaf ?_ rfl ?_ rfl rfl rfl rfl); rotate_left; (intro f hf; cases f <;> first | rfl | exact absurd (by decide) hf))
    | dsimp only

theorem State.countUnit_does (s : State) (u : ExecUnit) (e n : Nat) (h0 : Does fs s0 s) (hs : Field.sub [.regs] fs = true := by decide) :
    Does fs s0 (State.countUnit s u e n) := by
  refine Does.step (gs := [.regs]) ?_ h0 hs
  unfold State.countUnit
  try dsimp only
  repeat' first
    | with_reducible exact Does.refl
    | with_reducible assumption
    | (with_reducible refine State.countCluster_does _ _ _ _ ?_)
    | with_reducible refine Does.ite ?_ ?_
    | split
    | dsimp only

theorem State.unitReads_does (s : State) (u : ExecUnit) (rs : List (Nat × Nat)) (h0 : Does fs s0 s) (hs : Field.sub [.regs, .ilog, .reports, .reportSeq, .riskEvents, .bwWindow, .bwTotals, .out, .free] fs = true := by decide) :
    Does fs s0 (State.unitReads s u rs) := by
  refine Does.step (gs := [.regs, .ilog, .reports, .reportSeq, .riskEvents, .bwWindow, .bwTotals, .out, .free]) ?_ h0 hs
  unfold State.unitReads
  try dsimp only
  repeat' first
    | with_reducible exact Does.refl
    | with_reducible assumption
    | (with_reducible refine State.readTraffic_does _ _ _ _ ?_)
    | with_reducible refine Does.ite ?_ ?_
    | ((with_reducible refine Does.foldl (fun x b h => ?_) _ ?_); try dsimp only)
    | ((with_reducible refine Does.foldl_fst (fun x b h => ?_) _ ?_); try dsimp only)
    | split
    | dsimp only

theorem State.startDesc_does (s : State) (u : ExecUnit) (h0 : Does fs s0 s) (hs : Field.sub [.regs, .mem, .flight, .descs, .retries, .ilog, .reports, .reportSeq, .dispatched, .samples, .riskEvents, .bwWindow, .bwTotals, .out, .free] fs = true := by decide) :
    Does fs s0 (State.startDesc s u) := by
  refine Does.step (gs := [.regs, .mem, .flight, .descs, .retries, .ilog, .reports, .reportSeq, .dispatched, .samples, .riskEvents, .bwWindow, .bwTotals, .out, .free]) ?_ h0 hs
  unfold State.startDesc
  try dsimp only
  repeat' first
    | with_reducible exact Does.refl
    | with_reducible assumption
    | (with_reducible refine State.countEvent_does _ _ _ _ ?_)
    | (with_reducible refine State.sampleStart_does _ _ ?_)
    | (with_reducible refine State.noteBads_does _ _ _ ?_)
    | (with_reducible refine State.logChecks_does _ _ _ ?_)
    | (with_reducible refine State.failCompute_does _ _ _ _ ?_)
    | (with_reducible refine State.wakeFor_does _ _ ?_)
    | (with_reducible refine State.setDesc_does _ _ ?_)
    | (with_reducible refine State.dispatch_does _ _ _ ?_)
    | (with_reducible refine State.countUnit_does _ _ _ _ ?_)
    | (with_reducible refine State.unitReads_does _ _ _ ?_)
    | with_reducible refine Does.ite ?_ ?_
    | split
    | dsimp only

theorem State.countFlags_does (s : State) (u : ExecUnit) (f : FlagSet) (h0 : Does fs s0 s) (hs : Field.sub [.regs] fs = true := by decide) :
    Does fs s0 (State.countFlags s u f) := by
  refine Does.step (gs := [.regs]) ?_ h0 hs
  unfold State.countFlags
  try dsimp only
  repeat' first
    | with_reducible exact Does.refl
    | with_reducible assumption
    | (with_reducible refine State.count_does _ _ _ _ ?_)
    | (with_reducible refine State.countUnit_does _ _ _ _ ?_)
    | with_reducible refine Does.ite ?_ ?_
    | ((with_reducible refine Does.foldl (fun x b h => ?_) _ ?_); try dsimp only)
    | ((with_reducible refine Does.foldl_fst (fun x b h => ?_) _ ?_); try dsimp only)
    | split
    | dsimp only

theorem State.countWriter_does (s : State) (u : ExecUnit) (elems blocks jib wide : Nat) (h0 : Does fs s0 s) (hs : Field.sub [.regs] fs = true := by decide) :
    Does fs s0 (State.countWriter s u elems blocks jib wide) := by
  refine Does.step (gs := [.regs]) ?_ h0 hs
  unfold State.countWriter
  try dsimp only
  repeat' first
    | with_reducible exact Does.refl
    | with_reducible assumption
    | (with_reducible refine State.countUnit_does _ _ _ _ ?_)
    | with_reducible refine Does.ite ?_ ?_
    | split
    | dsimp only

theorem State.countPass_does (s : State) (d : Desc) (p : Packet) (u : ExecUnit) (h0 : Does fs s0 s) (hs : Field.sub [.regs, .free] fs = true := by decide) :
    Does fs s0 (State.countPass s d p u) := by
  refine Does.step (gs := [.regs, .free]) ?_ h0 hs
  unfold State.countPass
  try dsimp only
  repeat' first
    | with_reducible exact Does.refl
    | with_reducible assumption
    | (with_reducible refine State.freeVal_does _ _ ?_)
    | (with_reducible refine State.bump_does _ _ _ _ ?_)
    | (with_reducible refine State.stackEvent_does _ _ _ _ ?_)
    | (with_reducible refine State.countUnit_does _ _ _ _ ?_)
    | with_reducible refine Does.ite ?_ ?_
    | ((with_reducible refine Does.foldl (fun x b h => ?_) _ ?_); try dsimp only)
    | ((with_reducible refine Does.foldl_fst (fun x b h => ?_) _ ?_); try dsimp only)
    | split
    | dsimp only

theorem State.releaseTile_does (s : State) (d : Desc) (u : ExecUnit) (p : Packet) (b t : Nat) (h0 : Does fs s0 s) (hs : Field.sub [.regs, .flight, .descs] fs = true := by decide) :
    Does fs s0 (State.releaseTile s d u p b t) := by
  refine Does.step (gs := [.regs, .flight, .descs]) ?_ h0 hs
  unfold State.releaseTile
  try dsimp only
  repeat' first
    | with_reducible exact Does.refl
    | with_reducible assumption
    | (with_reducible refine State.setPacket_does _ _ ?_)
    | (with_reducible refine State.setDesc_does _ _ ?_)
    | (with_reducible refine State.countFlags_does _ _ _ ?_)
    | (with_reducible refine State.countWriter_does _ _ _ _ _ _ ?_)
    | with_reducible refine Does.ite ?_ ?_
    | ((with_reducible refine Does.foldl (fun x b h => ?_) _ ?_); try dsimp only)
    | ((with_reducible refine Does.foldl_fst (fun x b h => ?_) _ ?_); try dsimp only)
    | split
    | dsimp only

theorem State.releasePart_does (s : State) (d : Desc) (st : Nat) (h0 : Does fs s0 s) (hs : Field.sub [.descs] fs = true := by decide) :
    Does fs s0 (State.releasePart s d st) := by
  refine Does.step (gs := [.descs]) ?_ h0 hs
  unfold State.releasePart
  try dsimp only
  repeat' first
    | with_reducible exact Does.refl
    | with_reducible assumption
    | (with_reducible refine State.setDesc_does _ _ ?_)
    | with_reducible refine Does.ite ?_ ?_
    | split
    | dsimp only

theorem State.streamOut_does (s : State) (pid : Nat) (u : ExecUnit) (h0 : Does fs s0 s) (hs : Field.sub [.regs, .mem, .ue, .ce, .arbiters, .nextId, .flight, .step, .ilog, .reports, .reportSeq, .ports, .delivered, .colls, .endedColls, .samples, .riskEvents, .copy, .copyWas, .bwWindow, .bwTotals, .out, .free] fs = true := by decide) :
    Does fs s0 (State.streamOut s pid u) := by
  refine Does.step (gs := [.regs, .mem, .ue, .ce, .arbiters, .nextId, .flight, .step, .ilog, .reports, .reportSeq, .ports, .delivered, .colls, .endedColls, .samples, .riskEvents, .copy, .copyWas, .bwWindow, .bwTotals, .out, .free]) ?_ h0 hs
  unfold State.streamOut
  try dsimp only
  repeat' first
    | with_reducible exact Does.refl
    | with_reducible assumption
    | (with_reducible refine State.writeMems_does _ _ _ _ ?_)
    | (with_reducible refine State.advance_does _ _ ?_)
    | with_reducible refine Does.ite ?_ ?_
    | split
    | dsimp only

theorem State.releaseDesc_does (s : State) (d : Desc) (u : ExecUnit) (h0 : Does fs s0 s) (hs : Field.sub [.regs, .mem, .ue, .ce, .arbiters, .nextId, .flight, .descs, .step, .ilog, .reports, .reportSeq, .ports, .delivered, .colls, .endedColls, .samples, .riskEvents, .copy, .copyWas, .bwWindow, .bwTotals, .out, .free] fs = true := by decide) :
    Does fs s0 (State.releaseDesc s d u) := by
  refine Does.step (gs := [.regs, .mem, .ue, .ce, .arbiters, .nextId, .flight, .descs, .step, .ilog, .reports, .reportSeq, .ports, .delivered, .colls, .endedColls, .samples, .riskEvents, .copy, .copyWas, .bwWindow, .bwTotals, .out, .free]) ?_ h0 hs
  unfold State.releaseDesc
  try dsimp only
  repeat' first
    | with_reducible exact Does.refl
    | with_reducible assumption
    | (with_reducible refine State.releaseTile_does _ _ _ _ _ _ ?_)
    | (with_reducible refine State.releasePart_does _ _ _ ?_)
    | (with_reducible refine State.streamOut_does _ _ _ ?_)
    | with_reducible refine Does.ite ?_ ?_
    | split
    | dsimp only

theorem State.checkEvent_does (s : State) (u : ExecUnit) (code addr tag execution : Nat) (h0 : Does fs s0 s) (hs : Field.sub [.regs, .ilog, .reports, .reportSeq, .out] fs = true := by decide) :
    Does fs s0 (State.checkEvent s u code addr tag execution) := by
  refine Does.step (gs := [.regs, .ilog, .reports, .reportSeq, .out]) ?_ h0 hs
  unfold State.checkEvent
  try dsimp only
  repeat' first
    | with_reducible exact Does.refl
    | with_reducible assumption
    | (with_reducible refine State.count_does _ _ _ _ ?_)
    | (with_reducible refine State.log_does _ _ _ _ _ _ _ _ ?_)
    | (with_reducible refine State.countUnit_does _ _ _ _ ?_)
    | with_reducible refine Does.ite ?_ ?_
    | split
    | dsimp only

theorem State.addRetry_does (s : State) (what : RetryFor) (u0 u1 u2 : ExecUnit) (kind : Nat) (h0 : Does fs s0 s) (hs : Field.sub [.nextId, .retries] fs = true := by decide) :
    Does fs s0 (State.addRetry s what u0 u1 u2 kind) := by
  refine Does.step (gs := [.nextId, .retries]) ?_ h0 hs
  unfold State.addRetry
  try dsimp only
  repeat' first
    | with_reducible exact Does.refl
    | with_reducible assumption
    | with_reducible refine Does.ite ?_ ?_
    | split
    | (with_reducible refine State.withRetries_does _ _ ?_)
    | ((with_reducible refine Does.leaf ?_ rfl ?_ rfl rfl rfl rfl); rotate_left; (intro f hf; cases f <;> first | rfl | exact absurd (by decide) hf))
    | ((with_reducible refine Does.update ?_ rfl ?_ id id pids_self (Nat.le_add_right _ _)); rotate_left; (intro f hf; cases f <;> first | rfl | exact absurd (by decide) hf))
    | dsimp only

theorem State.checkAgain_does (s : State) (d : Desc) (u : ExecUnit) (tag execution : Nat) (c : Check) (h0 : Does fs s0 s) (hs : Field.sub [.regs, .ilog, .reports, .reportSeq, .out] fs = true := by decide) :
    Does fs s0 (State.checkAgain s d u tag execution c) := by
  refine Does.step (gs := [.regs, .ilog, .reports, .reportSeq, .out]) ?_ h0 hs
  unfold State.checkAgain
  try dsimp only
  repeat' first
    | with_reducible exact Does.refl
    | with_reducible assumption
    | (with_reducible refine State.checkEvent_does _ _ _ _ _ _ ?_)
    | with_reducible refine Does.ite ?_ ?_
    | split
    | dsimp only

theorem State.latchDesc_does (s : State) (id : Nat) (check : Check) (h0 : Does fs s0 s) (hs : Field.sub [.regs, .mem, .ue, .ce, .arbiters, .nextId, .flight, .descs, .retries, .step, .ilog, .reports, .reportSeq, .ports, .delivered, .colls, .endedColls, .samples, .riskEvents, .copy, .copyWas, .bwWindow, .bwTotals, .out, .free] fs = true := by decide) :
    Does fs s0 (State.latchDesc s id check) := by
  refine Does.step (gs := [.regs, .mem, .ue, .ce, .arbiters, .nextId, .flight, .descs, .retries, .step, .ilog, .reports, .reportSeq, .ports, .delivered, .colls, .endedColls, .samples, .riskEvents, .copy, .copyWas, .bwWindow, .bwTotals, .out, .free]) ?_ h0 hs
  unfold State.latchDesc
  try dsimp only
  repeat' first
    | with_reducible exact Does.refl
    | with_reducible assumption
    | (with_reducible refine State.setDesc_does _ _ ?_)
    | (with_reducible refine State.countPass_does _ _ _ _ ?_)
    | (with_reducible refine State.releaseDesc_does _ _ _ ?_)
    | (with_reducible refine State.checkEvent_does _ _ _ _ _ _ ?_)
    | (with_reducible refine State.addRetry_does _ _ _ _ _ _ ?_)
    | with_reducible refine Does.ite ?_ ?_
    | split
    | dsimp only

theorem State.countBolts_does (s : State) (o : TDesc) (h0 : Does fs s0 s) (hs : Field.sub [.regs] fs = true := by decide) :
    Does fs s0 (State.countBolts s o) := by
  refine Does.step (gs := [.regs]) ?_ h0 hs
  unfold State.countBolts
  try dsimp only
  repeat' first
    | with_reducible exact Does.refl
    | with_reducible assumption
    | (with_reducible refine State.countEvent_does _ _ _ _ ?_)
    | with_reducible refine Does.ite ?_ ?_
    | ((with_reducible refine Does.foldl (fun x b h => ?_) _ ?_); try dsimp only)
    | ((with_reducible refine Does.foldl_fst (fun x b h => ?_) _ ?_); try dsimp only)
    | split
    | dsimp only

theorem State.finishCompute_does (s : State) (pid : Nat) (u : ExecUnit) (h0 : Does fs s0 s) (hs : Field.sub [.regs, .mem, .ue, .ce, .flight, .ilog, .reports, .reportSeq, .riskEvents, .bwWindow, .bwTotals, .out, .free] fs = true := by decide) :
    Does fs s0 (State.finishCompute s pid u) := by
  refine Does.step (gs := [.regs, .mem, .ue, .ce, .flight, .ilog, .reports, .reportSeq, .riskEvents, .bwWindow, .bwTotals, .out, .free]) ?_ h0 hs
  unfold State.finishCompute
  try dsimp only
  repeat' first
    | with_reducible exact Does.refl
    | with_reducible assumption
    | (with_reducible refine State.writeMems_does _ _ _ _ ?_)
    | (with_reducible refine State.updPacket_does _ _ _ ?_)
    | (with_reducible refine State.endPacket_does _ _ _ _ ?_)
    | (with_reducible refine State.spoilPacket_does _ _ ?_)
    | (with_reducible refine State.countBolts_does _ _ ?_)
    | with_reducible refine Does.ite ?_ ?_
    | split
    | dsimp only

theorem State.capture_does (s : State) (k tag id : Nat) (f : FlagSet) (h0 : Does fs s0 s) (hs : Field.sub [.regs] fs = true := by decide) :
    Does fs s0 (State.capture s k tag id f) := by
  refine Does.step (gs := [.regs]) ?_ h0 hs
  unfold State.capture
  try dsimp only
  repeat' first
    | with_reducible exact Does.refl
    | with_reducible assumption
    | (with_reducible refine State.wr_does _ _ _ _ ?_)
    | (with_reducible refine State.count_does _ _ _ _ ?_)
    | with_reducible refine Does.ite ?_ ?_
    | ((with_reducible refine Does.foldl (fun x b h => ?_) _ ?_); try dsimp only)
    | ((with_reducible refine Does.foldl_fst (fun x b h => ?_) _ ?_); try dsimp only)
    | split
    | dsimp only

theorem State.vectorFlags_does (s : State) (u : ExecUnit) (p : Packet) (d : Desc) (h0 : Does fs s0 s) (hs : Field.sub [.regs] fs = true := by decide) :
    Does fs s0 (State.vectorFlags s u p d).2 := by
  refine Does.step (gs := [.regs]) ?_ h0 hs
  unfold State.vectorFlags
  try dsimp only
  repeat' first
    | with_reducible exact Does.refl
    | with_reducible assumption
    | (with_reducible refine State.countFlags_does _ _ _ ?_)
    | (with_reducible refine State.countWriter_does _ _ _ _ _ _ ?_)
    | with_reducible refine Does.ite ?_ ?_
    | ((with_reducible refine Does.foldl (fun x b h => ?_) _ ?_); try dsimp only)
    | ((with_reducible refine Does.foldl_fst (fun x b h => ?_) _ ?_); try dsimp only)
    | split
    | dsimp only

theorem State.endDesc_does (s : State) (id : Nat) (h0 : Does fs s0 s) (hs : Field.sub [.regs, .mem, .ue, .ce, .flight, .descs, .ilog, .reports, .reportSeq, .samples, .riskEvents, .bwWindow, .bwTotals, .out, .free] fs = true := by decide) :
    Does fs s0 (State.endDesc s id) := by
  refine Does.step (gs := [.regs, .mem, .ue, .ce, .flight, .descs, .ilog, .reports, .reportSeq, .samples, .riskEvents, .bwWindow, .bwTotals, .out, .free]) ?_ h0 hs
  unfold State.endDesc
  try dsimp only
  repeat' first
    | with_reducible exact Does.refl
    | with_reducible assumption
    | (with_reducible refine State.writeSample_does _ _ _ _ ?_)
    | (with_reducible refine State.setDesc_does _ _ ?_)
    | (with_reducible refine State.countUnit_does _ _ _ _ ?_)
    | (with_reducible refine State.finishCompute_does _ _ _ ?_)
    | (with_reducible refine State.capture_does _ _ _ _ _ ?_)
    | (with_reducible refine State.vectorFlags_does _ _ _ _ ?_)
    | with_reducible refine Does.ite ?_ ?_
    | split
    | dsimp only

theorem State.preempt_does (s : State) (k : Nat) (q : Progress) (h0 : Does fs s0 s) (hs : Field.sub [.regs, .descs] fs = true := by decide) :
    Does fs s0 (State.preempt s k q) := by
  refine Does.step (gs := [.regs, .descs]) ?_ h0 hs
  unfold State.preempt
  try dsimp only
  repeat' first
    | with_reducible exact Does.refl
    | with_reducible assumption
    | (with_reducible refine State.countEvent_does _ _ _ _ ?_)
    | (with_reducible refine State.countCluster_does _ _ _ _ ?_)
    | (with_reducible refine State.setDesc_does _ _ ?_)
    | with_reducible refine Does.ite ?_ ?_
    | split
    | dsimp only

theorem State.resume_does (s : State) (id : Nat) (h0 : Does fs s0 s) (hs : Field.sub [.regs, .descs] fs = true := by decide) :
    Does fs s0 (State.resume s id) := by
  refine Does.step (gs := [.regs, .descs]) ?_ h0 hs
  unfold State.resume
  try dsimp only
  repeat' first
    | with_reducible exact Does.refl
    | with_reducible assumption
    | (with_reducible refine State.countCluster_does _ _ _ _ ?_)
    | (with_reducible refine State.setDesc_does _ _ ?_)
    | with_reducible refine Does.ite ?_ ?_
    | split
    | dsimp only

end Sys2Proof.Machine
end

