-- ==== Sys2Proof/Laws/DoesUnitOps.lean ====
section
/-! SUPPORT. What the operations of Machine/UnitOps.lean may change. -/

set_option Elab.async false
set_option linter.unusedTactic false
set_option linter.unreachableTactic false
set_option maxRecDepth 2000

namespace Sys2Proof.Machine

variable {fs : List Field} {s0 : State}

theorem State.withCycleBase_does (s : State) (v) (h0 : Does fs s0 s)
    (hs : Field.sub [.cycleBase] fs = true := by decide) : Does fs s0 { s with cycleBase := v } := by
  refine Does.step (gs := [.cycleBase]) (Does.leaf Does.refl rfl ?_ rfl rfl rfl rfl) h0 hs
  intro f hf
  cases f <;> first | rfl | exact absurd (by decide) hf

theorem State.withFetchHold_does (s : State) (v) (h0 : Does fs s0 s)
    (hs : Field.sub [.fetchHold] fs = true := by decide) : Does fs s0 { s with fetchHold := v } := by
  refine Does.step (gs := [.fetchHold]) (Does.leaf Does.refl rfl ?_ rfl rfl rfl rfl) h0 hs
  intro f hf
  cases f <;> first | rfl | exact absurd (by decide) hf

theorem State.withRunning_does (s : State) (v) (h0 : Does fs s0 s)
    (hs : Field.sub [.running] fs = true := by decide) : Does fs s0 { s with running := v } := by
  refine Does.step (gs := [.running]) (Does.leaf Does.refl rfl ?_ rfl rfl rfl rfl) h0 hs
  intro f hf
  cases f <;> first | rfl | exact absurd (by decide) hf

theorem State.withTestClock_does (s : State) (v) (h0 : Does fs s0 s)
    (hs : Field.sub [.testClock] fs = true := by decide) : Does fs s0 { s with testClock := v } := by
  refine Does.step (gs := [.testClock]) (Does.leaf Does.refl rfl ?_ rfl rfl rfl rfl) h0 hs
  intro f hf
  cases f <;> first | rfl | exact absurd (by decide) hf

theorem State.withTestFails_does (s : State) (v) (h0 : Does fs s0 s)
    (hs : Field.sub [.testFails] fs = true := by decide) : Does fs s0 { s with testFails := v } := by
  refine Does.step (gs := [.testFails]) (Does.leaf Does.refl rfl ?_ rfl rfl rfl rfl) h0 hs
  intro f hf
  cases f <;> first | rfl | exact absurd (by decide) hf

theorem State.withTests_does (s : State) (v) (h0 : Does fs s0 s)
    (hs : Field.sub [.tests] fs = true := by decide) : Does fs s0 { s with tests := v } := by
  refine Does.step (gs := [.tests]) (Does.leaf Does.refl rfl ?_ rfl rfl rfl rfl) h0 hs
  intro f hf
  cases f <;> first | rfl | exact absurd (by decide) hf

theorem State.setDomain_does (s : State) (d st : Nat) (h0 : Does fs s0 s) (hs : Field.sub [.regs] fs = true := by decide) :
    Does fs s0 (State.setDomain s d st) := by
  refine Does.step (gs := [.regs]) ?_ h0 hs
  unfold State.setDomain
  try dsimp only
  repeat' first
    | with_reducible exact Does.refl
    | with_reducible assumption
    | (with_reducible refine State.wr_does _ _ _ _ ?_)
    | with_reducible refine Does.ite ?_ ?_
    | split
    | dsimp only

theorem State.domainOn_does (s : State) (d : Nat) (h0 : Does fs s0 s) (hs : Field.sub [.regs, .cycleBase] fs = true := by decide) :
    Does fs s0 (State.domainOn s d) := by
  refine Does.step (gs := [.regs, .cycleBase]) ?_ h0 hs
  unfold State.domainOn
  try dsimp only
  repeat' first
    | with_reducible exact Does.refl
    | with_reducible assumption
    | (with_reducible refine State.wr_does _ _ _ _ ?_)
    | (with_reducible refine State.setDomain_does _ _ _ ?_)
    | with_reducible refine Does.ite ?_ ?_
    | split
    | (with_reducible refine State.withCycleBase_does _ _ ?_)
    | ((with_reducible refine Does.leaf ?_ rfl ?_ rfl rfl rfl rfl); rotate_left; (intro f hf; cases f <;> first | rfl | exact absurd (by decide) hf))
    | dsimp only

theorem State.enablePort_does (s : State) (p : Nat) (h0 : Does fs s0 s) (hs : Field.sub [.regs, .ports] fs = true := by decide) :
    Does fs s0 (State.enablePort s p) := by
  refine Does.step (gs := [.regs, .ports]) ?_ h0 hs
  unfold State.enablePort
  try dsimp only
  repeat' first
    | with_reducible exact Does.refl
    | with_reducible assumption
    | (with_reducible refine State.wr_does _ _ _ _ ?_)
    | (with_reducible refine State.bump_does _ _ _ _ ?_)
    | (with_reducible refine State.wake_does _ _ ?_)
    | (with_reducible refine State.setPort_does _ _ _ ?_)
    | with_reducible refine Does.ite ?_ ?_
    | split
    | dsimp only

theorem State.disablePort_does (s : State) (p : Nat) (h0 : Does fs s0 s) (hs : Field.sub [.regs, .ports] fs = true := by decide) :
    Does fs s0 (State.disablePort s p) := by
  refine Does.step (gs := [.regs, .ports]) ?_ h0 hs
  unfold State.disablePort
  try dsimp only
  repeat' first
    | with_reducible exact Does.refl
    | with_reducible assumption
    | (with_reducible refine State.wr_does _ _ _ _ ?_)
    | (with_reducible refine State.discardPort_does _ _ ?_)
    | (with_reducible refine State.setDomain_does _ _ _ ?_)
    | with_reducible refine Does.ite ?_ ?_
    | split
    | dsimp only

theorem State.reply_does (s : State) (seq : Nat) (st : Status) (detail : Nat) (h0 : Does fs s0 s) (hs : Field.sub [.out] fs = true := by decide) :
    Does fs s0 (State.reply s seq st detail) := by
  refine Does.step (gs := [.out]) ?_ h0 hs
  unfold State.reply
  try dsimp only
  repeat' first
    | with_reducible exact Does.refl
    | with_reducible assumption
    | (with_reducible refine State.emit_does _ _ ?_)
    | with_reducible refine Does.ite ?_ ?_
    | split
    | dsimp only

theorem State.answer_does (s : State) (a : Asker) (st : Status) (detail : Nat) (h0 : Does fs s0 s) (hs : Field.sub [.flight, .out] fs = true := by decide) :
    Does fs s0 (State.answer s a st detail) := by
  refine Does.step (gs := [.flight, .out]) ?_ h0 hs
  unfold State.answer
  try dsimp only
  repeat' first
    | with_reducible exact Does.refl
    | with_reducible assumption
    | (with_reducible refine State.endPacket_does _ _ _ _ ?_)
    | (with_reducible refine State.reply_does _ _ _ _ ?_)
    | (with_reducible refine State.command_does _ _ _ _ _ ?_)
    | with_reducible refine Does.ite ?_ ?_
    | split
    | dsimp only

theorem State.failPackets_does (s : State) (ps : List Packet) (h0 : Does fs s0 s) (hs : Field.sub [.regs, .mem, .flight, .descs, .retries, .samples, .free] fs = true := by decide) :
    Does fs s0 (State.failPackets s ps) := by
  refine Does.step (gs := [.regs, .mem, .flight, .descs, .retries, .samples, .free]) ?_ h0 hs
  unfold State.failPackets
  try dsimp only
  repeat' first
    | with_reducible exact Does.refl
    | with_reducible assumption
    | (with_reducible refine State.failCompute_does _ _ _ _ ?_)
    | with_reducible refine Does.ite ?_ ?_
    | ((with_reducible refine Does.foldl (fun x b h => ?_) _ ?_); try dsimp only)
    | ((with_reducible refine Does.foldl_fst (fun x b h => ?_) _ ?_); try dsimp only)
    | split
    | dsimp only

theorem State.failBlocked_does (s : State) (h0 : Does fs s0 s) (hs : Field.sub [.regs, .mem, .flight, .descs, .retries, .samples, .free] fs = true := by decide) :
    Does fs s0 (State.failBlocked s) := by
  refine Does.step (gs := [.regs, .mem, .flight, .descs, .retries, .samples, .free]) ?_ h0 hs
  unfold State.failBlocked
  try dsimp only
  repeat' first
    | with_reducible exact Does.refl
    | with_reducible assumption
    | (with_reducible refine State.failPackets_does _ _ ?_)
    | with_reducible refine Does.ite ?_ ?_
    | split
    | dsimp only

theorem State.bjUnitDone_does (s : State) (pid : Nat) (failed : Bool) (h0 : Does fs s0 s) (hs : Field.sub [.flight, .fetchHold, .testFails] fs = true := by decide) :
    Does fs s0 (State.bjUnitDone s pid failed) := by
  refine Does.step (gs := [.flight, .fetchHold, .testFails]) ?_ h0 hs
  unfold State.bjUnitDone
  try dsimp only
  repeat' first
    | with_reducible exact Does.refl
    | with_reducible assumption
    | (with_reducible refine State.endPacket_does _ _ _ _ ?_)
    | with_reducible refine Does.ite ?_ ?_
    | split
    | (with_reducible refine State.withTestFails_does _ _ ?_)
    | ((with_reducible refine Does.leaf ?_ rfl ?_ rfl rfl rfl rfl); rotate_left; (intro f hf; cases f <;> first | rfl | exact absurd (by decide) hf))
    | dsimp only

theorem State.answerTest_does (s : State) (t : TestSt) (failed cut : Bool) (h0 : Does fs s0 s) (hs : Field.sub [.flight, .fetchHold, .testFails, .out] fs = true := by decide) :
    Does fs s0 (State.answerTest s t failed cut) := by
  refine Does.step (gs := [.flight, .fetchHold, .testFails, .out]) ?_ h0 hs
  unfold State.answerTest
  try dsimp only
  repeat' first
    | with_reducible exact Does.refl
    | with_reducible assumption
    | (with_reducible refine State.endPacket_does _ _ _ _ ?_)
    | (with_reducible refine State.reply_does _ _ _ _ ?_)
    | (with_reducible refine State.bjUnitDone_does _ _ _ ?_)
    | (with_reducible refine State.command_does _ _ _ _ _ ?_)
    | with_reducible refine Does.ite ?_ ?_
    | split
    | (with_reducible refine State.withFetchHold_does _ _ ?_)
    | ((with_reducible refine Does.leaf ?_ rfl ?_ rfl rfl rfl rfl); rotate_left; (intro f hf; cases f <;> first | rfl | exact absurd (by decide) hf))
    | dsimp only

theorem State.dropTests_does (s : State) (u : Nat) (h0 : Does fs s0 s) (hs : Field.sub [.regs, .flight, .fetchHold, .tests, .testFails, .out] fs = true := by decide) :
    Does fs s0 (State.dropTests s u) := by
  refine Does.step (gs := [.regs, .flight, .fetchHold, .tests, .testFails, .out]) ?_ h0 hs
  unfold State.dropTests
  try dsimp only
  repeat' first
    | with_reducible exact Does.refl
    | with_reducible assumption
    | (with_reducible refine State.wr_does _ _ _ _ ?_)
    | (with_reducible refine State.answerTest_does _ _ _ _ ?_)
    | with_reducible refine Does.ite ?_ ?_
    | ((with_reducible refine Does.foldl (fun x b h => ?_) _ ?_); try dsimp only)
    | ((with_reducible refine Does.foldl_fst (fun x b h => ?_) _ ?_); try dsimp only)
    | split
    | (with_reducible refine State.withTests_does _ _ ?_)
    | ((with_reducible refine Does.leaf ?_ rfl ?_ rfl rfl rfl rfl); rotate_left; (intro f hf; cases f <;> first | rfl | exact absurd (by decide) hf))
    | dsimp only

theorem State.fenceEffects_does (s : State) (u : Nat) (h0 : Does fs s0 s) (hs : Field.sub [.regs, .mem, .flight, .fetchHold, .descs, .retries, .ports, .tests, .testFails, .samples, .out, .free] fs = true := by decide) :
    Does fs s0 (State.fenceEffects s u) := by
  refine Does.step (gs := [.regs, .mem, .flight, .fetchHold, .descs, .retries, .ports, .tests, .testFails, .samples, .out, .free]) ?_ h0 hs
  unfold State.fenceEffects
  try dsimp only
  repeat' first
    | with_reducible exact Does.refl
    | with_reducible assumption
    | (with_reducible refine State.setDomain_does _ _ _ ?_)
    | (with_reducible refine State.disablePort_does _ _ ?_)
    | (with_reducible refine State.failPackets_does _ _ ?_)
    | (with_reducible refine State.failBlocked_does _ ?_)
    | (with_reducible refine State.dropTests_does _ _ ?_)
    | with_reducible refine Does.ite ?_ ?_
    | split
    | (with_reducible refine State.withDescs_does _ _ ?_)
    | ((with_reducible refine Does.leaf ?_ rfl ?_ rfl rfl rfl rfl); rotate_left; (intro f hf; cases f <;> first | rfl | exact absurd (by decide) hf))
    | dsimp only

theorem State.settleFences_does (s : State) (h0 : Does fs s0 s) (hs : Field.sub [.regs] fs = true := by decide) :
    Does fs s0 (State.settleFences s) := by
  refine Does.step (gs := [.regs]) ?_ h0 hs
  unfold State.settleFences
  try dsimp only
  repeat' first
    | with_reducible exact Does.refl
    | with_reducible assumption
    | (with_reducible refine State.setDomain_does _ _ _ ?_)
    | with_reducible refine Does.ite ?_ ?_
    | ((with_reducible refine Does.foldl (fun x b h => ?_) _ ?_); try dsimp only)
    | ((with_reducible refine Does.foldl_fst (fun x b h => ?_) _ ?_); try dsimp only)
    | split
    | dsimp only

theorem State.refreshHealth_does (s : State) (h0 : Does fs s0 s) (hs : Field.sub [.regs] fs = true := by decide) :
    Does fs s0 (State.refreshHealth s) := by
  refine Does.step (gs := [.regs]) ?_ h0 hs
  unfold State.refreshHealth
  try dsimp only
  repeat' first
    | with_reducible exact Does.refl
    | with_reducible assumption
    | (with_reducible refine State.wr_does _ _ _ _ ?_)
    | with_reducible refine Does.ite ?_ ?_
    | split
    | dsimp only

theorem State.setHealth_does (s : State) (u h cause : Nat) (h0 : Does fs s0 s) (hs : Field.sub [.regs, .mem, .flight, .fetchHold, .descs, .retries, .ilog, .reports, .reportSeq, .ports, .tests, .testFails, .testClock, .samples, .out, .free] fs = true := by decide) :
    Does fs s0 (State.setHealth s u h cause) := by
  refine Does.step (gs := [.regs, .mem, .flight, .fetchHold, .descs, .retries, .ilog, .reports, .reportSeq, .ports, .tests, .testFails, .testClock, .samples, .out, .free]) ?_ h0 hs
  unfold State.setHealth
  try dsimp only
  repeat' first
    | with_reducible exact Does.refl
    | with_reducible assumption
    | (with_reducible refine State.wr_does _ _ _ _ ?_)
    | (with_reducible refine State.log_does _ _ _ _ _ _ _ _ ?_)
    | (with_reducible refine State.setDomain_does _ _ _ ?_)
    | (with_reducible refine State.fenceEffects_does _ _ ?_)
    | (with_reducible refine State.refreshHealth_does _ ?_)
    | with_reducible refine Does.ite ?_ ?_
    | split
    | (with_reducible refine State.withTestClock_does _ _ ?_)
    | ((with_reducible refine Does.leaf ?_ rfl ?_ rfl rfl rfl rfl); rotate_left; (intro f hf; cases f <;> first | rfl | exact absurd (by decide) hf))
    | dsimp only

theorem State.autoFence_does (s : State) (u cause : Nat) (h0 : Does fs s0 s) (hs : Field.sub [.regs, .mem, .flight, .fetchHold, .descs, .retries, .ilog, .reports, .reportSeq, .ports, .tests, .testFails, .testClock, .samples, .riskEvents, .out, .free] fs = true := by decide) :
    Does fs s0 (State.autoFence s u cause) := by
  refine Does.step (gs := [.regs, .mem, .flight, .fetchHold, .descs, .retries, .ilog, .reports, .reportSeq, .ports, .tests, .testFails, .testClock, .samples, .riskEvents, .out, .free]) ?_ h0 hs
  unfold State.autoFence
  try dsimp only
  repeat' first
    | with_reducible exact Does.refl
    | with_reducible assumption
    | (with_reducible refine State.wr_does _ _ _ _ ?_)
    | (with_reducible refine State.noteRisk_does _ _ _ ?_)
    | (with_reducible refine State.refreshHealth_does _ ?_)
    | (with_reducible refine State.setHealth_does _ _ _ _ ?_)
    | with_reducible refine Does.ite ?_ ?_
    | split
    | dsimp only

theorem State.involve_does (s : State) (u : Nat) (h0 : Does fs s0 s) (hs : Field.sub [.regs, .mem, .flight, .fetchHold, .descs, .retries, .ilog, .reports, .reportSeq, .ports, .tests, .testFails, .testClock, .samples, .riskEvents, .out, .free] fs = true := by decide) :
    Does fs s0 (State.involve s u) := by
  refine Does.step (gs := [.regs, .mem, .flight, .fetchHold, .descs, .retries, .ilog, .reports, .reportSeq, .ports, .tests, .testFails, .testClock, .samples, .riskEvents, .out, .free]) ?_ h0 hs
  unfold State.involve
  try dsimp only
  repeat' first
    | with_reducible exact Does.refl
    | with_reducible assumption
    | (with_reducible refine State.setHealth_does _ _ _ _ ?_)
    | (with_reducible refine State.autoFence_does _ _ _ ?_)
    | with_reducible refine Does.ite ?_ ?_
    | split
    | dsimp only

theorem State.testHealth_does (s : State) (u result clean : Nat) (h0 : Does fs s0 s) (hs : Field.sub [.regs, .mem, .flight, .fetchHold, .descs, .retries, .ilog, .reports, .reportSeq, .ports, .tests, .testFails, .testClock, .samples, .riskEvents, .out, .free] fs = true := by decide) :
    Does fs s0 (State.testHealth s u result clean) := by
  refine Does.step (gs := [.regs, .mem, .flight, .fetchHold, .descs, .retries, .ilog, .reports, .reportSeq, .ports, .tests, .testFails, .testClock, .samples, .riskEvents, .out, .free]) ?_ h0 hs
  unfold State.testHealth
  try dsimp only
  repeat' first
    | with_reducible exact Does.refl
    | with_reducible assumption
    | (with_reducible refine State.wr_does _ _ _ _ ?_)
    | (with_reducible refine State.setHealth_does _ _ _ _ ?_)
    | (with_reducible refine State.autoFence_does _ _ _ ?_)
    | with_reducible refine Does.ite ?_ ?_
    | split
    | dsimp only

theorem State.queueTest_does (s : State) (u : Nat) (a : Asker) (unfence : Bool) (h0 : Does fs s0 s) (hs : Field.sub [.regs, .tests] fs = true := by decide) :
    Does fs s0 (State.queueTest s u a unfence) := by
  refine Does.step (gs := [.regs, .tests]) ?_ h0 hs
  unfold State.queueTest
  try dsimp only
  repeat' first
    | with_reducible exact Does.refl
    | with_reducible assumption
    | (with_reducible refine State.wake_does _ _ ?_)
    | with_reducible refine Does.ite ?_ ?_
    | split
    | (with_reducible refine State.withTests_does _ _ ?_)
    | ((with_reducible refine Does.leaf ?_ rfl ?_ rfl rfl rfl rfl); rotate_left; (intro f hf; cases f <;> first | rfl | exact absurd (by decide) hf))
    | dsimp only

theorem State.setTest_does (s : State) (t : TestSt) (h0 : Does fs s0 s) (hs : Field.sub [.tests] fs = true := by decide) :
    Does fs s0 (State.setTest s t) := by
  refine Does.step (gs := [.tests]) ?_ h0 hs
  unfold State.setTest
  try dsimp only
  repeat' first
    | with_reducible exact Does.refl
    | with_reducible assumption
    | with_reducible refine Does.ite ?_ ?_
    | split
    | (with_reducible refine State.withTests_does _ _ ?_)
    | ((with_reducible refine Does.leaf ?_ rfl ?_ rfl rfl rfl rfl); rotate_left; (intro f hf; cases f <;> first | rfl | exact absurd (by decide) hf))
    | dsimp only

theorem State.deferExpiry_does (s : State) (u : Nat) (places : List Progress) (h0 : Does fs s0 s) (hs : Field.sub [.regs, .descs, .tests] fs = true := by decide) :
    Does fs s0 (State.deferExpiry s u places) := by
  refine Does.step (gs := [.regs, .descs, .tests]) ?_ h0 hs
  unfold State.deferExpiry
  try dsimp only
  repeat' first
    | with_reducible exact Does.refl
    | with_reducible assumption
    | (with_reducible refine State.preempt_does _ _ _ ?_)
    | (with_reducible refine State.setTest_does _ _ ?_)
    | with_reducible refine Does.ite ?_ ?_
    | ((with_reducible refine Does.foldl (fun x b h => ?_) _ ?_); try dsimp only)
    | ((with_reducible refine Does.foldl_fst (fun x b h => ?_) _ ?_); try dsimp only)
    | split
    | dsimp only

theorem State.slotStart_does (s : State) (u : Nat) (h0 : Does fs s0 s) (hs : Field.sub [.regs, .descs, .ilog, .reports, .reportSeq, .tests, .out] fs = true := by decide) :
    Does fs s0 (State.slotStart s u) := by
  refine Does.step (gs := [.regs, .descs, .ilog, .reports, .reportSeq, .tests, .out]) ?_ h0 hs
  unfold State.slotStart
  try dsimp only
  repeat' first
    | with_reducible exact Does.refl
    | with_reducible assumption
    | (with_reducible refine State.wr_does _ _ _ _ ?_)
    | (with_reducible refine State.count_does _ _ _ _ ?_)
    | (with_reducible refine State.log_does _ _ _ _ _ _ _ _ ?_)
    | (with_reducible refine State.setTest_does _ _ ?_)
    | with_reducible refine Does.ite ?_ ?_
    | split
    | (with_reducible refine State.withDescs_does _ _ ?_)
    | (with_reducible refine State.withRunning_does _ _ ?_)
    | ((with_reducible refine Does.leaf ?_ rfl ?_ rfl rfl rfl rfl); rotate_left; (intro f hf; cases f <;> first | rfl | exact absurd (by decide) hf))
    | dsimp only

theorem State.testRegs_does (s : State) (t : TestSt) (result kernel skipped : Nat) (h0 : Does fs s0 s) (hs : Field.sub [.regs, .ilog, .reports, .reportSeq, .out, .free] fs = true := by decide) :
    Does fs s0 (State.testRegs s t result kernel skipped) := by
  refine Does.step (gs := [.regs, .ilog, .reports, .reportSeq, .out, .free]) ?_ h0 hs
  unfold State.testRegs
  try dsimp only
  repeat' first
    | with_reducible exact Does.refl
    | with_reducible assumption
    | (with_reducible refine State.wr_does _ _ _ _ ?_)
    | (with_reducible refine State.freeVal_does _ _ ?_)
    | (with_reducible refine State.count_does _ _ _ _ ?_)
    | (with_reducible refine State.bump_does _ _ _ _ ?_)
    | (with_reducible refine State.log_does _ _ _ _ _ _ _ _ ?_)
    | with_reducible refine Does.ite ?_ ?_
    | split
    | dsimp only

theorem State.sendQueued_does (s : State) (t : TestSt) (h0 : Does fs s0 s) (hs : Field.sub [.out] fs = true := by decide) :
    Does fs s0 (State.sendQueued s t) := by
  refine Does.step (gs := [.out]) ?_ h0 hs
  unfold State.sendQueued
  try dsimp only
  repeat' first
    | with_reducible exact Does.refl
    | with_reducible assumption
    | (with_reducible refine State.sendDatagram_does _ _ ?_)
    | with_reducible refine Does.ite ?_ ?_
    | ((with_reducible refine Does.foldl (fun x b h => ?_) _ ?_); try dsimp only)
    | ((with_reducible refine Does.foldl_fst (fun x b h => ?_) _ ?_); try dsimp only)
    | split
    | dsimp only

theorem State.testChannels_does (s : State) (u : Nat) (channels : List Nat) (h0 : Does fs s0 s) (hs : Field.sub [.regs, .ilog, .reports, .reportSeq, .riskEvents, .out] fs = true := by decide) :
    Does fs s0 (State.testChannels s u channels) := by
  refine Does.step (gs := [.regs, .ilog, .reports, .reportSeq, .riskEvents, .out]) ?_ h0 hs
  unfold State.testChannels
  try dsimp only
  repeat' first
    | with_reducible exact Does.refl
    | with_reducible assumption
    | (with_reducible refine State.makePending_does _ _ _ ?_)
    | with_reducible refine Does.ite ?_ ?_
    | ((with_reducible refine Does.foldl (fun x b h => ?_) _ ?_); try dsimp only)
    | ((with_reducible refine Does.foldl_fst (fun x b h => ?_) _ ?_); try dsimp only)
    | split
    | dsimp only

theorem State.slotEnd_does (s : State) (u result kernel skipped : Nat) (channels : List Nat) (h0 : Does fs s0 s) (hs : Field.sub [.regs, .mem, .flight, .fetchHold, .descs, .retries, .ilog, .reports, .reportSeq, .ports, .tests, .testFails, .testClock, .samples, .riskEvents, .out, .free] fs = true := by decide) :
    Does fs s0 (State.slotEnd s u result kernel skipped channels) := by
  refine Does.step (gs := [.regs, .mem, .flight, .fetchHold, .descs, .retries, .ilog, .reports, .reportSeq, .ports, .tests, .testFails, .testClock, .samples, .riskEvents, .out, .free]) ?_ h0 hs
  unfold State.slotEnd
  try dsimp only
  repeat' first
    | with_reducible exact Does.refl
    | with_reducible assumption
    | (with_reducible refine State.answerTest_does _ _ _ _ ?_)
    | (with_reducible refine State.setHealth_does _ _ _ _ ?_)
    | (with_reducible refine State.testHealth_does _ _ _ _ ?_)
    | (with_reducible refine State.testRegs_does _ _ _ _ _ ?_)
    | (with_reducible refine State.sendQueued_does _ _ ?_)
    | (with_reducible refine State.testChannels_does _ _ _ ?_)
    | with_reducible refine Does.ite ?_ ?_
    | split
    | (with_reducible refine State.withTests_does _ _ ?_)
    | ((with_reducible refine Does.leaf ?_ rfl ?_ rfl rfl rfl rfl); rotate_left; (intro f hf; cases f <;> first | rfl | exact absurd (by decide) hf))
    | dsimp only

theorem State.betweenJob_does (s : State) (pid mask : Nat) (h0 : Does fs s0 s) (hs : Field.sub [.regs, .flight, .fetchHold, .tests] fs = true := by decide) :
    Does fs s0 (State.betweenJob s pid mask) := by
  refine Does.step (gs := [.regs, .flight, .fetchHold, .tests]) ?_ h0 hs
  unfold State.betweenJob
  try dsimp only
  repeat' first
    | with_reducible exact Does.refl
    | with_reducible assumption
    | (with_reducible refine State.endPacket_does _ _ _ _ ?_)
    | (with_reducible refine State.queueTest_does _ _ _ _ ?_)
    | with_reducible refine Does.ite ?_ ?_
    | ((with_reducible refine Does.foldl (fun x b h => ?_) _ ?_); try dsimp only)
    | ((with_reducible refine Does.foldl_fst (fun x b h => ?_) _ ?_); try dsimp only)
    | split
    | (with_reducible refine State.withFetchHold_does _ _ ?_)
    | ((with_reducible refine Does.leaf ?_ rfl ?_ rfl rfl rfl rfl); rotate_left; (intro f hf; cases f <;> first | rfl | exact absurd (by decide) hf))
    | dsimp only

theorem State.unitTest_does (s : State) (a : Asker) (u : Nat) (h0 : Does fs s0 s) (hs : Field.sub [.regs, .flight, .tests, .out] fs = true := by decide) :
    Does fs s0 (State.unitTest s a u) := by
  refine Does.step (gs := [.regs, .flight, .tests, .out]) ?_ h0 hs
  unfold State.unitTest
  try dsimp only
  repeat' first
    | with_reducible exact Does.refl
    | with_reducible assumption
    | (with_reducible refine State.answer_does _ _ _ _ ?_)
    | (with_reducible refine State.queueTest_does _ _ _ _ ?_)
    | with_reducible refine Does.ite ?_ ?_
    | split
    | dsimp only

theorem State.unitFence_does (s : State) (a : Asker) (u cause : Nat) (h0 : Does fs s0 s) (hs : Field.sub [.regs, .mem, .flight, .fetchHold, .descs, .retries, .ilog, .reports, .reportSeq, .ports, .tests, .testFails, .testClock, .samples, .out, .free] fs = true := by decide) :
    Does fs s0 (State.unitFence s a u cause) := by
  refine Does.step (gs := [.regs, .mem, .flight, .fetchHold, .descs, .retries, .ilog, .reports, .reportSeq, .ports, .tests, .testFails, .testClock, .samples, .out, .free]) ?_ h0 hs
  unfold State.unitFence
  try dsimp only
  repeat' first
    | with_reducible exact Does.refl
    | with_reducible assumption
    | (with_reducible refine State.answer_does _ _ _ _ ?_)
    | (with_reducible refine State.setHealth_does _ _ _ _ ?_)
    | with_reducible refine Does.ite ?_ ?_
    | split
    | dsimp only

theorem State.unitUnfence_does (s : State) (a : Asker) (u : Nat) (h0 : Does fs s0 s) (hs : Field.sub [.regs, .flight, .fetchHold, .tests, .out] fs = true := by decide) :
    Does fs s0 (State.unitUnfence s a u) := by
  refine Does.step (gs := [.regs, .flight, .fetchHold, .tests, .out]) ?_ h0 hs
  unfold State.unitUnfence
  try dsimp only
  repeat' first
    | with_reducible exact Does.refl
    | with_reducible assumption
    | (with_reducible refine State.answer_does _ _ _ _ ?_)
    | (with_reducible refine State.queueTest_does _ _ _ _ ?_)
    | with_reducible refine Does.ite ?_ ?_
    | split
    | (with_reducible refine State.withFetchHold_does _ _ ?_)
    | ((with_reducible refine Does.leaf ?_ rfl ?_ rfl rfl rfl rfl); rotate_left; (intro f hf; cases f <;> first | rfl | exact absurd (by decide) hf))
    | dsimp only

theorem State.overdueCheck_does (s : State) (h0 : Does fs s0 s) (hs : Field.sub [.regs, .reports, .reportSeq, .out] fs = true := by decide) :
    Does fs s0 (State.overdueCheck s) := by
  refine Does.step (gs := [.regs, .reports, .reportSeq, .out]) ?_ h0 hs
  unfold State.overdueCheck
  try dsimp only
  repeat' first
    | with_reducible exact Does.refl
    | with_reducible assumption
    | (with_reducible refine State.wr_does _ _ _ _ ?_)
    | (with_reducible refine State.report_does _ _ _ ?_)
    | with_reducible refine Does.ite ?_ ?_
    | split
    | dsimp only

theorem State.overrideEnd_does (s : State) (pid : Nat) (outcome : Nat) (h0 : Does fs s0 s) (hs : Field.sub [.regs, .mem, .flight, .descs, .retries, .samples, .free] fs = true := by decide) :
    Does fs s0 (State.overrideEnd s pid outcome) := by
  refine Does.step (gs := [.regs, .mem, .flight, .descs, .retries, .samples, .free]) ?_ h0 hs
  unfold State.overrideEnd
  try dsimp only
  repeat' first
    | with_reducible exact Does.refl
    | with_reducible assumption
    | (with_reducible refine State.updPacket_does _ _ _ ?_)
    | (with_reducible refine State.failCompute_does _ _ _ _ ?_)
    | with_reducible refine Does.ite ?_ ?_
    | split
    | dsimp only

theorem State.writeBatch_does (s : State) (sh n : Nat) (h0 : Does fs s0 s) (hs : Field.sub [.regs, .mem, .ue, .ce, .arbiters, .tokens, .tokFaulted, .nextId, .flight, .step, .commit, .groups, .ilog, .heldOut, .lateRecords, .reports, .reportSeq, .ports, .delivered, .samples, .riskEvents, .copy, .copyWas, .bwWindow, .bwTotals, .out, .free] fs = true := by decide) :
    Does fs s0 (State.writeBatch s sh n) := by
  refine Does.step (gs := [.regs, .mem, .ue, .ce, .arbiters, .tokens, .tokFaulted, .nextId, .flight, .step, .commit, .groups, .ilog, .heldOut, .lateRecords, .reports, .reportSeq, .ports, .delivered, .samples, .riskEvents, .copy, .copyWas, .bwWindow, .bwTotals, .out, .free]) ?_ h0 hs
  unfold State.writeBatch
  try dsimp only
  repeat' first
    | with_reducible exact Does.refl
    | with_reducible assumption
    | (with_reducible refine State.bump_does _ _ _ _ ?_)
    | (with_reducible refine State.sampleOnce_does _ _ _ _ _ _ ?_)
    | (with_reducible refine State.stackEvent_does _ _ _ _ ?_)
    | (with_reducible refine State.readsTraffic_does _ _ _ ?_)
    | (with_reducible refine State.noteBads_does _ _ _ ?_)
    | (with_reducible refine State.writeMems_does _ _ _ _ ?_)
    | (with_reducible refine State.logChecks_does _ _ _ ?_)
    | (with_reducible refine State.sendWritten_does _ _ _ ?_)
    | (with_reducible refine State.commitStop_does _ _ _ ?_)
    | with_reducible refine Does.ite ?_ ?_
    | split
    | (with_reducible refine State.withCommit_does _ _ ?_)
    | ((with_reducible refine Does.leaf ?_ rfl ?_ rfl rfl rfl rfl); rotate_left; (intro f hf; cases f <;> first | rfl | exact absurd (by decide) hf))
    | dsimp only

theorem State.involveAll_does (s : State) (us : List ExecUnit) (h0 : Does fs s0 s) (hs : Field.sub [.regs, .mem, .flight, .fetchHold, .descs, .retries, .ilog, .reports, .reportSeq, .ports, .tests, .testFails, .testClock, .samples, .riskEvents, .out, .free] fs = true := by decide) :
    Does fs s0 (State.involveAll s us) := by
  refine Does.step (gs := [.regs, .mem, .flight, .fetchHold, .descs, .retries, .ilog, .reports, .reportSeq, .ports, .tests, .testFails, .testClock, .samples, .riskEvents, .out, .free]) ?_ h0 hs
  unfold State.involveAll
  try dsimp only
  repeat' first
    | with_reducible exact Does.refl
    | with_reducible assumption
    | (with_reducible refine State.involve_does _ _ ?_)
    | with_reducible refine Does.ite ?_ ?_
    | ((with_reducible refine Does.foldl (fun x b h => ?_) _ ?_); try dsimp only)
    | ((with_reducible refine Does.foldl_fst (fun x b h => ?_) _ ?_); try dsimp only)
    | split
    | dsimp only

theorem State.noteOutcome_does (s : State) (r : Retry) (tag : Nat) (inAttempt : Bool) (e1e2 : Bool) (outcome : Nat) (h0 : Does fs s0 s) (hs : Field.sub [.regs, .mem, .flight, .fetchHold, .descs, .retries, .step, .ilog, .reports, .reportSeq, .ports, .tests, .testFails, .testClock, .samples, .riskEvents, .out, .free] fs = true := by decide) :
    Does fs s0 (State.noteOutcome s r tag inAttempt e1e2 outcome) := by
  refine Does.step (gs := [.regs, .mem, .flight, .fetchHold, .descs, .retries, .step, .ilog, .reports, .reportSeq, .ports, .tests, .testFails, .testClock, .samples, .riskEvents, .out, .free]) ?_ h0 hs
  unfold State.noteOutcome
  try dsimp only
  repeat' first
    | with_reducible exact Does.refl
    | with_reducible assumption
    | (with_reducible refine State.count_does _ _ _ _ ?_)
    | (with_reducible refine State.log_does _ _ _ _ _ _ _ _ ?_)
    | (with_reducible refine State.noteRisk_does _ _ _ ?_)
    | (with_reducible refine State.raise_does _ _ ?_)
    | (with_reducible refine State.queueTest_does _ _ _ _ ?_)
    | (with_reducible refine State.involveAll_does _ _ ?_)
    | with_reducible refine Does.ite ?_ ?_
    | ((with_reducible refine Does.foldl (fun x b h => ?_) _ ?_); try dsimp only)
    | ((with_reducible refine Does.foldl_fst (fun x b h => ?_) _ ?_); try dsimp only)
    | split
    | dsimp only

theorem State.retryCheck_does (s : State) (r : Retry) (u : ExecUnit) (execution : Nat) (c : Check) (h0 : Does fs s0 s) (hs : Field.sub [.regs, .ilog, .reports, .reportSeq, .out] fs = true := by decide) :
    Does fs s0 (State.retryCheck s r u execution c) := by
  refine Does.step (gs := [.regs, .ilog, .reports, .reportSeq, .out]) ?_ h0 hs
  unfold State.retryCheck
  try dsimp only
  repeat' first
    | with_reducible exact Does.refl
    | with_reducible assumption
    | (with_reducible refine State.checkEvent_does _ _ _ _ _ _ ?_)
    | with_reducible refine Does.ite ?_ ?_
    | split
    | dsimp only

theorem State.countAgain_does (s : State) (r : Retry) (u : ExecUnit) (h0 : Does fs s0 s) (hs : Field.sub [.regs, .free] fs = true := by decide) :
    Does fs s0 (State.countAgain s r u) := by
  refine Does.step (gs := [.regs, .free]) ?_ h0 hs
  unfold State.countAgain
  try dsimp only
  repeat' first
    | with_reducible exact Does.refl
    | with_reducible assumption
    | (with_reducible refine State.countPass_does _ _ _ _ ?_)
    | with_reducible refine Does.ite ?_ ?_
    | split
    | dsimp only

theorem State.releaseMajority_does (s : State) (r : Retry) (o : Nat) (h0 : Does fs s0 s) (hs : Field.sub [.regs, .mem, .ue, .ce, .arbiters, .tokens, .tokFaulted, .nextId, .flight, .descs, .step, .commit, .groups, .ilog, .heldOut, .lateRecords, .reports, .reportSeq, .ports, .delivered, .colls, .endedColls, .samples, .riskEvents, .copy, .copyWas, .bwWindow, .bwTotals, .out, .free] fs = true := by decide) :
    Does fs s0 (State.releaseMajority s r o) := by
  refine Does.step (gs := [.regs, .mem, .ue, .ce, .arbiters, .tokens, .tokFaulted, .nextId, .flight, .descs, .step, .commit, .groups, .ilog, .heldOut, .lateRecords, .reports, .reportSeq, .ports, .delivered, .colls, .endedColls, .samples, .riskEvents, .copy, .copyWas, .bwWindow, .bwTotals, .out, .free]) ?_ h0 hs
  unfold State.releaseMajority
  try dsimp only
  repeat' first
    | with_reducible exact Does.refl
    | with_reducible assumption
    | (with_reducible refine State.releaseDesc_does _ _ _ ?_)
    | (with_reducible refine State.writeBatch_does _ _ _ ?_)
    | with_reducible refine Does.ite ?_ ?_
    | split
    | dsimp only

theorem State.failMajority_does (s : State) (r : Retry) (o : Nat) (h0 : Does fs s0 s) (hs : Field.sub [.regs, .mem, .ue, .ce, .tokens, .tokFaulted, .flight, .descs, .retries, .step, .commit, .groups, .ilog, .heldOut, .lateRecords, .reports, .reportSeq, .samples, .riskEvents, .bwWindow, .bwTotals, .out, .free] fs = true := by decide) :
    Does fs s0 (State.failMajority s r o) := by
  refine Does.step (gs := [.regs, .mem, .ue, .ce, .tokens, .tokFaulted, .flight, .descs, .retries, .step, .commit, .groups, .ilog, .heldOut, .lateRecords, .reports, .reportSeq, .samples, .riskEvents, .bwWindow, .bwTotals, .out, .free]) ?_ h0 hs
  unfold State.failMajority
  try dsimp only
  repeat' first
    | with_reducible exact Does.refl
    | with_reducible assumption
    | (with_reducible refine State.commitStop_does _ _ _ ?_)
    | (with_reducible refine State.failCompute_does _ _ _ _ ?_)
    | (with_reducible refine State.overrideEnd_does _ _ _ ?_)
    | with_reducible refine Does.ite ?_ ?_
    | split
    | dsimp only

theorem State.majority_does (s : State) (id : Nat) (e0e2 e1e2 : Bool) (c1 c2 : Check) (h0 : Does fs s0 s) (hs : Field.sub [.regs, .mem, .ue, .ce, .arbiters, .tokens, .tokFaulted, .nextId, .flight, .fetchHold, .descs, .retries, .step, .commit, .groups, .ilog, .heldOut, .lateRecords, .reports, .reportSeq, .ports, .delivered, .colls, .endedColls, .tests, .testFails, .testClock, .samples, .riskEvents, .copy, .copyWas, .bwWindow, .bwTotals, .out, .free] fs = true := by decide) :
    Does fs s0 (State.majority s id e0e2 e1e2 c1 c2) := by
  refine Does.step (gs := [.regs, .mem, .ue, .ce, .arbiters, .tokens, .tokFaulted, .nextId, .flight, .fetchHold, .descs, .retries, .step, .commit, .groups, .ilog, .heldOut, .lateRecords, .reports, .reportSeq, .ports, .delivered, .colls, .endedColls, .tests, .testFails, .testClock, .samples, .riskEvents, .copy, .copyWas, .bwWindow, .bwTotals, .out, .free]) ?_ h0 hs
  unfold State.majority
  try dsimp only
  repeat' first
    | with_reducible exact Does.refl
    | with_reducible assumption
    | (with_reducible refine State.countUnit_does _ _ _ _ ?_)
    | (with_reducible refine State.noteOutcome_does _ _ _ _ _ _ ?_)
    | (with_reducible refine State.retryCheck_does _ _ _ _ _ ?_)
    | (with_reducible refine State.countAgain_does _ _ _ ?_)
    | (with_reducible refine State.releaseMajority_does _ _ _ ?_)
    | (with_reducible refine State.failMajority_does _ _ _ ?_)
    | with_reducible refine Does.ite ?_ ?_
    | split
    | (with_reducible refine State.withRetries_does _ _ ?_)
    | ((with_reducible refine Does.leaf ?_ rfl ?_ rfl rfl rfl rfl); rotate_left; (intro f hf; cases f <;> first | rfl | exact absurd (by decide) hf))
    | dsimp only

theorem State.shadowDone_does (s : State) (id : Nat) (agree : Bool) (c : Check) (h0 : Does fs s0 s) (hs : Field.sub [.regs, .retries, .ilog, .reports, .reportSeq, .out, .free] fs = true := by decide) :
    Does fs s0 (State.shadowDone s id agree c) := by
  refine Does.step (gs := [.regs, .retries, .ilog, .reports, .reportSeq, .out, .free]) ?_ h0 hs
  unfold State.shadowDone
  try dsimp only
  repeat' first
    | with_reducible exact Does.refl
    | with_reducible assumption
    | (with_reducible refine State.count_does _ _ _ _ ?_)
    | (with_reducible refine State.log_does _ _ _ _ _ _ _ _ ?_)
    | (with_reducible refine State.countUnit_does _ _ _ _ ?_)
    | (with_reducible refine State.retryCheck_does _ _ _ _ _ ?_)
    | (with_reducible refine State.countAgain_does _ _ _ ?_)
    | with_reducible refine Does.ite ?_ ?_
    | split
    | (with_reducible refine State.withRetries_does _ _ ?_)
    | ((with_reducible refine Does.leaf ?_ rfl ?_ rfl rfl rfl rfl); rotate_left; (intro f hf; cases f <;> first | rfl | exact absurd (by decide) hf))
    | dsimp only

end Sys2Proof.Machine
end

