-- ==== Sys2Proof/Laws/Packets.lean ====
section
/-! SUPPORT. Changes of register fields alone, what fetching a packet leaves, and how a packet that nothing holds starts
at once. -/

set_option Elab.async false
set_option linter.unusedTactic false
set_option linter.unreachableTactic false

namespace Sys2Proof.Machine

/-! Register fields alone. -/

theorem OnlyRegs.refl {ks : List Nat} {s : State} : OnlyRegs ks s s := ⟨fun f _ => by cases f <;> rfl, fun _ _ _ => rfl⟩

theorem OnlyRegs.trans {ks : List Nat} {s a t : State} (h1 : OnlyRegs ks s a) (h2 : OnlyRegs ks a t) : OnlyRegs ks s t :=
  ⟨h1.1.trans h2.1, fun r i h => (h2.2 r i h).trans (h1.2 r i h)⟩

theorem OnlyRegs.mono {ks ls : List Nat} {s t : State} (h : OnlyRegs ks s t) (hs : ∀ k ∈ ks, k ∈ ls) : OnlyRegs ls s t :=
  ⟨h.1, fun r i hn => h.2 r i fun hm => hn (hs _ hm)⟩

/-- A register write changes its field alone. -/
theorem OnlyRegs.wr {ks : List Nat} {s : State} {r : Reg} {idx : List Nat} {v : Nat} (hk : r.key idx ∈ ks) :
    OnlyRegs ks s (s.wr r idx v) :=
  ⟨(State.wr_does (fs := [.regs]) s r idx v Does.refl).only,
   fun q j h => State.rd_wr_ne s v fun e => h (e ▸ hk)⟩

/-- Counting an event of a channel changes its programmable counters alone. -/
theorem OnlyRegs.countEvent {ks : List Nat} {s : State} (c ev n : Nat)
    (hk : ∀ i < 16, Reg.progValue.key [c, i] ∈ ks) : OnlyRegs ks s (s.countEvent c ev n) := by
  unfold State.countEvent
  suffices h : ∀ (l : List Nat) (a : State), (∀ i ∈ l, i < 16) → OnlyRegs ks s a →
      OnlyRegs ks s (l.foldl (countProg c ev none n) a) from
    h _ _ (fun i hi => List.mem_range.1 hi) OnlyRegs.refl
  intro l
  induction l with
  | nil => exact fun _ _ h => h
  | cons i l ih =>
    intro a hl h
    refine ih _ (fun j hj => hl j (List.mem_cons_of_mem _ hj)) (h.trans ?_)
    unfold countProg
    dsimp only
    split
    · exact OnlyRegs.wr (hk i (hl i List.mem_cons_self))
    · exact OnlyRegs.refl

/-! Fetching. -/

/-- The packet is not one of those that end as soon as they are fetched, or with the fetch of which a step begins or
closes, and takes part in no collective. -/
def ordinaryOp : Op → Bool
  | .stepEnd .. => false | .stepBegin .. => false | .undefinedOp _ => false | .malformed _ => false
  | op => !isCollective op

/-- A packet as it enters flight. -/
structure NewPacket (s : State) (h : PktHdr) (op : Op) (p : Packet) : Prop where
  pid : p.pid = s.nextId
  ring : p.ring = h.ring
  tag : p.tag = h.tag
  sigEn : p.sigEn = h.sigEn
  signal : p.signal = h.signal
  waits : p.waits = h.waits
  op : p.op = op
  attempt : p.inAttempt = s.fetchesAttempt h.ring
  seed : p.seed = s.rd .stRunSeed []
  slot : p.slot = s.rd .ringRingFetched [h.ring]
  redone : p.redone = false
  again : p.again = false
  deferred : p.deferred = false

/-- What fetching an ordinary packet that names no descriptors leaves. -/
theorem State.fetchPacket_ordinary {s : State} {h : PktHdr} {op : Op} {v : List TDesc × List Nat} (ho : ordinaryOp op = true)
    (hz : s.refRanges op = [])
    (hr : relOk op (s.fetchesAttempt h.ring) h.waits = true) (hd : s.readDescs op (opRefs op).zipIdx = .ok v)
    (hc : launchCheck op v.1 = none) :
    ∃ p, (s.fetchPacket h op).flight = s.flight ++ [p] ∧ NewPacket s h op p ∧ p.phase = .waiting ∧ p.descs = v.1 ∧
      p.slots = v.2 ∧ p.coll = none ∧ p.collDescs = [] ∧
      (s.fetchPacket h op).nextId = s.nextId + 1 ∧
      (s.fetchPacket h op).rd .ringRingFetched [h.ring] = (s.rd .ringRingFetched [h.ring] + h.length) % 2 ^ 32 ∧
      ChangesOnly [.regs, .flight, .nextId] s (s.fetchPacket h op) ∧ RegsBut (fetchKeys h.ring) s (s.fetchPacket h op) := by
  have hcol : isCollective op = false := by cases op <;> simp_all [ordinaryOp, isCollective]
  have hnb : ∀ a b c d, op ≠ .stepBegin a b c d := by intro a b c d e; subst e; cases ho
  unfold State.fetchPacket
  extract_lets slot att pid r c failed itself again phase q cd p s1 s1' s2 held s3
  have hcn : c = .ok none := by simp only [c, hcol]; rfl
  have hfail : failed = none := by
    have hr' : relOk op att h.waits = true := hr
    have h3 : r = .ok v := hd
    simp only [failed]
    rw [hr', h3, hcn]
    split
    · simp [ordinaryOp] at ho
    · simp [ordinaryOp] at ho
    · simp [hc]
  have hrefs : s.refsHeld op = false := by simp [State.refsHeld, hz]
  have hagain : again = false := by simp only [again, hfail, hrefs]; simp
  have hph : phase = .waiting := by simp only [phase, hfail]
  have hq : q = (0, s) := by simp only [q, hcol]; rfl
  have hs1 : s1' = s := by
    have : s1 = s := by simp only [s1, hfail, hq]
    simp only [s1', this, hz, State.readsTraffic, List.foldl_nil]
  have hcd : cd = none := by simp only [cd, hcn]
  have k0 : Reg.ringRingFetched.key [h.ring] ∈ fetchKeys h.ring := by simp [fetchKeys]
  have k1 : Reg.ringRingHead.key [h.ring] ∈ fetchKeys h.ring := by simp [fetchKeys]
  have k2 : ∀ i < 16, Reg.progValue.key [h.ring % 4, i] ∈ fetchKeys h.ring := fun i hi => by
    simp [fetchKeys]; exact .inr (.inr ⟨i, hi, rfl⟩)
  have r3 : OnlyRegs (fetchKeys h.ring) s s3 := by
    have r2 : OnlyRegs (fetchKeys h.ring) s s2 := by simp only [s2, hs1]; exact OnlyRegs.wr k0
    simp only [s3]
    split
    · exact r2
    · exact r2.trans (OnlyRegs.wr k1)
  have f3 : s3.rd .ringRingFetched [h.ring] = (s.rd .ringRingFetched [h.ring] + h.length) % 2 ^ 32 := by
    have f2 : s2.rd .ringRingFetched [h.ring] = (s.rd .ringRingFetched [h.ring] + h.length) % 2 ^ 32 := by
      simp only [s2, hs1]; exact State.rd_bump_same ..
    simp only [s3]
    split
    · exact f2
    · rw [State.rd_wr_ne _ _ (by first | (simp [Reg.key, Reg.ringRingFetched, Reg.ringRingHead, strideSum]; done) | (simp [Reg.key, Reg.ringRingFetched, Reg.ringRingHead, strideSum]; omega))]
      exact f2
  have fl : s3.flight = s.flight := r3.1 .flight (by decide)
  clear_value s3
  have e : OnlyRegs (fetchKeys h.ring) { s3 with flight := s3.flight ++ [p], nextId := pid + 1 }
      (State.countEvent { s3 with flight := s3.flight ++ [p], nextId := pid + 1 } (h.ring % 4) 64 1) :=
    OnlyRegs.countEvent _ _ _ k2
  refine ⟨p, ?_, ?_, hph, ?_, ?_, ?_, ?_, ?_, ?_, ?_, ?_⟩
  · exact (e.1 .flight (by decide)).trans (congrArg (· ++ [p]) fl)
  · exact ⟨rfl, rfl, rfl, rfl, rfl, rfl, rfl, rfl, rfl, rfl, rfl, hagain, rfl⟩
  · simp only [p, r, hd]
  · simp only [p, r, hd, hcd, List.append_nil]
  · simp only [p, hcd, Option.map_none]
  · simp only [p, hcd]
  · exact e.1 .nextId (by decide)
  · have e' : OnlyRegs ((List.range 16).map (fun i => Reg.progValue.key [h.ring % 4, i]))
        { s3 with flight := s3.flight ++ [p], nextId := pid + 1 }
        (State.countEvent { s3 with flight := s3.flight ++ [p], nextId := pid + 1 } (h.ring % 4) 64 1) :=
      OnlyRegs.countEvent _ _ _ fun i hi => List.mem_map.2 ⟨i, List.mem_range.2 hi, rfl⟩
    refine (e'.2 _ _ ?_).trans f3
    intro hm
    obtain ⟨i, hi, he⟩ := List.mem_map.1 hm
    have := List.mem_range.1 hi
    simp [Reg.key, Reg.ringRingFetched, Reg.progValue, strideSum] at he
    omega
  · refine ChangesOnly.trans (a := { s3 with flight := s3.flight ++ [p], nextId := pid + 1 }) ?_ (e.1.mono (by decide))
    refine ChangesOnly.trans (a := s3) (r3.1.mono (by decide)) ?_
    intro f hf
    cases f <;> first | exact absurd (by decide) hf | rfl
  · intro q j hn
    exact (e.2 q j hn).trans (r3.2 q j hn)

/-- A number that no packet in flight has names the packet added last. -/
theorem State.packet_new {s u : State} {p : Packet} (hi : Numbered s) (hf : u.flight = s.flight ++ [p])
    (hp : p.pid = s.nextId) : u.packet s.nextId = some p := by
  unfold State.packet
  rw [hf, List.find?_append]
  have : s.flight.find? (fun q => q.pid == s.nextId) = none := by
    rw [List.find?_eq_none]
    intro q hq
    have := hi q hq
    simp; omega
  rw [this]
  simp [hp]

/-- Replacing the packet added last leaves the others. -/
theorem State.setPacket_new {s u : State} {p q : Packet} (hi : Numbered s) (hf : u.flight = s.flight ++ [p])
    (hp : p.pid = s.nextId) (hq : q.pid = s.nextId) : (u.setPacket q).flight = s.flight ++ [q] := by
  unfold State.setPacket
  simp only [hf, List.map_append, List.map_cons, List.map_nil, hp, hq, if_true]
  congr 1
  refine (List.map_congr_left (g := id) fun x hx => ?_).trans (List.map_id _)
  have := hi x hx
  simp; omega

/-- Register fields read alike after a packet is replaced. -/
theorem State.rd_setPacket (s : State) (p : Packet) (r : Reg) (i : List Nat) : (s.setPacket p).rd r i = s.rd r i :=
  State.rd_congr (by unfold State.setPacket; rfl) r i

/-- Numbers go on as before after a packet is replaced. -/
theorem State.nextId_setPacket (s : State) (p : Packet) : (s.setPacket p).nextId = s.nextId := rfl

/-- Replacing a packet changes flight alone. -/
theorem State.setPacket_only (s : State) (p : Packet) : ChangesOnly [.flight] s (s.setPacket p) := by
  intro f hf
  unfold State.setPacket
  cases f <;> first | exact absurd (by decide) hf | rfl

/-- Predicates that agree on a list hold somewhere in it alike. -/
theorem any_congr_mem {α : Type} {l : List α} {f g : α → Bool} (h : ∀ x ∈ l, f x = g x) : l.any f = l.any g := by
  rw [Bool.eq_iff_iff]
  simp only [List.any_eq_true]
  constructor
  · rintro ⟨x, hx, hv⟩; exact ⟨x, hx, h x hx ▸ hv⟩
  · rintro ⟨x, hx, hv⟩; exact ⟨x, hx, (h x hx).symm ▸ hv⟩

/-- Whether a stack or a slice is held is not changed by fetching. -/
theorem State.anyHeld_fetch {s u : State} {r : Nat} (h : RegsBut (fetchKeys r) s u) : u.anyHeld = s.anyHeld := by
  have e : ∀ st < 20, u.rd .stkTstate [st] = s.rd .stkTstate [st] := fun st hst => by
    rw [h]
    simp [fetchKeys, Reg.key, Reg.stkTstate, Reg.ringRingFetched, Reg.ringRingHead, Reg.progValue, strideSum]
    refine ⟨by omega, by omega, fun i hi => by omega⟩
  have f : ∀ a < 24, u.rd .arbFreeze [a] = s.rd .arbFreeze [a] := fun a ha => by
    rw [h]
    simp [fetchKeys, Reg.key, Reg.arbFreeze, Reg.ringRingFetched, Reg.ringRingHead, Reg.progValue, strideSum]
    refine ⟨by omega, by omega, fun i hi => by omega⟩
  unfold State.anyHeld
  congr 1
  · refine any_congr_mem fun st hs => ?_
    unfold State.stackHeld State.flag
    rw [e st (List.mem_range.1 hs), f st (by have := List.mem_range.1 hs; omega)]
  · refine any_congr_mem fun c hc => ?_
    unfold State.flag
    rw [f (20 + c) (by have := List.mem_range.1 hc; omega)]

/-- A packet that nothing holds starts when it is fetched. -/
theorem State.packetIn_runs {s : State} {h : PktHdr} {op : Op} {v : List TDesc × List Nat} (hq : Quiet s h)
    (ho : ordinaryOp op = true) (hz : s.refRanges op = []) (hd : s.readDescs op (opRefs op).zipIdx = .ok v) (hc : launchCheck op v.1 = none) :
    ∃ u p, s.packetIn h op = u.runOp p ∧ u.flight = s.flight ++ [p] ∧ NewPacket s h op p ∧ p.phase = .running ∧
      p.descs = v.1 ∧ p.slots = v.2 ∧ p.coll = none ∧ p.collDescs = [] ∧ u.nextId = s.nextId + 1 ∧
      u.rd .ringRingFetched [h.ring] = (s.rd .ringRingFetched [h.ring] + h.length) % 2 ^ 32 ∧
      ChangesOnly [.regs, .flight, .nextId] s u ∧ RegsBut (fetchKeys h.ring) s u := by
  have hrel : relOk op (s.fetchesAttempt h.ring) h.waits = true := by
    unfold relOk
    by_cases ha : s.fetchesAttempt h.ring = true
    · rw [ha]
      cases op <;> simp_all [ordinaryOp]
    · simp only [Bool.or_eq_true, List.all_eq_true]
      refine .inl fun w hw => ?_
      have := (hq.waits.2 w hw).1
      cases hr : w.rel
      · rfl
      · exact absurd (this hr) ha
  obtain ⟨p, hf, hn, hph, h1, h2, h3, h4, h5, h6, h7, h8⟩ := State.fetchPacket_ordinary ho hz hrel hd hc
  have hpk : (s.fetchPacket h op).packet s.nextId = some p := State.packet_new hq.inv.pids hf hn.pid
  have hadm : s.arrive h op = s.fetchPacket h op := by
    unfold State.arrive State.stepEndFetched
    rw [hpk]
    have hop : p.op = op := hn.op
    have hne : ∀ a b, p.op ≠ .stepEnd a b := fun a b e => by rw [hop] at e; subst e; simp [ordinaryOp] at ho
    split
    · rename_i q _ hq' _
      cases hq'
      split
      · exact absurd ‹_› (hne _ _)
      · rfl
    · rename_i q hq' _
      cases hq'
      split
      · exact absurd ‹_› (hne _ _)
      · rfl
    · rfl
  have hpk' : (s.arrive h op).packet s.nextId = some p := hadm ▸ hpk
  have hcool : (s.arrive h op).anyHeld = false := by rw [hadm, State.anyHeld_fetch h8, hq.cool]
  have hstep : (s.arrive h op).step = s.step := by rw [hadm]; exact h7 .step (by decide)
  have hrew : (s.arrive h op).rewrites = s.rewrites := by rw [hadm]; exact h7 .rewrites (by decide)
  have htok : (s.arrive h op).tokens = s.tokens := by rw [hadm]; exact h7 .tokens (by decide)
  have hbase : (s.arrive h op).tokBase = s.tokBase := by rw [hadm]; exact h7 .tokBase (by decide)
  have hflt : (s.arrive h op).tokFaulted = s.tokFaulted := by rw [hadm]; exact h7 .tokFaulted (by decide)
  have hmet : p.waits.all (s.arrive h op).waitMet = true := by
    rw [hn.waits, List.all_eq_true]
    intro w hw
    have := (hq.waits.2 w hw).2.1
    unfold State.waitMet State.token at this ⊢
    rw [htok, hbase]
    exact this
  have hnf : p.waits.any (fun w => (s.arrive h op).tokenFaulted w.token) = false := by
    rw [hn.waits, List.any_eq_false]
    intro w hw
    have := (hq.waits.2 w hw).2.2
    unfold State.tokenFaulted at this ⊢
    rw [hflt, this]
    simp
  have hheld : (s.arrive h op).startHeld p = false := by
    unfold State.startHeld
    have hcol : isCollective p.op = false := by rw [hn.op]; cases op <;> simp_all [ordinaryOp, isCollective]
    have hbeg : ∀ a b c d, p.op ≠ .stepBegin a b c d := fun a b c d e => by
      rw [hn.op] at e; subst e; simp [ordinaryOp] at ho
    have hb : (match p.op with | .stepBegin .. => true | _ => false) = false := by
      split
      · exact absurd ‹_› (hbeg _ _ _ _)
      · rfl
    have ha : (p.inAttempt && !(s.arrive h op).rewrites.isEmpty) = false := by
      rw [hn.attempt, hrew]
      cases hfa : s.fetchesAttempt h.ring
      · rfl
      · rw [(hq.attempt hfa).1]; rfl
    rw [ha, hcol, hcool]
    have hb' : ∀ x : Bool, (x = match p.op with | .stepBegin .. => true | _ => false) → x = false := fun x e => e.trans hb
    extract_lets begins
    rw [hb' begins rfl]
    simp
  refine ⟨(s.arrive h op).setPacket { p with phase := .running, started := (s.arrive h op).aoNow },
    { p with phase := .running, started := (s.arrive h op).aoNow }, ?_, ?_, ?_, rfl, h1, h2, h3, h4, ?_, ?_, ?_, ?_⟩
  · unfold State.packetIn
    rw [if_pos]
    · unfold State.startPacket
      rw [hpk']
      dsimp only
      have hw : p.isWaiting = true := by unfold Packet.isWaiting; rw [hph]; rfl
      rw [hw, hmet, hnf, hstep]
      have hst : ¬(p.inAttempt = true ∧ (s.step.map (fun t => t.stopped)).getD false = true) := by
        rintro ⟨e1, e2⟩
        rw [hn.attempt] at e1
        rw [(hq.attempt e1).2] at e2
        cases e2
      rw [if_neg hst]
      simp only [Bool.not_true, Bool.false_eq_true, if_false, hheld, hn.again, false_and]
    · exact ⟨hq.power, hq.fetch, by rw [hq.between]; rfl, hq.length.1, hq.length.2.1, hq.waits.1, hq.length.2.2⟩
  · rw [hadm]
    exact State.setPacket_new hq.inv.pids hf hn.pid hn.pid
  · exact ⟨hn.pid, hn.ring, hn.tag, hn.sigEn, hn.signal, hn.waits, hn.op, hn.attempt, hn.seed, hn.slot, hn.redone, hn.again, hn.deferred⟩
  · rw [State.nextId_setPacket, hadm]
    exact h5
  · rw [State.rd_setPacket, hadm]; exact h6
  · rw [hadm]
    exact h7.trans ((State.setPacket_only _ _).mono (by decide))
  · intro r i hk
    rw [State.rd_setPacket, hadm]
    exact h8 r i hk

end Sys2Proof.Machine
end

