-- ==== Sys2Proof/WellFormed.lean ====
section
/-! DEFINITION. What a well-formed command is: every operand within the width or the range of the field that
carries it in the spec, and every packet no longer than its slots. -/

namespace Sys2Proof

open Sys2Proof.Machine

/-- A value fits a field of w bits. -/
def fits (v w : Nat) : Bool := decide (v < 2 ^ w)
/-- A value lies below a bound. -/
def below (v n : Nat) : Bool := decide (v < n)

/-- A wait entry: TOKEN of 16 bits, VALUE of 64 (R338). -/
def Wait.wf (w : Wait) : Bool := fits w.token 16 && fits w.value 64

/-- A packet header (R338, R340): one of 16 rings, 1 to 64 slots, at most four wait entries. -/
def PktHdr.wf (h : PktHdr) : Bool :=
  fits h.ring 4 && fits h.tag 32 && below 0 h.length && below h.length 65 && fits h.signal 16 &&
    below h.waits.length 5 && h.waits.all Wait.wf

/-- A K segment: two references of 64 bits. -/
def SegRef.wf (g : SegRef) : Bool := fits g.a 64 && fits g.b 64

/-- The parameters of an operation fit their payload fields (R148, R319, R351, R352). -/
def Op.wf : Op → Bool
  | .regWrite o v => fits o 32 && fits v 32
  | .ringReset r => fits r 8
  | .copy d s n f => fits d 64 && fits s 64 && fits n 64 && fits f 2
  | .fill d n p => fits d 64 && fits n 64 && fits p 64
  | .llsPartition c n => fits c 8 && fits n 8
  | .llsRelease c u => fits c 8 && fits u 8
  | .digest a n d => fits a 64 && fits n 64 && fits d 64
  | .product o c sh segs => fits o 64 && fits c 48 && fits sh 3 && below segs.length 32 && segs.all SegRef.wf
  | .matvec o ps => fits o 64 && below ps.length 32 && ps.all (fun p => fits p.1 64 && fits p.2 64)
  | .softmax i o => fits i 64 && fits o 64
  | .rmsnorm i o g e => fits i 64 && fits o 64 && fits g 64 && fits e 32
  | .layernorm i o g b e => fits i 64 && fits o 64 && fits g 64 && fits b 64 && fits e 32
  | .xent i t l m g => fits i 64 && fits t 64 && fits l 64 && fits m 64 && fits g 64
  | .vprog p c o ins => fits p 64 && fits c 64 && fits o 64 && ins.length == 4 && ins.all (fun i => fits i 64)
  | .variantBind v => fits v 16
  | .variantRelease k => fits k 8
  | .collLaunch d => fits d 64
  | .roleSet r n m t => fits r 8 && fits n 16 && fits m 16 && fits t 16
  | .stepBegin n e _ _ => fits n 64 && fits e 64
  | .stepEnd a _ => fits a 48
  | .betweenJobTest m => fits m 64
  | .unitTest u => fits u 16
  | .unitFence u => fits u 16
  | .unitUnfence u => fits u 16
  | .restore i e d _ _ n => fits i 64 && fits e 64 && fits d 48 && fits n 14
  | .counterSnapshot d => fits d 64
  | .sampleControl e k => fits e 8 && fits k 8
  | .attest n d => n.length == 32 && fits d 64
  | .measurementLog d n => fits d 64 && fits n 32
  | .firmwareStage a n => fits a 64 && fits n 64
  | .undefinedOp n => fits n 16
  | .malformed n => fits n 16
  | _ => true

/-- A packet's header, wait entries and payload fit its slots (R340). -/
def packetFits (h : PktHdr) (op : Op) : Bool :=
  decide (16 + 16 * h.waits.length + (opPayload op).length ≤ 64 * h.length)

/-- A packet command: header, parameters and room. -/
def packetWf (h : PktHdr) (op : Op) : Bool := h.wf && op.wf && packetFits h op

/-- A group message's header: node address of 14 bits, TERM of 32, EPOCH of 64 (R241, R252). -/
def GroupHeader.wf (h : GroupHeader) : Bool := fits h.src 14 && fits h.term 32 && fits h.epoch 64

/-- A key of a collective (R267, R276). -/
def Machine.CollKey.wf (k : CollKey) : Bool := fits k.epoch 64 && fits k.step 64 && fits k.attempt 8 && fits k.seq 64

/-- A LAUNCH (R267). -/
def Machine.LaunchMsg.wf (m : LaunchMsg) : Bool :=
  fits m.op 16 && fits m.redop 8 && fits m.type 16 && fits m.root 16 && fits m.count 64 && fits m.digest 64 &&
    fits m.limit 16

/-- A collective message's header. -/
def CollHeader.wf (h : CollHeader) : Bool := fits h.src 14 && h.key.wf

/-- A shroud sub-header (R323). -/
def ShroudHeader.wf (h : ShroudHeader) : Bool :=
  fits h.src 14 && fits h.slot 8 && below h.stack 20 && fits h.part 8 && fits h.bolt 32 && fits h.sourceId 64

/-- A flit's totals (R238). -/
def FlitTotals.wf (t : FlitTotals) : Bool := fits t.ack 12 && fits t.cvc 2 && fits t.credits 10

/-- A management header (R398). -/
def MgmtHeader.wf (h : MgmtHeader) : Bool := fits h.moduleId 64 && fits h.seq 64 && fits h.tick 64 && h.tag.length == 32

/-- What a start-up finds: HBM channels, an error of R390, health units with a result and a kernel. -/
def BootReport.wf (r : BootReport) : Bool :=
  r.failing.all (fun x => below x 640) && (r.error == 0 || r.error == 2 || r.error == 3 || r.error == 5) &&
    r.fails.all (fun f => below f.1 96 && below 0 f.2.1 && below f.2.1 3 && fits f.2.2 8)

/-- A place in a pass: a block or a K position of 36 bits (R104). -/
def Progress.wf : Progress → Bool
  | .block j => fits j 36
  | .outlier k => fits k 36

/-- What a check of an execution saw: a CODE of R300, a row and a block of 32 bits. -/
def Check.wf (c : Check) : Bool :=
  match c with
  | none => true
  | some k => below 0 k.code && below k.code 6 && fits k.row 32 && fits k.block 32

/-- A sideband request. -/
def McRequest.wf : McRequest → Bool
  | .setEndpoint e => fits e 8
  | .dieTemp c => below c 4
  | .stackTemp st => below st 20
  | _ => true

/-- A configuration request. -/
def ConfigReq.wf : ConfigReq → Bool
  | .bar2Size g => fits g 5
  | .payload p => fits p 4
  | .readRequest p => fits p 4
  | .timeout c => fits c 4
  | _ => true

/-- A well-formed command. -/
def wellFormed : Instr → Bool
  | .nop h => packetWf h .nop
  | .regWrite h offset value => packetWf h (.regWrite offset value)
  | .ringReset h ring => packetWf h (.ringReset ring)
  | .ringResetWrite ring => fits ring 4
  | .ringResetDrained ring => fits ring 4
  | .deviceSoftReset h => packetWf h .deviceSoftReset
  | .copy h dst src bytes flags => packetWf h (.copy dst src bytes flags)
  | .fill h dst bytes pattern => packetWf h (.fill dst bytes pattern)
  | .regionRebuild h => packetWf h .regionRebuild
  | .llsPartition h slice count => packetWf h (.llsPartition slice count)
  | .llsRelease h slice first => packetWf h (.llsRelease slice first)
  | .digest h start bytes dest => packetWf h (.digest start bytes dest)
  | .product h out streamColl shape segs => packetWf h (.product out streamColl shape segs)
  | .matvec h out parts => packetWf h (.matvec out parts)
  | .softmax h inp out => packetWf h (.softmax inp out)
  | .rmsnorm h inp out gain eps => packetWf h (.rmsnorm inp out gain eps)
  | .layernorm h inp out gain bias eps => packetWf h (.layernorm inp out gain bias eps)
  | .xent h inp target loss mean grad => packetWf h (.xent inp target loss mean grad)
  | .vprog h program const out ins => packetWf h (.vprog program const out ins)
  | .paramGroupsLoad h => packetWf h .paramGroupsLoad
  | .variantBind h variant => packetWf h (.variantBind variant)
  | .variantRelease h slot => packetWf h (.variantRelease slot)
  | .slotFreed slot => below slot 64
  | .collLaunch h desc => packetWf h (.collLaunch desc)
  | .roleSet h role node manager top => packetWf h (.roleSet role node manager top)
  | .groupJoin h => packetWf h .groupJoin
  | .groupLeave h => packetWf h .groupLeave
  | .stepBegin h step expectEpoch group setStep => packetWf h (.stepBegin step expectEpoch group setStep)
  | .stepEnd h lossAddr digest => packetWf h (.stepEnd lossAddr digest)
  | .stepClose => true
  | .reefRewriteComplete => true
  | .commitGroupComplete => true
  | .updateBatchComplete _ _ check => Check.wf check
  | .verdict h verdict reasons budget attempt =>
      h.wf && fits verdict 2 && fits reasons 16 && fits budget 3 && fits attempt 8
  | .verdictTimeout => true
  | .betweenJobTest h mask => packetWf h (.betweenJobTest mask)
  | .unitTest h unit => packetWf h (.unitTest unit)
  | .unitFence h unit => packetWf h (.unitFence unit)
  | .unitUnfence h unit => packetWf h (.unitUnfence unit)
  | .shroudCopy h => packetWf h .shroudCopy
  | .restore h sourceId expectStep manifestDest older override holder =>
      packetWf h (.restore sourceId expectStep manifestDest older override holder)
  | .shroudRelease h => packetWf h .shroudRelease
  | .counterSnapshot h dest => packetWf h (.counterSnapshot dest)
  | .sampleControl h enable shift => packetWf h (.sampleControl enable shift)
  | .attest h nonce dest => packetWf h (.attest nonce dest)
  | .measurementLog h dest bytes => packetWf h (.measurementLog dest bytes)
  | .firmwareStage h src bytes => packetWf h (.firmwareStage src bytes)
  | .ringTailWrite ring tail => fits ring 4 && fits tail 32
  | .packetFetch ring => fits ring 4
  | .packetStart _ => true
  | .descriptorStart engine index => below index (if engine then 20 else 192)
  | .tilePassLatch _ check => Check.wf check
  | .majorityOutcome _ _ _ c1 c2 => Check.wf c1 && Check.wf c2
  | .shadowCompare _ seen => Check.wf seen.check
  | .descriptorEnd _ => true
  | .packetEnd _ => true
  | .statusRecordDeferred _ => true
  | .statusHeadWrite ring head => fits ring 4 && fits head 32
  | .preempt cluster place => below cluster 192 && Progress.wf place
  | .contextResume _ => true
  | .tokenAdd token amount => fits token 16 && fits amount 48
  | .deviceEnableWrite _ => true
  | .ringConfigWrite ring field value => fits ring 4 && fits value (ringReg field).width
  | .statusConfigWrite ring field value => fits ring 4 && fits value (statusReg field).width
  | .registerWrite offset bytes value => bar0Legal offset bytes && fits value (8 * bytes)
  | .bar0BadAccess _ offset bytes => !bar0Legal offset bytes
  | .bar2Read _ bytes upset => below 0 bytes && below upset 7
  | .bar2Write _ data => below 0 data.length
  | .bar2HoldExpiry _ => true
  | .atomicOpRequest => true
  | .hostReadCompletion _ status _ => below status 5
  | .completionTimeout _ => true
  | .reefSet word bits => below word 128 && fits bits 32
  | .reefClear word bits => below word 128 && fits bits 32
  | .defaults => true
  | .clearBroken => true
  | .gsSet value => fits value 32
  | .baselineSet monitor value => below monitor 256 && fits value 32
  | .stateBaseWrite value => fits value 64
  | .scaleHistoryWrite field entry value => below entry 4096 && fits value (historyReg field).width
  | .captureClear channel cluster flag => below channel 4 && below cluster 48 && below flag 8
  | .lastFaultClear channel engine => below channel 4 && below engine 5
  | .mapoutRequest channel => fits channel 10
  | .lostClear slice => below slice 4
  | .arbiterFreeze arbiter _ => below arbiter 37
  | .arbiterDrained arbiter => below arbiter 37
  | .scrubAccess channel bolt bursts _ => below channel 640 && fits bolt 22 && below bursts 17
  | .scrubPeriodEnd _ => true
  | .stackTempSample stack temp => below stack 20 && fits temp 8
  | .dieTempSample channel temp => below channel 4 && fits temp 8
  | .powerSample mv watts domains => fits mv 16 && fits watts 16 && domains.all (fun d => below d.1 80 && fits d.2 16)
  | .droopEvent domain => below domain 80 || domain == 255
  | .droopEnd domain => below domain 80 || domain == 255
  | .brownOut => true
  | .quadIdleGate quad => below quad 48
  | .stackIdleGate stack => below stack 20
  | .domainWakeComplete domain => below domain 80
  | .coldReset found => found.wf
  | .warmReset found => found.wf
  | .functionLevelReset => true
  | .resetComplete => true
  | .perstDeassert => true
  | .refclkLoss => true
  | .startupTimeout => true
  | .testDue unit => below unit 56
  | .testDeferExpiry unit places => below unit 48 && places.length == 4 && places.all Progress.wf
  | .testSlotStart unit => below unit 96
  | .testSlotEnd unit found kernel _ =>
    below unit 96 && below found.result 4 && fits kernel 8 && found.channels.all (fun x => below x 640)
  | .bjOverdueCheck => true
  | .portEnable port => below port 12
  | .portDisable port => below port 12
  | .trainingComplete port => below port 12
  | .sync port totals peerId peerPort session buffers =>
      below port 12 && totals.wf && fits peerId 64 && fits peerPort 4 && fits session 32 && buffers.length == 4 &&
        buffers.all (fun b => fits b 10)
  | .flitReceived port bytes _ _ => below port 12 && bytes.length == 256
  | .nak port totals => below port 12 && totals.wf
  | .retryTimeout port => below port 12
  | .lossOfLock port => below port 12
  | .boltCell src stream bytes => fits src 14 && fits stream 16 && bytes.length == 512
  | .groupEnableSet => true
  | .groupEnableClear => true
  | .join h moduleId feed ne => h.wf && fits moduleId 64 && fits feed 4 && fits ne 8
  | .joinReply h result => h.wf && below result 5
  | .leave h => h.wf
  | .heartbeat h risk suspect fenced mapped thermal state =>
      h.wf && fits risk 2 && below suspect 97 && below fenced 97 && below mapped 641 && below thermal 3 && fits state 2
  | .mgrHeartbeat h => h.wf
  | .heartbeatTimer => true
  | .groupReport h node mstate risk => h.wf && fits node 14 && below mstate 5 && fits risk 2
  | .epochPrepare h members fp chunkRule _ => h.wf && below members 16385 && fits fp 128 && fits chunkRule 32
  | .epochList h first nodes => h.wf && fits first 14 && below nodes.length 241 && nodes.all (fun n => fits n 14)
  | .epochReadySend => true
  | .epochReady h => h.wf
  | .epochCommit h fp => h.wf && fits fp 128
  | .prepareTimeout => true
  | .takeover h node => h.wf && fits node 14
  | .partner h holder source _ refuse sourceId =>
      h.wf && fits holder 14 && fits source 14 && fits refuse 4 && fits sourceId 64
  | .launch h content => h.wf && content.wf
  | .grant h limit => h.wf && fits limit 64
  | .collectiveData h unit phase half data =>
      h.wf && fits unit 64 && below phase 2 && below half 2 && data.length == 256
  | .flags h chunk vector => h.wf && fits chunk 64 && fits vector 8
  | .abort h cause field rank => h.wf && below cause 5 && below field 7 && fits rank 14
  | .slow h reason => h.wf && below reason 5
  | .release h => h.wf
  | .collComplete key => key.wf
  | .collWatchdogExpiry key => key.wf
  | .slowTimer => true
  | .hello h bolts step => h.wf && bolts.length == 20 && bolts.all (fun b => fits b 32) && fits step 64
  | .accept h result => h.wf && below result 6
  | .shroudData h content => h.wf && content.length == 256
  | .shards h content => h.wf && content.length == 256
  | .manifest h content => h.wf && content.length == 256
  | .signature h content => h.wf && content.length == 256
  | .complete h => h.wf
  | .incomplete h => h.wf
  | .fetch h _ => h.wf
  | .fetchReply h _ => h.wf
  | .lost h => h.wf
  | .shroudTimeout => true
  | .signatureComplete => true
  | .riskRecompute => true
  | .counterSelectWrite channel counter event filter _ =>
      below channel 4 && below counter 16 && fits event 10 && fits filter 4
  | .counterClear channel counter => below channel 4 && below counter 16
  | .bwEnableWrite _ => true
  | .bwWindowEnd => true
  | .ack h => h.wf
  | .reportResend => true
  | .summary => true
  | .statusQuery h => h.wf
  | .testNow h unit => h.wf && fits unit 16
  | .fence h unit => h.wf && fits unit 16
  | .unfence h unit => h.wf && fits unit 16
  | .reset h found => h.wf && found.wf
  | .mgmtRoleSet h role node manager top standby0 standby1 topStandby =>
      h.wf && fits role 8 && [node, manager, top, standby0, standby1, topStandby].all (fun n => fits n 16)
  | .group h action => h.wf && fits action 8
  | .mapout h channel => h.wf && fits channel 16
  | .mapoutClear h channel => h.wf && fits channel 16
  | .svnRaise h svn => h.wf && fits svn 32
  | .keySet h key => h.wf && key.length == 32
  | .recovery h offset data => h.wf && fits offset 32 && below data.length 1025
  | .neighborSolicitation target source => fits target 128 && fits source 128
  | .echoRequest dest source _ => fits dest 128 && fits source 128
  | .keyWrite word value => below word 8 && fits value 32
  | .mgmtConfigWrite field value => fits value (mgmtReg field).width
  | .mctpMessage request => request.wf
  | .pcieLinkUp => true
  | .configAccess request => request.wf
  | .mgmtPortLinkChange _ => true
  | .joinReplyTimeout => true

end Sys2Proof
end

