-- ==== Sys2Proof/Laws/PerInstr.lean ====
section
/-! SUPPORT. Statements for every command, one lemma for each constructor of Instr: what being well formed says of a
command as syntax. -/

namespace Sys2Proof.Laws.WellFormed

open Sys2Proof.Machine

/-- The packet that a command carries: its header and operation. -/
def packetOp : Instr → Option (PktHdr × Op)
  | .nop h => some (h, .nop)
  | .regWrite h offset value => some (h, .regWrite offset value)
  | .ringReset h ring => some (h, .ringReset ring)
  | .ringResetWrite .. => none
  | .ringResetDrained .. => none
  | .deviceSoftReset h => some (h, .deviceSoftReset)
  | .copy h dst src bytes flags => some (h, .copy dst src bytes flags)
  | .fill h dst bytes pattern => some (h, .fill dst bytes pattern)
  | .regionRebuild h => some (h, .regionRebuild)
  | .llsPartition h slice count => some (h, .llsPartition slice count)
  | .llsRelease h slice first => some (h, .llsRelease slice first)
  | .digest h start bytes dest => some (h, .digest start bytes dest)
  | .product h out streamColl shape segs => some (h, .product out streamColl shape segs)
  | .matvec h out parts => some (h, .matvec out parts)
  | .softmax h inp out => some (h, .softmax inp out)
  | .rmsnorm h inp out gain eps => some (h, .rmsnorm inp out gain eps)
  | .layernorm h inp out gain bias eps => some (h, .layernorm inp out gain bias eps)
  | .xent h inp target loss mean grad => some (h, .xent inp target loss mean grad)
  | .vprog h program const out ins => some (h, .vprog program const out ins)
  | .paramGroupsLoad h => some (h, .paramGroupsLoad)
  | .variantBind h variant => some (h, .variantBind variant)
  | .variantRelease h slot => some (h, .variantRelease slot)
  | .slotFreed .. => none
  | .collLaunch h desc => some (h, .collLaunch desc)
  | .roleSet h role node manager top => some (h, .roleSet role node manager top)
  | .groupJoin h => some (h, .groupJoin)
  | .groupLeave h => some (h, .groupLeave)
  | .stepBegin h step expectEpoch group setStep => some (h, .stepBegin step expectEpoch group setStep)
  | .stepEnd h lossAddr digest => some (h, .stepEnd lossAddr digest)
  | .stepClose => none
  | .reefRewriteComplete => none
  | .commitGroupComplete => none
  | .updateBatchComplete .. => none
  | .verdict .. => none
  | .verdictTimeout => none
  | .betweenJobTest h mask => some (h, .betweenJobTest mask)
  | .unitTest h unit => some (h, .unitTest unit)
  | .unitFence h unit => some (h, .unitFence unit)
  | .unitUnfence h unit => some (h, .unitUnfence unit)
  | .shroudCopy h => some (h, .shroudCopy)
  | .restore h sourceId expectStep manifestDest older override holder => some (h, .restore sourceId expectStep manifestDest older override holder)
  | .shroudRelease h => some (h, .shroudRelease)
  | .counterSnapshot h dest => some (h, .counterSnapshot dest)
  | .sampleControl h enable shift => some (h, .sampleControl enable shift)
  | .attest h nonce dest => some (h, .attest nonce dest)
  | .measurementLog h dest bytes => some (h, .measurementLog dest bytes)
  | .firmwareStage h src bytes => some (h, .firmwareStage src bytes)
  | .ringTailWrite .. => none
  | .packetFetch .. => none
  | .packetStart .. => none
  | .descriptorStart .. => none
  | .tilePassLatch .. => none
  | .majorityOutcome .. => none
  | .shadowCompare .. => none
  | .descriptorEnd .. => none
  | .packetEnd .. => none
  | .statusRecordDeferred .. => none
  | .statusHeadWrite .. => none
  | .preempt .. => none
  | .contextResume .. => none
  | .tokenAdd .. => none
  | .deviceEnableWrite .. => none
  | .ringConfigWrite .. => none
  | .statusConfigWrite .. => none
  | .registerWrite .. => none
  | .bar0BadAccess .. => none
  | .bar2Read .. => none
  | .bar2Write .. => none
  | .bar2HoldExpiry .. => none
  | .atomicOpRequest => none
  | .hostReadCompletion .. => none
  | .completionTimeout .. => none
  | .reefSet .. => none
  | .reefClear .. => none
  | .defaults => none
  | .clearBroken => none
  | .gsSet .. => none
  | .baselineSet .. => none
  | .stateBaseWrite .. => none
  | .scaleHistoryWrite .. => none
  | .captureClear .. => none
  | .lastFaultClear .. => none
  | .mapoutRequest .. => none
  | .lostClear .. => none
  | .arbiterFreeze .. => none
  | .arbiterDrained .. => none
  | .scrubAccess .. => none
  | .scrubPeriodEnd .. => none
  | .stackTempSample .. => none
  | .dieTempSample .. => none
  | .powerSample .. => none
  | .droopEvent .. => none
  | .droopEnd .. => none
  | .brownOut => none
  | .quadIdleGate .. => none
  | .stackIdleGate .. => none
  | .domainWakeComplete .. => none
  | .coldReset .. => none
  | .warmReset .. => none
  | .functionLevelReset => none
  | .resetComplete => none
  | .perstDeassert => none
  | .refclkLoss => none
  | .startupTimeout => none
  | .testDue .. => none
  | .testDeferExpiry .. => none
  | .testSlotStart .. => none
  | .testSlotEnd .. => none
  | .bjOverdueCheck => none
  | .portEnable .. => none
  | .portDisable .. => none
  | .trainingComplete .. => none
  | .sync .. => none
  | .flitReceived .. => none
  | .nak .. => none
  | .retryTimeout .. => none
  | .lossOfLock .. => none
  | .boltCell .. => none
  | .groupEnableSet => none
  | .groupEnableClear => none
  | .join .. => none
  | .joinReply .. => none
  | .leave .. => none
  | .heartbeat .. => none
  | .mgrHeartbeat .. => none
  | .heartbeatTimer => none
  | .groupReport .. => none
  | .epochPrepare .. => none
  | .epochList .. => none
  | .epochReadySend => none
  | .epochReady .. => none
  | .epochCommit .. => none
  | .prepareTimeout => none
  | .takeover .. => none
  | .partner .. => none
  | .launch .. => none
  | .grant .. => none
  | .collectiveData .. => none
  | .flags .. => none
  | .abort .. => none
  | .slow .. => none
  | .release .. => none
  | .collComplete .. => none
  | .collWatchdogExpiry .. => none
  | .slowTimer => none
  | .hello .. => none
  | .accept .. => none
  | .shroudData .. => none
  | .shards .. => none
  | .manifest .. => none
  | .signature .. => none
  | .complete .. => none
  | .incomplete .. => none
  | .fetch .. => none
  | .fetchReply .. => none
  | .lost .. => none
  | .shroudTimeout => none
  | .signatureComplete => none
  | .riskRecompute => none
  | .counterSelectWrite .. => none
  | .counterClear .. => none
  | .bwEnableWrite .. => none
  | .bwWindowEnd => none
  | .ack .. => none
  | .reportResend => none
  | .summary => none
  | .statusQuery .. => none
  | .testNow .. => none
  | .fence .. => none
  | .unfence .. => none
  | .reset .. => none
  | .mgmtRoleSet .. => none
  | .group .. => none
  | .mapout .. => none
  | .mapoutClear .. => none
  | .svnRaise .. => none
  | .keySet .. => none
  | .recovery .. => none
  | .neighborSolicitation .. => none
  | .echoRequest .. => none
  | .keyWrite .. => none
  | .mgmtConfigWrite .. => none
  | .mctpMessage .. => none
  | .pcieLinkUp => none
  | .configAccess .. => none
  | .mgmtPortLinkChange .. => none
  | .joinReplyTimeout => none

/-- The operation is one that the opcode table defines. -/
def defined : Op → Bool
  | .undefinedOp _ => false
  | .malformed _ => false
  | _ => true

/-- A well-formed command that carries a packet names one of 16 rings, has 1 to 64 slots and at most four wait entries,
carries an operation that the opcode table defines with every parameter in its field, and its header, wait entries and
payload fit its slots (R338, R340, R351). -/
def Statement (i : Instr) : Prop :=
  wellFormed i = true → ∀ h op, packetOp i = some (h, op) →
    h.ring < 16 ∧ 1 ≤ h.length ∧ h.length ≤ 64 ∧ h.waits.length ≤ 4 ∧ defined op = true ∧ op.wf = true ∧
    16 + 16 * h.waits.length + (opPayload op).length ≤ 64 * h.length

/-- A command that carries no packet. -/
theorem statement_of_none {i : Instr} (e : packetOp i = none) : Statement i := by
  intro _ h op q
  rw [e] at q
  cases q

/-- A packet command. -/
theorem statement_of_packet {i : Instr} {h : PktHdr} {op : Op} (e : packetOp i = some (h, op))
    (w : wellFormed i = packetWf h op) (d : defined op = true) : Statement i := by
  intro hw h' op' q
  rw [e] at q
  injection q with q
  injection q with q1 q2
  subst q1 q2
  rw [w] at hw
  simp only [packetWf, PktHdr.wf, packetFits, fits, below, Bool.and_eq_true, decide_eq_true_eq] at hw
  obtain ⟨⟨⟨⟨⟨⟨⟨⟨h1, _⟩, h3⟩, h4⟩, _⟩, h6⟩, _⟩, h8⟩, h9⟩ := hw
  exact ⟨h1, h3, by omega, by omega, d, h8, h9⟩

theorem nop : ∀ x0, Statement (.nop x0) := fun _ => statement_of_packet rfl rfl rfl
theorem regWrite : ∀ x0 x1 x2, Statement (.regWrite x0 x1 x2) := fun _ _ _ => statement_of_packet rfl rfl rfl
theorem ringReset : ∀ x0 x1, Statement (.ringReset x0 x1) := fun _ _ => statement_of_packet rfl rfl rfl
theorem ringResetWrite : ∀ x0, Statement (.ringResetWrite x0) := fun _ => statement_of_none rfl
theorem ringResetDrained : ∀ x0, Statement (.ringResetDrained x0) := fun _ => statement_of_none rfl
theorem deviceSoftReset : ∀ x0, Statement (.deviceSoftReset x0) := fun _ => statement_of_packet rfl rfl rfl
theorem copy : ∀ x0 x1 x2 x3 x4, Statement (.copy x0 x1 x2 x3 x4) := fun _ _ _ _ _ => statement_of_packet rfl rfl rfl
theorem fill : ∀ x0 x1 x2 x3, Statement (.fill x0 x1 x2 x3) := fun _ _ _ _ => statement_of_packet rfl rfl rfl
theorem regionRebuild : ∀ x0, Statement (.regionRebuild x0) := fun _ => statement_of_packet rfl rfl rfl
theorem llsPartition : ∀ x0 x1 x2, Statement (.llsPartition x0 x1 x2) := fun _ _ _ => statement_of_packet rfl rfl rfl
theorem llsRelease : ∀ x0 x1 x2, Statement (.llsRelease x0 x1 x2) := fun _ _ _ => statement_of_packet rfl rfl rfl
theorem digest : ∀ x0 x1 x2 x3, Statement (.digest x0 x1 x2 x3) := fun _ _ _ _ => statement_of_packet rfl rfl rfl
theorem product : ∀ x0 x1 x2 x3 x4, Statement (.product x0 x1 x2 x3 x4) := fun _ _ _ _ _ => statement_of_packet rfl rfl rfl
theorem matvec : ∀ x0 x1 x2, Statement (.matvec x0 x1 x2) := fun _ _ _ => statement_of_packet rfl rfl rfl
theorem softmax : ∀ x0 x1 x2, Statement (.softmax x0 x1 x2) := fun _ _ _ => statement_of_packet rfl rfl rfl
theorem rmsnorm : ∀ x0 x1 x2 x3 x4, Statement (.rmsnorm x0 x1 x2 x3 x4) := fun _ _ _ _ _ => statement_of_packet rfl rfl rfl
theorem layernorm : ∀ x0 x1 x2 x3 x4 x5, Statement (.layernorm x0 x1 x2 x3 x4 x5) := fun _ _ _ _ _ _ => statement_of_packet rfl rfl rfl
theorem xent : ∀ x0 x1 x2 x3 x4 x5, Statement (.xent x0 x1 x2 x3 x4 x5) := fun _ _ _ _ _ _ => statement_of_packet rfl rfl rfl
theorem vprog : ∀ x0 x1 x2 x3 x4, Statement (.vprog x0 x1 x2 x3 x4) := fun _ _ _ _ _ => statement_of_packet rfl rfl rfl
theorem paramGroupsLoad : ∀ x0, Statement (.paramGroupsLoad x0) := fun _ => statement_of_packet rfl rfl rfl
theorem variantBind : ∀ x0 x1, Statement (.variantBind x0 x1) := fun _ _ => statement_of_packet rfl rfl rfl
theorem variantRelease : ∀ x0 x1, Statement (.variantRelease x0 x1) := fun _ _ => statement_of_packet rfl rfl rfl
theorem slotFreed : ∀ x0, Statement (.slotFreed x0) := fun _ => statement_of_none rfl
theorem collLaunch : ∀ x0 x1, Statement (.collLaunch x0 x1) := fun _ _ => statement_of_packet rfl rfl rfl
theorem roleSet : ∀ x0 x1 x2 x3 x4, Statement (.roleSet x0 x1 x2 x3 x4) := fun _ _ _ _ _ => statement_of_packet rfl rfl rfl
theorem groupJoin : ∀ x0, Statement (.groupJoin x0) := fun _ => statement_of_packet rfl rfl rfl
theorem groupLeave : ∀ x0, Statement (.groupLeave x0) := fun _ => statement_of_packet rfl rfl rfl
theorem stepBegin : ∀ x0 x1 x2 x3 x4, Statement (.stepBegin x0 x1 x2 x3 x4) := fun _ _ _ _ _ => statement_of_packet rfl rfl rfl
theorem stepEnd : ∀ x0 x1 x2, Statement (.stepEnd x0 x1 x2) := fun _ _ _ => statement_of_packet rfl rfl rfl
theorem stepClose : Statement .stepClose := statement_of_none rfl
theorem reefRewriteComplete : Statement .reefRewriteComplete := statement_of_none rfl
theorem commitGroupComplete : Statement .commitGroupComplete := statement_of_none rfl
theorem updateBatchComplete : ∀ x0 x1 x2, Statement (.updateBatchComplete x0 x1 x2) := fun _ _ _ => statement_of_none rfl
theorem verdict : ∀ x0 x1 x2 x3 x4, Statement (.verdict x0 x1 x2 x3 x4) := fun _ _ _ _ _ => statement_of_none rfl
theorem verdictTimeout : Statement .verdictTimeout := statement_of_none rfl
theorem betweenJobTest : ∀ x0 x1, Statement (.betweenJobTest x0 x1) := fun _ _ => statement_of_packet rfl rfl rfl
theorem unitTest : ∀ x0 x1, Statement (.unitTest x0 x1) := fun _ _ => statement_of_packet rfl rfl rfl
theorem unitFence : ∀ x0 x1, Statement (.unitFence x0 x1) := fun _ _ => statement_of_packet rfl rfl rfl
theorem unitUnfence : ∀ x0 x1, Statement (.unitUnfence x0 x1) := fun _ _ => statement_of_packet rfl rfl rfl
theorem shroudCopy : ∀ x0, Statement (.shroudCopy x0) := fun _ => statement_of_packet rfl rfl rfl
theorem restore : ∀ x0 x1 x2 x3 x4 x5 x6, Statement (.restore x0 x1 x2 x3 x4 x5 x6) := fun _ _ _ _ _ _ _ => statement_of_packet rfl rfl rfl
theorem shroudRelease : ∀ x0, Statement (.shroudRelease x0) := fun _ => statement_of_packet rfl rfl rfl
theorem counterSnapshot : ∀ x0 x1, Statement (.counterSnapshot x0 x1) := fun _ _ => statement_of_packet rfl rfl rfl
theorem sampleControl : ∀ x0 x1 x2, Statement (.sampleControl x0 x1 x2) := fun _ _ _ => statement_of_packet rfl rfl rfl
theorem attest : ∀ x0 x1 x2, Statement (.attest x0 x1 x2) := fun _ _ _ => statement_of_packet rfl rfl rfl
theorem measurementLog : ∀ x0 x1 x2, Statement (.measurementLog x0 x1 x2) := fun _ _ _ => statement_of_packet rfl rfl rfl
theorem firmwareStage : ∀ x0 x1 x2, Statement (.firmwareStage x0 x1 x2) := fun _ _ _ => statement_of_packet rfl rfl rfl
theorem ringTailWrite : ∀ x0 x1, Statement (.ringTailWrite x0 x1) := fun _ _ => statement_of_none rfl
theorem packetFetch : ∀ x0, Statement (.packetFetch x0) := fun _ => statement_of_none rfl
theorem packetStart : ∀ x0, Statement (.packetStart x0) := fun _ => statement_of_none rfl
theorem descriptorStart : ∀ x0 x1, Statement (.descriptorStart x0 x1) := fun _ _ => statement_of_none rfl
theorem tilePassLatch : ∀ x0 x1, Statement (.tilePassLatch x0 x1) := fun _ _ => statement_of_none rfl
theorem majorityOutcome : ∀ x0 x1 x2 x3 x4, Statement (.majorityOutcome x0 x1 x2 x3 x4) := fun _ _ _ _ _ => statement_of_none rfl
theorem shadowCompare : ∀ x0 x1, Statement (.shadowCompare x0 x1) := fun _ _ => statement_of_none rfl
theorem descriptorEnd : ∀ x0, Statement (.descriptorEnd x0) := fun _ => statement_of_none rfl
theorem packetEnd : ∀ x0, Statement (.packetEnd x0) := fun _ => statement_of_none rfl
theorem statusRecordDeferred : ∀ x0, Statement (.statusRecordDeferred x0) := fun _ => statement_of_none rfl
theorem statusHeadWrite : ∀ x0 x1, Statement (.statusHeadWrite x0 x1) := fun _ _ => statement_of_none rfl
theorem preempt : ∀ x0 x1, Statement (.preempt x0 x1) := fun _ _ => statement_of_none rfl
theorem contextResume : ∀ x0, Statement (.contextResume x0) := fun _ => statement_of_none rfl
theorem tokenAdd : ∀ x0 x1, Statement (.tokenAdd x0 x1) := fun _ _ => statement_of_none rfl
theorem deviceEnableWrite : ∀ x0, Statement (.deviceEnableWrite x0) := fun _ => statement_of_none rfl
theorem ringConfigWrite : ∀ x0 x1 x2, Statement (.ringConfigWrite x0 x1 x2) := fun _ _ _ => statement_of_none rfl
theorem statusConfigWrite : ∀ x0 x1 x2, Statement (.statusConfigWrite x0 x1 x2) := fun _ _ _ => statement_of_none rfl
theorem registerWrite : ∀ x0 x1 x2, Statement (.registerWrite x0 x1 x2) := fun _ _ _ => statement_of_none rfl
theorem bar0BadAccess : ∀ x0 x1 x2, Statement (.bar0BadAccess x0 x1 x2) := fun _ _ _ => statement_of_none rfl
theorem bar2Read : ∀ x0 x1 x2, Statement (.bar2Read x0 x1 x2) := fun _ _ _ => statement_of_none rfl
theorem bar2Write : ∀ x0 x1, Statement (.bar2Write x0 x1) := fun _ _ => statement_of_none rfl
theorem bar2HoldExpiry : ∀ x0, Statement (.bar2HoldExpiry x0) := fun _ => statement_of_none rfl
theorem atomicOpRequest : Statement .atomicOpRequest := statement_of_none rfl
theorem hostReadCompletion : ∀ x0 x1 x2, Statement (.hostReadCompletion x0 x1 x2) := fun _ _ _ => statement_of_none rfl
theorem completionTimeout : ∀ x0, Statement (.completionTimeout x0) := fun _ => statement_of_none rfl
theorem reefSet : ∀ x0 x1, Statement (.reefSet x0 x1) := fun _ _ => statement_of_none rfl
theorem reefClear : ∀ x0 x1, Statement (.reefClear x0 x1) := fun _ _ => statement_of_none rfl
theorem defaults : Statement .defaults := statement_of_none rfl
theorem clearBroken : Statement .clearBroken := statement_of_none rfl
theorem gsSet : ∀ x0, Statement (.gsSet x0) := fun _ => statement_of_none rfl
theorem baselineSet : ∀ x0 x1, Statement (.baselineSet x0 x1) := fun _ _ => statement_of_none rfl
theorem stateBaseWrite : ∀ x0, Statement (.stateBaseWrite x0) := fun _ => statement_of_none rfl
theorem scaleHistoryWrite : ∀ x0 x1 x2, Statement (.scaleHistoryWrite x0 x1 x2) := fun _ _ _ => statement_of_none rfl
theorem captureClear : ∀ x0 x1 x2, Statement (.captureClear x0 x1 x2) := fun _ _ _ => statement_of_none rfl
theorem lastFaultClear : ∀ x0 x1, Statement (.lastFaultClear x0 x1) := fun _ _ => statement_of_none rfl
theorem mapoutRequest : ∀ x0, Statement (.mapoutRequest x0) := fun _ => statement_of_none rfl
theorem lostClear : ∀ x0, Statement (.lostClear x0) := fun _ => statement_of_none rfl
theorem arbiterFreeze : ∀ x0 x1, Statement (.arbiterFreeze x0 x1) := fun _ _ => statement_of_none rfl
theorem arbiterDrained : ∀ x0, Statement (.arbiterDrained x0) := fun _ => statement_of_none rfl
theorem scrubAccess : ∀ x0 x1 x2 x3, Statement (.scrubAccess x0 x1 x2 x3) := fun _ _ _ _ => statement_of_none rfl
theorem scrubPeriodEnd : ∀ x0, Statement (.scrubPeriodEnd x0) := fun _ => statement_of_none rfl
theorem stackTempSample : ∀ x0 x1, Statement (.stackTempSample x0 x1) := fun _ _ => statement_of_none rfl
theorem dieTempSample : ∀ x0 x1, Statement (.dieTempSample x0 x1) := fun _ _ => statement_of_none rfl
theorem powerSample : ∀ x0 x1 x2, Statement (.powerSample x0 x1 x2) := fun _ _ _ => statement_of_none rfl
theorem droopEvent : ∀ x0, Statement (.droopEvent x0) := fun _ => statement_of_none rfl
theorem droopEnd : ∀ x0, Statement (.droopEnd x0) := fun _ => statement_of_none rfl
theorem brownOut : Statement .brownOut := statement_of_none rfl
theorem quadIdleGate : ∀ x0, Statement (.quadIdleGate x0) := fun _ => statement_of_none rfl
theorem stackIdleGate : ∀ x0, Statement (.stackIdleGate x0) := fun _ => statement_of_none rfl
theorem domainWakeComplete : ∀ x0, Statement (.domainWakeComplete x0) := fun _ => statement_of_none rfl
theorem coldReset : ∀ x0, Statement (.coldReset x0) := fun _ => statement_of_none rfl
theorem warmReset : ∀ x0, Statement (.warmReset x0) := fun _ => statement_of_none rfl
theorem functionLevelReset : Statement .functionLevelReset := statement_of_none rfl
theorem resetComplete : Statement .resetComplete := statement_of_none rfl
theorem perstDeassert : Statement .perstDeassert := statement_of_none rfl
theorem refclkLoss : Statement .refclkLoss := statement_of_none rfl
theorem startupTimeout : Statement .startupTimeout := statement_of_none rfl
theorem testDue : ∀ x0, Statement (.testDue x0) := fun _ => statement_of_none rfl
theorem testDeferExpiry : ∀ x0 x1, Statement (.testDeferExpiry x0 x1) := fun _ _ => statement_of_none rfl
theorem testSlotStart : ∀ x0, Statement (.testSlotStart x0) := fun _ => statement_of_none rfl
theorem testSlotEnd : ∀ x0 x1 x2 x3, Statement (.testSlotEnd x0 x1 x2 x3) := fun _ _ _ _ => statement_of_none rfl
theorem bjOverdueCheck : Statement .bjOverdueCheck := statement_of_none rfl
theorem portEnable : ∀ x0, Statement (.portEnable x0) := fun _ => statement_of_none rfl
theorem portDisable : ∀ x0, Statement (.portDisable x0) := fun _ => statement_of_none rfl
theorem trainingComplete : ∀ x0, Statement (.trainingComplete x0) := fun _ => statement_of_none rfl
theorem sync : ∀ x0 x1 x2 x3 x4 x5, Statement (.sync x0 x1 x2 x3 x4 x5) := fun _ _ _ _ _ _ => statement_of_none rfl
theorem flitReceived : ∀ x0 x1 x2 x3, Statement (.flitReceived x0 x1 x2 x3) := fun _ _ _ _ => statement_of_none rfl
theorem nak : ∀ x0 x1, Statement (.nak x0 x1) := fun _ _ => statement_of_none rfl
theorem retryTimeout : ∀ x0, Statement (.retryTimeout x0) := fun _ => statement_of_none rfl
theorem lossOfLock : ∀ x0, Statement (.lossOfLock x0) := fun _ => statement_of_none rfl
theorem boltCell : ∀ x0 x1 x2, Statement (.boltCell x0 x1 x2) := fun _ _ _ => statement_of_none rfl
theorem groupEnableSet : Statement .groupEnableSet := statement_of_none rfl
theorem groupEnableClear : Statement .groupEnableClear := statement_of_none rfl
theorem join : ∀ x0 x1 x2 x3, Statement (.join x0 x1 x2 x3) := fun _ _ _ _ => statement_of_none rfl
theorem joinReply : ∀ x0 x1, Statement (.joinReply x0 x1) := fun _ _ => statement_of_none rfl
theorem leave : ∀ x0, Statement (.leave x0) := fun _ => statement_of_none rfl
theorem heartbeat : ∀ x0 x1 x2 x3 x4 x5 x6, Statement (.heartbeat x0 x1 x2 x3 x4 x5 x6) := fun _ _ _ _ _ _ _ => statement_of_none rfl
theorem mgrHeartbeat : ∀ x0, Statement (.mgrHeartbeat x0) := fun _ => statement_of_none rfl
theorem heartbeatTimer : Statement .heartbeatTimer := statement_of_none rfl
theorem groupReport : ∀ x0 x1 x2 x3, Statement (.groupReport x0 x1 x2 x3) := fun _ _ _ _ => statement_of_none rfl
theorem epochPrepare : ∀ x0 x1 x2 x3 x4, Statement (.epochPrepare x0 x1 x2 x3 x4) := fun _ _ _ _ _ => statement_of_none rfl
theorem epochList : ∀ x0 x1 x2, Statement (.epochList x0 x1 x2) := fun _ _ _ => statement_of_none rfl
theorem epochReadySend : Statement .epochReadySend := statement_of_none rfl
theorem epochReady : ∀ x0, Statement (.epochReady x0) := fun _ => statement_of_none rfl
theorem epochCommit : ∀ x0 x1, Statement (.epochCommit x0 x1) := fun _ _ => statement_of_none rfl
theorem prepareTimeout : Statement .prepareTimeout := statement_of_none rfl
theorem takeover : ∀ x0 x1, Statement (.takeover x0 x1) := fun _ _ => statement_of_none rfl
theorem partner : ∀ x0 x1 x2 x3 x4 x5, Statement (.partner x0 x1 x2 x3 x4 x5) := fun _ _ _ _ _ _ => statement_of_none rfl
theorem launch : ∀ x0 x1, Statement (.launch x0 x1) := fun _ _ => statement_of_none rfl
theorem grant : ∀ x0 x1, Statement (.grant x0 x1) := fun _ _ => statement_of_none rfl
theorem collectiveData : ∀ x0 x1 x2 x3 x4, Statement (.collectiveData x0 x1 x2 x3 x4) := fun _ _ _ _ _ => statement_of_none rfl
theorem flags : ∀ x0 x1 x2, Statement (.flags x0 x1 x2) := fun _ _ _ => statement_of_none rfl
theorem abort : ∀ x0 x1 x2 x3, Statement (.abort x0 x1 x2 x3) := fun _ _ _ _ => statement_of_none rfl
theorem slow : ∀ x0 x1, Statement (.slow x0 x1) := fun _ _ => statement_of_none rfl
theorem release : ∀ x0, Statement (.release x0) := fun _ => statement_of_none rfl
theorem collComplete : ∀ x0, Statement (.collComplete x0) := fun _ => statement_of_none rfl
theorem collWatchdogExpiry : ∀ x0, Statement (.collWatchdogExpiry x0) := fun _ => statement_of_none rfl
theorem slowTimer : Statement .slowTimer := statement_of_none rfl
theorem hello : ∀ x0 x1 x2, Statement (.hello x0 x1 x2) := fun _ _ _ => statement_of_none rfl
theorem accept : ∀ x0 x1, Statement (.accept x0 x1) := fun _ _ => statement_of_none rfl
theorem shroudData : ∀ x0 x1, Statement (.shroudData x0 x1) := fun _ _ => statement_of_none rfl
theorem shards : ∀ x0 x1, Statement (.shards x0 x1) := fun _ _ => statement_of_none rfl
theorem manifest : ∀ x0 x1, Statement (.manifest x0 x1) := fun _ _ => statement_of_none rfl
theorem signature : ∀ x0 x1, Statement (.signature x0 x1) := fun _ _ => statement_of_none rfl
theorem complete : ∀ x0, Statement (.complete x0) := fun _ => statement_of_none rfl
theorem incomplete : ∀ x0, Statement (.incomplete x0) := fun _ => statement_of_none rfl
theorem fetch : ∀ x0 x1, Statement (.fetch x0 x1) := fun _ _ => statement_of_none rfl
theorem fetchReply : ∀ x0 x1, Statement (.fetchReply x0 x1) := fun _ _ => statement_of_none rfl
theorem lost : ∀ x0, Statement (.lost x0) := fun _ => statement_of_none rfl
theorem shroudTimeout : Statement .shroudTimeout := statement_of_none rfl
theorem signatureComplete : Statement .signatureComplete := statement_of_none rfl
theorem riskRecompute : Statement .riskRecompute := statement_of_none rfl
theorem counterSelectWrite : ∀ x0 x1 x2 x3 x4, Statement (.counterSelectWrite x0 x1 x2 x3 x4) := fun _ _ _ _ _ => statement_of_none rfl
theorem counterClear : ∀ x0 x1, Statement (.counterClear x0 x1) := fun _ _ => statement_of_none rfl
theorem bwEnableWrite : ∀ x0, Statement (.bwEnableWrite x0) := fun _ => statement_of_none rfl
theorem bwWindowEnd : Statement .bwWindowEnd := statement_of_none rfl
theorem ack : ∀ x0, Statement (.ack x0) := fun _ => statement_of_none rfl
theorem reportResend : Statement .reportResend := statement_of_none rfl
theorem summary : Statement .summary := statement_of_none rfl
theorem statusQuery : ∀ x0, Statement (.statusQuery x0) := fun _ => statement_of_none rfl
theorem testNow : ∀ x0 x1, Statement (.testNow x0 x1) := fun _ _ => statement_of_none rfl
theorem fence : ∀ x0 x1, Statement (.fence x0 x1) := fun _ _ => statement_of_none rfl
theorem unfence : ∀ x0 x1, Statement (.unfence x0 x1) := fun _ _ => statement_of_none rfl
theorem reset : ∀ x0 x1, Statement (.reset x0 x1) := fun _ _ => statement_of_none rfl
theorem mgmtRoleSet : ∀ x0 x1 x2 x3 x4 x5 x6 x7, Statement (.mgmtRoleSet x0 x1 x2 x3 x4 x5 x6 x7) := fun _ _ _ _ _ _ _ _ => statement_of_none rfl
theorem group : ∀ x0 x1, Statement (.group x0 x1) := fun _ _ => statement_of_none rfl
theorem mapout : ∀ x0 x1, Statement (.mapout x0 x1) := fun _ _ => statement_of_none rfl
theorem mapoutClear : ∀ x0 x1, Statement (.mapoutClear x0 x1) := fun _ _ => statement_of_none rfl
theorem svnRaise : ∀ x0 x1, Statement (.svnRaise x0 x1) := fun _ _ => statement_of_none rfl
theorem keySet : ∀ x0 x1, Statement (.keySet x0 x1) := fun _ _ => statement_of_none rfl
theorem recovery : ∀ x0 x1 x2, Statement (.recovery x0 x1 x2) := fun _ _ _ => statement_of_none rfl
theorem neighborSolicitation : ∀ x0 x1, Statement (.neighborSolicitation x0 x1) := fun _ _ => statement_of_none rfl
theorem echoRequest : ∀ x0 x1 x2, Statement (.echoRequest x0 x1 x2) := fun _ _ _ => statement_of_none rfl
theorem keyWrite : ∀ x0 x1, Statement (.keyWrite x0 x1) := fun _ _ => statement_of_none rfl
theorem mgmtConfigWrite : ∀ x0 x1, Statement (.mgmtConfigWrite x0 x1) := fun _ _ => statement_of_none rfl
theorem mctpMessage : ∀ x0, Statement (.mctpMessage x0) := fun _ => statement_of_none rfl
theorem pcieLinkUp : Statement .pcieLinkUp := statement_of_none rfl
theorem configAccess : ∀ x0, Statement (.configAccess x0) := fun _ => statement_of_none rfl
theorem mgmtPortLinkChange : ∀ x0, Statement (.mgmtPortLinkChange x0) := fun _ => statement_of_none rfl
theorem joinReplyTimeout : Statement .joinReplyTimeout := statement_of_none rfl

end Sys2Proof.Laws.WellFormed
end

