-- ==== Sys2Proof/Tests/Slice0.lean ====
section
/-! SUPPORT. Tests of the model: commands that are not well formed and the check that refuses them, single steps whose
results are worked out by hand from the spec, and for every statement with hypotheses concrete states and operands that
meet them. -/

set_option Elab.async false

namespace Sys2Proof.Tests

open Sys2Proof.Machine

/-! States. -/

/-- A state with register fields written one after another. -/
def up (l : List (Reg × List Nat × Nat)) (s : State) : State := l.foldl (fun s x => s.wr x.1 x.2.1 x.2.2) s

/-- The module after start-up with its link up: READY and DEVICE_ENABLE 1, and ring 15 enabled with 64 slots published. -/
def live : State :=
  up [(.devReady, [], 1), (.devDeviceEnable, [], 1), (.ringEnable, [15], 1), (.ringRingTail, [15], 64)]
    { State.reset with startDone := true, perst := false, pwrGood := true, pcieUp := true, aoNow := 50000 }

/-- The packet of the boundary values: ring 15, all 64 slots, four waits that a fresh token satisfies. -/
def wide : PktHdr :=
  { ring := 15, tag := 0xFFFFFFFF, length := 64, sigEn := true, signal := 65535
    waits := List.replicate 4 { token := 65535, value := 0, rel := false } }

/-- The same packet without waits. -/
def plain : PktHdr := { wide with waits := [] }

/-- live with a step open on ring 15. -/
def stepping : State := up [(.stState, [], 1)] { live with step := some { (default : StepSt) with ring := 15 } }

/-- A packet of an operation in a phase, number 0, on ring 3. -/
def packet (op : Op) (ph : Phase) : Packet :=
  { pid := 0, ring := 3, tag := 5, slot := 0, length := 1, sigEn := true, signal := 65535, waits := [], op := op, phase := ph
    descs := [], slots := [], coll := none, collDescs := [], collSeq := 0, inAttempt := false, seed := 0, fetched := 0
    started := 0, scales := [], vals := [], flags := [], report := none, held := [], redone := false, deferred := false, raced := [], again := false }

/-! Hypotheses, decided. -/

/-- What Inv says, as a computation. -/
def invB (s : State) : Bool := s.mem.wf && Tab.sorted s.regs && s.flight.all (fun p => decide (p.pid < s.nextId))

theorem inv_of (s : State) (h : invB s = true) : Inv s := by
  simp only [invB, Bool.and_eq_true, List.all_eq_true, decide_eq_true_eq] at h
  exact ⟨h.1.1, h.1.2, h.2⟩

/-- What Quiet says, as a computation. -/
def quietB (s : State) (h : PktHdr) : Bool :=
  invB s && s.power == 1 && s.canFetch h.ring && !s.midFetch h.ring &&
    decide (1 ≤ h.length ∧ h.length ≤ 64 ∧ h.length ≤ s.unfetched h.ring) &&
    decide (h.waits.length ≤ 4 ∧ ∀ w ∈ h.waits,
      (w.rel = true → s.fetchesAttempt h.ring = true) ∧ s.waitMet w = true ∧ s.tokenFaulted w.token = false) &&
    decide (s.fetchesAttempt h.ring = true → s.rewrites = [] ∧ (s.step.map (fun t => t.stopped)).getD false = false) &&
    !s.anyHeld

theorem quiet_of (s : State) (h : PktHdr) (q : quietB s h = true) : Quiet s h := by
  simp only [quietB, Bool.and_eq_true, Bool.not_eq_true', beq_iff_eq, decide_eq_true_eq] at q
  obtain ⟨⟨⟨⟨⟨⟨⟨a, b⟩, c⟩, d⟩, e⟩, f⟩, g⟩, i⟩ := q
  exact ⟨inv_of s a, b, c, d, e, f, g, i⟩

theorem quiet_live : Quiet live wide := quiet_of _ _ (by decide +kernel)

/-- A started packet that waits for nothing, or is with its collective or copy. -/
def goesOn (s : State) (p : Packet) : Bool :=
  match p.op with
  | .collLaunch _ => s.colls.any (fun c => c.pid == some p.pid)
  | .shroudCopy => s.copies.any (fun c => c.pid == some p.pid)
  | o => standsAlone o

/-- What Settled says of a verdict, a commit, a copy, a restore and fences, as a computation. -/
def restB (s : State) : Bool :=
  (s.commit.map (fun c => c.waiting)).getD false == false &&
    (match s.step.bind (fun q => q.verdict) with
      | some _ => (firstPeers s.verdicts ((List.range (s.rd .grpMembers [])).filter (fun r => r != s.rd .grpRank []))).isNone
      | none => true) &&
    (match s.copy with | some c => c.pid.isNone || !c.accepted || c.sent | none => true) &&
    (match s.restore with | some r => !r.checked && !r.ready | none => true) &&
    (List.range 20).all (fun k => !s.fenced (56 + k) || s.rd .domDstate [56 + k] == 3)

/-- What Settled says, as a computation. -/
def settledB (s : State) : Bool := s.flight.all (fun p => decide (p.phase ≠ .running) || goesOn s p) && restB s

theorem settled_of (s : State) (h : settledB s = true) : Settled s := by
  simp only [settledB, restB, Bool.and_eq_true, List.all_eq_true, Bool.or_eq_true, Bool.not_eq_true', beq_iff_eq,
    List.mem_range, decide_eq_true_eq] at h
  obtain ⟨hp, ⟨⟨⟨hc, hv⟩, hy⟩, hr⟩, hf⟩ := h
  refine ⟨fun p hm hrun => ?_, fun c e => ?_, fun q v e ev => ?_, fun c e => ?_, fun r e => ?_, fun k hk he => ?_⟩
  · rcases hp p hm with n | g
    · exact absurd hrun n
    · unfold goesOn at g
      split at g
      · rename_i a ha; exact .inr (.inl ⟨⟨a, ha⟩, g⟩)
      · rename_i ha; exact .inr (.inr ⟨ha, g⟩)
      · exact .inl g
  · simpa [e] using hc
  · simpa [e, ev, Option.isNone_iff_eq_none] using hv
  · simp only [e, Bool.or_eq_true, Bool.not_eq_true', Option.isNone_iff_eq_none] at hy
    rcases hy with (h | h) | h
    · exact .inl h
    · exact .inr (.inl h)
    · exact .inr (.inr h)
  · simpa [e] using hr
  · rcases hf k hk with h | h
    · rw [he] at h; cases h
    · exact h

/-- No range of a state without errors and without lost bolts holds an uncorrectable error. -/
theorem clean_of (s : State)
    (h : (s.ue.isEmpty && (List.range 4).all (fun c => s.rd .llsLostCount [c] == 0 && !s.flag .llsLostOverflow [c])) = true)
    (a n : Nat) : s.badBolts a n = [] := by
  simp only [State.badBolts, h, ite_true]

/-- A management header with the tag that its message has under the key of s. -/
def signed (s : State) (type seq : Nat) (body : List Byte) : MgmtHeader :=
  { moduleId := Config.moduleId.toNat, seq := seq, tick := 77
    tag := kmac256 s.key (leBytes 4 (0x01 * 2 ^ 24 + type * 2 ^ 16 + body.length) ++ zeros 4 ++
      leBytes 8 Config.moduleId.toNat ++ leBytes 8 seq ++ leBytes 8 77 ++ body) mgmtCustom }

theorem signed_ok (s : State) (type seq : Nat) (body : List Byte) (h : s.rd .mgmtKeyState [] = 1) :
    s.messageOk (signed s type seq body) type body = true := by
  simp [State.messageOk, State.tagOk, signed, h]

/-- A header for another module. -/
def strange : MgmtHeader := { moduleId := Config.moduleId.toNat + 1, seq := 1, tick := 77, tag := [] }

theorem strange_not_ok (s : State) (type : Nat) (body : List Byte) : s.messageOk strange type body = false := by
  simp [State.messageOk, strange]

/-- live with the management port up, a key set and a collector. -/
def managed : State := up [(.mgmtPortUp, [], 1), (.mgmtKeyState, [], 1), (.mgmtCollectorAddr, [], 1)] live

theorem managed_accepts (s : State) (type seq : Nat) (body : List Byte) (h : s.rd .mgmtKeyState [] = 1) (p : s.power ≠ 0)
    (u : s.rd .mgmtPortUp [] = 1) (l : s.rd .mgmtLastCmdSeq [] < seq) (b : s.rd .devBootError [] ≠ 1) :
    Accepts s (signed s type seq body) type body := ⟨p, u, signed_ok s type seq body h, l, b⟩

/-! Statements about steps, reset and the queue. -/

theorem wit_StepTicksWhenIdle : (live.pending = [] ∧ live.power = 1) ∧
    (let s := { live with power := 2 }
     s.pending = [] ∧ s.power ≠ 0 ∧ s.power ≠ 1) ∧
    let s := { live with power := 0 }
    s.pending = [] ∧ s.power = 0 := by decide +kernel

/-- live with a packet in flight, and a command waiting. -/
def busy : State := { live with pending := [.perstDeassert], nextId := 1, flight := [packet .nop .waiting] }

theorem wit_EveryStepKeepsInvariant : Inv busy ∧ ∃ t, step busy = .next t := ⟨inv_of _ (by decide +kernel), _, rfl⟩

theorem wit_NoCommandTouchesTheQueue : ∃ t, exec .perstDeassert busy = .next t := ⟨_, rfl⟩

theorem wit_UnpoweredModuleIsInert : let s := { live with power := 0 }
    s.power = 0 ∧ (∀ f, Instr.nop wide ≠ .coldReset f) ∧ ∀ f, Instr.nop wide ≠ .warmReset f :=
  ⟨rfl, fun _ h => Instr.noConfusion h, fun _ h => Instr.noConfusion h⟩

/-- live with the merge buffer of slice 0 full of writes that wait for stack 0. -/
def full : State :=
  { live with heldWrites := List.replicate 2049 { kind := 1, addr := (Region.stack 0).base, data := [0] } }

theorem wit_HostWritesNeedTheLink :
    (isHostWrite (.ringTailWrite 15 1) = true ∧ { live with pcieUp := false }.hostOk = false) ∧ full.postedFull = true ∧
    isHostWrite (.bar2Write 0 [0]) = true ∧ ((4 : Nat) ≠ 4 ∧ 4 ≠ 8 ∨ 2 % 4 ≠ 0) ∧ ((2 : Nat) ≠ 4 ∧ 2 ≠ 8 ∨ 0 % 2 ≠ 0) := by
  decide +kernel

theorem wit_Fp4ElementValues : 15 < 16 := by decide

theorem wit_BlockScaleValues : 0xFE < 0xFF := by decide

/-! Statements about host writes. -/

/-- The host interface of live takes writes. -/
theorem takes (s : State) (h : s.hostOk = true) (f : s.postedFull = false) : HostTakes s := ⟨h, f⟩

theorem live_takes : HostTakes live := takes _ (by decide +kernel) (by decide +kernel)

/-- The record of a stop of ring 15. -/
def stopRecord : LateRecord :=
  { ring := 15, pid := none, tag := 7, opcode := 0xFFFF, status := .hostTimeout, detail := 1, slot := 0, faultedWait := false
    signalled := false, signal := 0, ended := 3 }

/-- The status ring of ring 15 is full, and the record of a stop waits. -/
def stopWaits : State := { up [(.ringStatusTail, [15], 64)] live with lateRecords := [stopRecord] }

theorem wit_RingIndexWritesTakeEffect :
    HostTakes live ∧ 15 < 16 ∧ live.lateOf 15 = none ∧ HostTakes stopWaits ∧ stopWaits.pcieUp = true ∧
    stopWaits.rd .arbFreeze [36] = 0 ∧
    (stopWaits.rd .ringStatusTail [15] + 2 ^ 32 - 1 % 2 ^ 32) % 2 ^ 32 < 2 ^ stopWaits.rd .ringStatusLog2 [15] ∧
    ¬ (stopWaits.rd .ringStatusTail [15] + 2 ^ 32 - 0 % 2 ^ 32) % 2 ^ 32 < 2 ^ stopWaits.rd .ringStatusLog2 [15] :=
  ⟨live_takes, by decide, by decide +kernel, takes _ (by decide +kernel) (by decide +kernel), by decide +kernel,
   by decide +kernel, by decide +kernel, by decide +kernel⟩

theorem wit_RingConfigurationWrites : HostTakes live ∧ 15 < 16 ∧
    (16 < 2 ^ (ringReg .log2).width ∧ 16 ≠ live.rd (ringReg .log2) [15] ∧ (6 ≤ 16 ∧ 16 ≤ 16) ∧ live.rd .ringEnable [15] = 1) ∧
    (let v := 2 ^ 64 - 4096
     v < 2 ^ (ringReg .base).width ∧ v ≠ live.rd (ringReg .base) [0] ∧ v % 4096 = 0 ∧ live.rd .ringEnable [0] ≠ 1 ∧
       live.rd .ringRingTail [0] = live.rd .ringRingHead [0]) ∧
    (1 < 2 ^ (ringReg .loc).width ∧ 1 ≠ live.rd (ringReg .loc) [0]) ∧
    (live.lateOf 15 = none ∧ 16 < 2 ^ (statusReg .log2).width ∧ 16 ≠ live.rd (statusReg .log2) [15]) ∧
    (4096 < 2 ^ (statusReg .base).width ∧ 4096 ≠ live.rd (statusReg .base) [0]) := ⟨live_takes, by decide +kernel⟩

theorem wit_DeviceEnableAndTokens :
    (HostTakes live ∧ live.rd .devBootError [] = 0) ∧
    let s := { live with tokens := [(65535, 2 ^ 64 - 1)] }
    HostTakes s ∧ 65535 < 65536 ∧ 2 ^ 48 - 1 < 2 ^ 48 ∧ s.token 65535 < 2 ^ 64 :=
  ⟨⟨live_takes, by decide +kernel⟩, takes _ (by decide +kernel) (by decide +kernel), by decide +kernel⟩

theorem wit_RegisterWordsAndAtomics : HostTakes live ∧ live.linked = true ∧ live.cfg.d3hot = false ∧ 15 < 16 ∧
    2 ^ 32 - 1 < 2 ^ 32 ∧ bar0Legal 0x3FFFFF8 8 = true ∧ bar0Legal 0 4 = true ∧
    ((3 : Nat) ≠ 4 ∧ 3 ≠ 8 ∨ 0 % 3 ≠ 0) ∧ ((8 : Nat) ≠ 4 ∧ 8 ≠ 8 ∨ 4 % 8 ≠ 0) := ⟨live_takes, by decide +kernel⟩

theorem wit_ConfigurationSpace : live.linked = true ∧ { live with cfg := { live.cfg with d3hot := true } }.linked = true := by
  decide +kernel

/-- live with BAR2 over stack 0, and with BAR2 past every region. -/
def bar2Stack : State := up [(.devBar2Base, [], (Region.stack 0).base)] live
def bar2Hole : State := up [(.devBar2Base, [], 0x0F0000000000)] live

theorem wit_Bar2Accesses :
    (let s := bar2Stack
     let o := 2 ^ 30 - 64
     let a := s.rd .devBar2Base [] + o
     s.hostOk = true ∧ s.postedFull = false ∧ s.startDone = true ∧ s.bar2Inside o 64 = true ∧ s.inRegion a 64 = true ∧ s.unavailIn a 64 = false ∧
       s.heldIn a 64 = false ∧ s.postedFull = false ∧ s.badBolts a 64 = [] ∧ (zeros 64).length = 64) ∧
    (let s := up [(.stkTstate, [0], 2)] bar2Stack
     s.hostOk = true ∧ s.postedFull = false ∧ s.startDone = true ∧ s.bar2Inside 0 64 = true ∧ s.inRegion (s.rd .devBar2Base []) 64 = true ∧
       s.heldIn (s.rd .devBar2Base []) 64 = true) ∧
    (let s := bar2Hole
     s.hostOk = true ∧ s.postedFull = false ∧ s.startDone = true ∧ s.bar2Inside 0 (zeros 8).length = true ∧
       s.inRegion (s.rd .devBar2Base []) (zeros 8).length = false) := by decide +kernel

/-- bar2Stack with stack 0 at CRIT. -/
def crit : State := up [(.stkTstate, [0], 2)] bar2Stack

/-- A read held since tick 0, just before and just at its limit. -/
def held (tick : Nat) : State := { crit with aoNow := tick, heldReads := [{ id := 4, addr := 0, len := 8, since := 0 }] }

theorem wit_HeldReadsExpire :
    (crit.hostOk = true ∧ crit.postedFull = false ∧ crit.startDone = true ∧ crit.bar2Inside 0 64 = true ∧
      crit.inRegion (crit.rd .devBar2Base [] + 0) 64 = true ∧ crit.unavailIn (crit.rd .devBar2Base [] + 0) 64 = false ∧
      crit.heldIn (crit.rd .devBar2Base [] + 0) 64 = true) ∧
    let h : HeldRead := { id := 4, addr := 0, len := 8, since := 0 }
    let lim := msTicks (crit.rd .memBar2HoldLimit [])
    (let s := held (lim - 1)
     s.power = 1 ∧ s.heldReads.find? (fun x => x.id == h.id) = some h ∧ s.aoNow < h.since + msTicks (s.rd .memBar2HoldLimit [])) ∧
    let s := held lim
    s.power = 1 ∧ s.heldReads.find? (fun x => x.id == h.id) = some h ∧ h.since + msTicks (s.rd .memBar2HoldLimit []) ≤ s.aoNow := by
  decide +kernel

theorem wit_HostLinkEvents : let s := { live with pcieUp := false }
    s.power = 1 ∧ s.pcieUp = false ∧ s.perst = false ∧ s.pwrGood = true ∧ s.thermtrip = false ∧ s.rd .arbFreeze [36] = 0 := by decide +kernel

theorem wit_ReefWritesSetLayerBits : live.hostOk = true ∧ live.postedFull = false ∧ stepping.hostOk = true ∧ stepping.postedFull = false ∧ 127 < 128 ∧ 2 ^ 32 - 1 < 2 ^ 32 ∧
    stepping.stepOpen = true ∧ live.stepOpen = false := by decide +kernel

theorem wit_StepControlActions : live.hostOk = true ∧ live.postedFull = false := by decide +kernel

/-- live with a step-state area at the start of stack 0. -/
def area : State := up [(.stStateBase, [], (Region.stack 0).base)] live

theorem wit_GradientScaleAndBaselineSets :
    (stepping.hostOk = true ∧ stepping.postedFull = false ∧ 255 < 256 ∧ 2 ^ 32 - 1 < 2 ^ 32 ∧ stepping.stepOpen = true) ∧
    (live.stepOpen = false ∧ live.badBolts (live.liveCopy.1 + 0x18) 8 = [] ∧ 0x00800000 ≤ 0x00800000 ∧
      0x00800000 < 0x7F800000 ∧ live.badBolts (live.liveCopy.1 + baselineOff 255) 6 = []) ∧
    (area.hostOk = true ∧ area.postedFull = false ∧ area.stepOpen = false ∧ area.rd .stStateBase [] ≠ 0 ∧ area.badBolts (area.liveCopy.1 + 0x18) 8 = [] ∧
      0x00800000 ≤ 0x7F7FFFFF ∧ 0x7F7FFFFF < 0x7F800000 ∧ area.badBolts (area.liveCopy.1 + baselineOff 255) 6 = []) := by
  decide +kernel

theorem wit_StepStateAreaWrites :
    let fresh := (Region.stack 19).base
    let edge := (Region.stack 0).base + live.regionSize (.stack 0)
    (live.hostOk = true ∧ live.postedFull = false ∧ live.stepOpen = false ∧ fresh < 2 ^ 64 ∧ Reg.stStateBase.rule.ok fresh = true ∧
      fresh ≠ live.rd .stStateBase [] ∧ live.inRegion fresh 0x100000 = true ∧ live.badBolts fresh 64 = [] ∧
      live.badBolts (fresh + copyBytes) 64 = [] ∧ live.badBolts fresh copyBytes = []) ∧
    (edge < 2 ^ 64 ∧ Reg.stStateBase.rule.ok edge = true ∧ edge ≠ live.rd .stStateBase [] ∧ edge ≠ 0 ∧
      live.inRegion edge 0x100000 = false) ∧
    (area.hostOk = true ∧ area.postedFull = false ∧ area.stepOpen = false ∧ Reg.stStateBase.rule.ok 0 = true ∧ 0 ≠ area.rd .stStateBase []) ∧
    (∀ f : HistoryField, ∃ v, v < 2 ^ (historyReg f).width ∧ (historyReg f).rule.ok v = true ∧
      v ≠ live.rd (historyReg f) [4095]) ∧
    (4095 < 4096 ∧ stepping.stepOpen = true ∧ stepping.hostOk = true ∧ stepping.postedFull = false ∧ live.rd .stStateBase [] = 0 ∧
      area.badBolts (area.liveCopy.1 + historyOff 4095) 64 = []) := by
  refine ⟨by decide +kernel, by decide +kernel, by decide +kernel, ?_, by decide +kernel⟩
  intro f
  cases f <;> exact ⟨1, by decide +kernel⟩

theorem wit_RecordAndTableClears : live.hostOk = true ∧ live.postedFull = false ∧ 3 < 4 ∧ 47 < 48 ∧ 7 < 8 ∧ 4 < 5 ∧ 15 < 16 := by decide +kernel

/-! Statements about memory, thermal, supply and clock events. -/

theorem wit_MapoutAndArbiterWrites : live.hostOk = true ∧ live.postedFull = false ∧ live.power = 1 ∧ 639 < 640 ∧ 36 < 37 ∧
    live.rd .hbmState [639] = 0 ∧ live.heldReads = [] ∧ live.heldWrites = [] ∧
    (up [(.hbmState, [639], 2)] live).rd .hbmState [639] ≠ 0 ∧ (up [(.arbFreeze, [36], 1)] live).rd .arbFreeze [36] = 1 := by
  decide +kernel

/-- live with scrub on, channel 608 at its limit of corrected bursts, and the last stack at CRIT in `hot`. -/
def scrubbed : State := up [(.memScrubEnable, [], 1), (.hbmCeCount, [608], 65535)] live
def hot : State := up [(.stkTstate, [19], 2)] scrubbed

theorem wit_PatrolScrub : live.power = 1 ∧ (20 ≤ 640 / 32 ∨ live.rd .memScrubEnable [] ≠ 1) ∧
    (639 / 32 < 20 ∧ hot.rd .memScrubEnable [] = 1 ∧ hot.stackHeld (639 / 32) = true) ∧
    (scrubbed.power = 1 ∧ scrubbed.rd .memScrubEnable [] = 1 ∧ scrubbed.stackHeld 19 = false ∧
      scrubbed.scrubNext (608 / 32) = some (608 % 32 * channelBolts + 0) ∧ 0 < channelBolts ∧
      scrubbed.scrubNext (608 / 32) ≠ some (608 % 32 * channelBolts + 1) ∧ (scrubbed.addrOf (32 * 19 + 0 / channelBolts) (0 % channelBolts * 512)).isSome = true ∧
      0 < min 16 (0 + 1) ∧ scrubbed.rd .memCeLimit [] < scrubbed.rd .hbmCeCount [608] + 1 ∧ scrubbed.rd .hbmState [608] = 0 ∧
      scrubbed.ue.contains 0 = false) ∧
    let ending := fun (held : List Nat) (now : Nat) =>
      { scrubbed with
        aoNow := now
        patrol := { pos := (List.range 20).map (fun st => (st, 32 * channelBolts)), held := held, since := 0, last := now } }
    ((ending [] scrubbed.scrubTicks).scrubOver = true ∧ (ending [] scrubbed.scrubTicks).patrol.held = []) ∧
    let s := ending [19] (scrubbed.scrubTicks + 1)
    s.scrubOver = true ∧ s.patrol.held ≠ [] ∧ s.patrol.since + s.scrubTicks < s.patrol.last := by decide +kernel

theorem wit_StackTemperatureStates : (live.power = 1 ∧ 19 < 20 ∧ 109 < 110 ∧ live.rd .stkTstate [19] < 3 ∧
      live.heldReads = [] ∧ live.heldWrites = [] ∧ live.colls = [] ∧ Settled live) ∧
    let s := up [(.stkTstate, [19], 2)] live
    s.power = 1 ∧ s.rd .stkTstate [19] = 2 ∧ 99 < 110 ∧ s.heldReads = [] ∧ s.heldWrites = [] ∧ s.colls = [] ∧ Settled s :=
  ⟨by refine ⟨?_, ?_, ?_, ?_, ?_, ?_, ?_, settled_of _ ?_⟩ <;> decide +kernel,
   by refine ⟨?_, ?_, ?_, ?_, ?_, ?_, settled_of _ ?_⟩ <;> decide +kernel⟩

theorem wit_ProgrammableCountersAndWindows :
    (live.hostOk = true ∧ live.postedFull = false ∧ 3 < 4 ∧ 15 < 16 ∧ 1023 < 1024 ∧ eventOk 3 1023 = false ∧ eventOk 3 0 = true ∧ filterOk 0 0 = true) ∧
    live.rd .ctrBwEnable [] = 0 ∧
    (let s := up [(.ctrBwEnable, [], 1)] live
     s.power = 1 ∧ s.rd .ctrBwEnable [] = 1 ∧ { s with aoNow := s.rd .ctrWindowTicks [] - 1 }.bwEnds = true ∧
       { s with aoNow := 0 }.bwEnds = false) := by decide +kernel

theorem wit_SupplyAndDroops :
    ({ live with duty := 4 }.power = 1 ∧ live.colls = [] ∧ 4 ≤ 4 ∧ 4 ≤ 16 ∧ live.powerLog.length ≤ 10) ∧
    (let s := { live with duty := 16, powerLog := List.replicate 10 (12000, 60000) }
     s.power = 1 ∧ 16 ≤ s.duty ∧ s.powerLog.length ≤ 10 ∧ s.rd .pwrPowerLimitW [] < average (s.powerLog.map (fun p => p.2))) ∧
    ((79 < 80 ∨ 79 = 255) ∧ (255 < 80 ∨ 255 = 255)) ∧ live.power ≠ 0 := by decide +kernel

theorem wit_JunctionTemperatureAndTrips :
    let s := up [(.pwrDieThrottled, [], 15), (.dieDieTempMax, [3], 255)] live
    s.power = 1 ∧ s.colls = [] ∧ 3 < 4 ∧ 255 < 256 ∧ s.rd .pwrDieThrottled [] < 16 ∧ s.rd .dieDieTempMax [3] < 256 ∧ 114 < 115 ∧ 115 ≤ 115 := by
  decide +kernel

theorem wit_DomainGating :
    let s := up [(.pwrAutoGate, [], 1), (.domDstate, [47], 2), (.domDstate, [75], 2), (.domDstate, [48], 1)] live
    (s.power = 1 ∧ 47 < 48 ∧ s.rd .pwrAutoGate [] = 1 ∧ s.quadIdle 47 = true) ∧
    (19 < 20 ∧ s.rd .domDstate [56 + 19] = 2 ∧ s.engineBusy 19 = false ∧ s.tests = [] ∧ s.descs = [] ∧ s.retries = []) ∧
    (79 < 80 ∧ s.rd .domDstate [48] = 1 ∧ s.rd .domDstate [79] ≠ 1) ∧
    let n := up [(.pwrAutoGate, [], 0)] live
    n.power = 1 ∧ n.rd .pwrAutoGate [] = 0 ∧ settledB s = true := by decide +kernel

/-- What a start-up finds when nothing fails. -/
def sound : BootReport := { areaA := true, areaB := true, failing := [], error := 0, fails := [], identity := true }

theorem wit_ColdAndWarmResets :
    (live.power = 1 ∧ live.perst = false ∧ sound.fails = [] ∧ ∀ u, u < 96 → live.rd .unitHstate [u] = 0) ∧
    ∀ p, p ≠ 1 → { live with power := p }.power ≠ 1 ∧ { live with power := p }.perst = false := by
  refine ⟨⟨rfl, rfl, rfl, by decide +kernel⟩, fun p h => ⟨h, rfl⟩⟩

theorem wit_LinkKeptResets :
    live.linked = true ∧ (Quiet live wide ∧ live.step = none ∧ live.rd .stState [] = 0) ∧
    ({ live with resetting := some 2 }.power = 1 ∧ { live with resetting := some 2 }.resetting.isSome = true) ∧
    { live with resetting := some 3, pcieUp := false }.resetting.isSome = true :=
  ⟨by decide +kernel, ⟨quiet_live, by decide +kernel⟩, by decide +kernel, by decide +kernel⟩

/-! Statements about the management port. -/

theorem wit_CommandsNeedAuthentication :
    live.power ≠ 0 ∧ live.rd .mgmtPortUp [] ≠ 1 ∧
    (managed.rd .mgmtPortUp [] = 1 ∧ managed.messageOk strange 0x42 (leBytes 2 95) = false) ∧
    (managed.messageOk (signed managed 0x42 0 (leBytes 2 95)) 0x42 (leBytes 2 95) = true ∧ 0 ≤ managed.rd .mgmtLastCmdSeq []) ∧
    (managed.messageOk (signed managed 0x49 0 (leBytes 4 1)) 0x49 (leBytes 4 1) = true) ∧
    managed.messageOk (signed managed 0x4A 0 (slice (zeros 32) 0 32)) 0x4A (slice (zeros 32) 0 32) = true :=
  ⟨by decide +kernel, by decide +kernel, ⟨by decide +kernel, strange_not_ok ..⟩, ⟨signed_ok _ _ _ _ (by decide +kernel), by decide +kernel⟩,
   signed_ok _ _ _ _ (by decide +kernel), signed_ok _ _ _ _ (by decide +kernel)⟩

/-- managed with channel 639 on the flash list, and with BOOT_ERROR 1. -/
def listed : State := { managed with flashMap := [639] }
def recovering : State := up [(.devBootError, [], 1)] managed

theorem wit_AcceptedCommandsAct : 2 ^ 64 - 1 < 2 ^ 64 ∧
    (Accepts managed (signed managed 0x47 (2 ^ 64 - 1) (leBytes 2 639)) 0x47 (leBytes 2 639) ∧ 639 < 640 ∧ managed.rd .hbmState [639] = 0) ∧
    (Accepts listed (signed listed 0x48 1 (leBytes 2 639)) 0x48 (leBytes 2 639) ∧ listed.flashMap.contains 639 = true) ∧
    (Accepts managed (signed managed 0x49 1 (leBytes 4 0)) 0x49 (leBytes 4 0) ∧ 0 < 2 ^ 32 ∧ managed.rd .mgmtSvnMin [] ≤ 0 ∧
      0 ≤ managed.running.svn) ∧
    (Accepts managed (signed managed 0x49 1 (leBytes 4 (2 ^ 32 - 1))) 0x49 (leBytes 4 (2 ^ 32 - 1)) ∧ managed.running.svn < 2 ^ 32 - 1) ∧
    ((zeros 32).length = 32 ∧ Accepts managed (signed managed 0x4A 1 (zeros 32)) 0x4A (zeros 32)) ∧
    (let o := 28 * 1048576 - 4
     let b := leBytes 4 o ++ zeros 4 ++ zeros 4
     recovering.power ≠ 0 ∧ recovering.rd .mgmtPortUp [] = 1 ∧ recovering.messageOk (signed recovering 0x4B 1 b) 0x4B b = true ∧
       recovering.rd .mgmtLastCmdSeq [] < 1 ∧ recovering.rd .devBootError [] = 1 ∧ o ≠ 0xFFFFFFFF ∧
       o + (zeros 4).length ≤ 28 * 1048576) ∧
    Accepts managed (signed managed 0x40 1 []) 0x40 [] := by
  have m : ∀ (s : State), s.rd .mgmtKeyState [] = 1 → s.power ≠ 0 → s.rd .mgmtPortUp [] = 1 → s.rd .mgmtLastCmdSeq [] = 0 →
      s.rd .devBootError [] ≠ 1 → ∀ type seq body, 0 < seq → Accepts s (signed s type seq body) type body :=
    fun s a b c d e type seq body h => managed_accepts s type seq body a b c (d.symm ▸ h) e
  have a := m managed (by decide +kernel) (by decide +kernel) (by decide +kernel) (by decide +kernel) (by decide +kernel)
  have l := m listed (by decide +kernel) (by decide +kernel) (by decide +kernel) (by decide +kernel) (by decide +kernel)
  refine ⟨by decide, ⟨a _ _ _ (by decide), by decide +kernel⟩, ⟨l _ _ _ (by decide), by decide +kernel⟩,
    ⟨a _ _ _ (by decide), by decide +kernel⟩, ⟨a _ _ _ (by decide), by decide +kernel⟩, ⟨by decide +kernel, a _ _ _ (by decide)⟩,
    ⟨by decide +kernel, by decide +kernel, signed_ok _ _ _ _ (by decide +kernel), by decide +kernel⟩, a _ _ _ (by decide)⟩

theorem wit_ManagementResets :
    (Accepts managed (signed managed 0x44 1 []) 0x44 [] ∧ 1 < 2 ^ 64 ∧ managed.thermtrip = false) ∧
    let s := { managed with power := 2, thermtrip := true }
    Accepts s (signed s 0x44 1 []) 0x44 [] ∧ s.thermtrip = true := by
  refine ⟨⟨managed_accepts _ _ _ _ ?_ ?_ ?_ ?_ ?_, ?_⟩, managed_accepts _ _ _ _ ?_ ?_ ?_ ?_ ?_, ?_⟩ <;> decide +kernel

theorem wit_ReportsUntilAcknowledged :
    (managed.power ≠ 0 ∧ managed.rd .mgmtPortUp [] = 1 ∧ managed.messageOk (signed managed 0x80 7 []) 0x80 [] = true) ∧
    live.rd .mgmtKeyState [] = 0 ∧
    let s := { managed with reports := List.replicate 255 (1, []) }
    s.rd .mgmtKeyState [] ≠ 0 ∧ s.reports.length < 256 := by
  refine ⟨⟨by decide +kernel, by decide +kernel, signed_ok _ _ _ _ (by decide +kernel)⟩, by decide +kernel, by decide +kernel⟩

theorem wit_KeyAndAddressWrites : live.hostOk = true ∧ live.postedFull = false ∧ 6 < 7 ∧ 2 ^ 32 - 1 < 2 ^ 32 ∧ live.rd .mgmtKeyState [] = 0 ∧
    managed.hostOk = true ∧ managed.postedFull = false ∧ managed.rd .mgmtKeyState [] ≠ 0 ∧ 0 < 2 ^ (mgmtReg .collectorPort).width ∧
    65535 < 2 ^ (mgmtReg .mgmtPort).width ∧ 2 ^ 128 - 1 < 2 ^ (mgmtReg .deviceAddr).width ∧
    2 ^ 128 - 1 < 2 ^ (mgmtReg .collectorAddr).width := by decide +kernel

/-! Statements about packets. -/

/-- live with a packet of ring 3 waiting and one running, and ring 3 with a tail of 2^32 − 1. -/
def mixed : State :=
  up [(.ringEnable, [3], 1), (.ringRingTail, [3], 2 ^ 32 - 1)]
    { live with nextId := 2, flight := [packet .nop .waiting, { packet (.copy 0 0 3 1) .running with pid := 1 }] }

theorem wit_NopRegWriteAndRingReset :
    Quiet live wide ∧ (0x100001 % 4 ≠ 0 ∨ 0x100001 < 0x100000) ∧ (0xFFFFC % 4 ≠ 0 ∨ 0xFFFFC < 0x100000) ∧
    (255 < 256 ∧ 0x7F7FFFFF < 2 ^ 32 ∧ Reg.monThrHi.rule.ok 0x7F7FFFFF = true) ∧
    (Quiet mixed wide ∧ 3 < 16 ∧ 3 ≠ wide.ring ∧ mixed.rd .ringRingState [3] ≠ 3) ∧
    mixed.hostOk = true ∧ mixed.postedFull = false ∧
    let s := up [(.ringRingState, [15], 3)] live
    s.power = 1 ∧ 15 < 16 ∧ s.step = none ∧ s.rd .ringRingState [15] = 3 ∧ Settled s ∧ (∀ p ∈ s.flight, p.ring ≠ 15) ∧ s.lateOf 15 = none ∧
      s.rd .ringRingTail [15] < 2 ^ 32 :=
  ⟨quiet_live, by decide +kernel, by decide +kernel, by decide +kernel,
   ⟨quiet_of _ _ (by decide +kernel), by decide +kernel⟩, by decide +kernel,
   by decide +kernel, by decide +kernel, by decide +kernel, by decide +kernel, by decide +kernel, settled_of _ (by decide +kernel), by decide +kernel,
   by decide +kernel, by decide +kernel⟩

/-- live with a COPY of 8 bytes from host memory running, and its read outstanding. -/
def fetching : State :=
  { live with nextId := 9, flight := [packet (.copy 0 64 8 1) .running]
              hostReads := [{ rid := 8, addr := 64, len := 8, what := .packet 0 }] }

theorem wit_CopiesAndFills :
    let e := (Region.stack 0).base
    let top := live.regionSize .device
    Quiet live wide ∧ live.pcieUp = true ∧ live.rd .arbFreeze [36] = 0 ∧
    (0 < 1 ∧ 1 ≤ 2 ^ 40 ∧ (0 : Nat).testBit 0 = false ∧ (0 : Nat).testBit 1 = false ∧ overlaps 1 0 1 = false ∧
      live.rangeRefusal [(1, 1), (0, 1)] = none ∧ live.badBolts 0 1 = [] ∧ live.badBolts 1 1 = []) ∧
    ((0 : Nat) = 0 ∨ 2 ^ 40 < 0) ∧ (2 ^ 40 + 1 = 0 ∨ 2 ^ 40 < 2 ^ 40 + 1) ∧
    ((0 : Nat).testBit 0 = false ∧ (0 : Nat).testBit 1 = false ∧ overlaps 7 0 8 = true) ∧
    (0 < 8 ∧ (2 : Nat).testBit 0 = false ∧ (2 : Nat).testBit 1 = true ∧ live.rangeRefusal [(top - 8, 8)] = none ∧
      live.badBolts (top - 8) 8 = []) ∧
    ((1 : Nat).testBit 0 = true ∧ (1 : Nat).testBit 1 = false ∧ live.rangeRefusal [(e, 8)] = none) ∧
    (e % 8 = 0 ∧ 8 % 8 = 0 ∧ 8 ≤ 8 ∧ 8 ≤ 2 ^ 40 ∧ live.rangeRefusal [(e, 8)] = none ∧ live.badBolts e 8 = []) ∧
    ((top - 8) % 8 = 0 ∧ 16 % 8 = 0 ∧ live.rangeRefusal [(top - 8, 16)] = some .limitExceeded) :=
  ⟨quiet_live, by decide +kernel⟩

theorem wit_CopiesAndFills_reads : let p := packet (.copy 0 64 8 1) .running
    let r : HostRead := { rid := 8, addr := 64, len := 8, what := .packet 0 }
    fetching.power = 1 ∧ fetching.pcieUp = true ∧ fetching.hostReads.find? (fun x => x.rid == r.rid) = some r ∧
      r.what = .packet p.pid ∧ fetching.packet p.pid = some p ∧ p.phase = .running ∧ p.op = .copy 0 64 8 1 ∧
      (1 : Nat).testBit 1 = false ∧ r.len = 8 ∧ (zeros 8).length = 8 ∧ fetching.badBolts 0 8 = [] ∧ 2 ≤ 4 ∧ 4 ≤ 4 := by
  decide +kernel

/-- live with the engine of stack 19 ON. -/
def awake : State := up [(.domDstate, [75], 2)] live

theorem wit_DigestsSnapshotsAndSampling :
    let e := (Region.stack 19).base
    Quiet live wide ∧ Quiet awake wide ∧
    (awake.stackLocal e 64 = some 19 ∧ (awake.digestCores 19 = true ∨ awake.rd .domDstate [56 + 19] = 2) ∧
      awake.rangeRefusal [(e, 64), (64, 32)] = none ∧ awake.badBolts e 64 = [] ∧
      awake.badBolts 64 (rangeDigest (awake.mem.read e 64)).length = []) ∧
    (live.digestCores 19 = false ∧ live.rd .domDstate [56 + 19] = 0) ∧
    (live.stackLocal e 64 = some 19 ∧ 0 < 64 ∧ 64 % 64 = 0 ∧ live.rangeRefusal [(e, 64), (64, 32)] = none ∧
      live.badBolts e 64 = [] ∧ live.badBolts 64 (rangeDigest (live.mem.read e 64)).length = []) ∧
    live.stackLocal 0 64 = none ∧
    (1024 % 1024 = 0 ∧ live.rangeRefusal [(1024, 1024)] = none ∧ live.badBolts 1024 1024 = []) ∧
    (1 ≤ 1 ∧ 20 ≤ 20) ∧ (1 < 2 ∨ 20 < 20) ∧ (1 < 1 ∨ 20 < 21) :=
  ⟨quiet_live, quiet_of _ _ (by decide +kernel), by decide +kernel⟩

theorem wit_AttestationAndStaging :
    Quiet live wide ∧ live.identityKey = true ∧
    (live.inRegion 0 (192 * 1024) = true ∧ live.unavailIn 0 (192 * 1024) = false ∧ ∀ n, live.badBolts 0 n = []) ∧
    (let s := { live with identityKey := false }
     Quiet s wide ∧ s.identityKey = false) ∧
    (live.rangeRefusal [(0, (live.attLog.flatten.take (2 ^ 32 - 1)).length)] = none ∧
      live.badBolts 0 (live.attLog.flatten.take (2 ^ 32 - 1)).length = []) ∧
    64 * 1048576 ≤ 64 * 1048576 ∧ live.rangeRefusal [(0, 64 * 1048576)] = none ∧ live.badBolts 0 (64 * 1048576) = [] :=
  ⟨quiet_live, by decide +kernel,
   ⟨by decide +kernel, by decide +kernel, fun n => clean_of live (by decide +kernel) 0 n⟩,
   ⟨quiet_of _ _ (by decide +kernel), by decide +kernel⟩,
   ⟨by decide +kernel, clean_of live (by decide +kernel) _ _⟩, by decide +kernel, by decide +kernel, clean_of live (by decide +kernel) _ _⟩

theorem wit_PartitionsAndRebuilds :
    let s := { live with partitions := [(3, 15, 1)] }
    (Quiet live wide ∧ 3 ≤ 3 ∧ 1 ≤ 16 ∧ 16 ≤ 16 ∧ live.freeRun 3 16 = some 0) ∧
    (Quiet s wide ∧ s.freeRun 3 16 = none ∧ 16 < 17) ∧
    (s.partitions.find? (fun p => p.1 == 3 && p.2.1 == 15) = some (3, 15, 1) ∧ s.colls = [] ∧ s.channelUp 3 = true ∧
      ∀ p ∈ s.flight, p.phase ≠ .running) ∧ ((0 : Nat) = 0 ∨ 3 < 0) ∧
    live.partitions.find? (fun p => p.1 == 3 && p.2.1 == 15) = none ∧
    (live.rebuildRefusal = none ∧ ∀ p ∈ live.flight, p.isWaiting = true) ∧
    Quiet stepping wide ∧ stepping.stepOpen = true :=
  ⟨⟨quiet_live, by decide +kernel⟩, ⟨quiet_of _ _ (by decide +kernel), by decide +kernel⟩, by decide +kernel,
   by decide +kernel, by decide +kernel, by decide +kernel, quiet_of _ _ (by decide +kernel), by decide +kernel⟩

/-- live with the group table at 0x100000, its group 4095 valid but with a reserved field set. -/
def badTable : State :=
  up [(.seGroupTableBase, [], 0x100000)] { live with mem := live.mem.write (0x100000 + 256 * 4095) (leBytes 4 (2 ^ 31 + 2 ^ 25)) }

/-- live with variant 4095 bound to sequence slot 63, which has 254 references. -/
def bound : State :=
  up [(.slotValid, [63], 1), (.slotVariant, [63], 4095), (.slotRefs, [63], 254)] live

/-- live with slot 0 in use, and the variant table at 0x200000 with a list of one entry for variant 4095. -/
def bindable : State :=
  up [(.seVariantTableBase, [], 0x200000), (.slotValid, [0], 1)]
    { live with mem := live.mem.write (0x200000 + 64 * 4095) (leBytes 4 (2 ^ 31 + 1) ++ zeros 4 ++ leBytes 8 0x300000) }

theorem wit_GroupTableAndVariants :
    (let s := up [(.seGroupTableBase, [], 0x100000)] live
     Quiet s wide ∧ s.stepOpen = false ∧ s.inRegion (s.rd .seGroupTableBase []) 1048576 = true ∧ (∀ a n, s.badBolts a n = []) ∧
       (∀ r ∈ groupRanges (s.rd .seGroupTableBase []) (s.rd .seHyperBase []) (s.readTable.map (fun g => g.1)),
         s.unavailIn r.1 r.2 = false) ∧
       ∀ g ∈ s.readTable, g.2 = 0) ∧
    (Quiet badTable wide ∧ badTable.stepOpen = false ∧ badTable.inRegion (badTable.rd .seGroupTableBase []) 1048576 = true ∧
      (∀ a n, badTable.badBolts a n = []) ∧
      (∀ r ∈ groupRanges (badTable.rd .seGroupTableBase []) (badTable.rd .seHyperBase []) (badTable.readTable.map (fun g => g.1)),
        badTable.unavailIn r.1 r.2 = false) ∧ (badTable.readTable.find? (fun g => g.2 != 0)).isSome = true) ∧
    (Quiet bound wide ∧ 4095 < 4096 ∧ bound.boundSlot 4095 = some 63 ∧ bound.rd .slotRefs [63] < 255) ∧
    (Quiet bindable wide ∧ bindable.boundSlot 4095 = none ∧
      (List.range 64).find? (fun k => !bindable.flag .slotValid [k]) = some 1 ∧
      (bindable.readVariant (bindable.variantAddr 4095)).toOption = some [0]) ∧
    (bound.rd .slotRefs [63] ≠ 0 ∧ 63 < 64 ∧ live.rd .slotRefs [63] = 0) ∧
    (up [(.slotValid, [63], 1)] live).power = 1 ∧ ∀ p ∈ live.flight, p.phase ≠ .running :=
  ⟨⟨quiet_of _ _ (by decide +kernel), by decide +kernel, by decide +kernel, fun a n => clean_of _ (by decide +kernel) a n, by decide +kernel,
    by decide +kernel⟩,
   ⟨quiet_of _ _ (by decide +kernel), by decide +kernel, by decide +kernel, fun a n => clean_of _ (by decide +kernel) a n, by decide +kernel,
    by decide +kernel⟩,
   ⟨quiet_of _ _ (by decide +kernel), by decide +kernel⟩,
   ⟨quiet_of _ _ (by decide +kernel), by decide +kernel, by decide +kernel, by decide +kernel⟩, by decide +kernel, by decide +kernel⟩

/-- The descriptor of an FP32 tensor of one batch, rows packed. -/
def wideDesc (base rows cols : Nat) : TDesc :=
  { base := base, rows := rows, cols := cols, batch := 1, stride := 0, rotSize := 0, jibMode := 0, traffic := 0, geometry := 3
    format := 9, gscale := f32One, tag := 7, telltale := 0, layer := 0, rowPitch := 4 * cols, jibBudget := 0, jibBase := 0
    jibThreshold := 0#32, jibCapacity := 0, reservedSet := false }

/-- The descriptor of an FP8 tensor of one batch in bolts. -/
def boltDesc (base rows cols : Nat) : TDesc := { wideDesc base rows cols with geometry := 0, format := 0x12, rowPitch := 0 }

/-- live with tensor descriptors in memory: two of 4 by 32 and two of 1 by 32 in FP32, a 16 by 16 output and two 16 by 32
operands on stack 0, and a one-word update program. -/
def tensors : State :=
  { live with
    mem :=
      [(0x102, 0x01), (0x108, 0x04), (0x10C, 0x20), (0x110, 0x01), (0x118, 0x09), (0x119, 0x03), (0x11E, 0x80),
       (0x11F, 0x3F), (0x120, 0x07), (0x128, 0x80)] ++
      [(0x141, 0x10), (0x142, 0x01), (0x148, 0x04), (0x14C, 0x20), (0x150, 0x01), (0x158, 0x09), (0x159, 0x03),
       (0x15E, 0x80), (0x15F, 0x3F), (0x160, 0x07), (0x168, 0x80)] ++
      [(0x402, 0x02), (0x408, 0x01), (0x40C, 0x20), (0x410, 0x01), (0x418, 0x09), (0x419, 0x03), (0x41E, 0x80),
       (0x41F, 0x3F), (0x420, 0x07), (0x428, 0x80)] ++
      [(0x441, 0x10), (0x442, 0x02), (0x448, 0x01), (0x44C, 0x20), (0x450, 0x01), (0x458, 0x09), (0x459, 0x03),
       (0x45E, 0x80), (0x45F, 0x3F), (0x460, 0x07), (0x468, 0x80)] ++
      [(0x481, 0x20), (0x482, 0x02), (0x488, 0x10), (0x48C, 0x10), (0x490, 0x01), (0x498, 0x09), (0x499, 0x03),
       (0x49E, 0x80), (0x49F, 0x3F), (0x4A0, 0x07), (0x4A8, 0x40)] ++
      [(0x505, 0x04), (0x508, 0x10), (0x50C, 0x20), (0x510, 0x01), (0x518, 0x12), (0x51E, 0x80), (0x51F, 0x3F),
       (0x520, 0x07)] ++
      [(0x541, 0x10), (0x545, 0x04), (0x548, 0x10), (0x54C, 0x20), (0x550, 0x01), (0x558, 0x12), (0x55E, 0x80),
       (0x55F, 0x3F), (0x560, 0x07)] ++
      [(0x40002, 0x01), (0x40003, 0x10)] }

/-- What Launchable says, as a computation. -/
def launchableB (s : State) (p : Packet) : Bool :=
  gscalesAgree p.segments && (rawReads p.op p.descs ++ rawWrites p.op p.descs).all (fun r => s.inRegion r.1 r.2) &&
    !s.computeBlocked p &&
    (s.ue.isEmpty && (List.range 4).all (fun c => s.rd .llsLostCount [c] == 0 && !s.flag .llsLostOverflow [c])) &&
    (match p.op with
     | .vprog a _ _ _ => programOk (programAt s.mem a)
     | .xent _ a _ _ _ => (List.range (rowsOf (p.descs.getD 0 default))).all
         (fun k => decide (targetAt s.mem a k < (p.descs.getD 0 default).cols))
     | _ => true) &&
    (p.outDesc.jibMode != 1 || jibTableOk p.outDesc (s.mem.read p.outDesc.jibBase 512))

theorem launchable_of (s : State) (p : Packet) (h : launchableB s p = true) : Launchable s p := by
  simp only [launchableB, Bool.and_eq_true] at h
  obtain ⟨⟨⟨⟨⟨a, b⟩, c⟩, d⟩, e⟩, f⟩ := h
  have clean := clean_of s (by rw [Bool.and_eq_true]; exact d)
  refine ⟨a, fun r hr => List.all_eq_true.mp b r hr, by simpa using c, fun r _ => clean .., ?_, ?_, ?_⟩
  · intro a c o l ho
    rw [ho] at e
    exact e
  · intro i a l m g ho k hk
    rw [ho] at e
    simp only [List.all_eq_true, List.mem_range, decide_eq_true_eq] at e
    exact e k hk
  · intro _ hj
    refine ⟨clean .., ?_⟩
    rw [hj] at f
    simpa using f

/-- A launch is judged by its operation, its descriptors and their scales alone. -/
theorem launchable_packet (s : State) (p : Packet)
    (h : Launchable s { packet p.op .waiting with descs := p.descs, scales := p.scales }) : Launchable s p :=
  ⟨h.scales, h.region, h.units, h.errors, h.program, h.targets, h.table⟩

/-- An operation whose references resolve to descriptors that pass the checks is launchable as any packet of it. -/
theorem launches (op : Op) (ds : List TDesc)
    (h : launchableB tensors { packet op .waiting with descs := ds, scales := ds.map (tensors.boundScale (tensors.fetchesAttempt 15)) } =
      true) (p : Packet) (hp : PacketOf tensors wide op (ds, []) p) : Launchable tensors p := by
  refine launchable_packet _ _ (launchable_of _ _ ?_)
  rw [hp.op, hp.descs, hp.scales]
  exact h

theorem quiet_tensors : Quiet tensors wide := quiet_of _ _ (by decide +kernel)

/-- What the first hypothesis of a launch says, and the second. -/
def resolves (op : Op) (ds : List TDesc) : Bool :=
  (match tensors.readDescs op (opRefs op).zipIdx with | .ok v => v == (ds, []) | .error _ => false) &&
    launchCheck op ds == none

theorem resolves_iff (op : Op) (ds : List TDesc) (h : resolves op ds = true) :
    tensors.readDescs op (opRefs op).zipIdx = .ok (ds, []) ∧ launchCheck op ds = none := by
  simp only [resolves, Bool.and_eq_true, beq_iff_eq] at h
  refine ⟨?_, h.2⟩
  have h1 := h.1
  split at h1
  · rename_i v hv
    rw [hv]
    exact congrArg _ (by simpa using h1)
  · exact absurd h1 (by decide)

/-- The hypotheses of one launch of LaunchesPlaceTheirDescriptors. -/
def LaunchMet (op : Op) (ds : List TDesc) : Prop :=
  Quiet tensors wide ∧ (tensors.readDescs op (opRefs op).zipIdx = .ok (ds, []) ∧ launchCheck op ds = none) ∧
    ∀ p, PacketOf tensors wide op (ds, []) p → Launchable tensors p

theorem wit_LaunchesPlaceTheirDescriptors :
    let a := wideDesc 0x10000 4 32
    let b := wideDesc 0x11000 4 32
    let g := wideDesc 0x20000 1 32
    let o := wideDesc 0x22000 16 16
    let x := boltDesc 0x040000000000 16 32
    let y := boltDesc 0x040000001000 16 32
    LaunchMet (.softmax 0x100 0x140) [a, b] ∧ LaunchMet (.rmsnorm 0x100 0x140 0x400 0x3F800000) [a, b, g] ∧
    LaunchMet (.layernorm 0x100 0x140 0x400 0x440 0x3F800000) [a, b, g, wideDesc 0x21000 1 32] ∧
    LaunchMet (.xent 0x100 0x30000 0x31000 0x32000 0x140) [a, b] ∧
    LaunchMet (.vprog 0x40000 0x41000 0x100 [0x140, 0, 0, 0]) [a, b, default, default, default] ∧
    LaunchMet (.product 0x480 0 0 [⟨0x500, 0x540, false, false⟩]) [o, x, y] := by
  refine ⟨⟨quiet_tensors, resolves_iff _ _ ?_, launches _ _ ?_⟩, ⟨quiet_tensors, resolves_iff _ _ ?_, launches _ _ ?_⟩,
    ⟨quiet_tensors, resolves_iff _ _ ?_, launches _ _ ?_⟩, ⟨quiet_tensors, resolves_iff _ _ ?_, launches _ _ ?_⟩,
    ⟨quiet_tensors, resolves_iff _ _ ?_, launches _ _ ?_⟩, ⟨quiet_tensors, resolves_iff _ _ ?_, launches _ _ ?_⟩⟩ <;> decide +kernel

/-- A MATVEC of one part, and a SOFTMAX whose output has other dimensions. -/
theorem wit_LaunchesPlaceTheirDescriptors_other :
    LaunchMet (.matvec 0x480 [(0x500, 0x540)]) [wideDesc 0x22000 16 16, boltDesc 0x040000000000 16 32, boltDesc 0x040000001000 16 32] ∧
    (tensors.readDescs (.softmax 0x100 0x400) (opRefs (.softmax 0x100 0x400)).zipIdx).toOption =
      some ([wideDesc 0x10000 4 32, wideDesc 0x20000 1 32], []) ∧
    launchCheck (.softmax 0x100 0x400) [wideDesc 0x10000 4 32, wideDesc 0x20000 1 32] = some .badParam := by
  refine ⟨⟨quiet_tensors, resolves_iff _ _ ?_, launches _ _ ?_⟩, ?_⟩ <;> decide +kernel

/-! Statements about steps, roles and unit tests. -/

/-- live with steps enabled, and nothing that R149 refuses. -/
def enabled : State :=
  up [(.stEnable, [], 1), (.stStateBase, [], (Region.stack 0).base), (.stSlots, [], 1), (.seHyperBase, [], 0x200000)] live

/-- live with a step that closes, CMD_FAULT raised. -/
def closing : State :=
  up [(.stState, [], 2), (.stCurrentStep, [], 2 ^ 64 - 1)] { live with step := some { (default : StepSt) with ring := 15, reasons := 1 } }

theorem wit_StepsOpenAndClose :
    (Quiet enabled wide ∧ enabled.step = none ∧ wide.waits.all (fun w => !w.rel) = true ∧ enabled.rd .grpPrepared [] = 0 ∧
      enabled.stepRefusal (2 ^ 64 - 2) 0 false true = none) ∧
    (live.step = none ∧ live.rd .grpPrepared [] = 0 ∧ live.stepRefusal 0 0 false false = some (.notEnabled, [])) ∧
    (let q : StepSt := { (default : StepSt) with ring := 15 }
     Quiet stepping plain ∧ stepping.step = some q ∧ stepping.fetchesAttempt plain.ring = true ∧ plain.waits = [] ∧
       (2 ^ 48 - 4) % 4 = 0 ∧ (2 ^ 48 - 1) % 4 ≠ 0) ∧
    (live.rd .stState [] ≠ 2 ∨ live.attemptPending = true ∨ live.rewrites ≠ [] ∨ live.step = none) ∧
    (let q : StepSt := { (default : StepSt) with ring := 15, reasons := 1 }
     closing.power = 1 ∧ Settled closing ∧ closing.rd .stState [] = 2 ∧ closing.attemptPending = false ∧ closing.rewrites = [] ∧
       closing.step = some q ∧ q.verdict = none ∧ q.resetWaits = false ∧ closing.closeHeld = false ∧ q.group = false ∧ q.lossAddr = 0 ∧
       (q.reasons.testBit 0 = true ∨ q.reasons.testBit 1 = true)) :=
  ⟨⟨quiet_of _ _ (by decide +kernel), by decide +kernel⟩, by decide +kernel,
   ⟨quiet_of _ _ (by decide +kernel), by decide +kernel⟩, by decide +kernel,
   ⟨by decide +kernel, settled_of _ (by decide +kernel), by decide +kernel⟩⟩

/-- live in a group whose TERM is the highest, and with a join of packet 0 that has waited since tick 0. -/
def grouped : State := up [(.grpGroupEnable, [], 1), (.grpTerm, [], 2 ^ 32 - 1)] live
def joining : State :=
  { grouped with nextId := 1, flight := [packet .groupJoin .running], joins := [{ asker := .packet 0, since := 0 }] }

/-- A group message from node 16,382 under the TERM of grouped. -/
def gh : GroupHeader := { src := 16382, term := 2 ^ 32 - 1, epoch := 2 ^ 64 - 1 }

theorem wit_RolesJoinsAndLeaves :
    (Quiet live wide ∧ 0x3FFF ≤ 0x3FFF ∧ ¬(live.rd .grpGroupEnable [] = 1 ∨ live.stepOpen = true)) ∧
    (Quiet grouped wide ∧ grouped.rd .grpGroupEnable [] = 1 ∧ grouped.stepOpen = false ∧ grouped.leaveBlocked = false) ∧
    (let b := roleBody 2 0x3FFF 0x3FFF 0x3FFF 0x3FFF 0x3FFF 0x3FFF
     Accepts managed (signed managed 0x45 1 b) 0x45 b ∧ managed.rd .grpGroupEnable [] = 0 ∧ managed.stepOpen = false ∧ 2 ≤ 2) ∧
    (live.stepOpen = false ∧ HostTakes live ∧ live.rd .grpGroupEnable [] = 0) ∧
    (∀ a, Accepts managed (signed managed 0x46 1 (leBytes 1 a)) 0x46 (leBytes 1 a)) ∧
    (let p := packet .groupJoin .running
     Heard joining gh ∧ joining.packet p.pid = some p ∧ p.isEnded = false ∧ joining.joins = [{ asker := .packet p.pid, since := 0 }] ∧
       joining.power = 1) ∧
    HostTakes grouped := by
  have m : ∀ type body, Accepts managed (signed managed type 1 body) type body := fun type body =>
    managed_accepts _ _ _ _ (by decide +kernel) (by decide +kernel) (by decide +kernel) (by decide +kernel) (by decide +kernel)
  exact ⟨⟨quiet_live, by decide +kernel⟩, ⟨quiet_of _ _ (by decide +kernel), by decide +kernel⟩, ⟨m _ _, by decide +kernel⟩,
    ⟨by decide +kernel, live_takes, by decide +kernel⟩, fun a => m _ _,
    ⟨⟨by decide +kernel, by decide +kernel, by decide +kernel⟩, by decide +kernel⟩, takes _ (by decide +kernel) (by decide +kernel)⟩

/-- A test of a unit that fell due at tick 0. -/
def testAt (u : Nat) (running : Bool) : TestSt :=
  { unit := u, due := 0, asker := .none, unfence := false, running := running, expired := false
    deferMs := 5, corners := 3, clean := 8, cut := false, logFrom := 0, corrected := 0, reportFrom := 0 }
def testing (u : Nat) (running : Bool) (now : Nat) : State :=
  up [(.domDstate, [47], 2)] { live with tests := [testAt u running], aoNow := now }

theorem wit_UnitTestsAreQueuedAndEnd :
    (Quiet live wide ∧ 2 ^ 40 - 1 < 2 ^ 40 ∧ live.bjRefusal ((List.range 40).map (fun b => 56 + b)) false = none) ∧
    (Quiet stepping wide ∧ stepping.bjRefusal [56] false = some .notEnabled) ∧
    ((55 < 56 ∨ 95 < 55) ∧ (96 < 56 ∨ 95 < 96) ∧ (up [(.unitHstate, [55], 2)] live).fenced 55 = true) ∧
    (let s := up [(.unitHstate, [95], 2)] live
     Quiet s wide ∧ ¬(95 < 95 ∨ s.fenced 95 = false) ∧ 56 ≤ 95 ∧ s.bjRefusal [95] true = none) ∧
    (let s := up [(.unitHstate, [95], 2)] stepping
     Quiet s wide ∧ ¬(95 < 95 ∨ s.fenced 95 = false) ∧ s.bjRefusal [95] true = some .notEnabled) ∧
    (∀ body, Accepts managed (signed managed 0x41 1 body) 0x41 body ∧ Accepts managed (signed managed 0x43 1 body) 0x43 body) ∧
    (let s := up [(.intTestEnable, [], 1)] live
     s.power = 1 ∧ 55 < 56 ∧ s.rd .intTestEnable [] = 1 ∧ s.fenced 55 = false) ∧
    (live.power = 1 ∧ live.testOf 47 = none) ∧
    (let s := testing 47 false (msTicks 5)
     s.power = 1 ∧ s.testOf 47 = some (testAt 47 false) ∧ (testAt 47 false).running = false ∧ 47 < 48 ∧ s.quadHeld 47 = true ∧
       (testAt 47 false).due + msTicks (testAt 47 false).deferMs ≤ s.aoNow ∧ s.slotReady (testAt 47 false) = true ∧
       (48 ≤ 47 ∨ s.aoNow ≤ (testAt 47 false).due + msTicks (testAt 47 false).deferMs + 500)) ∧
    (let s := testing 95 false 0
     95 < 96 ∧ s.testOf 95 = some (testAt 95 false) ∧ s.slotReady (testAt 95 false) = true ∧ (48 ≤ 95 ∨ False)) ∧
    (let s := testing 95 true 0
     s.testOf 95 = some (testAt 95 true) ∧ s.slotReady (testAt 95 true) = false) := by
  have m : ∀ type body, Accepts managed (signed managed type 1 body) type body := fun type body =>
    managed_accepts _ _ _ _ (by decide +kernel) (by decide +kernel) (by decide +kernel) (by decide +kernel) (by decide +kernel)
  exact ⟨⟨quiet_live, by decide +kernel⟩, ⟨quiet_of _ _ (by decide +kernel), by decide +kernel⟩, by decide +kernel,
    ⟨quiet_of _ _ (by decide +kernel), by decide +kernel⟩, ⟨quiet_of _ _ (by decide +kernel), by decide +kernel⟩, fun b => ⟨m _ _, m _ _⟩, by decide +kernel, by decide +kernel, by decide +kernel, by decide +kernel, by decide +kernel⟩

theorem wit_UnitTestsAreQueuedAndEnd_ends : ∀ u ∈ [47, 48, 55],
    let s := testing u true 0
    s.power = 1 ∧ Settled s ∧ u < 56 ∧ s.testOf u = some (testAt u true) ∧ (testAt u true).running = true ∧
      (testAt u true).unfence = false ∧ (testAt u true).asker = .none ∧ s.rd .unitHstate [u] = 0 ∧ (testAt u true).cut = false ∧
      s.slotErrors (testAt u true) = false ∧ ∀ p ∈ s.flight, p.phase ≠ .running := by
  intro u hu
  refine ⟨rfl, settled_of _ ?_, ?_⟩ <;> revert u <;> decide +kernel

theorem wit_FencesTakeUnitsOutOfService :
    (Quiet live wide ∧ (95 ≤ 95 ∨ 48 ≤ 95 ∧ 95 < 56 ∨ 95 = 94) ∧ (95 ≤ 94 ∨ 48 ≤ 94 ∧ 94 < 56 ∨ 94 = 94) ∧
      (95 ≤ 48 ∨ 48 ≤ 48 ∧ 48 < 56 ∨ 48 = 94)) ∧
    ((93 < 48 ∨ 56 ≤ 93 ∧ 93 < 94) ∧ live.fenced 93 = false ∧ (47 < 48 ∨ 56 ≤ 47 ∧ 47 < 94) ∧ live.fenced 47 = false ∧
      (∀ p ∈ live.flight, p.phase = .running → isCompute p.op = false) ∧ ∀ x ∈ live.tests, x.unit ≠ 93) ∧
    (let s := up [(.unitHstate, [93], 2)] live
     Quiet s wide ∧ s.fenced 93 = true) ∧
    ((∀ body, Accepts managed (signed managed 0x42 1 body) 0x42 body) ∧ 95 ≤ 95 ∧ 94 < 95 ∧ managed.fenced 94 = false ∧
      (∀ p ∈ managed.flight, p.phase = .running → isCompute p.op = false) ∧ ∀ x ∈ managed.tests, x.unit ≠ 94) ∧
    (let s := up [(.unitHstate, [94], 2)] managed
     ∀ body, Accepts s (signed s 0x42 1 body) 0x42 body ∧ s.fenced 94 = true) := by
  refine ⟨⟨quiet_live, by decide +kernel⟩, by decide +kernel, ⟨quiet_of _ _ (by decide +kernel), by decide +kernel⟩,
    ⟨fun body => managed_accepts _ _ _ _ ?_ ?_ ?_ ?_ ?_, by decide +kernel⟩,
    fun body => ⟨managed_accepts _ _ _ _ ?_ ?_ ?_ ?_ ?_, by decide +kernel⟩⟩ <;> decide +kernel

/-! Statements about fetching, reporting and descriptors. -/

/-- live with ring 15 in device memory at 0x1000, its first slot all zero. -/
def ringed : State := up [(.ringLoc, [15], 1), (.ringRingBase, [15], 0x1000)] live

/-- live with a packet in flight. -/
def flying (p : Packet) : State := { live with nextId := 1, flight := [p] }

theorem wit_PacketsAreFetchedStartedAndReported :
    (live.power = 1 ∧ live.unfetched 0 = 0) ∧
    (let s := up [(.ringEnable, [15], 0)] live
     s.canFetch 15 = false ∧ s.midFetch 15 = false) ∧
    (live.canFetch 15 = true ∧ live.unfetched 15 ≠ 0 ∧ live.midFetch 15 = false ∧ live.pcieUp = true ∧
      live.rd .arbFreeze [36] = 0 ∧ live.rd .ringLoc [15] = 0) ∧
    (let h := RawHeader.parse (ringed.mem.read (ringed.slotAddr 15 0) 64)
     Inv ringed ∧ ringed.canFetch 15 = true ∧ ringed.rd .ringLoc [15] = 1 ∧ ringed.unfetched 15 ≠ 0 ∧ ringed.midFetch 15 = false ∧ ringed.anyHeld = false ∧
       ringed.rd .ringRingFetched [15] = 0 ∧ (ringed.slotFault 15 [ringed.slotAddr 15 0]).isNone = true ∧ h.ok = false) ∧
    (let s := { ringed with mem := [(0x1002, 64)] }
     let h := RawHeader.parse (s.mem.read (s.slotAddr 15 0) 64)
     Inv s ∧ s.canFetch 15 = true ∧ s.midFetch 15 = false ∧ s.anyHeld = false ∧ h.ok = true ∧ h.length = 64 ∧ h.length ≤ s.unfetched 15 ∧
       (s.slotFault 15 ((List.range h.length).map (fun i => s.slotAddr 15 (0 + i)))).isNone = true) :=
  ⟨by decide +kernel, by decide +kernel, by decide +kernel, ⟨inv_of _ (by decide +kernel), by decide +kernel⟩,
   inv_of _ (by decide +kernel), by decide +kernel⟩

theorem wit_PacketsAreFetchedStartedAndReported_rest :
    (let p := { packet .nop .waiting with waits := [{ token := 65535, value := 1, rel := false }] }
     (flying p).power = 1 ∧ Settled (flying p) ∧ (flying p).packet p.pid = some p ∧ p.phase = .waiting ∧ p.inAttempt = false ∧
       (p.inAttempt = false ∨ (flying p).step = none) ∧ p.waits.all (flying p).waitMet = false) ∧
    (let p := { packet .nop .waiting with waits := [{ token := 65535, value := 1, rel := false }] }
     let s := { flying p with tokens := [(65535, 1)], tokFaulted := [(65535, true)] }
     Settled s ∧ s.packet p.pid = some p ∧ p.waits.all s.waitMet = true ∧ p.waits.any (fun w => s.tokenFaulted w.token) = true) ∧
    (let p := { packet .nop .waiting with inAttempt := true }
     let s := { flying p with step := some { (default : StepSt) with stopped := true } }
     Settled s ∧ s.packet p.pid = some p ∧ p.inAttempt = true ∧ (s.step.map (fun q => q.stopped)).getD false = true) ∧
    (let p := packet .nop .waiting
     Settled (flying p) ∧ p.op = .nop ∧ p.inAttempt = false ∧ p.again = false ∧ p.waits.all (flying p).waitMet = true ∧
       p.waits.any (fun w => (flying p).tokenFaulted w.token) = false) ∧
    (let p := { packet .nop (.ended .faultCheck 7 true) with ring := 15 }
     let s := flying p
     s.power = 1 ∧ s.pcieUp = true ∧ s.rd .arbFreeze [36] = 0 ∧ Settled s ∧ s.step = none ∧ s.colls = [] ∧ s.fetchHold = [] ∧ (Status.faultCheck.isFault = false ∨ p.coll = none) ∧ p.ring < 16 ∧ s.packet p.pid = some p ∧
       p.phase = .ended .faultCheck 7 true ∧ p.deferred = false ∧ s.retrying p.pid = false ∧ s.recordWaits p.ring = false ∧
       (up [(.ringStatusTail, [15], 64)] s).recordWaits p.ring = true) ∧
    (let p := { packet .nop (.ended .done 0 false) with deferred := true }
     let l := p.record .done 0 false 5
     let s := { flying p with lateRecords := [l] }
     Settled s ∧ s.packet p.pid = some p ∧ s.lateRecords.find? (fun q => q.pid == some p.pid) = some l ∧
       s.lateRecords.filter (fun q => q.ring == p.ring) = [l] ∧ s.statusFull p.ring = false ∧ s.lateReady l = true ∧
       (up [(.ringStatusTail, [p.ring], 64)] s).lateReady l = false) := by
  refine ⟨⟨?_, settled_of _ ?_, ?_⟩, ⟨settled_of _ ?_, ?_⟩, ⟨settled_of _ ?_, ?_⟩, ⟨settled_of _ ?_, ?_⟩, ⟨?_, ?_, ?_, settled_of _ ?_, ?_⟩,
    ⟨settled_of _ ?_, ?_⟩⟩ <;> decide +kernel

theorem wit_PacketsAreFetchedStartedAndReported_op (s : State) (a b : Nat) (c e : Bool) :
    (packet .nop (.ended .faultCheck 7 true)).op ≠ .stepBegin a b c e ∧ (packet .nop .waiting).op = .nop ∧ s = s :=
  ⟨fun h => Op.noConfusion h, rfl, rfl⟩

/-- A SOFTMAX of FP32 tensors that runs, with its descriptor queued; a product of one tile. -/
def softmaxing : Packet :=
  { packet (.softmax 0x100 0x140) .running with descs := [wideDesc 0x10000 4 32, wideDesc 0x11000 4 32], scales := [f32One, f32One] }
def product : Packet :=
  { packet (.product 0x480 0 0 [⟨0x500, 0x540, false, false⟩]) .running with
    descs := [wideDesc 0x22000 16 16, boltDesc 0x040000000000 16 32, boltDesc 0x040000001000 16 32]
    scales := [f32One, f32One, f32One] }

/-- live with the last quad and its uncore on, one packet, and one descriptor of it in a phase. -/
def issued (p : Packet) (k : DescKind) (ph : DescPhase) : State :=
  up [(.domDstate, [47], 2), (.domDstate, [51], 2)] { live with nextId := 9, flight := [p], descs := [{ Desc.fresh 5 0 3 0 3 k with phase := ph }] }

/-- Descriptor 5 of that state. -/
def tile (k : DescKind) (ph : DescPhase) : Desc := { Desc.fresh 5 0 3 0 3 k with phase := ph }

theorem wit_DescriptorsRunOnUnits :
    let u : ExecUnit := .cluster 191
    (live.power = 1 ∧ (live.unitFree u = false ∨ live.nextDesc u = none)) ∧
    (let s := issued softmaxing .vector .queued
     s.power = 1 ∧ s.unitFree u = true ∧ s.nextDesc u = some (tile .vector .queued) ∧ s.packet 0 = some softmaxing ∧
       softmaxing.phase = .running ∧ (∀ g ∈ softmaxing.readRanges s.mem .vector, s.badBolts g.1 g.2 = []) ∧
       ∀ r ∈ softmaxing.reads .vector, r.1.checks s.mem r.2 = []) ∧
    (let s := { issued softmaxing .vector .queued with ue := [0x10000] }
     s.unitFree u = true ∧ s.nextDesc u = some (tile .vector .queued) ∧
       ∃ g ∈ softmaxing.readRanges s.mem .vector, s.badBolts g.1 g.2 ≠ []) ∧
    (let s := issued product (.tile 0 0) (.running u)
     let d := tile (.tile 0 0) (.running u)
     s.power = 1 ∧ s.desc d.id = some d ∧ s.packet d.pid = some product ∧ d.phase = .running u ∧ d.kind = .tile 0 0 ∧
       s.anyHeld = false ∧ s.colls = [] ∧ d.shadowed = false ∧ s.checkFails d { code := 1, row := 15, block := 0, seen := 0 } = false ∧
       s.checkFails d { code := 4, row := 15, block := 0, seen := 1 } = true ∧
       s.descs.find? (fun d => d.on (.cluster 191)) = some d ∧ s.contexts 191 < 4 ∧ s.passesOn 191 = 1 ∧
       product.mayStop d (.block 0) = true ∧ product.mayStop d (.outlier 31) = true ∧ product.mayStop d (.outlier 32) = false) ∧
    (live.descs.find? (fun d => d.on (.cluster 191)) = none) ∧
    (let s := issued product (.tile 0 0) (.suspended 191)
     let d := tile (.tile 0 0) (.suspended 191)
     s.power = 1 ∧ s.desc d.id = some d ∧ d.phase = .suspended 191 ∧ s.unitFree (.cluster 191) = true) := by decide +kernel

set_option maxRecDepth 100000 in
/-- The last bolt of the product's second operand has a payload that its CRC does not match. -/
theorem wit_DescriptorsRunOnUnits_check :
    let p := { product with phase := .running }
    let s := { issued p (.tile 0 0) .queued with mem := [(0x040000001000, 1)] }
    let u : ExecUnit := .cluster 191
    s.unitFree u = true ∧ s.nextDesc u = some (tile (.tile 0 0) .queued) ∧ s.packet 0 = some p ∧
      (∀ g ∈ p.readRanges s.mem (.tile 0 0), s.badBolts g.1 g.2 = []) ∧ ∃ r ∈ p.reads (.tile 0 0), r.1.checks s.mem r.2 ≠ [] := by
  decide +kernel

theorem wit_DescriptorsRunOnUnits_end :
    let u : ExecUnit := .cluster 191
    let s := issued product (.tile 0 0) (.released u)
    let d := tile (.tile 0 0) (.released u)
    (s.power = 1 ∧ s.desc d.id = some d ∧ s.packet d.pid = some product ∧ d.phase = .released u ∧ u.inDevice = true ∧
      (∀ e ∈ s.descs, e.pid = product.pid → e.id = d.id ∨ e.phase = .done) ∧ product.inAttempt = false ∧ product.phase = .running ∧ s.anyHeld = false ∧
      s.colls = [] ∧ ∀ f ∈ d.flags, f.1 < 8) ∧
    (∃ o k g, product.op = .product o 0 k g) ∧ (∀ a n, s.badBolts a n = []) ∧
    let t := { s with descs := [d, { tile (.tile 0 1) .queued with id := 6 }] }
    t.desc d.id = some d ∧ ∃ e ∈ t.descs, e.pid = product.pid ∧ e.id ≠ d.id ∧ e.phase ≠ .done :=
  ⟨by decide +kernel, ⟨_, _, _, rfl⟩, fun a n => clean_of _ (by decide +kernel) a n, by decide +kernel⟩

theorem wit_MajorityAndShadowOutcomes :
    let u : ExecUnit := .cluster 191
    let r : Retry := { id := 8, what := .desc 5, u0 := u, u1 := u, u2 := .cluster 0, kind := 0 }
    let s := { issued product (.tile 0 0) (.withheld u) with retries := [r] }
    let d := tile (.tile 0 0) (.withheld u)
    (s.power = 1 ∧ s.retries.find? (fun q => q.id == r.id) = some r ∧ r.kind = 0 ∧ r.what = .desc d.id ∧ 191 < 192 ∧
      r.u0 = .cluster 191 ∧ r.u1 = .cluster 191 ∧ r.u2.inDevice = true ∧ s.desc d.id = some d ∧ s.packet d.pid = some product ∧
      product.isEnded = false ∧ d.kind = .tile 0 0 ∧ s.colls = [] ∧ s.rd .unitHstate [191 / 4] = 0 ∧ 0 < 192 ∧ s.rd .unitHstate [0 / 4] = 0 ∧
      ∀ x ∈ s.descs, x.selected = false) ∧ Settled s ∧
    (live.power = 1 ∧ Settled live ∧ live.retries.find? (fun q => q.id == 8) = none) ∧
    let w : Retry := { r with kind := 1, u1 := .engine 19 }
    let t := { s with retries := [w] }
    Settled t ∧ t.retries.find? (fun q => q.id == w.id) = some w ∧ w.kind = 1 ∧ w.u1.inDevice = true ∧
      t.retryPacket w = some (d, product) ∧ t.checkFails d { code := 2, row := 0, block := 0, seen := -1 } = true := by
  refine ⟨?_, settled_of _ ?_, ⟨?_, settled_of _ ?_, ?_⟩, settled_of _ ?_, ?_⟩ <;> decide +kernel

/-! Statements about collectives. -/

/-- live in epoch 10 as rank 1 of three members, nodes 0, 5 and 16,382, with a BARRIER's descriptor at 0x400. -/
def member : State :=
  up [(.grpGroupEnable, [], 1), (.grpEpoch, [], 10), (.grpInEpoch, [], 1), (.grpMembers, [], 3), (.grpRank, [], 1), (.grpNode, [], 5),
      (.collEnable, [], 1), (.collCollRing, [], 15), (.collCollSeq, [], 5)]
    { live with mem := [(0x400, 6)], rankNodes := [0, 5, 16382] }

/-- A collective of an operation in flight, of packet 0; a product that streams into it if it is not a BARRIER. -/
def collective (op : Nat) : CollSt :=
  { (default : CollSt) with key := { epoch := 10, step := 2 ^ 64 - 1, attempt := 0, seq := 5 }, pid := some 0
                            stream := if op = 6 then none else some 7
                            own := { op := op, redop := 0, type := 9, root := 0, count := 8, digest := 77, limit := 5 }
                            pairs := [(wideDesc 0x10000 4 256, wideDesc 0x20000 12 256)], members := 3, rank := 1 }

/-- member with that collective in flight. -/
def inColl (c : CollSt) : State :=
  { member with nextId := 8, colls := [c]
                flight := [packet (.collLaunch 0x400) .running, { packet (.product 0 0x400 0 []) .waiting with pid := 7 }] }

/-- The header of a message of it from a node. -/
def ch (src : Nat) : CollHeader := { src := src, key := (collective 6).key }

theorem wit_CollectivesLaunchAndTakeMessages :
    (Quiet member wide ∧
      (match member.readColl 15 0x400 with
        | .ok (d, [], []) => decide (d.op = 6 ∧ d.legal (member.rd .grpMembers []) = true) | _ => false) = true ∧
      member.rd .grpPrepared [] = 0 ∧ member.step = none ∧ member.colls = [] ∧ member.endedColls = [] ∧ member.heldMsgs = [] ∧
      member.reserved = [] ∧ (member.flight.all (fun q => match q.op with | .product _ x _ _ => x == 0 | _ => true)) = true ∧ member.rd .collEnable [] ≠ 0 ∧ member.rd .grpGroupEnable [] = 1 ∧ member.rd .grpEpoch [] ≠ 0 ∧
      member.rd .grpInEpoch [] = 1) ∧
    (let c := collective 6
     Live (inColl c) (ch 16382) c 2 ∧ Live (inColl c) (ch 0) c 0 ∧ Stalls c ∧
       c.own.differs { c.own with limit := 65535 } = 0) ∧
    (let c := { collective 3 with half := [(2, zeros 256)], got := [(2, 7)], copied := true, sent := [(0, 8), (2, 8)] }
     let q := c.destOf 0 2 7
     Live (inColl c) (ch 16382) c 2 ∧ Stalls c ∧ c.op = 3 ∧ Tab.find c.half 2 = some (zeros 256) ∧ (zeros 256).length = 256 ∧
       Tab.get 0 c.got 2 = 7 ∧ 7 < c.expects 0 2 ∧ q.1.elem.inBolts = false ∧ q.2.1.elem.inBolts = false ∧
       (inColl c).badBolts (q.2.1.base + 512 * q.2.2.2) 512 = []) ∧
    (member.power = 1 ∧ member.coll (ch 0).key = none ∧
      let k : CollKey := { (ch 0).key with epoch := 11, seq := 2 ^ 64 - 1 }
      member.endedKey k = false ∧ member.staleMsg k = false ∧ member.heldMsgs.length < 1024) :=
  ⟨⟨quiet_of _ _ (by decide +kernel), by decide +kernel⟩,
   ⟨⟨by decide +kernel, settled_of _ (by decide +kernel), by decide +kernel⟩,
    ⟨by decide +kernel, settled_of _ (by decide +kernel), by decide +kernel⟩, .inl (by decide +kernel), by decide +kernel⟩,
   ⟨⟨by decide +kernel, settled_of _ (by decide +kernel), by decide +kernel⟩, .inr (by decide +kernel), by decide +kernel⟩,
   by decide +kernel⟩

/-- An ALL_GATHER of bolts, and the first bolt of its first rank. -/
def gather : CollSt :=
  { collective 3 with pairs := [(boltDesc 0x040000000000 16 32, boltDesc 0x040000002000 48 32)],
                        copied := true, sent := [(0, 8), (2, 8)] }
def bolt : List Byte := boltBytes (zeros 448) (List.replicate 56 127) 0 7 0 0x12

set_option maxRecDepth 100000 in
theorem wit_CollectivesLaunchAndTakeMessages_bolt :
    let s := inColl gather
    let q := gather.destOf 0 0 0
    (s.power = 1 ∧ s.collOfStream (streamOf gather.key) = some gather ∧ s.coll gather.key = some gather ∧ (∀ x ∈ s.colls, x.key = gather.key → x = gather) ∧ s.rankOf 0 = some 0 ∧
      gather.op = 3 ∧ bitsOf (streamOf gather.key) 12 12 = 0 ∧ bolt.length = 512 ∧ Tab.get 0 gather.got 0 = 0 ∧
      0 < gather.expects 0 0 ∧ q.1.elem.inBolts = true ∧
      boltCheck bolt (q.2.2.1 % 65536) q.1.tag q.1.geometry q.1.format = none ∧
      s.badBolts (q.2.1.base + 512 * q.2.2.2) (reheaded q.2.1 q.2.2.2 bolt).length = []) ∧ Settled s ∧ Stalls gather := by
  refine ⟨?_, settled_of _ ?_, .inr ?_⟩ <;> decide +kernel

theorem wit_CollectivesEnd :
    let c := { collective 6 with released := true, deadline := 50000 }
    let s := inColl c
    (Live s (ch 16382) c 2 ∧ c.pid = some 0 ∧ s.packet 0 = some (packet (.collLaunch 0x400) .running) ∧
      (packet (.collLaunch 0x400) .running).isEnded = false ∧ s.collDone c = true ∧ s.cellsWait c = false ∧
      c.own.differs { c.own with digest := 78 } = 6 ∧ c.deadline ≤ s.aoNow ∧ s.slowReason = 0) ∧
    (let d := { c with released := false, deadline := 50001 }
     Live (inColl d) (ch 0) d 0 ∧ (inColl d).collDone d = false ∧ ¬ d.deadline ≤ (inColl d).aoNow) ∧
    (let t := up [(.stkTstate, [19], 1)] s
     t.power = 1 ∧ t.colls = [c] ∧ t.slowReason ≠ 0) :=
  ⟨⟨⟨by decide +kernel, settled_of _ (by decide +kernel), by decide +kernel⟩, by decide +kernel⟩,
   ⟨⟨by decide +kernel, settled_of _ (by decide +kernel), by decide +kernel⟩, by decide +kernel⟩, by decide +kernel⟩

/-! Statements about link ports. -/

/-- live with port 11 in a state, its group domain on. -/
def linkAt (ps : Nat) : State := up [(.portEnable, [11], 1), (.portPstate, [11], ps), (.domDstate, [77], 2)] live

/-- A port's flit state after 4,095 flits taken, in a continued session. -/
def worn : PortSt := { PortSt.empty with lastRx := 4094, fresh := false, peerSession := 2 ^ 32 - 1 }

/-- The body of a MGR_HEARTBEAT cell for node 0. -/
def cellOf : Cell := { dest := 0, src := 5, kind := 3, stream := 0, body := zeros 16 }

/-- DATA flits of VC 3: the next one with a whole cell, the next one with seven bytes, and one out of order. -/
def flitOf (seq : Nat) (payload : List Byte) : List Byte := flitBytes (flitHeader seq 0 3 0 payload.length 0 0) payload

theorem wit_LinkPortsTrainAndCarryFlits :
    (live.hostOk = true ∧ live.postedFull = false ∧ (linkAt 3).postedFull = false ∧ 11 < 12 ∧ ¬(live.rd .portEnable [11] = 1 ∨ live.fenced (82 + 11) = true) ∧
      (linkAt 3).hostOk = true ∧ (linkAt 3).rd .portEnable [11] = 1) ∧
    (let s := linkAt 4
     s.power = 1 ∧ 11 < 12 ∧ (s.pstate 11 = 1 ∨ s.pstate 11 = 4) ∧ s.rd .domDstate [portGroup 11] = 2) ∧
    (let s := linkAt 2
     3 < 4 ∧ s.power = 1 ∧ s.pstate 11 = 2 ∧ (s.port 11).waiting = [] ∧ (s.port 11).fresh = true) ∧
    (let s := { up [(.portPeerId, [11], 2 ^ 64 - 1), (.portPeerPort, [11], 15)] (linkAt 2) with ports := [(11, worn)] }
     s.pstate 11 = 2 ∧ (s.port 11).flitsDue = 0 ∧ (s.port 11).retry = [] ∧ (s.port 11).fresh = false ∧
       s.rd .portPeerId [11] = 2 ^ 64 - 1 ∧ s.rd .portPeerPort [11] = 15 ∧ (s.port 11).peerSession = 2 ^ 32 - 1) ∧
    (live.pstate 11 ≠ 2 ∧ live.pstate 11 ≠ 3) ∧
    (let s := linkAt 3
     s.power = 1 ∧ s.pstate 11 = 3 ∧ flitGood [] = false ∧ (s.port 11).retry = [] ∧ (s.port 11).flitsDue = 0) ∧
    (let s := { linkAt 3 with ports := [(11, { worn with retry := [(4095, 0, true, [])], resent := 15 })] }
     s.pstate 11 = 3 ∧ (s.port 11).retry = [(4095, 0, true, [])] ∧ (s.port 11).retry ≠ [] ∧ (s.port 11).resent < s.rd .linkRetryLimit []) ∧
    (let s := { linkAt 3 with ports := [(11, { worn with retry := [(4095, 0, true, [])], resent := 16 })] }
     (s.port 11).retry ≠ [] ∧ s.rd .linkRetryLimit [] ≤ (s.port 11).resent) := by decide +kernel

set_option maxRecDepth 100000 in
theorem wit_LinkPortsTrainAndCarryFlits_flits :
    let s := { up [(.grpGroupEnable, [], 1)] (linkAt 3) with ports := [(11, worn)] }
    let q := s.port 11
    (s.power = 1 ∧ 11 < 12 ∧ s.pstate 11 = 3 ∧ q.part.length = 4 ∧ q.flitsDue = 0) ∧ Settled s ∧
    (let bs := flitOf 4094 []
     let h := fieldLe bs 0 8
     flitGood bs = true ∧ bitsOf h 37 36 = 0 ∧ bitsOf h 63 52 ≠ (q.lastRx + 1) % 4096) ∧
    (let bs := flitOf 4095 (zeros 7)
     let h := fieldLe bs 0 8
     flitGood bs = true ∧ bitsOf h 37 36 = 0 ∧ bitsOf h 63 52 = (q.lastRx + 1) % 4096 ∧
       (q.part.getD (bitsOf h 39 38) []).length + (slice bs 8 (min 244 (bitsOf h 35 28))).length < 8) ∧
    (let bs := flitOf 4095 (cellBytes cellOf)
     let h := fieldLe bs 0 8
     let body := slice bs 8 (min 244 (bitsOf h 35 28))
     let ch := fieldLe body 0 8
     let m := body.length
     flitGood bs = true ∧ bitsOf h 37 36 = 0 ∧ bitsOf h 63 52 = (q.lastRx + 1) % 4096 ∧ q.part.getD (bitsOf h 39 38) [] = [] ∧
       12 ≤ m ∧ 8 + bitsOf ch 35 26 = m ∧ bitsOf ch 63 50 = s.rd .grpNode [] ∧ bitsOf ch 23 16 = 3 ∧
       crc32 (body.take (m - 4)) = fieldLe body (m - 4) 4 ∧ s.rd .grpGroupEnable [] = 1) := by
  refine ⟨?_, settled_of _ ?_, ?_⟩ <;> decide +kernel

/-! Statements about groups. -/

/-- grouped as manager 1 (role), top manager 2 or worker 0 of node 16,256, and a message from its member 126. -/
def role (r : Nat) : State := up [(.grpRole, [], r), (.grpNode, [], 16256), (.grpManagerNode, [], 16256), (.grpEpoch, [], 9)] grouped

theorem wit_GroupMembershipMessages :
    (let s := up [(.mbrMstate, [126], 2)] (role 1)
     Heard s gh ∧ s.rd .grpRole [] ≠ 2 ∧ s.ownMember gh.src = true ∧ (s.rd .mbrMstate [126] = 1 ∨ s.rd .mbrMstate [126] = 2) ∧
       (role 1).joinResult gh.src 7 ((role 1).rd .devNe []) = 0 ∧ (role 1).joinResult gh.src 7 ((role 1).rd .devNe [] + 1) ≠ 0) ∧
    (let s := up [(.grpStandby1, [], 16256), (.grpManagerNode, [], 16383), (.grpTopNode, [], 16382)] (role 0)
     Heard s gh ∧ s.rd .grpRole [] = 0 ∧ s.rd .grpManagerNode [] ≠ s.rd .grpNode [] ∧
       (s.rd .grpStandby0 [] = s.rd .grpNode [] ∨ s.rd .grpStandby1 [] = s.rd .grpNode []) ∧
       s.rd .grpTopNode [] ≠ s.rd .grpManagerNode [] ∧ s.standbyFor gh.src = some false ∧ s.copies = []) ∧
    (let s := up [(.grpTopStandby, [], 16256), (.grpManagerNode, [], 16382), (.grpTopNode, [], 16382)] (role 0)
     Heard s gh ∧ s.standbyFor gh.src = some true ∧ s.copies = []) ∧
    (let s := up [(.grpManagerNode, [], 16382)] (role 0)
     Heard s gh ∧ s.rd .grpRole [] = 0 ∧ s.rd .grpStandby0 [] ≠ s.rd .grpNode [] ∧ s.rd .grpStandby1 [] ≠ s.rd .grpNode [] ∧
       s.standbyFor gh.src = none ∧ s.ownMember gh.src = false ∧ gh.src = s.superior ∧ s.power = 1 ∧ s.rd .grpGroupEnable [] = 1 ∧ s.rd .grpManagerNode [] ≠ s.rd .grpNode [] ∧
       0x3FFE < noNode ∧ s.rd .shrSrcState [] ≠ 2 ∧ s.rd .shrHoldState [] = 0) ∧
    Settled (role 0) ∧ (live.power = 1 ∧ Settled live ∧ live.rd .grpGroupEnable [] = 0) ∧
    (Heard (role 2) gh ∧ (role 2).rd .grpRole [] = 2 ∧ gh.src < 16384 ∧ (2 = 1 ∨ 2 = 2)) ∧
    ((role 1).power = 1 ∧ (role 1).rd .grpGroupEnable [] = 1 ∧ 2 ^ 32 - 2 < (role 1).rd .grpTerm []) ∧
    (let s := up [(.grpTerm, [], 2 ^ 32 - 2)] (role 2)
     s.rd .grpTerm [] < gh.term ∧ s.rd .grpRole [] ≠ 0) := by
  refine ⟨⟨⟨?_, ?_, ?_⟩, ?_⟩, ⟨⟨?_, ?_, ?_⟩, ?_⟩, ⟨⟨?_, ?_, ?_⟩, ?_⟩, ⟨⟨?_, ?_, ?_⟩, ?_⟩, settled_of _ ?_, ⟨?_, settled_of _ ?_, ?_⟩,
    ⟨⟨?_, ?_, ?_⟩, ?_⟩, ?_⟩ <;> decide +kernel

/-- An epoch in preparation with its whole list, one without its last rank, and a change at the top manager. -/
def prepared : PrepSt := { epoch := 2 ^ 64 - 1, members := 2, fp := 7, chunkRule := 3, segments := 1, nodes := [(0, 16256), (1, 16382)] }
def change : TopSt := { epoch := 2 ^ 64 - 1, list := [16256, 16382], wanted := [16256, 16382], ready := [16256], deadline := 50000 }

theorem wit_MembershipEpochsChange :
    (Heard (role 0) { gh with epoch := 9 } ∧ 9 ≤ (role 0).rd .grpEpoch [] ∧ Heard (role 0) gh ∧ (role 0).rd .grpEpoch [] < gh.epoch ∧
      ((role 0).prep.map (fun p => decide (gh.epoch ≤ p.epoch))).getD false = false) ∧
    (let s := { role 0 with prep := some prepared }
     s.power = 1 ∧ s.prep = some prepared ∧ prepared.epoch = gh.epoch ∧ prepared.nodes.length = prepared.members ∧
       s.rd .grpRole [] = 0 ∧ s.step = none ∧ s.colls = [] ∧ s.copies = [] ∧ s.rd .shrHolderNode [] = noNode ∧ s.rd .shrHeldSourceNode [] = noNode ∧
       s.rd .grpGroupEnable [] = 1 ∧ s.rd .grpPrepared [] ≠ 1 ∧ s.rd .stState [] = 0) ∧ Settled (role 0) ∧
    (let s := { role 2 with top := some change }
     Heard s gh ∧ s.rd .grpRole [] = 2 ∧ s.top = some change ∧ change.epoch = gh.epoch ∧
       change.wanted.all (fun a => (insertRising gh.src change.ready).contains a) = true ∧ s.isTop = true ∧
       change.deadline ≤ s.aoNow ∧ s.copies = []) := by
  refine ⟨⟨⟨?_, ?_, ?_⟩, ?_, ⟨?_, ?_, ?_⟩, ?_⟩, ?_, settled_of _ ?_, ⟨?_, ?_, ?_⟩, ?_⟩ <;> decide +kernel

/-- A step of a group that waits for its verdicts, and a shard of one element that a commit updates. -/
def verdictStep : StepSt := { (default : StepSt) with ring := 15, group := true, verdict := some 0, deadline := 50000 }
def shard : Shard :=
  { (default : Shard) with base := (Region.stack 0).base, elems := 1, grad := wideDesc ((Region.stack 0).base + 0x10000) 1 1 }
def group5 : ParamGroup := { (default : ParamGroup) with num := 5, shards := [shard] }
def commit5 (written : List (Nat × Nat)) : CommitSt := { (default : CommitSt) with todo := [5], written := written }
def committing (written : List (Nat × Nat)) : State :=
  up [(.stState, [], 3), (.stActive, [], 1), (.domDstate, [56], 2)]
    { live with step := some { verdictStep with verdict := none }, commit := some (commit5 written), groups := [group5] }

theorem wit_VerdictsAndTheCommitPhase :
    (Heard grouped gh ∧ Settled grouped ∧ (grouped.step.bind (fun q => q.verdict)) = none) ∧
    (let s := up [(.grpMembers, [], 2), (.stState, [], 2), (.grpEpoch, [], 2 ^ 64 - 1)]
        { grouped with step := some verdictStep, rankNodes := [0, 16382] }
     Heard s gh ∧ Settled s ∧ s.step = some verdictStep ∧ verdictStep.verdict ≠ none ∧ s.rd .grpMembers [] = 2 ∧ s.rd .grpRank [] = 0 ∧
       s.rankOf gh.src = some 1 ∧ gh.epoch = s.rd .grpEpoch [] ∧ s.verdicts = [] ∧ 7 ≠ s.att .stReplayBudget [] ∧ s.rd .stState [] = 2 ∧
       verdictStep.verdict.isSome = true ∧ verdictStep.deadline ≤ s.aoNow ∧ s.closeHeld = false) ∧
    (live.power = 1 ∧ Settled live ∧ live.rewriteShards live.rewrites = [] ∧ live.commit = none) ∧
    (let s := committing []
     let c := commit5 []
     (s.power = 1 ∧ Settled s ∧ s.step = some { verdictStep with verdict := none } ∧ s.commit = some c ∧ c.waiting = false ∧
       s.groups.find? (fun g => g.num == c.todo.headD 0) = some group5 ∧ group5.shards[0]? = some shard ∧ 0 < shard.batches ∧
       c.written.contains (0, 0) = false ∧ c.withheld.contains (0, 0) = false ∧
       s.workReady (stackWindow shard.base) = true ∧ s.shroudBacklog (stackWindow shard.base) < 2 * 1048576 ∧
       s.batchChecks shard 0 = [] ∧ s.copying = false ∧ residue 3 = 0 ∧ residue (-1) ≠ 0) ∧ ∀ a k, s.badBolts a k = []) ∧
    (let s := committing [(0, 0)]
     let c := commit5 [(0, 0)]
     (s.commit = some c ∧ c.waiting = false ∧ c.withheld = [] ∧ c.todo = [5] ∧ s.groups.find? (fun g => g.num == 5) = some group5 ∧
       group5.allWritten c.written = true ∧ (∀ x ∈ group5.shards, x.hasWork = false) ∧ s.shardsReady group5.shards = true ∧ s.copy = none ∧
       verdictStep.digest = false ∧ s.closeHeld = false) ∧
       Inv s ∧ ∀ a k, s.badBolts a k = []) := by
  refine ⟨⟨⟨?_, ?_, ?_⟩, settled_of _ ?_, ?_⟩, ⟨⟨?_, ?_, ?_⟩, settled_of _ ?_, ?_⟩, ⟨?_, settled_of _ ?_, ?_⟩,
    ⟨⟨?_, settled_of _ ?_, ?_⟩, fun a k => clean_of _ ?_ a k⟩, ⟨?_, inv_of _ ?_, fun a k => clean_of _ ?_ a k⟩⟩ <;> decide +kernel

/-! Statements about the shroud. -/

/-- live as a shroud source with an accepting holder, node 16,382, and a step-state area. -/
def source : State :=
  up [(.shrEnable, [], 1), (.shrSrcState, [], 2), (.shrHolderNode, [], 16382), (.stStateBase, [], (Region.stack 0).base),
      (.shrHoldEnable, [], 1)] live

/-- A copy of packet 0, and source in the middle of it. -/
def copying (sent : Bool) : CopySt := { (default : CopySt) with pid := some 0, holder := 16382, accepted := sent, sent := sent }
def inCopy (sent : Bool) : State :=
  { source with nextId := 1, flight := [packet .shroudCopy .running], copy := some (copying sent), aoNow := 2 ^ 40 }

/-- A shroud message's header from node 16,382. -/
def sh : ShroudHeader := { src := 16382, slot := 1, stack := 19, part := 116, bolt := 0, sourceId := 2 ^ 64 - 1 }

theorem wit_ShroudCopiesAtTheSource :
    (Quiet live wide ∧ live.rd .shrEnable [] ≠ 1) ∧
    (Quiet source wide ∧ ¬(source.rd .shrEnable [] ≠ 1 ∨ source.rd .shrSrcState [] ≠ 2 ∨ source.stepOpen = true) ∧
      source.stateStack ≠ none ∧ ((List.range 20).map source.imageRanges).flatten.any (fun r => source.unavailIn r.1 r.2) = false ∧
      sh.src = source.rd .shrHolderNode [] ∧ 0 ≠ source.rd .shrHolderNode [] ∧ source.copy = none ∧ source.copies = [] ∧
      source.answered sh.src = none ∧ source.restore = none ∧ source.signing = [] ∧ source.power ≠ 0) ∧
    (Shrouded source 16382 2 ∧ Shrouded source 16382 11 ∧ Shrouded source 0 11) ∧
    (∀ sent, (let s := inCopy sent
      let c := copying sent
      let p := packet .shroudCopy .running
      (Shrouded s sh.src 2 ∧ Shrouded s sh.src 7 ∧ Shrouded s sh.src 8) ∧ sh.src = s.rd .shrHolderNode [] ∧ s.copy = some c ∧
        c ∉ s.copyWas ∧ c.pid = some p.pid ∧ c.accepted = sent ∧ s.packet p.pid = some p ∧ p.isEnded = false ∧
        s.answered sh.src = some c ∧ s.copies = [c] ∧ s.restore = none ∧ s.anyHeld = false ∧ (∀ a k, s.badBolts a k = []) ∧
        c.progress + msTicks (s.rd .shrShroudTimeoutMs []) ≤ s.aoNow)) ∧
    (let r : RestoreSt := { (default : RestoreSt) with pid := 0, holder := 16382 }
     let p := packet (.restore 0 0 0 false false 16382) .running
     let s := { source with nextId := 1, flight := [p], restore := some r, aoNow := 2 ^ 40 }
     (s.power = 1 ∧ s.copies = [] ∧ s.restore = some r ∧ r.pid = p.pid ∧ s.packet p.pid = some p ∧ p.isEnded = false ∧
       r.heard + msTicks (s.rd .shrShroudTimeoutMs []) ≤ s.aoNow) ∧ Settled s) ∧
    { source with signing := [default] }.signing ≠ [] := by
  have sd : Settled source := settled_of _ (by decide +kernel)
  refine ⟨⟨quiet_live, by decide +kernel⟩, ⟨quiet_of _ _ (by decide +kernel), by decide +kernel⟩,
    ⟨⟨rfl, by decide +kernel, sd⟩, ⟨rfl, by decide +kernel, sd⟩, ⟨rfl, by decide +kernel, sd⟩⟩, fun sent => ?_,
    ⟨by decide +kernel, settled_of _ (by decide +kernel)⟩, by decide⟩
  have sc : Settled (inCopy sent) := settled_of _ (by revert sent; decide +kernel)
  refine ⟨⟨⟨rfl, ?_, sc⟩, ⟨rfl, ?_, sc⟩, ⟨rfl, ?_, sc⟩⟩, ?_, ?_, ?_, ?_, ?_, ?_, ?_, ?_, ?_, ?_, ?_, fun a k => clean_of _ ?_ a k, ?_⟩ <;>
    (clear sc; revert sent; decide +kernel)

/-- A copy that arrives for slot 1 from node 16,382, with 3 of the manifest's 4 parts; and source as its holder. -/
def arriving : HoldSt :=
  { slot := 1, source := 2 ^ 64 - 1, sourceNode := 16382, step := 44, bolts := List.replicate 20 1, received := []
    halves := [(19 * 2 ^ 32, zeros 256)], parts := [(1, zeros 256), (2, zeros 256), (3, zeros 256)], filled := true, ended := false }
def holding : State :=
  up [(.shrSlotSlotState, [1], 1), (.shrSlotSlotStep, [1], 44), (.shrSlotSlotSourceId, [1], 2 ^ 64 - 1),
      (.shrAreaShroudBase, [19], (Region.stack 19).base), (.shrAreaShroudMib, [19], 2)] { source with hold := some arriving }

theorem wit_HoldingServingAndRestoring :
    (Shrouded source 16382 1 ∧ Shrouded source 16382 9) ∧
    (source.shroudLive 16382 3 = false ∧ source.shroudLive 16382 4 = false ∧ source.shroudLive 16382 5 = false ∧
      source.shroudLive 16382 6 = false ∧ source.power = 1) ∧
    (holding.holdOf { sh with slot := 0 } true = none ∧ holding.restoreOf sh = none ∧ Shrouded holding 16382 3 ∧
      Shrouded holding 16382 4 ∧ Shrouded holding 16382 5 ∧ Shrouded holding 16382 6) ∧
    (holding.holdOf sh false = some arriving ∧ holding.holdOf sh true = some arriving ∧ Filling holding arriving ∧
      (zeros 256).length = 256 ∧ holding.areaBase 19 ≠ 0 ∧ 512 * (0 + 1) ≤ holding.slotBytes 19 ∧ 116 ≤ sh.part ∧ sh.part ≠ 0 ∧
      { sh with part := 0 }.part = 0 ∧ Tab.find arriving.halves (sh.stack * 2 ^ 32 + sh.bolt) = some (zeros 256) ∧
      (Tab.put arriving.parts (1 % 4) (zeros 256)).length < 4 ∧ (Tab.put arriving.parts (116 % 4) (zeros 256)).length = 4 ∧
      (∀ st, st < 20 → Tab.get 0 arriving.received st =
        fieldLe (((Tab.put arriving.parts (116 % 4) (zeros 256)).map (fun p => p.2)).flatten) (0x70 + 4 * st) 4) ∧
      19 < 20 ∧ Tab.get 0 arriving.received 19 ≠
        fieldLe (((Tab.put arriving.parts (116 % 4) (List.replicate 256 1)).map (fun p => p.2)).flatten) (0x70 + 4 * 19) 4) ∧
    (let r : RestoreSt := { (default : RestoreSt) with pid := 0, holder := 16382 }
     let p := packet (.restore 0 0 0 false false 16382) .running
     let s := { source with nextId := 1, flight := [p], restore := some r }
     Shrouded s sh.src 10 ∧ s.restoreFrom sh.src = some r ∧ r.pid = p.pid ∧ s.packet p.pid = some p ∧ p.isEnded = false ∧
       { sh with part := 0 }.part = 0 ∧ sh.part ≠ 0 ∧
       { r with heard := s.aoNow, headers := Tab.put r.headers (16 * sh.stack + (sh.part - 1) % 16) (slice [] 0 256) }.ready = false) ∧
    (Quiet stepping wide ∧ stepping.stepOpen = true) ∧
    (let s := up [(.seGroupsLoaded, [], 1), (.grpRoute, [2047], 0)] source
     Quiet s wide ∧ (s.stepOpen = false ∧ (∀ p ∈ s.flight, p.isWaiting = true) ∧ s.commit = none ∧ s.colls = [] ∧ s.copies = [] ∧
       s.restore = none ∧ s.rd .seGroupsLoaded [] ≠ 0 ∧ s.stateStack ≠ none ∧ 1 % 1024 ≠ 0 ∧ 1024 % 1024 = 0 ∧
       s.inRegion 1024 32768 = true ∧ 16382 ≠ noNode ∧ s.route 16382 ≠ 15 ∧ 16382 ≠ s.rd .grpNode [] ∧ s.isServing = false) ∧
       ∀ a k, s.unavailIn a k = false) := by
  have sd : Settled source := settled_of _ (by decide +kernel)
  have hd : Settled holding := settled_of _ (by decide +kernel)
  refine ⟨⟨⟨rfl, by decide +kernel, sd⟩, ⟨rfl, by decide +kernel, sd⟩⟩, by decide +kernel,
    ⟨by decide +kernel, by decide +kernel, ⟨rfl, by decide +kernel, hd⟩, ⟨rfl, by decide +kernel, hd⟩, ⟨rfl, by decide +kernel, hd⟩,
      ⟨rfl, by decide +kernel, hd⟩⟩,
    ⟨by decide +kernel, by decide +kernel,
      ⟨by decide +kernel, hd, by decide +kernel, by decide +kernel, by decide +kernel, fun a k => clean_of _ (by decide +kernel) a k⟩,
      by decide +kernel⟩,
    ⟨⟨rfl, by decide +kernel, settled_of _ (by decide +kernel)⟩, by decide +kernel⟩,
    ⟨quiet_of _ _ (by decide +kernel), by decide +kernel⟩, ⟨quiet_of _ _ (by decide +kernel), by decide +kernel, fun a k => ?_⟩⟩
  have h : (List.range 8).any (fun i => (up [(.seGroupsLoaded, [], 1), (.grpRoute, [2047], 0)] source).fenced (48 + i)) = false := by
    decide +kernel
  simp only [State.unavailIn, h, Bool.false_and]

/-! Commands that are not well formed. -/

/-- A packet of one slot without waits. -/
def slot1 : PktHdr := { plain with length := 1 }

/-- Headers outside their fields: the ring, the tag, no slot, 65 slots, the signal token, five waits, a wait's token, its
value; and a payload beyond the packet's slots. -/
def illHeaders : List Instr :=
  [.nop { plain with ring := 16 }, .nop { plain with tag := 2 ^ 32 }, .nop { plain with length := 0 }, .nop { plain with length := 65 },
   .nop { plain with signal := 65536 }, .nop { plain with waits := List.replicate 5 { token := 0, value := 0, rel := false } },
   .nop { plain with waits := [{ token := 65536, value := 0, rel := false }] },
   .nop { plain with waits := [{ token := 0, value := 2 ^ 64, rel := true }] },
   .softmax { slot1 with waits := List.replicate 3 { token := 0, value := 0, rel := false } } 0 0]

/-- Packet operands one above their fields. -/
def illPackets : List Instr :=
  [.regWrite slot1 (2 ^ 32) 0, .regWrite slot1 0 (2 ^ 32), .ringReset slot1 256, .copy slot1 (2 ^ 64) 0 0 0, .copy slot1 0 0 0 4,
   .fill slot1 0 0 (2 ^ 64), .llsPartition slot1 256 0, .llsRelease slot1 0 256, .digest slot1 0 0 (2 ^ 64),
   .product plain 0 (2 ^ 48) 0 [], .product plain 0 0 8 [], .product plain 0 0 0 (List.replicate 32 ⟨0, 0, false, false⟩),
   .product plain 0 0 0 [⟨0, 2 ^ 64, false, false⟩], .matvec plain 0 (List.replicate 32 (0, 0)), .matvec plain 0 [(2 ^ 64, 0)],
   .softmax slot1 (2 ^ 64) 0, .rmsnorm slot1 0 0 0 (2 ^ 32), .layernorm slot1 0 0 0 (2 ^ 64) 0, .xent slot1 0 0 0 0 (2 ^ 64),
   .vprog plain 0 0 0 [0, 0, 0], .vprog plain 0 0 0 [0, 0, 0, 2 ^ 64], .variantBind slot1 65536, .variantRelease slot1 256] ++
  [.collLaunch slot1 (2 ^ 64), .roleSet slot1 256 0 0 0, .roleSet slot1 0 65536 0 0, .stepBegin slot1 (2 ^ 64) 0 false false,
   .stepEnd slot1 (2 ^ 48) true, .betweenJobTest slot1 (2 ^ 64), .unitTest slot1 65536, .unitFence slot1 65536, .unitUnfence slot1 65536,
   .restore slot1 0 0 (2 ^ 48) false false 0, .restore slot1 0 0 0 false false 16384, .counterSnapshot slot1 (2 ^ 64),
   .sampleControl slot1 256 0, .attest plain (zeros 31) 0, .measurementLog slot1 0 (2 ^ 32), .firmwareStage slot1 (2 ^ 64) 0]

/-- Host and memory commands outside their fields. -/
def illHost : List Instr :=
  [.ringResetWrite 16, .ringResetDrained 16, .ringTailWrite 0 (2 ^ 32), .packetFetch 16, .statusHeadWrite 16 0, .tokenAdd 65536 0,
   .tokenAdd 0 (2 ^ 48), .ringConfigWrite 0 .base (2 ^ 64), .statusConfigWrite 16 .base 0, .registerWrite 2 4 0,
   .registerWrite 0 4 (2 ^ 32), .bar0BadAccess true 0 8, .bar2Read 0 0 0, .bar2Read 0 1 7, .bar2Write 0 [], .hostReadCompletion 0 5 [],
   .reefSet 128 0, .reefClear 0 (2 ^ 32), .gsSet (2 ^ 32), .baselineSet 256 0, .stateBaseWrite (2 ^ 64), .scaleHistoryWrite .tag 4096 1,
   .captureClear 4 0 0, .captureClear 0 48 0, .captureClear 0 0 8, .lastFaultClear 0 5, .mapoutRequest 1024, .lostClear 4] ++
  [.arbiterFreeze 37 true, .arbiterDrained 37, .scrubAccess 640 0 0 false, .scrubAccess 0 (2 ^ 22) 0 false, .scrubAccess 0 0 17 true, .stackTempSample 20 0, .stackTempSample 0 256,
   .dieTempSample 4 0, .powerSample 65536 0 [], .powerSample 0 0 [(80, 0)], .droopEvent 80, .droopEnd 254, .quadIdleGate 48,
   .stackIdleGate 20, .domainWakeComplete 80, .slotFreed 64, .descriptorStart true 20, .descriptorStart false 192,
   .tilePassLatch 0 (some ⟨6, 0, 0, 0⟩), .tilePassLatch 0 (some ⟨0, 0, 0, 0⟩), .majorityOutcome 0 true true none (some ⟨1, 2 ^ 32, 0, 0⟩), .updateBatchComplete 0 0 (some ⟨1, 0, 2 ^ 32, 0⟩),
   .preempt 192 (.block 0), .preempt 0 (.outlier (2 ^ 36)), .counterSelectWrite 0 16 0 0 true, .counterSelectWrite 0 0 1024 0 true, .counterClear 4 0,
   .coldReset { sound with failing := [640] }, .warmReset { sound with error := 4 }, .coldReset { sound with fails := [(96, 1, 0)] },
   .coldReset { sound with fails := [(0, 3, 0)] }]

/-- Commands of units, links, groups and collectives outside their fields. -/
def illMessages : List Instr :=
  let g : GroupHeader := { src := 0, term := 0, epoch := 0 }
  let c : CollHeader := { src := 0, key := { epoch := 0, step := 0, attempt := 0, seq := 0 } }
  let h : ShroudHeader := { src := 0, slot := 0, stack := 0, part := 0, bolt := 0, sourceId := 0 }
  let f : FlitTotals := { ack := 0, cvc := 0, credits := 0 }
  [.testDue 56, .testDeferExpiry 47 [.block 0], .testSlotStart 96, .testSlotEnd 0 ⟨4, []⟩ 0 0, .portEnable 12, .portDisable 12, .trainingComplete 12,
   .sync 0 { f with cvc := 4 } 0 0 0 [0, 0, 0, 0], .sync 0 f 0 16 0 [0, 0, 0, 0], .sync 0 f 0 0 0 [0, 0, 0], .flitReceived 0 (zeros 255) 0 0,
   .nak 0 { f with ack := 4096 }, .nak 0 { f with credits := 1024 }, .retryTimeout 12, .lossOfLock 12, .boltCell 0 0 (zeros 511),
   .join { g with src := 16384 } 0 0 0, .join g 0 16 0, .joinReply g 5, .leave { g with term := 2 ^ 32 }, .heartbeat g 4 0 0 0 0 0,
   .heartbeat g 0 97 0 0 0 0, .mgrHeartbeat { g with epoch := 2 ^ 64 }, .groupReport g 16384 0 0, .groupReport g 0 5 0] ++
  [.epochPrepare g 16385 0 0 0, .epochList g 0 (List.replicate 241 0), .epochReady { g with src := 16384 }, .epochCommit g (2 ^ 128),
   .takeover g 16384, .partner g 16384 0 false 0 0, .partner g 0 0 false 16 0, .verdict g 4 0 0 0, .verdict g 0 0 8 0,
   .launch { c with src := 16384 } default, .launch c { (default : LaunchMsg) with op := 65536 }, .grant c (2 ^ 64),
   .collectiveData c 0 2 0 (zeros 256), .collectiveData c 0 0 0 (zeros 255), .flags c 0 256, .abort c 5 0 0, .slow c 5,
   .release { c with key := { c.key with attempt := 256 } }, .collComplete { c.key with epoch := 2 ^ 64 },
   .collWatchdogExpiry { c.key with seq := 2 ^ 64 }] ++
  [.hello h (List.replicate 19 0) 0, .accept h 6, .shroudData { h with stack := 20 } (zeros 256), .shards h (zeros 257),
   .manifest { h with part := 256 } (zeros 256), .signature h [], .complete { h with src := 16384 }, .incomplete { h with slot := 256 },
   .fetch { h with bolt := 2 ^ 32 } false, .lost { h with sourceId := 2 ^ 64 }]

/-- Commands of the management port and of configuration space outside their fields. -/
def illManagement : List Instr :=
  let m : MgmtHeader := { moduleId := 0, seq := 0, tick := 0, tag := zeros 32 }
  [.ack { m with tag := zeros 31 }, .statusQuery { m with seq := 2 ^ 64 }, .testNow m 65536, .fence m 65536, .unfence m 65536,
   .reset { m with moduleId := 2 ^ 64 } sound, .reset m { sound with error := 1 }, .mgmtRoleSet m 256 0 0 0 0 0 0, .mgmtRoleSet m 0 0 0 0 0 0 65536,
   .group m 256, .mapout m 65536, .mapoutClear m 65536, .svnRaise m (2 ^ 32), .keySet m (zeros 31), .recovery m (2 ^ 32) [],
   .recovery m 0 (zeros 1025), .neighborSolicitation (2 ^ 128) 0, .echoRequest 0 (2 ^ 128) [], .keyWrite 8 0, .keyWrite 0 (2 ^ 32),
   .mgmtConfigWrite .mgmtPort (2 ^ 16), .mctpMessage (.setEndpoint 256), .mctpMessage (.dieTemp 4), .mctpMessage (.stackTemp 20),
   .configAccess (.bar2Size 32), .configAccess (.payload 16), .configAccess (.readRequest 16), .configAccess (.timeout 16)]

theorem test_illFormed_headers : illHeaders.all (fun c => !wellFormed c) = true := by decide +kernel
theorem test_illFormed_packets : illPackets.all (fun c => !wellFormed c) = true := by decide +kernel
theorem test_illFormed_host : illHost.all (fun c => !wellFormed c) = true := by decide +kernel
theorem test_illFormed_messages : illMessages.all (fun c => !wellFormed c) = true := by decide +kernel
theorem test_illFormed_management : illManagement.all (fun c => !wellFormed c) = true := by decide +kernel

/-- At the ends of their fields the same commands are well formed. -/
theorem test_wellFormed_bounds :
    ([.nop wide, .regWrite slot1 (2 ^ 32 - 1) (2 ^ 32 - 1), .copy slot1 (2 ^ 64 - 1) 0 0 3, .product plain 0 (2 ^ 48 - 1) 7 (List.replicate 31 ⟨0, 0, true, true⟩),
      .tokenAdd 65535 (2 ^ 48 - 1), .registerWrite 4 4 (2 ^ 32 - 1), .bar0BadAccess true 2 4, .descriptorStart true 19, .preempt 191 (.outlier (2 ^ 36 - 1)),
      .droopEvent 255, .flitReceived 11 (zeros 256) 0 0, .epochPrepare { src := 0, term := 0, epoch := 0 } 16384 0 0 0,
      .keyWrite 7 (2 ^ 32 - 1)] : List Instr).all wellFormed = true := by decide +kernel

/-! Values: the spec's worked examples and the check values its rules state. -/

/-- The nine ASCII bytes of 123456789. -/
def digits : List Byte := (List.range 9).map (fun i => BitVec.ofNat 8 (0x31 + i))

/-- R54. -/
theorem test_crc16_check_value : crc16 digits = 0x29B1 := by decide +kernel
/-- R61. -/
theorem test_crc8_check_value : crc8 digits = 0xF4 := by decide +kernel

/-- Chapter 2, Decoding one FP4 block: 0xA is −1.0 and 0x3 is 1.5; the scales E8M0 0x7D and UE4M3 0x3C are 2⁻² and 1.5;
E4M3 0x5C is 24. -/
theorem test_element_values :
    elemNum .fp4 0xA = .fin true 2 (-1) ∧ elemNum .fp4 0x3 = .fin false 3 (-1) ∧ scaleNum .e8m0 0x7D = some (1, -2) ∧
    scaleNum .ue4m3 0x3C = some (12, -3) ∧ elemNum .e4m3 0x5C = .fin false 12288 (-9) := by decide +kernel

/-- A descriptor of one matrix with global scale 1. -/
def desc (format geometry rows cols base : Nat) : TDesc :=
  { (default : TDesc) with format := format, geometry := geometry, rows := rows, cols := cols, base := base, batch := 1, gscale := f32One }

/-- Chapter 2, Locating an element in a K-run tensor. -/
theorem test_kRun_element :
    let d := desc 0x11 0x04 1000 4096 0x4000000000
    d.boltElem 3 1000 = (14, 744) ∧ d.boltAddr 0 14 = 0x4000001C00 ∧ d.bolts = 4572 := by decide +kernel

/-- Chapter 2, One weight copy read both ways. -/
theorem test_twoD_element :
    let d := desc 0x11 0x0E 256 512 0
    d.boltElem 13 37 = (4, 853) ∧ d.kExtent false = 16 ∧ d.kExtent true = 8 := by decide +kernel

/-- Chapter 2, A jib-list entry. -/
theorem test_jibEntry_bytes :
    ({ index := 5, value := 0x4180, slot := 0, last := false } : JibEntry).bytes 0x102A =
      [0x05, 0, 0, 0, 0x80, 0x41, 0x39, 0x80] := by decide +kernel

/-! Dot products. -/

/-- The bytes at an address, added to a memory. -/
def put (a : Nat) (l : List (Nat × Nat)) (m : Mem) : Mem :=
  l.foldl (fun m p => m.setByte (a + p.1) (BitVec.ofNat 8 p.2)) m

/-- One segment of two operands read straight. -/
def straight (a b : TDesc) : List Segment := [{ a := { d := a, transposed := false }, b := { d := b, transposed := false } }]

/-- Chapter 3, Compensation keeps what plain FP32 loses. -/
theorem test_compensated_sum :
    let m := put 0 [(0, 0x06), (16, 0x02), (32, 0x02), (456, 0x89), (457, 0x7F), (458, 0x7F)] []
    let d := desc 0x11 0x04 1 96 0
    dotOutput m 1 (straight d d) 0 0 0 = (0x4B800001#32, []) := by decide +kernel

/-- Chapter 3, One rounding for a whole FP8 block: the common extent is 16. -/
theorem test_one_rounding :
    let m := put 512 [(0, 0x78), (1, 0x78), (2, 0x3C), (3, 0x3C), (4, 0x3C), (456, 0x7F), (457, 0x7F)]
      (put 0 [(0, 0x78), (1, 0x78), (2, 0x38), (3, 0x38), (4, 0x38), (456, 0x7F)] [])
    dotOutput m 1 (straight (desc 0x12 0x04 1 32 0) (desc 0x13 0x00 1 32 512)) 0 0 0 = (0x4B800002#32, []) := by
  decide +kernel

/-- Chapter 3, An overflowing block and a NaN block among ordinary ones: OVF at block 1, NAN_IN at block 2, a NaN out. -/
theorem test_overflow_and_nan :
    let m := put 0 [(0, 0x38), (32, 0x7E), (64, 0x7F), (96, 0x38), (456, 0x7F), (457, 0xFE), (458, 0x7F), (459, 0x7F)] []
    let d := desc 0x12 0x04 1 128 0
    let r := dotOutput m 1 (straight d { d with base := 0 }) 0 0 0
    r.1 = 0x7FC00000#32 ∧ flagVector r.2 = 0x09 ∧
      (r.2.filter (fun e => e.flag == .ovf)).map (fun e => e.pos.kblock) = [1] ∧
      ((r.2.filter (fun e => e.flag == .nanIn)).map (fun e => e.pos.kblock)).head? = some 2 := by decide +kernel

/-- Chapter 4, One rank against four; two ranks give the exact sum's rounding too. -/
theorem test_ranks :
    let m := put 0 [(0, 2), (16, 2), (32, 2), (48, 2), (456, 0x8B), (457, 0x7F), (458, 0x73), (459, 0x73)] []
    let d := desc 0x11 0x04 1 128 0
    [1, 2, 4].map (fun n => (dotOutput m n (straight d d) 0 0 0).1) =
      [0x4B800000#32, 0x4B800001#32, 0x4B800001#32] := by decide +kernel

/-- Chapter 3, Sticky saturation, from group 4,095 on. -/
theorem test_sticky_saturation :
    let a := IntAcc.group { acc := 2146959360, sat := none, g := 4095 } 524288
    IntAcc.group a (-520192) = { acc := 0x7FFFFFFF, sat := some 4095, g := 4097 } := by decide +kernel

/-! The writer path. -/

/-- Chapter 5, One FP4 block, two scale encodings. -/
theorem test_fp4_block :
    let vs := [(0x40A00000#32, 0), (0xC0E00000#32, 0), (0x3F400000#32, 0), (0x3E800000#32, 0)]
    writeBlock .fp4 .e8m0 0 f32One vs = { scale := 0x80, codes := [4, 0xE, 1, 0], clamp := false } ∧
    writeBlock .fp4 .ue4m3 0 f32One vs = { scale := 0x3A, codes := [6, 0xF, 1, 0], clamp := false } := by decide +kernel

/-- Chapter 5, A gradient element rounded both ways. -/
theorem test_gradient_rounding :
    let w := fun r => writeBlock .e5m2 .e8m0 1 f32One [(0x3FA00000#32, 0xFFFF), (0x3F900000#32, r), (0x3DCCCCCD#32, r)]
    (w 0x7FFF).codes = [0x79, 0x79, 0x6A] ∧ (w 0x8000).codes = [0x79, 0x78, 0x6A] ∧ (w 0x6665).codes = [0x79, 0x79, 0x6B] ∧
    (w 0x6666).codes = [0x79, 0x79, 0x6A] ∧ (w 0).scale = 0x70 := by decide +kernel

/-- Chapter 5, One tile over its quota. -/
theorem test_tile_quota :
    let d : TDesc := { desc 0x11 0x04 256 1024 0 with jibMode := 2, jibBudget := 40, jibCapacity := 160, jibThreshold := 0x41200000#32 }
    let q := fun k t => tileQuota d { seed := 0, stepField := 0, tm := 128, tn := 128, doublings := k } t
    [q 0 7, q 0 8, q 1 9, q 2 9] = [3, 2, 5, 10] := by decide +kernel

/-! The update, the layout, arbitration, reduction. -/

/-- Chapter 7, One element under ADAPTIVE. -/
def ada : Hyper :=
  { lr := 0x3A800000#32, beta1 := 0x3F600000#32, beta2 := 0x3F700000#32, eps := 0x35800000#32, wd := 0x3D800000#32
    aux0 := 0, aux1 := 0, aux2 := 0 }

theorem test_biasFactors : biasFactors ada 1 = (0x41000000#32, 0x41800000#32) := by decide +kernel

theorem test_adaptive :
    let u := adaptive ada (0x41000000#32, 0x41800000#32) 0x3E800000#32 f32One f32Zero f32Zero
    u.m1 = 0x3D000000#32 ∧ u.m2 = 0x3B800000#32 ∧ fadd f32One u.dw = 0x3F7FBC00#32 := by decide +kernel

/-- Chapter 8, Locating a bolt: 0x4000001C00 with every channel healthy, and with channel 87 mapped out. -/
theorem test_locate :
    let s := { State.reset with dShare := 16, cShare := [0, 0, 0, 0] }
    s.locate 0x4000001C00 = some (87, 0x19999800) := by decide +kernel

/-- Chapter 8, Freezing a stack port, cycles 100 and 101. -/
theorem test_arbiter :
    let w := [4, 4, 4, 4, 1, 4]
    let reqs := [false, false, true, false, true, false]
    let a := decideGrant w reqs none { (default : ArbSt) with ptr := 2, used := 3 }
    a = (some 2, { (default : ArbSt) with ptr := 3 }) ∧ decideGrant w reqs none a.2 = (some 4, { (default : ArbSt) with ptr := 5 }) := by
  decide +kernel

/-- Chapter 10, Arrival order does not matter. -/
theorem test_reduce :
    reduceElem 0 [(0x3F800000#32, false), (0x4B800000#32, false), (0x3F800000#32, false)] = (0x4B800001#32, []) := by
  decide +kernel

/-- Chapter 12, Six members on three feeds, and the case of a fourth member on feed 3. -/
theorem test_pairing :
    let feed := fun n => if n < 0x103 then 3 else if n < 0x105 then 5 else 9
    let more := fun n => if n < 0x103 ∨ n = 0x104 then 3 else if n = 0x103 then 5 else 9
    let l := pairList feed [0x105, 0x104, 0x103, 0x102, 0x101, 0x100]
    let k := pairList more [0x105, 0x104, 0x103, 0x102, 0x101, 0x100]
    (List.range 6).map (fun i => (pairOf feed false l i).1) = [0x103, 0x104, 0x105, 0x100, 0x101, 0x102] ∧
      ((List.range 6).filter (fun i => (pairOf more false k i).2.1 == 4)).map (fun i => k.getD i 0) = [0x100, 0x104] := by
  decide +kernel

/-- Chapter 8, Locating a bolt, with channel 87 mapped out and the region rebuilt. -/
theorem test_locate_mapped_out :
    let s := { State.reset with dShare := 16, cShare := [0, 0, 0, 0] }
    (s.wr .hbmState [87] 2).locate 0x4000001C00 = some (405, 0x19A3DA00) := by decide +kernel

/-! Single steps. -/

/-- The state after one command. -/
def after (c : Instr) (s : State) : State :=
  match step { s with pending := [c] } with
  | .next t => t
  | _ => s

/-- READY becomes 1 when start-up is done and the link is up (R387, R391). -/
theorem test_step_link_up :
    (after .pcieLinkUp { State.reset with startDone := true, perst := false, pwrGood := true }).rd .devReady [] = 1 := by
  decide +kernel

/-- A tail write publishes slots. -/
theorem test_step_ring_tail : (after (.ringTailWrite 15 70) live).rd .ringRingTail [15] = 70 := by decide +kernel

/-- GS_SET 0 is ignored; 2.0 is taken (R155, R180). -/
theorem test_step_gs_set :
    (after (.gsSet 0) live).rd .stGradScale [] = live.rd .stGradScale [] ∧
      (after (.gsSet 0x40000000) live).rd .stGradScale [] = 0x40000000 := by decide +kernel

/-- 105 °C is CRIT, 100 °C stays there, 99 °C is WARN, 92 °C stays there, 91 °C is NORMAL (R229). -/
theorem test_step_stack_temp :
    let s1 := after (.stackTempSample 4 105) live
    let s2 := after (.stackTempSample 4 100) s1
    let s3 := after (.stackTempSample 4 99) s2
    let s4 := after (.stackTempSample 4 92) s3
    [s1, s2, s3, s4, after (.stackTempSample 4 91) s4].map (fun s => s.rd .stkTstate [4]) = [2, 2, 1, 1, 0] := by decide +kernel

/-- A NOP has ended with DONE and its 64 slots are free; PACKET_END reports it. -/
theorem test_step_nop :
    let t := after (.nop wide) live
    t.flight.map (fun p => p.phase) = [.ended .done 0 false] ∧ t.rd .ringRingHead [15] = 64 := by decide +kernel

/-- FILL writes its eight-byte pattern repeatedly, low byte first, and nothing beyond BYTES (R11, chapter 13). -/
theorem test_step_fill :
    let a := (Region.lls 3).base
    (after (.fill plain a 16 0x0807060504030201) { live with partitions := [(3, 0, 1)] }).mem.read (a + 6) 12 =
      [7, 8, 1, 2, 3, 4, 5, 6, 7, 8, 0, 0] := by decide +kernel

/-- Two unordered packets fill 16 bytes each, eight of them in common: the record of the first leaves memory alone, the
record of the second makes the common bytes free (R24). -/
theorem test_step_unordered :
    let done := fun (i a : Nat) => { packet (.fill a 16 0) (.ended .done 0 false) with pid := i, ring := 15 }
    let s := { live with flight := [done 0 0x2000000000, done 1 0x2000000008], nextId := 2 }
    let t := after (.packetEnd 0) s
    t.free = 0 ∧ (after (.packetEnd 1) t).free = 1 ∧ (after (.packetEnd 1) t).flight = [] ∧
      t.flight.map (fun p => commonRanges p.raced (t.writesOf p)) = [[(0x2000000008, 8)]] := by decide +kernel

/-- A SOFTMAX that waits for a token finds no descriptors yet; once the packet that it waits for has written them it
reads them and runs. Without the wait it ends with BAD_PARAM at once (R24, R69). -/
theorem test_step_descriptors_by_token :
    let h := { plain with waits := [{ token := 3, value := 1, rel := false }] }
    let a := (Region.lls 3).base
    let empty : State := { tensors with mem := [], partitions := [(3, 0, 1)] }
    let s := after (.softmax h (a + 0x100) (a + 0x140)) empty
    let t := { s with mem := tensors.mem.map (fun x => (a + x.1, x.2)), tokens := [(3, 1)] }
    (s.flight.map (fun p => (p.phase, p.again)) = [(.waiting, true)]) ∧ (after (.packetStart 1) s).flight = s.flight ∧
      (after (.packetStart 1) t).flight.map (fun p => (p.phase, p.descs.length)) = [(.running, 2)] ∧
      (after (.softmax plain (a + 0x100) (a + 0x140)) empty).flight.map (fun p => p.phase) =
        [.ended .badParam 0 false] := by decide +kernel
end Sys2Proof.Tests
end

section
/-! PROOFS. What an operation changes of the state and of its register fields, said together; one tick of the always-on clock
by that measure (R8, R231–R234, R239, R360, R362). -/

namespace Sys2Proof.Machine

/-- A state follows another by changing the listed fields alone and, among register fields, those of the listed keys alone. -/
structure Touches (fs : List Field) (ks : List Nat) (s t : State) : Prop where
  only : ChangesOnly fs s t
  regs : RegsBut ks s t

section

variable {fs gs : List Field} {ks ls : List Nat} {s a t : State}

theorem Touches.refl : Touches fs ks s s := ⟨Does.refl.only, fun _ _ _ => rfl⟩

theorem Touches.trans (h1 : Touches fs ks s a) (h2 : Touches fs ks a t) : Touches fs ks s t :=
  ⟨h1.only.trans h2.only, fun r i hk => (h2.regs r i hk).trans (h1.regs r i hk)⟩

theorem Touches.mono (h : Touches fs ks s t) (hk : ks ⊆ ls) (hs : Field.sub fs gs = true := by decide) : Touches gs ls s t :=
  ⟨h.only.mono hs, fun r i hn => h.regs r i fun hm => hn (hk hm)⟩

theorem Touches.widen (h : Touches fs ks s t) (hs : Field.sub fs gs = true := by decide) : Touches gs ks s t :=
  h.mono (List.Subset.refl _) hs

/-- A fold touches what each of its steps does. -/
theorem Touches.foldl {β : Type} {f : State → β → State} {l : List β} (hf : ∀ b ∈ l, ∀ x, Touches fs ks x (f x b)) :
    Touches fs ks s (l.foldl f s) := by
  induction l generalizing s with
  | nil => exact .refl
  | cons b l ih => exact (hf b List.mem_cons_self s).trans (ih fun c hc => hf c (List.mem_cons_of_mem _ hc))

theorem Touches.ite {c : Prop} [Decidable c] {x y : State} (hx : c → Touches fs ks s x) (hy : Touches fs ks s y) :
    Touches fs ks s (if c then x else y) := by
  split
  · exact hx ‹_›
  · exact hy

/-- A change that keeps the register table keeps every register field. -/
theorem ChangesOnly.touches (h : ChangesOnly fs s t) (hr : t.regs = s.regs) : Touches fs ks s t :=
  ⟨h, fun r i _ => State.rd_congr hr r i⟩

theorem OnlyRegs.touches (h : OnlyRegs ks s t) (hs : Field.sub [.regs] fs = true := by decide) : Touches fs ks s t :=
  ⟨h.1.mono hs, h.2⟩

/-- Counting an event of a cluster changes its fixed counter and the programmable counters of its channel. -/
theorem OnlyRegs.countCluster {k e n : Nat} (hf : Reg.fixFixed.key [k / 48, k % 48, e] ∈ ks)
    (hp : ∀ i < 16, Reg.progValue.key [k / 48, i] ∈ ks) : OnlyRegs ks s (s.countCluster k e n) := by
  have step : ∀ i ∈ List.range 16, ∀ x, Touches [.regs] ks x (countProg (k / 48) e (some (k % 48 / 4)) n x i) := by
    intro i hi x
    exact .ite (fun _ => (OnlyRegs.wr (hp i (List.mem_range.1 hi))).touches) .refl
  have fixed : Touches [.regs] ks s (s.bump .fixFixed [k / 48, k % 48, e] n) := (OnlyRegs.wr hf).touches
  have h : Touches [.regs] ks s (s.countCluster k e n) := fixed.trans (Touches.foldl step)
  exact ⟨h.only, h.regs⟩

/-- Taking a free value moves the counter of free values alone. -/
theorem State.freeVal_touches (s : State) (w : Nat) : Touches [.free] ks s (s.freeVal w).2 :=
  (State.freeVal_does s w Does.refl).only.touches rfl

/-- What leaves the module changes no register field. -/
theorem State.emit_touches (s : State) (o : Out) : Touches [.out] ks s (s.emit o) :=
  (State.emit_does s o Does.refl).only.touches rfl

end

/-! The fields that a tick touches. -/

/-- What a tick changes once AO_NOW has moved. -/
def cycleFields : List Field := [.critTicks, .regs, .arbiters, .ports, .out, .free]

/-- CRIT_TICKS of every stack. -/
def critKeys : List Nat := (List.range 20).map (fun k => Reg.stkCritTicks.key [k])

theorem critKeys_subset_tickKeys : critKeys ⊆ tickKeys := fun _ h => by
  simp only [tickKeys, List.mem_append]
  exact .inl (.inl (.inl h))

theorem progValue_mem_tickKeys {c i : Nat} (hc : c < 4) (hi : i < 16) : Reg.progValue.key [c, i] ∈ tickKeys := by
  have : Reg.progValue.key [c, i] ∈ counterKeys :=
    List.mem_flatten.2 ⟨channelKeys c, List.mem_map.2 ⟨c, List.mem_range.2 hc, rfl⟩,
      List.mem_map.2 ⟨i, List.mem_range.2 hi, rfl⟩⟩
  simp only [tickKeys, List.mem_append]
  exact .inl (.inl (.inr this))

theorem portPartial_mem_tickKeys {p v : Nat} (hp : p < 12) (hv : v < 4) : Reg.portPartial.key [p, v] ∈ tickKeys := by
  simp only [tickKeys, List.mem_append]
  exact .inl (.inr (List.mem_flatten.2 ⟨_, List.mem_map.2 ⟨p, List.mem_range.2 hp, rfl⟩,
    List.mem_map.2 ⟨v, List.mem_range.2 hv, rfl⟩⟩))

theorem fixFixed_mem_tickKeys {k e : Nat} (hk : k < 192) (he : e < 48) :
    Reg.fixFixed.key [k / 48, k % 48, e] ∈ tickKeys := by
  simp only [tickKeys, List.mem_append]
  exact .inr (List.mem_flatten.2 ⟨_, List.mem_map.2 ⟨k, List.mem_range.2 hk, rfl⟩,
    List.mem_map.2 ⟨e, List.mem_range.2 he, rfl⟩⟩)

section

variable {s : State}

theorem State.countEvent_ticks {c ev n : Nat} (hc : c < 4) : Touches cycleFields tickKeys s (s.countEvent c ev n) :=
  (OnlyRegs.countEvent c ev n fun _ hi => progValue_mem_tickKeys hc hi).touches

theorem State.countCluster_ticks {k e n : Nat} (hk : k < 192) (he : e < 48) :
    Touches cycleFields tickKeys s (s.countCluster k e n) :=
  (OnlyRegs.countCluster (fixFixed_mem_tickKeys hk he) fun _ hi => progValue_mem_tickKeys (by omega) hi).touches

theorem State.freeVal_ticks (w : Nat) : Touches cycleFields tickKeys s (s.freeVal w).2 :=
  (s.freeVal_touches w).widen

/-! Stacks at CRIT, arbiters and ports. -/

theorem State.withCritTicks_touches {ks : List Nat} (s : State) (v : Tab Nat) :
    Touches [.critTicks] ks s { s with critTicks := v } := by
  refine ChangesOnly.touches (fun f hf => ?_) rfl
  cases f
  case critTicks => exact absurd List.mem_cons_self hf
  all_goals rfl

/-- A tick at CRIT changes the CRIT tick counts and CRIT_TICKS alone (R234). -/
theorem State.critTick_touches : Touches [.critTicks, .regs] critKeys s s.critTick := by
  refine .ite (fun _ => Touches.foldl fun st hst x => .ite (fun _ => ?_) .refl) .refl
  have hcount : Touches [.critTicks, .regs] critKeys x
      { x with critTicks := Tab.put x.critTicks st (Tab.get 0 x.critTicks st + 1) } :=
    (State.withCritTicks_touches x _).widen
  exact hcount.trans (OnlyRegs.wr (List.mem_map.2 ⟨st, hst, rfl⟩)).touches

/-- A cycle of an arbiter changes its state, and an empty grant of a stack's port counts (R231). -/
theorem State.arbStep_ticks (a : Nat) : Touches cycleFields tickKeys s (State.arbStep a s) := by
  have hfree := (s.freeVal_ticks 6).trans ((s.freeVal 6).2.freeVal_ticks 1)
  have harb : ∀ x : ArbSt, Touches cycleFields tickKeys s
      { ((s.freeVal 6).2.freeVal 1).2 with arbiters := Tab.put ((s.freeVal 6).2.freeVal 1).2.arbiters a x } := fun _ =>
    hfree.trans ((State.withArbiters_does _ _ Does.refl).only.touches rfl)
  exact .ite (fun ha => (harb _).trans (State.countEvent_ticks (by omega))) (harb _)

theorem State.arbTick_ticks : Touches cycleFields tickKeys s s.arbTick :=
  Touches.foldl fun a _ _ => Touches.foldl fun _ _ _ => State.arbStep_ticks a

theorem State.setPort_ticks {p : Nat} {q : PortSt} (hp : p < 12) : Touches cycleFields tickKeys s (s.setPort p q) := by
  have hports : Touches cycleFields tickKeys s { s with ports := Tab.put s.ports p q } :=
    (State.withPorts_does s _ Does.refl).only.touches rfl
  exact hports.trans (Touches.foldl fun _ hv _ => (OnlyRegs.wr (portPartial_mem_tickKeys hp (List.mem_range.1 hv))).touches)

/-- An IDLE flit leaves the port and counts as its event (R239, R362). -/
theorem State.idleFlit_ticks {p : Nat} (hp : p < 12) : Touches cycleFields tickKeys s (s.idleFlit p) := by
  refine .ite (fun _ => ?_) .refl
  have hevent : Touches cycleFields tickKeys s (s.portEvent p 12 1) := State.countEvent_ticks (by omega)
  refine Touches.trans ?_ (State.emit_touches _ _).widen
  exact Touches.trans hevent (State.setPort_ticks hp)

/-! Counters of cycles. -/

/-- A count of a free value. -/
theorem State.countFree_ticks {k e w : Nat} {f : Nat → Nat} (hk : k < 192) (he : e < 48) :
    Touches cycleFields tickKeys s ((s.freeVal w).2.countCluster k e (f (s.freeVal w).1)) :=
  (State.freeVal_ticks w).trans (State.countCluster_ticks hk he)

theorem State.tickCluster_ticks {k : Nat} (hk : k < 192) : Touches cycleFields tickKeys s (s.tickCluster k) := by
  unfold State.tickCluster
  extract_lets powered tested
  have hpowered : Touches cycleFields tickKeys s powered := State.countCluster_ticks hk (by decide)
  have htested : Touches cycleFields tickKeys powered tested :=
    .ite (fun _ => State.countCluster_ticks hk (by decide)) .refl
  have hfree : ∀ (x : State) (w : Nat) (f : Nat → Nat) (es : List Nat), (∀ e ∈ es, e < 48) →
      Touches cycleFields tickKeys x
        (es.foldl (fun s e => (s.freeVal w).2.countCluster k e (f (s.freeVal w).1)) x) := fun _ _ _ _ hes =>
    Touches.foldl fun e he _ => State.countFree_ticks hk (hes e he)
  refine (hpowered.trans htested).trans (.ite (fun _ => ?_) (State.countCluster_ticks hk (by decide)))
  exact (hfree tested 8 (· % 22) [3, 4, 33] (by decide)).trans (hfree _ 32 id [38, 41, 42, 43, 44] (by decide))

theorem State.tickCounter_ticks {c i : Nat} (hc : c < 4) (hi : i < 16) : Touches cycleFields tickKeys s (s.tickCounter c i) := by
  have hbump : ∀ (x : State) (n : Nat), Touches cycleFields tickKeys x (x.bump .progValue [c, i] n) := fun _ _ =>
    (OnlyRegs.wr (progValue_mem_tickKeys hc hi)).touches
  refine .ite (fun _ => ?_) .refl
  split
  · split
    · exact .refl
    · exact hbump s _
  · exact (State.freeVal_ticks 16).trans (hbump _ _)

theorem State.tickCounts_ticks : Touches cycleFields tickKeys s s.tickCounts := by
  unfold State.tickCounts
  extract_lets counted
  have hclusters : Touches cycleFields tickKeys s counted := Touches.foldl fun q hq _ => Touches.foldl fun i hi _ => by
    have hq := List.mem_range.1 (List.mem_filter.1 hq).1
    have hi := List.mem_range.1 hi
    exact State.tickCluster_ticks (by omega)
  exact hclusters.trans (Touches.foldl fun c hc _ => Touches.foldl fun i hi _ =>
    State.tickCounter_ticks (List.mem_range.1 hc) (List.mem_range.1 hi))

/-! The tick. -/

/-- AO_NOW moves on by one. -/
def State.aoStep (s : State) : State := { s with aoNow := s.aoNow + 1 }

theorem State.aoStep_touches {ks : List Nat} : Touches [.aoNow] ks s s.aoStep := by
  refine ChangesOnly.touches (fun f hf => ?_) rfl
  cases f
  case aoNow => exact absurd List.mem_cons_self hf
  all_goals rfl

theorem State.tick_unpowered (hp : s.power = 0) : s.tick = s := if_pos hp

theorem State.tick_of_power (h0 : s.power ≠ 0) : s.tick =
    if s.aoStep.critTick.power = 1 then ((List.range 12).foldl State.idleFlit s.aoStep.critTick.arbTick).tickCounts
    else s.aoStep.critTick := if_neg h0

theorem State.critTick_power : s.aoStep.critTick.power = s.power := State.critTick_touches.only .power (by decide)

theorem State.tick_alwaysOn (h0 : s.power ≠ 0) (h1 : s.power ≠ 1) : s.tick = s.aoStep.critTick := by
  rw [State.tick_of_power h0, State.critTick_power, if_neg h1]

theorem State.tick_powered (hp : s.power = 1) :
    s.tick = ((List.range 12).foldl State.idleFlit s.aoStep.critTick.arbTick).tickCounts := by
  rw [State.tick_of_power (by omega), State.critTick_power, if_pos hp]

/-- Once AO_NOW has moved, a tick of a powered module changes what its cycles change. -/
theorem State.tick_powered_touches (hp : s.power = 1) : Touches cycleFields tickKeys s.aoStep s.tick := by
  have hcrit : Touches cycleFields tickKeys s.aoStep s.aoStep.critTick := State.critTick_touches.mono critKeys_subset_tickKeys
  have hidle : ∀ x : State, Touches cycleFields tickKeys x ((List.range 12).foldl State.idleFlit x) := fun _ =>
    Touches.foldl fun _ hq _ => State.idleFlit_ticks (List.mem_range.1 hq)
  rw [State.tick_powered hp]
  exact ((hcrit.trans State.arbTick_ticks).trans (hidle _)).trans State.tickCounts_ticks

theorem step_idle (h : s.pending = []) : step s = .next s.tick := by
  rw [step, h]

end

/-- Settles O2: with no command waiting, a step is one tick, and a tick is AO_NOW's move followed by operations that each touch
only what the statement lists. -/
theorem stepTicksWhenIdle : Obligations.StepTicksWhenIdle := by
  intro s hq
  rw [step_idle hq]
  refine ⟨fun hp => by rw [State.tick_unpowered hp], fun h0 h1 => ⟨_, rfl, ?_⟩, fun hp => ⟨_, rfl, ?_⟩⟩
  · rw [State.tick_alwaysOn h0 h1]
    have hcrit : Touches [.critTicks, .regs] critKeys s.aoStep s.aoStep.critTick := State.critTick_touches
    have hall : Touches [.aoNow, .critTicks, .regs] critKeys s s.aoStep.critTick :=
      State.aoStep_touches.widen.trans hcrit.widen
    exact ⟨hcrit.only .aoNow (by decide), hall.only, hall.regs⟩
  · have hcycles := State.tick_powered_touches hp
    have hall : Touches tickFields tickKeys s s.tick :=
      State.aoStep_touches.widen.trans hcycles.widen
    exact ⟨hcycles.only .aoNow (by decide), hall.only, hall.regs⟩

end Sys2Proof.Machine
end

section
/-! PROOFS. BAR0 words: the write of a word that one field fills, reads, and the requests that are refused (R13, R14, R327,
R328, R332). -/

namespace Sys2Proof.Machine

/-! TLP data bytes. -/

section

variable {s : State} {n : Nat}

theorem State.countBw_bwTotals (s : State) (p : Nat) (inward : Bool) (n : Nat) :
    (s.countBw p inward n).bwTotals = Tab.upd 0 s.bwTotals (2 * p + b2n inward) (fun v => v + n) := by
  unfold State.countBw
  dsimp only
  split <;> rfl

theorem State.countBw_regs (s : State) (p : Nat) (inward : Bool) (n : Nat) : (s.countBw p inward n).regs = s.regs := by
  unfold State.countBw
  dsimp only
  split <;> rfl

/-- Bytes at port 32 with their event count at the port and in the programmable counters of channel 0. -/
theorem State.countTlp_touches (inward : Bool) (ev : Nat) :
    Touches [.regs, .bwTotals, .bwWindow] (channelKeys 0) s ((s.countBw 32 inward n).countEvent 0 ev n) := by
  have hbw : Touches [.regs, .bwTotals, .bwWindow] (channelKeys 0) s (s.countBw 32 inward n) :=
    (State.countBw_does s 32 inward n Does.refl).only.touches (s.countBw_regs ..)
  exact hbw.trans (OnlyRegs.countEvent 0 ev n fun i hi => List.mem_map.2 ⟨i, List.mem_range.2 hi, rfl⟩).touches

theorem State.countEvent_bwTotals (s : State) (c ev n : Nat) : (s.countEvent c ev n).bwTotals = s.bwTotals :=
  (State.countEvent_does (fs := [.regs]) s c ev n Does.refl).only .bwTotals (by decide)

theorem State.tlpIn_touches : Touches [.regs, .bwTotals, .bwWindow] (channelKeys 0) s (s.tlpIn n) :=
  State.countTlp_touches true 0x1E0

theorem State.tlpOut_touches : Touches [.regs, .bwTotals, .bwWindow] (channelKeys 0) s (s.tlpOut n) :=
  State.countTlp_touches false 0x1E1

theorem State.tlpIn_bwTotals : (s.tlpIn n).bwTotals = Tab.upd 0 s.bwTotals 65 (fun v => v + n) :=
  (State.countEvent_bwTotals ..).trans (State.countBw_bwTotals ..)

theorem State.tlpOut_bwTotals : (s.tlpOut n).bwTotals = Tab.upd 0 s.bwTotals 64 (fun v => v + n) :=
  (State.countEvent_bwTotals ..).trans (State.countBw_bwTotals ..)

theorem State.tlpOut_out : (s.tlpOut n).out = s.out := State.tlpOut_touches.only .out (by decide)

theorem State.tlpIn_hostBytes : HostBytes n s (s.tlpIn n) := by
  unfold HostBytes
  rw [State.tlpIn_bwTotals]
  exact ⟨Tab.get_put_same .., fun k hk => Tab.get_put_ne _ _ _ hk⟩

theorem State.tlpIn_hostWrote : HostWrote n [] s (s.tlpIn n) := by
  have h : Touches [.regs, .bwTotals, .bwWindow, .heldWords] (channelKeys 0 ++ []) s (s.tlpIn n) :=
    State.tlpIn_touches.mono (List.subset_append_left _ _)
  exact ⟨h.only, h.regs, State.tlpIn_hostBytes⟩

end

/-! Writes of a word that one field fills. -/

/-- The offset of a field's word. -/
def Reg.offAt (r : Reg) (idx : List Nat) : Nat := r.off + strideSum r.dims idx

/-- A field fills a word of BAR0 whose writes follow no rule of their own (TOKEN and AMOUNT, SELECT, stage units). -/
structure FillsWord (r : Reg) (idx : List Nat) : Prop where
  sole : fieldsAt (r.offAt idx) 4 = [(r, idx)]
  legal : bar0Legal (r.offAt idx) 4 = true
  notToken : r.offAt idx ≠ 0x20
  whole : r.lsb = 0 ∧ r.width = 32
  plain : (r == .progEvent || r == .stageUnits) = false

/-- RING_TAIL and RING_HEAD of every ring fill their words (R332). -/
theorem ringIndex_fillsWord {q : Reg} {r : Nat} (hq : q ∈ [Reg.ringRingTail, Reg.ringRingHead]) (hr : r < 16) :
    FillsWord q [r] := by
  have hfield : ∀ q ∈ [Reg.ringRingTail, Reg.ringRingHead],
      (q.lsb = 0 ∧ q.width = 32) ∧ (q == .progEvent || q == .stageUnits) = false := by decide
  have hword : ∀ q ∈ [Reg.ringRingTail, Reg.ringRingHead], ∀ r < 16,
      fieldsAt (q.offAt [r]) 4 = [(q, [r])] ∧ bar0Legal (q.offAt [r]) 4 = true ∧ q.offAt [r] ≠ 0x20 := by decide
  obtain ⟨whole, plain⟩ := hfield q hq
  obtain ⟨sole, legal, notToken⟩ := hword q hq r hr
  exact ⟨sole, legal, notToken, whole, plain⟩

section

variable {s : State} {r : Reg} {idx : List Nat} {v : Nat}

/-- A write of the word gives the field the value, cut to the word. -/
theorem State.fieldValue_fillsWord (h : FillsWord r idx) : s.fieldValue r idx (r.offAt idx) 4 v = some (v % 2 ^ 32) := by
  obtain ⟨low, wide⟩ := h.whole
  have hspan : r.span / 4 = 1 := by simp [Reg.span, low, wide]
  unfold State.fieldValue
  rw [if_pos hspan, low, wide]
  simp [bitsOf, wordOf, Reg.offAt]

/-- A 4-byte write of the word is a write of the field: its place among the enables makes no difference alone. -/
theorem State.hostWrite_fillsWord (h : FillsWord r idx) : s.hostWrite (r.offAt idx) 4 v = s.fieldWrite s r idx (v % 2 ^ 32) := by
  unfold State.hostWrite
  simp only [h.sole, h.notToken, if_false, List.find?_cons, h.plain, List.find?_nil, List.map_cons, List.map_nil,
    State.fieldValue_fillsWord h, List.foldl_cons, List.foldl_nil]
  split <;> rfl

/-- While the host interface takes writes, a legal 4-byte write counts its bytes and reaches its field. -/
theorem State.bar0Write_fillsWord (h : FillsWord r idx) (ht : HostTakes s) :
    s.bar0Write (r.offAt idx) 4 v = (s.tlpIn 4).fieldWrite (s.tlpIn 4) r idx (v % 2 ^ 32) := by
  obtain ⟨_, hroom⟩ := ht
  unfold State.bar0Write
  rw [h.legal, hroom, State.hostWrite_fillsWord h]
  simp

theorem State.hostField_takes {r : Reg} {idx : List Nat} {v : Nat} (ht : HostTakes s) (hh : r.has idx = true) :
    s.hostField r idx v = (s.tlpIn r.span).fieldWrite (s.tlpIn r.span) r idx (v % 2 ^ r.width) := by
  obtain ⟨_, hroom⟩ := ht
  unfold State.hostField
  rw [hh, hroom]
  rfl

/-- Nothing thaws where every FREEZE is as before. -/
theorem State.thaw_of_freeze_same {t : State} (h : ∀ a < 37, t.rd .arbFreeze [a] = s.rd .arbFreeze [a]) : t.thaw s = t := by
  refine if_neg ?_
  simp only [List.any_eq_true, List.mem_range, not_exists, not_and, State.flag]
  intro a ha
  rw [h a ha]
  simp

end

/-! RING_TAIL and RING_HEAD. -/

section

variable {s : State} {r v : Nat}

theorem State.fieldWrite_ringRingTail (s0 s : State) (r v : Nat) :
    s0.fieldWrite s .ringRingTail [r] v = (s.wr .ringRingTail [r] v).dropHeld .ringRingTail [r] := rfl

theorem State.fieldWrite_ringRingHead (s0 s : State) (r v : Nat) : s0.fieldWrite s .ringRingHead [r] v = s := rfl

theorem State.dropHeld_regs (s : State) (r : Reg) (idx : List Nat) : (s.dropHeld r idx).regs = s.regs := by
  unfold State.dropHeld
  dsimp only
  split <;> rfl

theorem arbFreeze_not_mem_channelKeys {a : Nat} (_ : a < 37) : Reg.arbFreeze.key [a] ∉ channelKeys 0 := by
  simp only [channelKeys, List.mem_map, List.mem_range, not_exists, not_and]
  intro i hi
  simp only [Reg.key, Reg.progValue, Reg.arbFreeze, strideSum]
  omega

theorem State.tlpIn_arbFreeze {n a : Nat} (ha : a < 37) : (s.tlpIn n).rd .arbFreeze [a] = s.rd .arbFreeze [a] :=
  State.tlpIn_touches.regs _ _ (arbFreeze_not_mem_channelKeys ha)

/-- RING_TAIL of a ring takes a value that came from the host. -/
def State.tailTake (s : State) (r v : Nat) : State := ((s.tlpIn 4).wr .ringRingTail [r] v).dropHeld .ringRingTail [r]

theorem State.tailTake_ringRingTail : (s.tailTake r v).rd .ringRingTail [r] = v % 2 ^ 32 := by
  rw [State.tailTake, State.rd_congr (State.dropHeld_regs ..), State.rd_wr_same]
  rfl

theorem State.tailTake_arbFreeze {a : Nat} (_ : r < 16) (ha : a < 37) :
    (s.tailTake r v).rd .arbFreeze [a] = s.rd .arbFreeze [a] := by
  have hkey : Reg.arbFreeze.key [a] ≠ Reg.ringRingTail.key [r] := by
    simp only [Reg.key, Reg.ringRingTail, Reg.arbFreeze, strideSum]
    omega
  rw [State.tailTake, State.rd_congr (State.dropHeld_regs ..), State.rd_wr_ne _ _ hkey, State.tlpIn_arbFreeze ha]

theorem exec_ringTailWrite (r v : Nat) (s : State) :
    exec (.ringTailWrite r v) s = hosted s (fun s => s.hostField .ringRingTail [r] v) := rfl

theorem exec_registerWrite (off n v : Nat) (s : State) :
    exec (.registerWrite off n v) s = hosted s (fun s => (s.bar0Write off n v).thaw s) := rfl

theorem hosted_takes {f : State → State} (ht : HostTakes s) : hosted s f = .next (f s) := by
  rw [hosted, ht.1]
  rfl

/-- A 4-byte write of a word that one field fills: its bytes count, the field is written, and what that thaws goes on. -/
theorem registerWrite_fillsWord {q : Reg} {idx : List Nat} (h : FillsWord q idx) (ht : HostTakes s) :
    exec (.registerWrite (q.offAt idx) 4 v) s =
      .next (((s.tlpIn 4).fieldWrite (s.tlpIn 4) q idx (v % 2 ^ 32)).thaw s) := by
  rw [exec_registerWrite, hosted_takes ht, State.bar0Write_fillsWord h ht]

/-- RING_TAIL_WRITE (R332). -/
theorem ringTailWrite_takes (ht : HostTakes s) (hr : r < 16) : exec (.ringTailWrite r v) s = .next (s.tailTake r (v % 2 ^ 32)) := by
  have hh : Reg.ringRingTail.has [r] = true := by simp [Reg.has, Reg.ringRingTail, hr]
  rw [exec_ringTailWrite, hosted_takes ht, State.hostField_takes ht hh]
  rfl

/-- A 4-byte write of RING_TAIL's word does what RING_TAIL_WRITE does: no arbiter thaws. -/
theorem registerWrite_ringRingTail (ht : HostTakes s) (hr : r < 16) :
    exec (.registerWrite (Reg.ringRingTail.offAt [r]) 4 v) s = .next (s.tailTake r (v % 2 ^ 32)) := by
  rw [registerWrite_fillsWord (ringIndex_fillsWord (by decide) hr) ht]
  exact congrArg _ (State.thaw_of_freeze_same fun a ha => State.tailTake_arbFreeze hr ha)

/-- A 4-byte write of RING_HEAD's word only counts its bytes. -/
theorem registerWrite_ringRingHead (ht : HostTakes s) (hr : r < 16) :
    exec (.registerWrite (Reg.ringRingHead.offAt [r]) 4 v) s = .next (s.tlpIn 4) := by
  rw [registerWrite_fillsWord (ringIndex_fillsWord (by decide) hr) ht]
  exact congrArg _ (State.thaw_of_freeze_same fun a ha => State.tlpIn_arbFreeze ha)

end

/-! Reads, and requests that are refused. -/

section

variable {s : State} {off n : Nat}

theorem exec_bar0BadAccess (write : Bool) (off n : Nat) (s : State) :
    exec (.bar0BadAccess write off n) s = linkedReq s (fun s => if write then s else s.readBar0 off n) := rfl

theorem exec_atomicOpRequest (s : State) : exec .atomicOpRequest s = linkedReq s (fun s => s.emit .readUR) := rfl

theorem linkedReq_linked {f : State → State} (hl : s.linked = true) : linkedReq s f = .next (f s) := by
  rw [linkedReq, hl]
  rfl

theorem State.bar0Read_legal (hb : bar0Legal off n = true) : ∃ v, s.bar0Read off n = some v := ⟨_, if_pos hb⟩

theorem State.bar0Read_illegal (hb : bar0Legal off n = false) : s.bar0Read off n = none := by
  rw [State.bar0Read, hb]
  rfl

/-- A read that is answered counts its bytes and completes with them. -/
theorem State.readBar0_answered {v : Nat} (hd : s.cfg.d3hot = false) (hv : s.bar0Read off n = some v) :
    s.readBar0 off n = (s.tlpOut n).emit (.readData (leBytes n v)) := by
  rw [State.readBar0, hd, hv]
  rfl

theorem State.readBar0_illegal (hb : bar0Legal off n = false) : s.readBar0 off n = s.emit .readUR := by
  rw [State.readBar0, State.bar0Read_illegal hb, ite_self]

theorem bar0Legal_of_misfit (h : n ≠ 4 ∧ n ≠ 8 ∨ off % n ≠ 0) : bar0Legal off n = false := by
  rw [Bool.eq_false_iff]
  simp only [bar0Legal, ne_eq, Bool.and_eq_true, Bool.or_eq_true, beq_iff_eq]
  omega

/-- The data of a read leaves after its bytes are counted. -/
theorem State.answer_touches (x : Out) :
    Touches [.regs, .bwTotals, .bwWindow, .out] (channelKeys 0) s ((s.tlpOut n).emit x) :=
  State.tlpOut_touches.widen.trans (State.emit_touches _ x).widen

theorem State.answer_bytes (x : Out) : Tab.get 0 ((s.tlpOut n).emit x).bwTotals 64 = Tab.get 0 s.bwTotals 64 + n := by
  rw [State.emit_bwTotals, State.tlpOut_bwTotals]
  exact Tab.get_put_same ..

theorem bar0Read_answers (hl : s.linked = true) (hd : s.cfg.d3hot = false) (hb : bar0Legal off n = true) :
    ∃ t v, s.bar0Read off n = some v ∧ exec (.bar0BadAccess false off n) s = .next t ∧
      t.out = s.out ++ [.readData (leBytes n v)] ∧ ChangesOnly [.regs, .bwTotals, .bwWindow, .out] s t ∧
      RegsBut (channelKeys 0) s t ∧ Tab.get 0 t.bwTotals 64 = Tab.get 0 s.bwTotals 64 + n := by
  obtain ⟨v, hv⟩ := State.bar0Read_legal (s := s) hb
  refine ⟨(s.tlpOut n).emit (.readData (leBytes n v)), v, hv, ?_, ?_, (State.answer_touches _).only,
    (State.answer_touches _).regs, State.answer_bytes _⟩
  · rw [exec_bar0BadAccess, linkedReq_linked hl, ← State.readBar0_answered hd hv]
    rfl
  · rw [State.emit_out, State.tlpOut_out]

theorem bar0BadAccess_refused {write : Bool} (hl : s.linked = true) (h : n ≠ 4 ∧ n ≠ 8 ∨ off % n ≠ 0) :
    exec (.bar0BadAccess write off n) s = .next (if write then s else { s with out := s.out ++ [.readUR] }) := by
  rw [exec_bar0BadAccess, linkedReq_linked hl, State.readBar0_illegal (bar0Legal_of_misfit h)]
  rfl

end

/-- Settles O15: RING_TAIL and RING_HEAD fill their words, so a word write is a write of the field; a read answers with the
words it reads, and what is refused only answers. -/
theorem registerWordsAndAtomics : Obligations.RegisterWordsAndAtomics := by
  intro s
  refine ⟨fun r v ht hr hv => ?_, fun r v ht hr => ?_, fun off n hl hd hb => bar0Read_answers hl hd hb,
    fun off n write hl h => bar0BadAccess_refused hl h, fun hl => ?_⟩
  · refine ⟨s.tailTake r (v % 2 ^ 32), registerWrite_ringRingTail ht hr, ringTailWrite_takes ht hr, ?_⟩
    rw [State.tailTake_ringRingTail, Nat.mod_mod, Nat.mod_eq_of_lt hv]
  · exact ⟨s.tlpIn 4, registerWrite_ringRingHead ht hr, State.tlpIn_hostWrote⟩
  · rw [exec_atomicOpRequest, linkedReq_linked hl]
    rfl

end Sys2Proof.Machine
end

section
/-! PROOFS. The reset state, field by field, and that every command answers a next state (R32, R331, R387; log entries 2
and 4). -/

namespace Sys2Proof.Machine

/-- Settles O7: `exec` answers `next` in each of its arms. -/
theorem everyCommandAnswersAState : Obligations.EveryCommandAnswersAState := by
  intro c s
  cases c <;> exact ⟨_, rfl⟩

/-- A field whose reset value is the same at every index reads it in the reset state. -/
theorem State.reset_rd {r : Reg} (idx : List Nat) (h : r ∉ [Reg.arbWeight, .devModuleId, .grpModuleId, .devFwMinor]) :
    State.reset.rd r idx = r.reset := by
  simp only [List.mem_cons, List.not_mem_nil, or_false, not_or] at h
  obtain ⟨hw, hd, hg, hf⟩ := h
  change r.resetAt idx = r.reset
  rw [Reg.resetAt, if_neg hw, if_neg (not_or.2 ⟨hd, hg⟩), if_neg hf]

/-- Settles O3: the register table of the reset state is empty, so each field reads its reset value. -/
theorem resetRegisterValues : Obligations.ResetRegisterValues := by
  have field : ∀ {r : Reg} (idx : List Nat), r ∉ [Reg.arbWeight, .devModuleId, .grpModuleId, .devFwMinor] →
      State.reset.rd r idx = r.reset := fun idx h => State.reset_rd idx h
  refine ⟨rfl, rfl, rfl, rfl, rfl, rfl, field _ (by decide), field _ (by decide), field _ (by decide), field _ (by decide),
    field _ (by decide), field _ (by decide), field _ (by decide), fun r => ?_, fun i => ?_, fun p => field _ (by decide),
    fun t => ⟨rfl, rfl⟩, fun a => rfl⟩
  · exact ⟨field _ (by decide), field _ (by decide), field _ (by decide), field _ (by decide)⟩
  · exact ⟨field _ (by decide), field _ (by decide)⟩

end Sys2Proof.Machine
end

section
/-! PROOFS. States whose LOST_COUNT is wider than its field: what BAR2 reads and descriptors that end meet in one (R22, R55,
R90, R211, R227, R228, R328, R363). -/

namespace Sys2Proof.Machine

/-! Bolts with an error. -/

section

variable {s : State} {a n b c k : Nat}

/-- A bolt whose address a counted LOST_ADDR holds is lost. -/
theorem State.lostBolt_of_lostAddr (hh : s.homeChannel b = some c) (hk : k < s.rd .llsLostCount [c])
    (ha : s.rd .llsLostAddr [c, k] = b) : s.lostBolt b = true := by
  unfold State.lostBolt
  rw [hh]
  simp only [Bool.or_eq_true, List.any_eq_true, List.mem_range, beq_iff_eq]
  exact .inr ⟨k, hk, ha⟩

/-- A bolt is not lost where its slice's table has not overflowed and no counted LOST_ADDR holds its address. -/
theorem State.lostBolt_eq_false (h : ∀ c, s.homeChannel b = some c →
    s.flag .llsLostOverflow [c] = false ∧ ∀ k < s.rd .llsLostCount [c], s.rd .llsLostAddr [c, k] ≠ b) :
    s.lostBolt b = false := by
  unfold State.lostBolt
  split
  · rfl
  · next c hc =>
    obtain ⟨ho, ha⟩ := h c hc
    simp only [Bool.or_eq_false_iff, List.any_eq_false, List.mem_range, beq_iff_eq]
    exact ⟨ho, ha⟩

/-- A lost bolt of a range is one of its bad bolts. -/
theorem State.mem_badBolts_of_lost (hb : b ∈ boltsOf a n) (hl : s.lostBolt b = true) (hc : c < 4)
    (hn : s.rd .llsLostCount [c] ≠ 0) : b ∈ s.badBolts a n := by
  have hall : (s.ue.isEmpty &&
      (List.range 4).all (fun c => s.rd .llsLostCount [c] == 0 && !s.flag .llsLostOverflow [c])) = false := by
    simp only [Bool.and_eq_false_iff, List.all_eq_false, List.mem_range]
    exact .inr ⟨c, hc, by simp [hn]⟩
  unfold State.badBolts
  rw [hall]
  simp [hb, hl]

/-- Bolts lie at multiples of 512. -/
theorem mod_of_mem_boltsOf (hb : b ∈ boltsOf a n) : b % 512 = 0 := by
  unfold boltsOf at hb
  split at hb
  · cases hb
  · obtain ⟨i, -, rfl⟩ := List.mem_map.1 hb
    omega

/-- Where no bolt has an error or is lost, a range has no bad bolt. -/
theorem State.badBolts_eq_nil (hu : s.ue = []) (hl : ∀ b, b % 512 = 0 → s.lostBolt b = false) : s.badBolts a n = [] := by
  unfold State.badBolts
  split
  · rfl
  · rw [List.filter_eq_nil_iff]
    intro b hb
    simp [hu, hl b (mod_of_mem_boltsOf hb)]

end

/-! A register field reads its reset value or a value listed under its key. -/

/-- A listed value is an entry of the table. -/
theorem Tab.mem_of_find {α : Type} {t : Tab α} {k : Nat} {v : α} (h : Tab.find t k = some v) : (k, v) ∈ t := by
  induction t with
  | nil => cases h
  | cons x t ih =>
    obtain ⟨i, w⟩ := x
    unfold Tab.find at h
    split_ifs at h with hk
    · cases h
      subst hk
      exact List.mem_cons_self
    · exact List.mem_cons_of_mem _ (ih h)

theorem State.rd_mem (s : State) (r : Reg) (idx : List Nat) :
    s.rd r idx = r.resetAt idx ∨ (r.key idx, s.rd r idx) ∈ s.regs := by
  unfold State.rd Tab.get
  cases hf : Tab.find s.regs (r.key idx) with
  | none => exact .inl rfl
  | some v => exact .inr (Tab.mem_of_find hf)

/-! The state. -/

/-- The first byte of slice 1's scratchpad. -/
def sliceOne : Nat := 0x080020000000

/-- The register fields of `overfull` that do not hold their reset values. -/
def overfullRegs (e : Nat) : Tab Nat :=
  [(Reg.devBar2Base.key [], sliceOne), (Reg.llsLostCount.key [1], 653252), (Reg.progEvent.key [0, 1], e),
    (Reg.progEnable.key [0, 1], 1), (Reg.progValue.key [0, 1], sliceOne - 1)]

/-- LOST_COUNT of slice 1 holds a value wider than its seven bits, so that LOST_ADDR 653251 counts as one of them; that word is
VALUE of programmable counter 1 of channel 0, which counts event e and stands just below the address of slice 1's first bolt. -/
def overfull (e : Nat) (flight : List Packet) (descs : List Desc) : State :=
  { State.reset with
    pcieUp := true, startDone := true, partitions := [(1, 0, 1)], regs := overfullRegs e, flight := flight, descs := descs }

section

variable {e : Nat} {flight : List Packet} {descs : List Desc}

/-- A field of `overfull` reads its reset value, or is one of those listed. -/
theorem overfull_rd (r : Reg) (idx : List Nat) : (overfull e flight descs).rd r idx = r.resetAt idx ∨
    (r.key idx, (overfull e flight descs).rd r idx) ∈ overfullRegs e := State.rd_mem _ r idx

theorem overfull_keys {k v : Nat} (h : (k, v) ∈ overfullRegs e) :
    k = 768 ∧ v = sliceOne ∨ k = 101195776 ∧ v = 653252 ∨ k = 268567040 ∧ v = e ∨ k = 268567071 ∧ v = 1 ∨
      k = 268567296 ∧ v = sliceOne - 1 := by
  simpa [overfullRegs, Reg.key, strideSum, Reg.devBar2Base, Reg.llsLostCount, Reg.progEvent, Reg.progEnable,
    Reg.progValue] using h

/-- The table of no slice has overflowed. -/
theorem overfull_lostOverflow (c : Nat) : (overfull e flight descs).flag .llsLostOverflow [c] = false := by
  have hk : Reg.llsLostOverflow.key [c] = 101187591 + 8192 * c := by
    simp [Reg.key, strideSum, Reg.llsLostOverflow]
    omega
  have hr : Reg.llsLostOverflow.resetAt [c] = 0 := by
    simp [Reg.resetAt, Reg.llsLostOverflow, Reg.arbWeight, Reg.devModuleId, Reg.grpModuleId, Reg.devFwMinor]
  have h0 : (overfull e flight descs).rd .llsLostOverflow [c] = 0 := by
    rcases overfull_rd (e := e) (flight := flight) (descs := descs) .llsLostOverflow [c] with h | h
    · rw [h, hr]
    · have := overfull_keys h
      omega
  simp [State.flag, h0]

/-- Only slice 1 counts lost bolts. -/
theorem overfull_lostCount {c : Nat} (hc : c ≠ 1) : (overfull e flight descs).rd .llsLostCount [c] = 0 := by
  have hk : Reg.llsLostCount.key [c] = 101187584 + 8192 * c := by
    simp [Reg.key, strideSum, Reg.llsLostCount]
    omega
  have hr : Reg.llsLostCount.resetAt [c] = 0 := by
    simp [Reg.resetAt, Reg.llsLostCount, Reg.arbWeight, Reg.devModuleId, Reg.grpModuleId, Reg.devFwMinor]
  rcases overfull_rd (e := e) (flight := flight) (descs := descs) .llsLostCount [c] with h | h
  · rw [h, hr]
  · have := overfull_keys h
    omega

/-- No LOST_ADDR of slice 1 holds the address of a bolt other than 0. -/
theorem overfull_lostAddr (he : e % 512 ≠ 0) (k : Nat) {b : Nat} (hb : b % 512 = 0) (h0 : b ≠ 0) :
    (overfull e flight descs).rd .llsLostAddr [1, k] ≠ b := by
  have hk : Reg.llsLostAddr.key [1, k] = 101335040 + 256 * k := by
    simp [Reg.key, strideSum, Reg.llsLostAddr]
    omega
  have hr : Reg.llsLostAddr.resetAt [1, k] = 0 := by
    simp [Reg.resetAt, Reg.llsLostAddr, Reg.arbWeight, Reg.devModuleId, Reg.grpModuleId, Reg.devFwMinor]
  rcases overfull_rd (e := e) (flight := flight) (descs := descs) .llsLostAddr [1, k] with h | h
  · rw [h, hr]
    exact h0.symm
  · have := overfull_keys h
    unfold sliceOne at this
    omega

/-- No bolt meets an error in `overfull`. -/
theorem overfull_badBolts (he : e % 512 ≠ 0) (hz : (overfull e flight descs).homeChannel 0 = some 0) (a n : Nat) :
    (overfull e flight descs).badBolts a n = [] := by
  refine State.badBolts_eq_nil rfl fun b hb => State.lostBolt_eq_false fun c hc => ⟨overfull_lostOverflow c, fun k hk => ?_⟩
  by_cases h1 : c = 1
  · subst h1
    refine overfull_lostAddr he k hb fun h0 => ?_
    subst h0
    cases hz.symm.trans hc
  · rw [overfull_lostCount h1] at hk
    exact absurd hk (Nat.not_lt_zero k)

end

/-- Once counter 1 of channel 0 has moved, the first bolt of slice 1 meets an error. -/
theorem mem_badBolts_of_moved {s : State} {a n : Nat} (hb : sliceOne ∈ boltsOf a n) (hc : s.rd .llsLostCount [1] = 653252)
    (ha : s.rd .progValue [0, 1] = sliceOne) : sliceOne ∈ s.badBolts a n := by
  have haddr : s.rd .llsLostAddr [1, 653251] = sliceOne := ha
  have hhome : s.homeChannel sliceOne = some 1 := rfl
  exact State.mem_badBolts_of_lost hb (State.lostBolt_of_lostAddr hhome (by omega) haddr) (show 1 < 4 by decide) (by omega)

/-! BAR2 reads. -/

theorem exec_bar2Read (o n upset : Nat) (s : State) :
    exec (.bar2Read o n upset) s = linkedReq s (fun s => s.bar2ReadMeets o n upset) := rfl

section

variable {s : State} {a n o : Nat}

/-- A read that meets nothing new, on available channels of a region and no held stack, reads the bytes of its range. -/
theorem State.bar2ReadMeets_data (hh : s.hostOk = true) (hi : s.bar2Inside o n = true)
    (hd : (s.countEvent 0 0x1E2 1).startDone = true) (hr : (s.countEvent 0 0x1E2 1).inRegion (s.rd .devBar2Base [] + o) n = true)
    (hu : (s.countEvent 0 0x1E2 1).unavailIn (s.rd .devBar2Base [] + o) n = false)
    (hheld : (s.countEvent 0 0x1E2 1).heldIn (s.rd .devBar2Base [] + o) n = false) :
    s.bar2ReadMeets o n 0 = (s.countEvent 0 0x1E2 1).bar2Data (s.rd .devBar2Base [] + o) n := by
  unfold State.bar2ReadMeets State.bar2Read
  simp [hh, hi, hd, hr, hu, hheld, State.upset]

/-- A read that meets an uncorrectable error is answered with Completer Abort. -/
theorem State.bar2Data_bad (hb : s.badBolts a n ≠ []) : (s.bar2Data a n).out.getLast? = some .readCA := by
  have : (s.badBolts a n).isEmpty = false := by simpa using hb
  unfold State.bar2Data
  dsimp only
  rw [this]
  simp

end

/-- `overfull` once a BAR2 read has counted its event. -/
def overfullRead : State := (overfull 0x1E2 [] []).countEvent 0 0x1E2 1

theorem overfullRead_badBolts : overfullRead.badBolts sliceOne 4 ≠ [] :=
  List.ne_nil_of_mem (mem_badBolts_of_moved (by decide +kernel) (by decide +kernel) (by decide +kernel))

/-- Refutes O17: in `overfull` no bolt of the range meets an error, but counting the read moves a counter that LOST_ADDR counts
as an address of the range, and the read is answered with Completer Abort. No device is in such a state: its LOST_COUNT does not
fit its field. -/
theorem not_bar2Accesses : ¬ Obligations.Bar2Accesses := by
  intro h
  have hbase : (overfull 0x1E2 [] []).rd .devBar2Base [] + 0 = sliceOne := by decide +kernel
  have hclean : (overfull 0x1E2 [] []).badBolts ((overfull 0x1E2 [] []).rd .devBar2Base [] + 0) 4 = [] :=
    overfull_badBolts (by decide) (by decide +kernel) _ _
  have hs := h (overfull 0x1E2 [] []) 0 (by decide +kernel) (by decide +kernel)
  dsimp only at hs
  obtain ⟨hanswered, -⟩ := hs
  obtain ⟨t, ht, hout, -⟩ := hanswered 4 (by decide +kernel) (by decide +kernel) (by decide +kernel)
    (by decide +kernel) hclean
  have hread : (overfull 0x1E2 [] []).bar2ReadMeets 0 4 0 =
      overfullRead.bar2Data ((overfull 0x1E2 [] []).rd .devBar2Base [] + 0) 4 :=
    State.bar2ReadMeets_data (by decide +kernel) (by decide +kernel) (by decide +kernel) (by decide +kernel) (by decide +kernel)
      (by decide +kernel)
  rw [exec_bar2Read, linkedReq_linked (by decide +kernel), hread, hbase] at ht
  injection ht with ht
  rw [← ht, State.bar2Data_bad overfullRead_badBolts] at hout
  cases hout

/-! Descriptors that end. -/

theorem exec_descriptorEnd (id : Nat) (s : State) : exec (.descriptorEnd id) s = powered s (fun s => s.endDesc id) := rfl

section

variable {s : State} {d : Desc} {p : Packet} {id k pid : Nat}

/-- The last descriptor of a packet to end, released on a cluster without a flag or a sample, finishes the packet. -/
theorem State.endDesc_last (hd : s.desc id = some d) (hp : s.packet d.pid = some p) (hh : s.descHeld d = false)
    (hr : d.phase = .released (.cluster k)) (hs : d.selected = false) (hf : d.flags = [])
    (hall : ((s.countUnit (.cluster k) 46 1).setDesc { d with phase := .done }).descs.all
      (fun e => e.pid != p.pid || e.phase == .done) = true) :
    s.endDesc id = ((s.countUnit (.cluster k) 46 1).setDesc { d with phase := .done }).finishCompute p.pid (.cluster k) := by
  obtain ⟨⟩ := d
  dsimp only at hr hs hf
  subst hr hs hf
  unfold State.endDesc
  simp only [hd, hp, hh, State.capture, List.foldl_nil, Bool.false_eq_true, if_false]
  rw [if_pos hall]

/-- A write of part of a bolt with an error meets it. -/
theorem State.writeMem_partial {via : Via} {tag a b : Nat} {bs : List Byte}
    (hb : b ∈ (s.writeTraffic via a bs.length).badBolts a bs.length)
    (hw : b ∉ wholeBolts a bs.length) : b ∈ (s.writeMem via tag a bs).2 := by
  have hne : ((s.writeTraffic via a bs.length).badBolts a bs.length).isEmpty = false := by
    simpa using List.ne_nil_of_mem hb
  unfold State.writeMem
  dsimp only
  rw [hne]
  simp [hb, hw]

theorem State.writeMems_singleton (s : State) (via : Via) (tag a : Nat) (bs : List Byte) :
    (s.writeMems via tag [(a, bs)]).2 = (s.writeMem via tag a bs).2 := by
  simp [State.writeMems]

/-- A change of a packet that keeps its number changes the packet of that number. -/
theorem State.packet_updPacket {f : Packet → Packet} (hp : s.packet pid = some p) (hf : ∀ q, (f q).pid = q.pid) :
    (s.updPacket pid f).packet pid = some (f p) := by
  have hpid : ∀ q : Packet, (if q.pid = pid then f q else q).pid = q.pid := fun q => by
    split
    · exact hf q
    · rfl
  have hq : p.pid = pid := by simpa using List.find?_some hp
  unfold State.packet State.updPacket at *
  simp only [List.find?_map, Function.comp_def, hpid, hp, Option.map_some, hq, if_true]

/-- Nothing that keeps the flight changes the packet of a number. -/
theorem State.packet_congr {t : State} (h : t.flight = s.flight) : t.packet pid = s.packet pid := by
  unfold State.packet
  rw [h]

theorem State.writeMems_flight (s : State) (via : Via) (tag : Nat) (ws : List (Nat × List Byte)) :
    (s.writeMems via tag ws).1.flight = s.flight :=
  (State.writeMems_does s via tag ws (Does.refl (fs := .mem :: .ue :: trafficFields))).only .flight (by decide)

theorem State.spoilPacket_flight (s : State) (p : Packet) : (s.spoilPacket p).flight = s.flight :=
  (State.spoilPacket_does s p (Does.refl (fs := [.mem, .free]))).only .flight (by decide)

/-- A packet that runs ends. -/
theorem State.endPacket_endedAs {st : Status} {x : Nat} (hp : s.packet pid = some p) (hr : p.isEnded = false) :
    EndedAs (s.endPacket pid st x) pid st x := by
  have h := State.packet_updPacket (f := fun p => if p.isEnded then p else { p with phase := .ended st x false }) hp
    (fun q => by split <;> rfl)
  unfold EndedAs State.endPacket
  rw [h]
  simp [hr]

/-- A product whose output meets an error as it is written ends with MEM_UNCORRECTABLE. -/
theorem State.finishCompute_bad {u : ExecUnit} {o c sh : Nat} {g : List SegRef}
    (hp : s.packet pid = some p) (hop : p.op = .product o c sh g)
    (hc : s.productColl pid = none) (hr : p.phase = .running)
    (hw : (s.writeMems (.iface u.channel) p.tag (writeTensor p.valueList p.outDesc (s.writeCtx p) p.outTable).writes).2 ≠ []) :
    ∃ x, EndedAs (s.finishCompute pid u) pid .memUncorrectable x := by
  have hraw : ∀ m h ds, vectorRaw m h (.product o c sh g) ds = [] := fun _ _ _ => rfl
  have hout : hasOut (.product o c sh g) = true := rfl
  have hfilter : ∀ ws : List (Nat × List Byte), ws.filter (fun w => !([] : List Nat).contains (unitAt p.outDesc w)) = ws :=
    fun ws => List.filter_eq_self.2 fun w _ => rfl
  have hne : (s.writeMems (.iface u.channel) p.tag
      (writeTensor p.valueList p.outDesc (s.writeCtx p) p.outTable).writes).2.isEmpty = false := by
    simpa using hw
  unfold State.finishCompute
  simp only [hp, hop, hc, hraw, hout, if_true, hfilter, List.append_nil, hne, Bool.not_false]
  refine ⟨_, State.endPacket_endedAs ((State.packet_congr (State.spoilPacket_flight _ _)).trans
    (State.packet_updPacket (p := p) ?_ fun _ => rfl)) ?_⟩
  · rw [State.packet_congr (State.writeMems_flight _ _ _ _)]
    exact hp
  · simp [Packet.isEnded, hr]

end

/-- The descriptor of a one-element BF16 tensor at the first bolt of slice 1. -/
def lossyOut : TDesc :=
  { (default : TDesc) with base := sliceOne, rows := 1, cols := 1, batch := 1, format := 8, telltale := 0xFFFF }

/-- A product of one element that runs. -/
def lossyPacket : Packet :=
  { pid := 0, ring := 0, tag := 0, slot := 0, length := 0, sigEn := false, signal := 0, waits := []
    op := .product 0 0 0 [], phase := .running, descs := [lossyOut], slots := [], coll := none, collDescs := [], collSeq := 0
    inAttempt := false, seed := 0, fetched := 0, started := 0, scales := [f32One], vals := [], flags := [], report := none
    held := [], redone := false, deferred := false, raced := [], again := false }

/-- Its tile, released on cluster 0. -/
def lossyTile : Desc :=
  { id := 0, pid := 0, ring := 0, kind := .tile 0 0, phase := .released (.cluster 0), selected := false, preempted := false
    checkedAgain := false, tested := false, shadowed := false, issue := 0, start := 0, suspendedFor := 0, suspendedAt := 0
    flags := [], channel := 0, read := [], context := none, status := 0 }

/-- `overfull` with the product in flight, counting descriptors that complete. -/
def lossy : State := overfull 46 [lossyPacket] [lossyTile]

/-- `lossy` once its tile has completed. -/
def lossyDone : State := (lossy.countUnit (.cluster 0) 46 1).setDesc { lossyTile with phase := .done }

/-- The write of the product's element. -/
theorem lossyDone_writes : (writeTensor lossyPacket.valueList lossyPacket.outDesc (lossyDone.writeCtx lossyPacket)
    lossyPacket.outTable).writes = [(sliceOne, [0, 0])] := by decide +kernel

theorem lossyDone_writeMems : (lossyDone.writeMems (.iface 0) 0 [(sliceOne, [0, 0])]).2 ≠ [] := by
  have hbad : sliceOne ∈ (lossyDone.writeTraffic (.iface 0) sliceOne 2).badBolts sliceOne 2 :=
    mem_badBolts_of_moved (by decide +kernel) (by decide +kernel) (by decide +kernel)
  have hmem : sliceOne ∈ (lossyDone.writeMem (.iface 0) 0 sliceOne [0, 0]).2 :=
    State.writeMem_partial hbad (by decide +kernel)
  rw [State.writeMems_singleton]
  exact List.ne_nil_of_mem hmem

/-- Refutes O51: in `lossy` no bolt meets an error, but counting the completed tile moves a counter that LOST_ADDR counts as the
address of the output's bolt, and the product ends with MEM_UNCORRECTABLE. No device is in such a state: its LOST_COUNT does not
fit its field. -/
theorem not_descriptorsRunOnUnits : ¬ Obligations.DescriptorsRunOnUnits := by
  intro h
  obtain ⟨-, -, hend, -⟩ := h
  have hclean : ∀ a n, lossy.badBolts a n = [] := overfull_badBolts (by decide) (by decide +kernel)
  have hlast := (hend lossy lossyTile lossyPacket (.cluster 0) rfl (by decide +kernel) (by decide +kernel) (by decide +kernel) rfl
    (by decide +kernel)).2
  obtain ⟨t, ht, hdone, -⟩ := hlast (by decide +kernel) ⟨0, 0, [], rfl⟩ rfl rfl rfl hclean (by decide)
  obtain ⟨x, hx⟩ : ∃ x, EndedAs (lossyDone.finishCompute 0 (.cluster 0)) 0 .memUncorrectable x := by
    refine State.finishCompute_bad (p := lossyPacket) (by decide +kernel) rfl (by decide +kernel) rfl ?_
    rw [lossyDone_writes]
    exact lossyDone_writeMems
  have hrun : lossy.endDesc 0 = lossyDone.finishCompute 0 (.cluster 0) :=
    State.endDesc_last (d := lossyTile) (p := lossyPacket) (by decide +kernel) (by decide +kernel) (by decide +kernel) rfl rfl rfl
      (by decide +kernel)
  rw [exec_descriptorEnd] at ht
  injection ht with ht
  rw [if_pos (show lossy.power = 1 from rfl)] at ht
  rw [← hrun, show lossy.endDesc 0 = t from ht] at hx
  cases hx.symm.trans hdone

end Sys2Proof.Machine
end

section
/-! PROOFS. A launch over a stray descriptor that has its packet's number (R22, R69, R374). -/

namespace Sys2Proof.Machine

/-- The first byte of slice 3's scratchpad. -/
def sliceThree : Nat := 0x080060000000

/-- An FP32 tensor of 4 by 32 in slice 3's scratchpad. -/
def smallTensor (base : Nat) : TDesc :=
  { (default : TDesc) with
    base := base, rows := 4, cols := 32, batch := 1, format := 9, geometry := 3, gscale := f32One, rowPitch := 128 }

/-- A descriptor of no packet in flight, numbered as the next packet and queued on a channel that there is not. -/
def strayDesc : Desc :=
  { id := 0, pid := 1, ring := 0, kind := .vector, phase := .queued, selected := false, preempted := false
    checkedAgain := false, tested := false, shadowed := false, issue := 0, start := 0, suspendedFor := 0, suspendedAt := 0
    flags := [], channel := 10, read := [], context := none, status := 0 }

/-- The module after start-up with its link up, ring 15 enabled with one slot published, two tensors' descriptors in memory,
and the stray descriptor in its queues. -/
def stray : State :=
  { State.reset with
    startDone := true, perst := false, pwrGood := true, pcieUp := true, nextId := 1, descs := [strayDesc]
    partitions := [(3, 0, 1)]
    mem := Mem.write [] sliceThree ((smallTensor (sliceThree + 0x1000)).bytes ++ (smallTensor (sliceThree + 0x2000)).bytes)
    regs := Tab.put (Tab.put (Tab.put (Tab.put [] (Reg.devReady.key []) 1) (Reg.devDeviceEnable.key []) 1)
      (Reg.ringEnable.key [15]) 1) (Reg.ringRingTail.key [15]) 1 }

/-- A packet without waits on ring 15. -/
def strayHdr : PktHdr := { ring := 15, tag := 0, length := 1, sigEn := false, signal := 0, waits := [] }

/-- The operation of a SOFTMAX of the two tensors. -/
def strayOp : Op := .softmax sliceThree (sliceThree + 64)

/-- The descriptors it names, as read. -/
def strayTensors : List TDesc := [smallTensor (sliceThree + 0x1000), smallTensor (sliceThree + 0x2000)]

theorem stray_quiet : Quiet stray strayHdr where
  inv := ⟨by decide +kernel, by decide +kernel, List.forall_mem_nil _⟩
  power := rfl
  fetch := by decide +kernel
  between := by decide +kernel
  length := by decide +kernel
  waits := ⟨by decide, List.forall_mem_nil _⟩
  attempt := fun _ => ⟨rfl, rfl⟩
  cool := by decide +kernel

theorem stray_readDescs : stray.readDescs strayOp (opRefs strayOp).zipIdx = .ok (strayTensors, []) := by
  decide +kernel

/-- A SOFTMAX of legal tensors in a held partition passes the checks of its start. -/
theorem stray_launchable {p : Packet} (hp : PacketOf stray strayHdr strayOp (strayTensors, []) p) : Launchable stray p := by
  have hop : p.op = .softmax sliceThree (sliceThree + 64) := hp.op
  have hd : p.descs = strayTensors := hp.descs
  have hout : p.outDesc.jibMode = 0 := by
    rw [Packet.outDesc, Packet.bound, hop, hd, hp.scales]
    decide +kernel
  constructor
  case scales => rw [Packet.segments, hop]; rfl
  case region => rw [hop]; exact List.forall_mem_nil _
  case units =>
    rw [State.computeBlocked, hop, hd]
    dsimp only
    decide +kernel
  case errors => rw [hop]; exact List.forall_mem_nil _
  case program => exact fun _ _ _ _ h => by rw [hop] at h; cases h
  case targets => exact fun _ _ _ _ _ h => by rw [hop] at h; cases h
  case table => exact fun _ h => by rw [hout] at h; cases h

theorem exec_softmax (h : PktHdr) (i o : Nat) (s : State) : exec (.softmax h i o) s = .next (s.packetIn h (.softmax i o)) := rfl

/-- Refutes O45: in `stray` the launch wakes a domain for the stray descriptor too, 120, and DSTATE of a domain above 79 is none
of the fields that waking changes. No device is in such a state: its queues hold a descriptor of a packet yet to be fetched. -/
theorem not_launchesPlaceTheirDescriptors : ¬ Obligations.LaunchesPlaceTheirDescriptors := by
  intro h
  obtain ⟨hsoftmax, -⟩ := h stray strayHdr stray_quiet
  obtain ⟨-, hruns⟩ := hsoftmax sliceThree (sliceThree + 64) (strayTensors, []) stray_readDescs
  obtain ⟨t, p, ht, -, -, -, -, -, -, hregs⟩ := hruns (by decide +kernel) fun p hp => stray_launchable hp
  have hkept : t.rd .domDstate [120] = stray.rd .domDstate [120] := hregs _ _ (by decide +kernel)
  have hwoken : (stray.packetIn strayHdr strayOp).rd .domDstate [120] ≠ stray.rd .domDstate [120] := by decide +kernel
  rw [exec_softmax] at ht
  injection ht with ht
  rw [← ht] at hkept
  exact hwoken hkept

end Sys2Proof.Machine
end

section
/-! PROOFS. A rebuild of regions in a state whose LOST_COUNT is wider than its field (R214, R222, R223, R228, R322). -/

namespace Sys2Proof.Machine



/-! What clearing a bolt does to a long lost-bolt table. -/

theorem Tab.del_of_not_mem {α : Type} {t : Tab α} {k : Nat} (h : ∀ p ∈ t, p.1 ≠ k) : Tab.del t k = t := by
  induction t with
  | nil => rfl
  | cons x t ih =>
    obtain ⟨i, w⟩ := x
    simp only [Tab.del]
    rw [if_neg (h _ List.mem_cons_self), ih fun p hp => h p (List.mem_cons_of_mem _ hp)]

section

variable {s : State} {c m b v : Nat}

/-- Writing 0 to LOST_ADDR words that hold nothing changes nothing. -/
theorem State.wr_lostAddr_zeros {k : Nat}
    (h : ∀ i, k ≤ i → i < k + m → ∀ p ∈ s.regs, p.1 ≠ Reg.llsLostAddr.key [c, i]) :
    ((List.replicate m 0).zipIdx k).foldl (fun s p => s.wr .llsLostAddr [c, p.2] p.1) s = s := by
  induction m generalizing k with
  | zero => rfl
  | succ m ih =>
    have hreset : (0 : Nat) % 2 ^ Reg.llsLostAddr.width = Reg.llsLostAddr.resetAt [c, k] := by
      simp [Reg.resetAt, Reg.llsLostAddr, Reg.arbWeight, Reg.devModuleId, Reg.grpModuleId, Reg.devFwMinor]
    rw [List.replicate_succ, List.zipIdx_cons, List.foldl_cons]
    have hk : s.wr .llsLostAddr [c, k] 0 = s := by
      unfold State.wr
      rw [if_pos hreset, Tab.del_of_not_mem (h k (Nat.le_refl k) (by omega))]
    rw [hk]
    exact ih fun i hi hlt => h i (by omega) (by omega)

/-- A lost-bolt table whose first entry is bolt b, whose last entry is v and between them nothing. -/
structure State.LostEnds (s : State) (c m b v : Nat) : Prop where
  count : s.rd .llsLostCount [c] = m + 3
  first : s.rd .llsLostAddr [c, 0] = b
  last : s.rd .llsLostAddr [c, m + 2] = v
  between : ∀ i, 1 ≤ i → i < m + 2 → s.rd .llsLostAddr [c, i] = 0

theorem State.LostEnds.entries (h : s.LostEnds c m b v) :
    (List.range (s.rd .llsLostCount [c])).map (fun k => s.rd .llsLostAddr [c, k]) = b :: (List.replicate (m + 1) 0 ++ [v]) := by
  have hmid : (List.range (m + 1)).map (fun k => s.rd .llsLostAddr [c, k + 1]) = List.replicate (m + 1) 0 := by
    refine List.eq_replicate_iff.2 ⟨by simp, fun x hx => ?_⟩
    obtain ⟨i, hi, rfl⟩ := List.mem_map.1 hx
    have := List.mem_range.1 hi
    exact h.between _ (by omega) (by omega)
  rw [h.count, List.range_succ_eq_map, List.map_cons, List.map_map, List.range_succ, List.map_append]
  simp only [Function.comp_def, Nat.succ_eq_add_one, hmid, h.first, List.map_cons, List.map_nil, h.last]

/-- Clearing the first bolt of such a table moves its last entry down by one. -/
theorem State.clearBolt_lostEnds (h : s.LostEnds c m b v) (hr : regionOf b = some (.channel c)) (hb : b ≠ 0) (hv : v ≠ b)
    (hfree : ∀ i, 1 ≤ i → i < m + 1 → ∀ p ∈ s.regs, p.1 ≠ Reg.llsLostAddr.key [c, i]) :
    s.clearBolt b = ((({ s with ue := s.ue.filter (fun x => x != b) }).wr .llsLostAddr [c, 0] 0).wr
      .llsLostAddr [c, m + 1] v).wr .llsLostCount [c] (m + 2) := by
  have hkeep : (b :: (List.replicate (m + 1) 0 ++ [v])).filter (fun x => x != b) = List.replicate (m + 1) 0 ++ [v] := by
    have hz : (List.replicate (m + 1) 0).filter (fun x => x != b) = List.replicate (m + 1) 0 := by
      refine List.filter_eq_self.2 fun x hx => ?_
      rw [List.eq_of_mem_replicate hx]
      simpa using hb.symm
    rw [List.filter_cons_of_neg (by simp), List.filter_append, hz, List.filter_cons_of_pos (by simpa using hv), List.filter_nil]
  have hlen : (List.replicate (m + 1) 0 ++ [v]).length = m + 2 := by simp
  have hsplit : ((List.replicate (m + 1) 0 ++ [v]).zipIdx : List (Nat × Nat)) =
      (0, 0) :: ((List.replicate m 0).zipIdx 1 ++ [(v, m + 1)]) := by
    rw [List.zipIdx_append, List.replicate_succ, List.zipIdx_cons]
    simp
  have h' : State.LostEnds { s with ue := s.ue.filter (fun x => x != b) } c m b v := ⟨h.count, h.first, h.last, h.between⟩
  have hh' : ∀ u : State, u.homeChannel b = some c := fun u => by rw [State.homeChannel, hr]
  have hfree' : ∀ i, 1 ≤ i → i < 1 + m →
      ∀ p ∈ (State.wr { s with ue := s.ue.filter (fun x => x != b) } .llsLostAddr [c, 0] 0).regs,
      p.1 ≠ Reg.llsLostAddr.key [c, i] := by
    intro i h1 hi p hp
    refine hfree i h1 (by omega) p ?_
    unfold State.wr at hp
    split at hp
    · exact Tab.mem_del hp
    · exact absurd rfl ‹¬ _›
  unfold State.clearBolt
  dsimp only
  revert h' hfree'
  generalize ({ s with ue := s.ue.filter (fun x => x != b) } : State) = u
  intro h' hfree'
  simp only [hh', h'.entries, hkeep, hlen]
  rw [if_neg (by rw [h'.count]; omega), hsplit, List.foldl_cons, List.foldl_append, State.wr_lostAddr_zeros hfree']
  rfl
/-- Only the first of the entries lies in the range that becomes zero. -/
theorem State.zeroRange_lostEnds {a n : Nat} (h : s.LostEnds 3 m b v) (hc : ∀ c < 3, s.rd .llsLostCount [c] = 0)
    (ha : 0 < a) (hb : a ≤ b ∧ b < a + n) (hv : v < a) : s.zeroRange a n =
      { s.clearBolt b with
        mem := (s.clearBolt b).mem.zero a n
        ue := (s.clearBolt b).ue.filter (fun x => !(decide (a ≤ x) && decide (x < a + n)))
        ce := (s.clearBolt b).ce.filter (fun p => !(decide (a ≤ p.1) && decide (p.1 < a + n))) } := by
  have hz : (List.replicate (m + 1) 0).filter (fun x => decide (a ≤ x) && decide (x < a + n)) = [] := by
    refine List.filter_eq_nil_iff.2 fun x hx => ?_
    rw [List.eq_of_mem_replicate hx]
    simp only [Bool.and_eq_true, decide_eq_true_eq]
    omega
  have hone : (b :: (List.replicate (m + 1) 0 ++ [v])).filter (fun x => decide (a ≤ x) && decide (x < a + n)) = [b] := by
    have hlast : (decide (a ≤ v) && decide (v < a + n)) = false := by
      simp only [Bool.and_eq_false_iff, decide_eq_false_iff_not]
      omega
    rw [List.filter_cons_of_pos (by simpa using hb), List.filter_append, hz, List.filter_cons_of_neg (by simpa using hlast)]
    rfl
  have hfour : List.range 4 = [0, 1, 2, 3] := rfl
  unfold State.zeroRange
  simp only [hfour, List.map_cons, List.map_nil, h.entries, hone, hc 0 (by decide), hc 1 (by decide), hc 2 (by decide),
    List.range_zero, List.filter_nil, List.flatten_cons, List.flatten_nil, List.append_nil, List.nil_append, List.foldl_cons,
    List.foldl_nil]

end

/-! What a rebuild does. -/

section

variable {s : State} {p : Packet} {pid : Nat}

/-- Nothing refuses a rebuild outside a step whose shares fit while no stack is at CRIT. -/
theorem State.rebuildRefusal_none (ho : s.stepOpen = false) (hf : s.sharesFit = true) (hk : ∀ p ∈ s.regs, p.1 % 32 ≠ 8) :
    s.rebuildRefusal = none := by
  have hcool : ∀ st, s.rd .stkTstate [st] = 0 := by
    intro st
    rcases s.rd_mem .stkTstate [st] with h | h
    · rw [h]
      simp [Reg.resetAt, Reg.stkTstate, Reg.arbWeight, Reg.devModuleId, Reg.grpModuleId, Reg.devFwMinor]
    · refine absurd ?_ (hk _ h)
      simp only [Reg.key, Reg.stkTstate]
      omega
  unfold State.rebuildRefusal
  simp [ho, hf, hcool]

/-- A packet that nothing holds starts. -/
theorem State.startPacket_runs (hp : s.packet pid = some p) (hw : p.isWaiting = true) (ha : p.inAttempt = false)
    (hn : p.waits = []) (hg : p.again = false) (hh : s.startHeld p = false) :
    s.startPacket pid = (s.setPacket { p with phase := .running, started := s.aoNow }).runOp
      { p with phase := .running, started := s.aoNow } := by
  unfold State.startPacket
  simp [hp, hw, ha, hn, hg, hh]

/-- A rebuild that nothing refuses goes on when no other packet is started. -/
theorem State.settleHolds_rebuild (hf : s.fetchHold = [pid]) (hp : s.packet pid = some p) (hop : p.op = .regionRebuild)
    (hother : s.flight.any (fun q => q.pid != pid && !q.isWaiting) = false) (he : p.isEnded = false)
    (hr : s.rebuildRefusal = none) :
    s.settleHolds = (((s.rebuild.1.areaRebuilt s.rebuild.2).computeImage).releaseFetch pid).endPacket pid .done 0 := by
  unfold State.settleHolds
  simp only [hf, List.foldl_cons, List.foldl_nil, hp, hother, he, hop, hr, Bool.false_eq_true, or_self, if_false]

end

/-- A rebuild of a list of regions with a stack's among them. -/
theorem State.rebuild_stacks {s : State} {r : Region} {rs : List Region} (hr : s.rebuilt s.applyShares = r :: rs)
    (hs : ∃ st, Region.stack st ∈ r :: rs) : s.rebuild =
      (({ rs.foldl State.zeroRegion (s.applyShares.zeroRegion r) with groups := [], groupTable := [] } : State).wr
        .seGroupsLoaded [] 0, r :: rs) := by
  obtain ⟨st, hst⟩ := hs
  unfold State.rebuild
  simp only [hr, List.foldl_cons]
  rw [if_pos (List.any_eq_true.2 ⟨_, hst, rfl⟩)]

/-- REGION_REBUILD that nothing refuses holds the fetch and goes on as soon as it may. -/
theorem State.runOp_rebuild {s : State} {p : Packet} (hop : p.op = .regionRebuild) (hr : s.rebuildRefusal = none) :
    s.runOp p = { s with fetchHold := s.fetchHold ++ [p.pid] }.settleHolds := by
  unfold State.runOp
  simp only [hop, hr]

theorem exec_regionRebuild (h : PktHdr) (s : State) : exec (.regionRebuild h) s = .next (s.packetIn h .regionRebuild) := rfl

/-- What ends a rebuild's packet leaves the register fields. -/
theorem State.releaseFetch_endPacket_rd (s : State) (pid : Nat) (st : Status) (d : Nat) (r : Reg) (idx : List Nat) :
    ((s.releaseFetch pid).endPacket pid st d).rd r idx = s.rd r idx := rfl

/-! The state. -/

/-- A bolt of channel 3's region, which the rebuild zeroes. -/
def shiftAway : Nat := 0x038000000000

/-- A bolt of the device's region, which the rebuild leaves. -/
def shiftTo : Nat := 512

/-- The register fields of `shifting`. -/
def shiftRegs : Tab Nat :=
  [(Reg.devDeviceEnable.key [], 1), (Reg.devReady.key [], 1), (Reg.ringEnable.key [15], 1), (Reg.ringRingTail.key [15], 1),
    (Reg.memCShare.key [], 0x1000000), (Reg.llsLostCount.key [3], 521600), (Reg.llsLostAddr.key [3, 0], shiftAway),
    (Reg.shrAreaShroudMib.key [15], shiftTo)]

/-- LOST_COUNT of slice 3 holds a value wider than its seven bits, so that SHROUD_BASE and SHROUD_MIB of stack 15 are the last two
of the words that count as its LOST_ADDR; SHROUD_MIB holds the address of a bolt with an error, and no stack has an area. A share
is written for channel 3, and a packet is published. -/
def shifting : State :=
  { State.reset with startDone := true, perst := false, pwrGood := true, pcieUp := true, ue := [shiftTo], regs := shiftRegs }

/-- The header of the packet. -/
def shiftHdr : PktHdr := { ring := 15, tag := 0, length := 1, sigEn := false, signal := 0, waits := [] }

/-- `shifting` with its packet fetched. -/
def shiftFetched : State := shifting.arrive shiftHdr .regionRebuild

/-- The packet of the rebuild, as fetched. -/
def shiftPacket : Packet :=
  { pid := 1, ring := 15, tag := 0, slot := 0, length := 1, sigEn := false, signal := 0, waits := []
    op := .regionRebuild, phase := .waiting, descs := [], slots := [], coll := none, collDescs := [], collSeq := 0
    inAttempt := false, seed := 0, fetched := 0, started := 0, scales := [], vals := [], flags := [], report := none
    held := [], redone := false, deferred := false, raced := [], again := false }

/-- Its packet as it starts. -/
def shiftStarted : Packet := { shiftPacket with phase := .running, started := shiftFetched.aoNow }

/-- The rebuild is about to begin. -/
def shiftHeld : State :=
  { shiftFetched.setPacket shiftStarted with
    fetchHold := (shiftFetched.setPacket shiftStarted).fetchHold ++ [shiftStarted.pid] }

/-- The shares are in force, and channel 3's region is next to become zero. -/
def shiftShared : State := shiftHeld.applyShares.zeroTraffic (.channel 3)

/-- Its register fields: a packet has been fetched. -/
def shiftSharedRegs : Tab Nat :=
  [(Reg.devDeviceEnable.key [], 1), (Reg.devReady.key [], 1), (Reg.ringEnable.key [15], 1), (Reg.ringRingTail.key [15], 1),
    (Reg.ringRingFetched.key [15], 1), (Reg.ringRingHead.key [15], 1),
    (Reg.memCShare.key [], 0x1000000), (Reg.llsLostCount.key [3], 521600), (Reg.llsLostAddr.key [3, 0], shiftAway),
    (Reg.shrAreaShroudMib.key [15], shiftTo)]

theorem shiftShared_regs : shiftShared.regs = shiftSharedRegs := by decide +kernel

theorem shiftShared_rd (r : Reg) (idx : List Nat) :
    shiftShared.rd r idx = Tab.get (r.resetAt idx) shiftSharedRegs (r.key idx) := by
  rw [State.rd, shiftShared_regs]

/-- LOST_ADDR words 1 to 521598 of slice 3 are none of the listed fields. -/
theorem shiftShared_free (i : Nat) (h1 : 1 ≤ i) (h2 : i < 521599) :
    ∀ p ∈ shiftShared.regs, p.1 ≠ Reg.llsLostAddr.key [3, i] := by
  have hk : Reg.llsLostAddr.key [3, i] = 101367808 + 256 * i := by
    simp [Reg.key, strideSum, Reg.llsLostAddr]
    omega
  have hkeys : ∀ p ∈ shiftSharedRegs, p.1 ≤ 101367808 ∨ 234897152 ≤ p.1 := by decide +kernel
  rw [shiftShared_regs, hk]
  intro p hp
  have := hkeys p hp
  omega

theorem shiftShared_lostEnds : shiftShared.LostEnds 3 521597 shiftAway shiftTo := by
  refine ⟨?_, ?_, ?_, fun i h1 h2 => ?_⟩
  · rw [shiftShared_rd]
    decide +kernel
  · rw [shiftShared_rd]
    decide +kernel
  · rw [shiftShared_rd]
    decide +kernel
  rcases shiftShared.rd_mem .llsLostAddr [3, i] with h | h
  · rw [h]
    simp [Reg.resetAt, Reg.llsLostAddr, Reg.arbWeight, Reg.devModuleId, Reg.grpModuleId, Reg.devFwMinor]
  · exact absurd rfl (shiftShared_free i h1 (by omega) _ h)

/-- The register table once a field is set. -/
def wrTab (t : Tab Nat) (r : Reg) (idx : List Nat) (v : Nat) : Tab Nat :=
  if v % 2 ^ r.width = r.resetAt idx then Tab.del t (r.key idx) else Tab.put t (r.key idx) (v % 2 ^ r.width)

theorem State.wr_eq_wrTab (s : State) (r : Reg) (idx : List Nat) (v : Nat) :
    s.wr r idx v = { s with regs := wrTab s.regs r idx v } := by
  unfold State.wr wrTab
  split <;> rfl

/-- The register fields once the bolt that stood first in the lost-bolt table is cleared: SHROUD_MIB's value stands in
SHROUD_BASE. -/
def shiftedRegs : Tab Nat :=
  wrTab (wrTab (wrTab shiftSharedRegs .llsLostAddr [3, 0] 0) .llsLostAddr [3, 521598] shiftTo) .llsLostCount [3] 521599

/-- Channel 3's region has become zero. -/
def shifted : State :=
  let a := (Region.channel 3).base
  let n := (Region.channel 3).window
  { shiftShared with
    regs := shiftedRegs, mem := shiftShared.mem.zero a n
    ue := (shiftShared.ue.filter (fun x => x != shiftAway)).filter (fun x => !(decide (a ≤ x) && decide (x < a + n)))
    ce := shiftShared.ce.filter (fun p => !(decide (a ≤ p.1) && decide (p.1 < a + n))) }

theorem zeroRegion_shifted : shiftHeld.applyShares.zeroRegion (.channel 3) = shifted := by
  have hothers : ∀ c < 3, shiftShared.rd .llsLostCount [c] = 0 := by
    simp only [shiftShared_rd]
    decide +kernel
  have h := State.zeroRange_lostEnds (a := (Region.channel 3).base) (n := (Region.channel 3).window) shiftShared_lostEnds
    hothers (by decide) (by decide) (by decide)
  rw [State.clearBolt_lostEnds shiftShared_lostEnds (by decide) (by decide) (by decide)
    fun i h1 h2 => shiftShared_free i h1 (by omega)] at h
  simp only [State.wr_eq_wrTab, shiftShared_regs] at h
  exact h

/-- The regions that the rebuild rebuilds. -/
def shiftRegions : List Region := [.channel 3, .stack 15, .stack 16, .stack 17, .stack 18, .stack 19]

theorem shiftHeld_rebuilt : shiftHeld.rebuilt shiftHeld.applyShares = shiftRegions := by decide +kernel

/-- Every region of the rebuild has become zero. -/
def shiftZeroed : State :=
  ({ [Region.stack 15, .stack 16, .stack 17, .stack 18, .stack 19].foldl State.zeroRegion shifted with
      groups := [], groupTable := [] } : State).wr .seGroupsLoaded [] 0

theorem shiftHeld_rebuild : shiftHeld.rebuild = (shiftZeroed, shiftRegions) := by
  have h := State.rebuild_stacks shiftHeld_rebuilt ⟨15, by decide⟩
  rw [zeroRegion_shifted] at h
  exact h

/-- The slots of the area that SHROUD_BASE names now are emptied: the write meets the bolt with an error, and its channel is
PENDING. -/
theorem shiftZeroed_pending : ((shiftZeroed.areaRebuilt shiftRegions).computeImage).rd .hbmState [32] = 1 := by decide +kernel

theorem shifting_packetIn : shifting.packetIn shiftHdr .regionRebuild =
    ((((shiftZeroed.areaRebuilt shiftRegions).computeImage).releaseFetch 1).endPacket 1 .done 0) := by
  have hin : shifting.packetIn shiftHdr .regionRebuild = shiftFetched.startPacket 1 := by
    unfold State.packetIn
    exact if_pos (by decide +kernel)
  have hrun : shiftFetched.startPacket 1 = (shiftFetched.setPacket shiftStarted).runOp shiftStarted :=
    State.startPacket_runs (p := shiftPacket) (by decide +kernel) rfl rfl rfl rfl (by decide +kernel)
  have hheld : (shiftFetched.setPacket shiftStarted).runOp shiftStarted = shiftHeld.settleHolds :=
    State.runOp_rebuild rfl
      (State.rebuildRefusal_none (by decide +kernel) (by decide +kernel) (by decide +kernel))
  have hgo := State.settleHolds_rebuild (s := shiftHeld) (pid := 1) (p := shiftStarted) (by decide +kernel) (by decide +kernel) rfl
    (by decide +kernel) rfl (State.rebuildRefusal_none (by decide +kernel) (by decide +kernel) (by decide +kernel))
  rw [shiftHeld_rebuild] at hgo
  rw [hin, hrun, hheld, hgo]

theorem shifting_quiet : Quiet shifting shiftHdr where
  inv := ⟨rfl, by decide +kernel, List.forall_mem_nil _⟩
  power := rfl
  fetch := by decide +kernel
  between := by decide +kernel
  length := by decide +kernel
  waits := ⟨by decide, List.forall_mem_nil _⟩
  attempt := fun _ => ⟨rfl, rfl⟩
  cool := by decide +kernel

/-- Refutes O43: in `shifting` no stack has an area, but as channel 3's region becomes zero the lost-bolt table closes over the
bolt that stood first in it and SHROUD_MIB moves into SHROUD_BASE; emptying the slots there makes a HEALTHY channel PENDING. No
device is in such a state: its LOST_COUNT does not fit its field. -/
theorem not_partitionsAndRebuilds : ¬ Obligations.PartitionsAndRebuilds := by
  intro h
  obtain ⟨-, -, -, -, -, hrebuild, -⟩ := h
  have hnone : ∀ p ∈ shifting.flight, p.isWaiting = true := List.forall_mem_nil _
  obtain ⟨t, p, ht, -, -, -, -, -, -, hkept, -⟩ := hrebuild shifting shiftHdr shifting_quiet
    (State.rebuildRefusal_none (by decide +kernel) (by decide +kernel) (by decide +kernel)) hnone
  have hsame : t.rd .hbmState [32] = 0 := hkept (by decide +kernel) 32 (by decide) (by decide +kernel)
  rw [exec_regionRebuild, shifting_packetIn] at ht
  injection ht with ht
  have hpending : t.rd .hbmState [32] = 1 := by
    rw [← ht, State.releaseFetch_endPacket_rd]
    exact shiftZeroed_pending
  omega

end Sys2Proof.Machine
end

section
/-! PROOFS. What start-up keeps of a state in which nothing is in flight (R384–R391). -/

namespace Sys2Proof.Machine

/-- What start-up changes. -/
def bootFields : List Field :=
  [.regs, .ilog, .reports, .reportSeq, .ports, .testClock, .samples, .riskEvents, .out, .free, .attLog, .startDone, .recovery,
   .pwrGood, .identityKey, .running, .cycleBase, .flashMap]

/-- READY and DEVICE_ENABLE. -/
def readyKeys : List Nat := [Reg.devReady.key [], Reg.devDeviceEnable.key []]

/-- A state follows another by changing what start-up changes, READY and DEVICE_ENABLE left alone. -/
structure Boots (s t : State) : Prop where
  only : ChangesOnly bootFields s t
  ready : ∀ r idx, r.key idx ∈ readyKeys → t.rd r idx = s.rd r idx

/-- Nothing is in flight, queued, executed again or under test. -/
structure Rested (s : State) : Prop where
  flight : s.flight = []
  descs : s.descs = []
  retries : s.retries = []
  tests : s.tests = []

section

variable {s a t : State} {r : Reg} {idx : List Nat}

theorem Boots.refl : Boots s s := ⟨Does.refl.only, fun _ _ _ => rfl⟩

theorem Boots.trans (h1 : Boots s a) (h2 : Boots a t) : Boots s t :=
  ⟨h1.only.trans h2.only, fun r i hk => (h2.ready r i hk).trans (h1.ready r i hk)⟩

theorem Boots.rested (h : Boots s a) (hs : Rested s) : Rested a :=
  ⟨(h.only .flight (by decide)).trans hs.flight, (h.only .descs (by decide)).trans hs.descs,
    (h.only .retries (by decide)).trans hs.retries, (h.only .tests (by decide)).trans hs.tests⟩

/-- A change that keeps the register table. -/
theorem Boots.keeps (h : Boots s a) (hc : ChangesOnly bootFields a t) (hr : t.regs = a.regs) : Boots s t :=
  h.trans ⟨hc, fun r i _ => State.rd_congr hr r i⟩

/-- The fields of device registers other than the first words lie apart from READY and DEVICE_ENABLE. -/
theorem Reg.key_not_mem_readyKeys (h : 17 ≤ r.off) : r.key idx ∉ readyKeys := by
  have hk : readyKeys = [543, 512] := rfl
  rw [hk]
  simp only [Reg.key, List.mem_cons, List.not_mem_nil, or_false]
  omega

/-- Setting a field that is neither READY nor DEVICE_ENABLE. -/
theorem Boots.wr_of {v : Nat} (h : Boots s a) (hk : r.key idx ∉ readyKeys) : Boots s (a.wr r idx v) :=
  h.trans ⟨(State.wr_does a r idx v Does.refl).only, fun _ _ hm => State.rd_wr_ne a v fun e => hk (e ▸ hm)⟩

/-- Setting a field away from the device registers. -/
theorem Boots.wr {v : Nat} (h : Boots s a) (hr : 17 ≤ r.off := by decide) : Boots s (a.wr r idx v) :=
  h.wr_of (Reg.key_not_mem_readyKeys hr)

theorem Boots.count {n : Nat} (h : Boots s a) (hr : 17 ≤ r.off := by decide) : Boots s (a.count r idx n) := h.wr hr

theorem Boots.bump {n : Nat} (h : Boots s a) (hr : 17 ≤ r.off := by decide) : Boots s (a.bump r idx n) := h.wr hr

theorem Boots.ite {c : Prop} [Decidable c] {x y : State} (hx : Boots s x) (hy : Boots s y) : Boots s (if c then x else y) := by
  split
  · exact hx
  · exact hy

theorem Boots.foldl {β : Type} {f : State → β → State} {l : List β} (h : Boots s a)
    (hf : ∀ b x, Boots s x → Boots s (f x b)) :
    Boots s (l.foldl f a) := by
  induction l generalizing a with
  | nil => exact h
  | cons b l ih => exact ih (hf b a h)

end

/-! Reports, the log and the attestation log. -/

section

variable {s a : State}

theorem Boots.report {type : Nat} {body : List Byte} (h : Boots s a) : Boots s (a.report type body) := by
  have hq : ∀ (n : Nat) (q : List (Nat × List Byte)), Boots s { a with reportSeq := n, reports := q } := fun n q =>
    h.keeps (fun f hf => by cases f <;> first | rfl | exact absurd (by decide) hf) rfl
  have hsend : ∀ (x : State) (m : List Byte), Boots s x → Boots s (x.sendDatagram m) := fun x m hx =>
    hx.keeps (State.sendDatagram_does x m Does.refl).only (by unfold State.sendDatagram; split <;> rfl)
  exact .ite h (hsend _ _ (.bump (.ite (.count (hq _ _)) (hq _ _))))

theorem Boots.log {type code addr tag uclass uindex detail : Nat} (h : Boots s a) :
    Boots s (a.log type code addr tag uclass uindex detail) :=
  .report (.wr (h.keeps (State.withIlog_does a _ Does.refl).only rfl))

theorem Boots.attest {kind : Nat} {d content : List Byte} (h : Boots s a) : Boots s (a.attest kind d content) :=
  .ite (h.keeps (fun f hf => by cases f <;> first | rfl | exact absurd (by decide) hf) rfl) (.wr h)

theorem Boots.measure {area : Nat} (h : Boots s a) : Boots s (a.measure area) := .attest (.attest (.attest h))

theorem Boots.noteRisk {kind n : Nat} (h : Boots s a) : Boots s (a.noteRisk kind n) :=
  h.keeps (State.noteRisk_does a kind n Does.refl).only rfl

theorem Boots.freeVal {w : Nat} (h : Boots s a) : Boots s (a.freeVal w).2 :=
  h.keeps (State.freeVal_does a w Does.refl).only rfl

/-! Domains and HBM channels. -/

theorem Boots.setDomain {d st : Nat} (h : Boots s a) : Boots s (a.setDomain d st) := .wr (.wr h)

theorem Boots.domainOn {d : Nat} (h : Boots s a) : Boots s (a.domainOn d) :=
  .ite (.wr ((h.setDomain (d := d) (st := 2)).keeps (State.withCycleBase_does _ _ Does.refl).only rfl)) h.setDomain

theorem Boots.bootDomains (h : Boots s a) : Boots s a.bootDomains := .foldl h fun _ _ hx => .ite hx.domainOn hx.setDomain

theorem Boots.idleDomains (h : Boots s a) : Boots s a.idleDomains :=
  .foldl h fun _ _ hx => .ite hx.setDomain (.ite hx.domainOn (.ite hx.setDomain hx.setDomain))

theorem Boots.applyFlashMap (h : Boots s a) : Boots s a.applyFlashMap := .foldl h fun _ _ hx => .wr (.wr hx.freeVal)

theorem Boots.mapOut {x cause : Nat} (h : Boots s a) : Boots s (a.mapOut x cause) := by
  have hlog : Boots s (((a.wr .hbmState [x] 2).wr .hbmCause [x] cause).log 0x0D 2 0 0 9 x cause) := .log (.wr (.wr h))
  exact .noteRisk (hlog.keeps (fun f hf => by cases f <;> first | rfl | exact absurd (by decide) hf) rfl)

/-! Health. -/

theorem Boots.refreshHealth (h : Boots s a) : Boots s a.refreshHealth := .wr (.wr (.wr (.wr h)))

theorem Boots.setPort {p : Nat} {q : PortSt} (h : Boots s a) : Boots s (a.setPort p q) :=
  .foldl (h.keeps (State.withPorts_does a _ Does.refl).only rfl) fun _ _ hx => .wr hx

theorem Boots.disablePort {p : Nat} (h : Boots s a) : Boots s (a.disablePort p) := by
  have hd : Boots s (a.discardPort p) := .setPort (.foldl (.count h) fun _ _ hx => .wr hx)
  exact .ite h (.ite (.setDomain (.wr (.wr hd))) (.wr (.wr hd)))

variable (hs : Rested s)
include hs

theorem Boots.dropTests {u : Nat} (h : Boots s a) : Boots s (a.dropTests u) := by
  have ht := (h.rested hs).tests
  have hkeep : Boots s { a with tests := a.tests.filter (fun t => t.unit != u) } :=
    h.keeps (fun f hf => by cases f <;> first | rfl | exact (congrArg (List.filter _) ht).trans ht.symm) rfl
  unfold State.dropTests
  rw [show a.tests.filter (fun t => t.unit == u) = [] by rw [ht]; rfl]
  exact .wr hkeep

/-- With nothing in flight no packet is ended. -/
theorem Boots.failBlocked (h : Boots s a) : Boots s a.failBlocked := by
  unfold State.failBlocked
  rw [(h.rested hs).flight]
  exact h

/-- The effects of a fence on a module at rest. -/
theorem Boots.fenceEffects {u : Nat} (h : Boots s a) : Boots s (a.fenceEffects u) := by
  have hd : Boots s (a.dropTests u) := h.dropTests hs
  have hq : ∀ x, Boots s x →
      Boots s { x with descs := x.descs.map (Desc.requeue u), retries := x.retries.map (x.repick u) } := by
    intro x hx
    have hx' := hx.rested hs
    refine hx.keeps (fun f hf => ?_) rfl
    cases f <;> first
      | rfl
      | exact (congrArg (List.map _) hx'.descs).trans hx'.descs.symm
      | exact (congrArg (List.map _) hx'.retries).trans hx'.retries.symm
  have hnone : ∀ x, Boots s x → ∀ g, Boots s (x.failPackets (x.flight.filter g)) := by
    intro x hx g
    rw [(hx.rested hs).flight]
    exact hx
  exact .ite (.failBlocked hs (hq _ hd.setDomain)) (.ite (.failBlocked hs hd.setDomain)
    (.ite (hnone _ (.ite hd hd.setDomain) _) (.ite hd.disablePort hd)))

theorem Boots.setHealth {u h cause : Nat} (hb : Boots s a) : Boots s (a.setHealth u h cause) := by
  have clock : ∀ x, Boots s x →
      Boots s (if h = 1 ∧ u < 48 then { x with testClock := Tab.put x.testClock u x.seconds } else x) :=
    fun x hx => .ite (hx.keeps (State.withTestClock_does x _ Does.refl).only rfl) hx
  have clean : ∀ x, Boots s x → Boots s (if h = 1 then x.wr .unitClean [u] 0 else x) := fun x hx => .ite hx.wr hx
  have withheld : ∀ x, Boots s x → Boots s (if h = 1 then x else x.wr .unitWithheld [u] 0) := fun x hx => .ite hx hx.wr
  have effects : ∀ x, Boots s x → Boots s (if h = 2 then x.fenceEffects u
      else if a.rd .unitHstate [u] = 2 ∧ u < 76 then x.setDomain u (if u < 48 ∨ 56 ≤ u then 0 else 1) else x) :=
    fun x hx => .ite (hx.fenceEffects hs) (.ite hx.setDomain hx)
  exact .ite hb (.refreshHealth (effects _ (.log (.wr (withheld _ (clean _ (clock _ hb.wr)))))))

theorem Boots.autoFence {u cause : Nat} (h : Boots s a) : Boots s (a.autoFence u cause) :=
  .ite (.refreshHealth (.wr (.ite (h.setHealth hs) h))) (.setHealth hs (.ite h.noteRisk h))

theorem Boots.testHealth {u result clean : Nat} (h : Boots s a) : Boots s (a.testHealth u result clean) := by
  unfold State.testHealth
  split
  · exact h.autoFence hs
  · exact h.setHealth hs
  · exact .ite (.setHealth hs h.wr) h.wr
  · exact h.autoFence hs
  · exact h.autoFence hs
  · exact h

theorem Boots.selfCheckUnit {f : BootReport} {u : Nat} (h : Boots s a) : Boots s (a.selfCheckUnit f u) :=
  .testHealth hs (.ite (.wr (.wr h.bump)) (.log (.wr (.bump (.wr (.wr h.bump))))))

omit hs in
/-- A start-up that ends with a BOOT_ERROR. -/
theorem Boots.bootFail {code : Nat} (h : Boots s a) : Boots s (a.bootFail code) :=
  .wr (.wr_of (h.keeps (fun f hf => by cases f <;> first | rfl | exact absurd (by decide) hf) rfl) (by decide))

/-- Start-up of a module at rest. -/
theorem Boots.startUp {cold : Bool} {f : BootReport} (h : Boots s a) : Boots s (a.startUp cold f) := by
  have started : ∀ x, Boots s x → Boots s { x with startDone := true } := fun x hx =>
    hx.keeps (fun f hf => by cases f <;> first | rfl | exact absurd (by decide) hf) rfl
  have begun : Boots s { a with attLog := [], reportSeq := 0, startDone := false, recovery := [], pwrGood := true
                                samples := [], identityKey := f.identity } :=
    h.keeps (fun f hf => by cases f <;> first | rfl | exact absurd (by decide) hf) rfl
  have image : ∀ x img area, Boots s x → Boots s (({ x with running := img } : State).wr .pwrBootArea [] area) :=
    fun x img area hx => .wr (hx.keeps (State.withRunning_does x _ Does.refl).only rfl)
  have version : ∀ (x : State) (img : FwImage), Boots s x →
      Boots s ((x.wr .devFwMajor [] img.major).wr .devFwMinor [] img.minor) :=
    fun x img hx => .wr_of (.wr_of hx (by decide)) (by decide)
  have pending : ∀ (area : Nat) x, Boots s x → Boots s (if area = x.active then x.wr .pwrPendingImage [] 0 else x) :=
    fun _ _ hx => .ite hx.wr hx
  have mapped : ∀ x, Boots s x → Boots s (if cold then
      (f.failing.filter (fun c => decide (c < 640) && !x.mappedOut c)).foldl (fun s c => s.mapOut c 3) x else x) :=
    fun _ hx => .ite (.foldl hx fun _ _ hy => hy.mapOut) hx
  have checked : ∀ x, Boots s x → Boots s ((List.range 96).foldl (State.selfCheckUnit f) x).refreshHealth :=
    fun x hx => .refreshHealth (.foldl hx fun _ _ hy => hy.selfCheckUnit hs)
  have ended : ∀ x, Boots s x → Boots s (if x.noQuad then x.bootFail 4 else if f.error = 5 then x.bootFail 5
      else { x.measureHealth.idleDomains with startDone := true }) :=
    fun _ hx => .ite hx.bootFail (.ite hx.bootFail (started _ (.idleDomains hx.attest)))
  have hboot := Boots.bootDomains (.ite (c := cold) (.applyFlashMap begun) begun)
  refine .ite hboot.bootFail ?_
  split
  · exact hboot.bootFail
  · exact ended _ (checked _ (mapped _ (.measure (version _ _ (pending _ _ (image _ _ _ hboot))))))
end
end Sys2Proof.Machine
end

section
/-! PROOFS. What stopping packets and collectives, and losing the scratchpads, leaves of device memory (R116, R275, R392). -/

namespace Sys2Proof.Machine

/-! Lengths. -/

@[simp] theorem length_leBytes (n v : Nat) : (leBytes n v).length = n := by
  induction n generalizing v with
  | zero => rfl
  | succ n ih => simp [leBytes, ih]

@[simp] theorem length_slice (bs : List Byte) (start n : Nat) : (slice bs start n).length = n := by
  simp only [slice, zeros, List.length_append, List.length_replicate, List.length_take]
  omega

theorem length_boltBytes (payload scales : List Byte) (seq tag geometry format : Nat) :
    (boltBytes payload scales seq tag geometry format).length = 512 := by
  simp [boltBytes, patch]

/-! Bytes outside a list of ranges. -/

section

variable {rs qs : List (Nat × Nat)} {s a t : State}

theorem MemOutside.of_mem (h : t.mem = s.mem) : MemOutside rs s t := fun x _ => by rw [h]

theorem MemOutside.trans (h1 : MemOutside rs s a) (h2 : MemOutside rs a t) : MemOutside rs s t :=
  fun x hx => (h2 x hx).trans (h1 x hx)

theorem MemOutside.mono (h : MemOutside rs s t) (hs : ∀ r ∈ rs, r ∈ qs) : MemOutside qs s t :=
  fun x hx => h x fun r hr => hx r (hs r hr)

theorem MemOutside.foldl {β : Type} {f : State → β → State} {l : List β}
    (hf : ∀ b ∈ l, ∀ x, MemOutside rs x (f x b)) :
    MemOutside rs s (l.foldl f s) := by
  induction l generalizing s with
  | nil => exact .of_mem rfl
  | cons b l ih => exact (hf b List.mem_cons_self s).trans (ih fun c hc => hf c (List.mem_cons_of_mem _ hc))

/-- A write inside one of the ranges. -/
theorem MemOutside.write {w : Nat} {bs : List Byte} {r : Nat × Nat} (hr : r ∈ rs) (hlo : r.1 ≤ w)
    (hhi : w + bs.length ≤ r.1 + r.2) (ht : t.mem = s.mem.write w bs) : MemOutside rs s t := by
  intro x hx
  rw [ht]
  refine Mem.byte_write_out bs s.mem ?_
  have := hx r hr
  omega

/-! Undefined content. -/

theorem State.spoil_memOutside {w n : Nat} (h : (w, n) ∈ rs) : MemOutside rs s (s.spoil w n) :=
  .write h (Nat.le_refl _) (by rw [length_leBytes]) rfl

theorem State.spoils_memOutside {l : List (Nat × Nat)} (h : ∀ r ∈ l, r ∈ rs) : MemOutside rs s (s.spoils l) :=
  .foldl fun r hr _ => State.spoil_memOutside (h r hr)

/-- A bolt keeps its bytes or takes 512 others. -/
theorem State.spoilBolt_mem (s : State) (d : TDesc) (b i : Nat) : (s.spoilBolt d b i).mem = s.mem ∨
    ∃ bs : List Byte, bs.length = 512 ∧ (s.spoilBolt d b i).mem = s.mem.write (d.boltAddr b i) bs := by
  have hfree : ∀ (x : State) (w : Nat), (x.freeVal w).2.mem = x.mem := fun _ _ => rfl
  unfold State.spoilBolt
  dsimp only
  split
  · exact .inl (hfree _ _)
  · dsimp only
    rw [hfree, hfree]
    exact .inr ⟨_, length_boltBytes _ _ _ _ _ _, rfl⟩

/-- Bolt i of matrix b is one of the tensor's bolts. -/
theorem State.spoilBolt_memOutside {d : TDesc} {b i : Nat} (hi : i < d.bolts) (h : (d.boltAddr b 0, 512 * d.bolts) ∈ rs) :
    MemOutside rs s (s.spoilBolt d b i) := by
  have haddr : d.boltAddr b i = d.boltAddr b 0 + 512 * i := by
    simp only [TDesc.boltAddr, TDesc.boltOffset]
    omega
  rcases s.spoilBolt_mem d b i with hm | ⟨bs, hl, hm⟩
  · exact .of_mem hm
  · exact .write h (by omega) (by omega) hm

theorem State.spoilTensor_memOutside (d : TDesc) : MemOutside d.extent s (s.spoilTensor d) := by
  unfold State.spoilTensor TDesc.extent
  refine MemOutside.trans ?_ (State.spoils_memOutside fun r hr => List.mem_append_right _ hr)
  split
  · refine .foldl fun i hi x => ?_
    have hlt := List.mem_range.1 hi
    have hpos : 0 < d.bolts := Nat.pos_of_ne_zero fun h0 => by simp [h0] at hlt
    refine State.spoilBolt_memOutside (Nat.mod_lt _ hpos) (List.mem_append_left _ (List.mem_map.2 ⟨i / d.bolts, ?_, rfl⟩))
    exact List.mem_range.2 (Nat.div_lt_of_lt_mul (by rwa [Nat.mul_comm] at hlt))
  · exact State.spoils_memOutside fun r hr => List.mem_append_left _ hr

/-- A packet that does not end well leaves every byte but those it writes. -/
theorem State.spoilPacket_memOutside (p : Packet) : MemOutside p.dests s (s.spoilPacket p) := by
  unfold State.spoilPacket
  split
  · next hc =>
    have hd : p.dests = (if hasOut p.op then p.outDesc.extent else []) ++ rawWrites p.op p.descs := by
      unfold Packet.dests
      revert hc
      cases p.op <;> intro hc <;> simp_all [isCompute]
    rw [hd]
    refine MemOutside.trans ?_ (State.spoils_memOutside fun r hr => List.mem_append_right _ hr)
    split
    · exact (State.spoilTensor_memOutside _).mono fun r hr => List.mem_append_left _ hr
    · exact .of_mem rfl
  · exact State.spoils_memOutside fun r hr => hr

theorem State.stopWrites_memOutside (s : State) : MemOutside s.writing s s.stopWrites := by
  unfold State.stopWrites State.writing
  refine MemOutside.trans (.foldl fun p hp x => ?_) (State.spoils_memOutside fun r hr => List.mem_append_right _ hr)
  exact (State.spoilPacket_memOutside p).mono fun r hr =>
    List.mem_append_left _ (List.mem_flatten.2 ⟨_, List.mem_map.2 ⟨p, hp, rfl⟩, hr⟩)

/-! Scratchpads. -/

/-- What becoming zero changes. -/
theorem State.zeroRange_only (s : State) (w n : Nat) : ChangesOnly [.regs, .mem, .ue, .ce] s (s.zeroRange w n) := by
  have hc : ∀ l : List Nat, Does [.regs, .mem, .ue, .ce] s (l.foldl State.clearBolt s) := fun l =>
    .foldl (fun x b h => State.clearBolt_does x b h) l .refl
  exact (hc _).only.trans fun f hf => by cases f <;> first | rfl | exact absurd (by decide) hf

theorem State.zeroRange_memOutside {w n : Nat} {r : Nat × Nat} (hr : r ∈ rs) (hlo : r.1 ≤ w) (hhi : w + n ≤ r.1 + r.2) :
    MemOutside rs s (s.zeroRange w n) := by
  have hc : ∀ l : List Nat, (l.foldl State.clearBolt s).mem = s.mem := fun l =>
    (Does.foldl (fs := [.regs, .ue]) (fun x b h => State.clearBolt_does x b h) l .refl).only .mem (by decide)
  intro x hx
  unfold State.zeroRange
  have := hx r hr
  exact (Mem.byte_zero_out _ (by omega)).trans (by rw [hc])

theorem State.zeroTraffic_lls (s : State) (c : Nat) : s.zeroTraffic (.lls c) = s := by
  simp [State.zeroTraffic, State.shareOf]

/-- What losing the partitions changes, once none is held. -/
theorem State.loseScratch_only (s : State) : ChangesOnly [.regs, .mem, .ue, .ce] { s with partitions := [] } s.loseScratch := by
  unfold State.loseScratch
  generalize ({ s with partitions := [] } : State) = x
  induction List.range 4 generalizing x with
  | nil => exact Does.refl.only
  | cons c l ih =>
    refine ChangesOnly.trans (a := x.zeroRegion (.lls c)) ?_ (ih _)
    rw [State.zeroRegion, State.zeroTraffic_lls]
    exact State.zeroRange_only _ _ _

theorem State.loseScratch_memOutside (hr : (0x080000000000, 0x80000000) ∈ rs) : MemOutside rs s s.loseScratch := by
  refine MemOutside.trans (a := { s with partitions := [] }) (.of_mem rfl) (.foldl fun c hc x => ?_)
  have := List.mem_range.1 hc
  rw [State.zeroRegion, State.zeroTraffic_lls]
  refine State.zeroRange_memOutside hr ?_ ?_
  · simp only [Region.base]
    omega
  · simp only [Region.base, Region.window]
    omega
end

/-! What stopping changes. -/

theorem State.stopWrites_only (s : State) : ChangesOnly [.mem, .free] s s.stopWrites :=
  (State.spoils_does _ _ (.foldl (fun x b h => State.spoilPacket_does x b h) _ .refl)).only

theorem State.stopCommit_only (s : State) : ChangesOnly [.regs] s s.stopCommit := by
  unfold State.stopCommit
  split
  · exact (State.wr_does _ _ _ _ (State.wr_does _ _ _ _ (State.wr_does _ _ _ _ (State.wr_does _ _ _ _ Does.refl)))).only
  · exact Does.refl.only

/-- A field of which no kept one owns the key returns to its reset value. -/
theorem State.keepRegs_rd {s : State} {rs : List Reg} {r : Reg} {idx : List Nat}
    (h : rs.any (fun q => q.owns (r.key idx)) = false) :
    (s.keepRegs rs).rd r idx = r.resetAt idx := by
  rcases (s.keepRegs rs).rd_mem r idx with hr | hr
  · exact hr
  · have := (List.mem_filter.1 hr).2
    rw [h] at this
    cases this

end Sys2Proof.Machine
end

section
/-! PROOFS. What a cold and a warm reset clear and keep (R32, R331, R387, R392, R393, R420). -/

namespace Sys2Proof.Machine

/-- Packets, tokens, steps, collectives, membership, groups and partitions are gone, and READY and DEVICE_ENABLE are 0. -/
structure Erased (t : State) : Prop where
  rested : Rested t
  tokens : t.tokens = []
  tokFaulted : t.tokFaulted = []
  step : t.step = none
  commit : t.commit = none
  colls : t.colls = []
  rankNodes : t.rankNodes = []
  groups : t.groups = []
  partitions : t.partitions = []
  ready : t.rd .devReady [] = 0
  enable : t.rd .devDeviceEnable [] = 0

theorem Boots.erased {s t : State} (h : Boots s t) (he : Erased s) : Erased t where
  rested := h.rested he.rested
  tokens := (h.only .tokens (by decide)).trans he.tokens
  tokFaulted := (h.only .tokFaulted (by decide)).trans he.tokFaulted
  step := (h.only .step (by decide)).trans he.step
  commit := (h.only .commit (by decide)).trans he.commit
  colls := (h.only .colls (by decide)).trans he.colls
  rankNodes := (h.only .rankNodes (by decide)).trans he.rankNodes
  groups := (h.only .groups (by decide)).trans he.groups
  partitions := (h.only .partitions (by decide)).trans he.partitions
  ready := (h.ready .devReady [] (by decide)).trans he.ready
  enable := (h.ready .devDeviceEnable [] (by decide)).trans he.enable

theorem Erased.token {t : State} (h : Erased t) (k : Nat) : t.token k = 0 ∧ t.tokenFaulted k = false := by
  unfold State.token State.tokenFaulted
  rw [h.tokens, h.tokFaulted]
  exact ⟨rfl, rfl⟩

/-- READY and DEVICE_ENABLE are none of the fields that a reset keeps. -/
theorem ready_not_kept : ∀ k ∈ readyKeys,
    keptRegs.any (fun q => q.owns k) = false ∧ flashRegs.any (fun q => q.owns k) = false := by
  decide +kernel

/-! Warm resets. -/

/-- What stopping and losing leave of the state before the rest is cleared. -/
def State.stopped (s : State) : State := s.stopWrites.stopCommit.loseScratch

theorem State.stopped_only (s : State) : ChangesOnly [.partitions, .regs, .mem, .ue, .ce, .free] s s.stopped := by
  have hlose : ChangesOnly [.partitions, .regs, .mem, .ue, .ce] s.stopWrites.stopCommit s.stopped :=
    ChangesOnly.trans (fun f hf => by cases f <;> first | rfl | exact absurd (by decide) hf)
      ((State.loseScratch_only _).mono (by decide))
  exact (s.stopWrites_only.mono (by decide)).trans (((State.stopCommit_only _).mono (by decide)).trans (hlose.mono (by decide)))

theorem State.stopped_partitions (s : State) : s.stopped.partitions = [] := State.loseScratch_only _ .partitions (by decide)

theorem State.stopped_memOutside (s : State) : MemOutside ((0x080000000000, 0x80000000) :: s.writing) s s.stopped :=
  (s.stopWrites_memOutside.mono fun _ hr => List.mem_cons_of_mem _ hr).trans
    ((MemOutside.of_mem (State.stopCommit_only _ .mem (by decide))).trans (State.loseScratch_memOutside List.mem_cons_self))

theorem Boots.showShares {s a : State} (h : Boots s a) : Boots s a.showShares := .wr (.wr h)

/-- What clearing the rings and the register fields leaves. -/
structure Cleared (y x : State) : Prop where
  tokens : x.tokens = []
  tokFaulted : x.tokFaulted = []
  flight : x.flight = []
  descs : x.descs = []
  retries : x.retries = []
  partitions : x.partitions = y.partitions
  mem : x.mem = y.mem
  power : x.power = y.power
  aoNow : x.aoNow = y.aoNow
  key : x.key = y.key
  ready : x.rd .devReady [] = 0
  enable : x.rd .devDeviceEnable [] = 0

theorem State.clearRings_cleared (y : State) : Cleared y (y.clearRings.keepRegs keptRegs) where
  tokens := rfl
  tokFaulted := rfl
  flight := rfl
  descs := rfl
  retries := rfl
  partitions := rfl
  mem := rfl
  power := rfl
  aoNow := rfl
  key := rfl
  ready := State.keepRegs_rd (ready_not_kept _ (by decide)).1
  enable := State.keepRegs_rd (ready_not_kept _ (by decide)).1

/-- A reset erases the state and then sets a few fields anew. -/
theorem State.resetCore_boots (s : State) (kind : Nat) : ∃ r, Boots r (s.resetCore kind keptRegs) ∧ Erased r ∧
    r.mem = s.stopped.mem ∧ r.power = s.power ∧ r.aoNow = s.aoNow ∧ r.key = s.key := by
  have hc := s.stopped.clearRings_cleared
  unfold State.resetCore
  rw [show s.stopWrites.stopCommit.loseScratch = s.stopped from rfl]
  revert hc
  generalize s.stopped.clearRings.keepRegs keptRegs = x
  intro hc
  refine ⟨_, .wr (.refreshHealth (.showShares .refl)), ⟨⟨hc.flight, hc.descs, hc.retries, rfl⟩, hc.tokens, hc.tokFaulted,
    rfl, rfl, rfl, rfl, rfl, hc.partitions.trans s.stopped_partitions, hc.ready, hc.enable⟩, hc.mem,
    hc.power.trans (s.stopped_only .power (by decide)), hc.aoNow.trans (s.stopped_only .aoNow (by decide)),
    hc.key.trans (s.stopped_only .key (by decide))⟩

/-- PERST# is asserted: the link is down and configuration space is at its reset. -/
def State.unlinked (s : State) : State := { s with perst := true, pcieUp := false, cfg := ConfigSpace.reset }

theorem State.unlinked_only (s : State) : ChangesOnly [.perst, .pcieUp, .cfg] s s.unlinked :=
  fun f hf => by cases f <;> first | rfl | exact absurd (by decide) hf

theorem Erased.unlinked {s : State} (h : Erased s) : Erased s.unlinked :=
  ⟨⟨h.rested.flight, h.rested.descs, h.rested.retries, h.rested.tests⟩, h.tokens, h.tokFaulted, h.step, h.commit, h.colls,
    h.rankNodes, h.groups, h.partitions, h.ready, h.enable⟩

/-- The state in which a warm reset starts up. -/
def State.warmed (s : State) : State := (s.resetCore 1 keptRegs).unlinked

theorem State.warmReset_eq (s : State) (f : BootReport) : s.warmReset f = s.warmed.startUp false f := rfl

theorem State.warmed_erased (s : State) : Erased s.warmed := by
  obtain ⟨r, hb, he, -⟩ := s.resetCore_boots 1
  exact (hb.erased he).unlinked

/-- What a warm reset keeps. -/
theorem State.warmed_kept (s : State) : s.warmed.mem = s.stopped.mem ∧ s.warmed.power = s.power ∧ s.warmed.aoNow = s.aoNow ∧
    s.warmed.key = s.key := by
  obtain ⟨r, hb, -, hmem, hpower, hnow, hkey⟩ := s.resetCore_boots 1
  have hu := (s.resetCore 1 keptRegs).unlinked_only
  exact ⟨(hu .mem (by decide)).trans ((hb.only .mem (by decide)).trans hmem),
    (hu .power (by decide)).trans ((hb.only .power (by decide)).trans hpower),
    (hu .aoNow (by decide)).trans ((hb.only .aoNow (by decide)).trans hnow),
    (hu .key (by decide)).trans ((hb.only .key (by decide)).trans hkey)⟩

theorem State.warmed_link (s : State) : s.warmed.perst = true ∧ s.warmed.pcieUp = false := by
  unfold State.warmed
  generalize s.resetCore 1 keptRegs = x
  exact ⟨rfl, rfl⟩

theorem exec_warmReset (f : BootReport) (s : State) : exec (.warmReset f) s =
    .next (if s.perst then s else if s.power = 1 then s.warmReset f else { s with perst := true }) := rfl

/-! Cold resets. -/

/-- The state in which a cold reset starts up. -/
def State.cooled (s : State) : State :=
  { State.reset with
    pending := s.pending, regs := (s.keepRegs flashRegs).regs, key := s.key, flashMap := s.flashMap, areaA := s.areaA
    areaB := s.areaB, active := s.active, perst := s.perst, refclk := s.refclk, out := s.out, free := s.free }

theorem exec_coldReset (f : BootReport) (s : State) : exec (.coldReset f) s = .next (s.cooled.startUp true f) := rfl

theorem State.cooled_erased (s : State) : Erased s.cooled where
  rested := ⟨rfl, rfl, rfl, rfl⟩
  tokens := rfl
  tokFaulted := rfl
  step := rfl
  commit := rfl
  colls := rfl
  rankNodes := rfl
  groups := rfl
  partitions := rfl
  ready := (State.rd_congr (s := s.keepRegs flashRegs) rfl _ _).trans (State.keepRegs_rd (ready_not_kept _ (by decide)).2)
  enable := (State.rd_congr (s := s.keepRegs flashRegs) rfl _ _).trans (State.keepRegs_rd (ready_not_kept _ (by decide)).2)

/-- Settles O32: each reset erases the state in which start-up begins, and start-up of a module with nothing in flight keeps
memory, what the reset kept, and READY and DEVICE_ENABLE. -/
theorem coldAndWarmResets : Obligations.ColdAndWarmResets := by
  refine ⟨fun s f => ?_, fun s f hp hn => ?_, fun s f hp hn => ?_⟩
  · have hb : Boots s.cooled (s.cooled.startUp true f) := Boots.startUp s.cooled_erased.rested .refl
    have he := hb.erased s.cooled_erased
    exact ⟨_, exec_coldReset f s, ⟨he.token, he.step, he.commit, he.colls, he.rankNodes, he.groups, he.partitions,
      hb.only .pcieUp (by decide), hb.only .power (by decide)⟩, hb.only .mem (by decide), hb.only .ue (by decide),
      hb.only .thermtrip (by decide), hb.only .key (by decide), hb.only .areaA (by decide), hb.only .areaB (by decide),
      hb.only .active (by decide), fun _ => ⟨he.rested.flight, he.rested.descs, he.ready, he.enable⟩⟩
  · have hb : Boots s.warmed (s.warmed.startUp false f) := Boots.startUp s.warmed_erased.rested .refl
    have he := hb.erased s.warmed_erased
    obtain ⟨hmem, hpower, hnow, hkey⟩ := s.warmed_kept
    obtain ⟨hperst, hdown⟩ := s.warmed_link
    have hout : MemOutside ((0x080000000000, 0x80000000) :: s.writing) s (s.warmed.startUp false f) :=
      s.stopped_memOutside.trans (.of_mem ((hb.only .mem (by decide)).trans hmem))
    refine ⟨s.warmed.startUp false f, ?_, ⟨he.token, he.step, he.commit, he.colls, he.rankNodes, he.groups, he.partitions,
      (hb.only .pcieUp (by decide)).trans hdown, (hb.only .power (by decide)).trans (hpower.trans hp)⟩,
      (hb.only .perst (by decide)).trans hperst, hout,
      (hb.only .aoNow (by decide)).trans hnow, (hb.only .key (by decide)).trans hkey,
      fun _ _ => ⟨he.rested.flight, he.rested.descs, he.ready, he.enable⟩⟩
    rw [exec_warmReset, hn, if_neg Bool.false_ne_true, if_pos hp, State.warmReset_eq]
  · rw [exec_warmReset, hn, if_neg Bool.false_ne_true, if_neg hp]

end Sys2Proof.Machine
end

section
/-! PROOFS. The values of FP4 elements and of E8M0 block scales (R35, R42). -/

namespace Sys2Proof.Machine

/-! FP4 elements. -/

/-- The top bit of a number of `n + 1` bits says whether it is in the upper half. -/
theorem testBit_top {c n : Nat} (h : c < 2 ^ (n + 1)) : c.testBit n = decide (2 ^ n ≤ c) := by
  by_cases hc : 2 ^ n ≤ c
  · rw [Nat.testBit_of_two_pow_le_and_two_pow_add_one_gt hc h, decide_eq_true hc]
  · rw [Nat.testBit_lt_two_pow (Nat.lt_of_not_le hc), decide_eq_false hc]

/-- The positive half of the table of R35, in halves. -/
theorem rawMag_fp4 : ∀ m < 8, rawMag 1 2 m = [0, 1, 2, 3, 4, 6, 8, 12].getD m 0 := by decide

theorem elemNum_fp4 (c : Nat) : elemNum .fp4 c = .fin (c.testBit 3) (rawMag 1 2 (c % 8)) (-1) := rfl

/-- Settles O10: bit 3 of a four-bit code is its top bit, and the other three index the table of R35. -/
theorem fp4ElementValues : Obligations.Fp4ElementValues := by
  intro c hc
  have hsign : c.testBit 3 = decide (8 ≤ c) := testBit_top hc
  have hmag := rawMag_fp4 (c % 8) (Nat.mod_lt c (by decide))
  exact ⟨_, _, by rw [elemNum_fp4, hsign], rfl, hmag⟩

/-! E8M0 block scales. -/

theorem scaleNum_e8m0_nan {e : Nat} (h : e % 256 = 0xFF) : scaleNum .e8m0 e = none := if_pos h

theorem scaleNum_e8m0_finite {e : Nat} (h : e % 256 ≠ 0xFF) :
    scaleNum .e8m0 e = some (1, ((e % 256 : Nat) : Int) - 127) := if_neg h

/-- Settles O11: a scale below 0xFF is its own low byte, so it is not the NaN byte and its exponent is that byte less 127. -/
theorem blockScaleValues : Obligations.BlockScaleValues := by
  refine ⟨scaleNum_e8m0_nan rfl, fun e he => ?_⟩
  have hbyte : e % 256 = e := Nat.mod_eq_of_lt (he.trans (by decide))
  rw [scaleNum_e8m0_finite (hbyte.trans_ne he.ne), hbyte]

end Sys2Proof.Machine
end

section
/-! PROOFS. Writes of 1 that clear a capture record, a last-fault register, a lost-bolt table or a counter (R90, R211, R228,
R361). -/

namespace Sys2Proof.Machine

/-! Fields that are cleared. -/

/-- Fields of the register table, each with its indices, take the value 0 in turn. -/
def State.clearAll (s : State) (fs : List (Reg × List Nat)) : State := fs.foldl (fun s f => s.wr f.1 f.2 0) s

section

variable {s : State} {r q : Reg} {idx jdx : List Nat} {fs : List (Reg × List Nat)}

/-- A field that resets to 0 and reads 0 still does after any field is cleared, one at its own key too. -/
theorem State.rd_wr_zero (hq : q.resetAt jdx = 0) (h : s.rd q jdx = 0) : (s.wr r idx 0).rd q jdx = 0 := by
  by_cases hk : q.key jdx = r.key idx
  · unfold State.wr State.rd
    split
    · simp only [hk, Tab.get_del_same, hq]
    · simp only [hk, Tab.get_put_same, Nat.zero_mod]
  · rw [State.rd_wr_ne s 0 hk, h]

theorem State.clearAll_cons (s : State) (f : Reg × List Nat) (fs : List (Reg × List Nat)) :
    s.clearAll (f :: fs) = (s.wr f.1 f.2 0).clearAll fs := rfl

theorem State.clearAll_keeps_zero (hq : q.resetAt jdx = 0) (h : s.rd q jdx = 0) : (s.clearAll fs).rd q jdx = 0 := by
  induction fs generalizing s with
  | nil => exact h
  | cons f fs ih =>
    rw [State.clearAll_cons]
    exact ih (State.rd_wr_zero hq h)

/-- A cleared field that resets to 0 reads 0. -/
theorem State.clearAll_rd (hr : r ∉ [Reg.arbWeight, .devModuleId, .grpModuleId, .devFwMinor] ∧ r.reset = 0)
    (hm : (r, idx) ∈ fs) : (s.clearAll fs).rd r idx = 0 := by
  have hz : r.resetAt idx = 0 := (State.reset_rd idx hr.1).trans hr.2
  induction fs generalizing s with
  | nil => cases hm
  | cons f fs ih =>
    rcases List.mem_cons.1 hm with rfl | hm
    · have hw : (s.wr r idx 0).rd r idx = 0 := (State.rd_wr_same ..).trans (Nat.zero_mod _)
      rw [State.clearAll_cons]
      exact State.clearAll_keeps_zero hz hw
    · rw [State.clearAll_cons]
      exact ih hm

theorem State.clearAll_touches {ks : List Nat} (hk : ∀ f ∈ fs, f.1.key f.2 ∈ ks) : Touches [.regs] ks s (s.clearAll fs) :=
  Touches.foldl fun f hf _ => (OnlyRegs.wr (hk f hf)).touches

/-- A host write whose effect is to clear fields: beside them it changes what its bytes do. -/
theorem State.clearAll_hostWrote {n : Nat} {ks : List Nat} (hk : ∀ f ∈ fs, f.1.key f.2 ∈ ks) :
    HostWrote n ks s ((s.tlpIn n).clearAll fs) := by
  have hclear : Touches [.regs] ks (s.tlpIn n) ((s.tlpIn n).clearAll fs) := State.clearAll_touches hk
  have hall : Touches [.regs, .bwTotals, .bwWindow, .heldWords] (channelKeys 0 ++ ks) s ((s.tlpIn n).clearAll fs) :=
    (State.tlpIn_touches.mono (List.subset_append_left _ _)).trans (hclear.mono (List.subset_append_right _ _))
  have htotals : ((s.tlpIn n).clearAll fs).bwTotals = (s.tlpIn n).bwTotals := hclear.only .bwTotals (by decide)
  refine ⟨hall.only, hall.regs, ?_⟩
  rw [HostBytes, htotals]
  exact State.tlpIn_hostBytes

end

/-! The commands, each with the fields that it clears. -/

/-- The fields of a capture record (R90). -/
def captureRecord : List Reg :=
  [.capValid, .capEvents, .capTag, .capDescId, .capMatrix, .capRow, .capCol, .capKblock]

/-- The fields of a slice's lost-bolt table (R228). -/
def lostTable (c : Nat) : List (Reg × List Nat) :=
  (List.range 64).map (fun k => (Reg.llsLostAddr, [c, k])) ++ [(.llsLostCount, [c]), (.llsLostOverflow, [c])]

section

variable {s : State} {c k f i : Nat}

theorem State.lostClear_eq (s : State) (c : Nat) : s.lostClear c = s.clearAll (lostTable c) := by
  simp only [State.lostClear, State.clearAll, lostTable, List.foldl_append, List.foldl_map, List.foldl_cons, List.foldl_nil]

theorem exec_captureClear (c k f : Nat) (s : State) :
    exec (.captureClear c k f) s = hosted s (fun s => s.hostField .capValid [c, k, f] 1) := rfl

theorem exec_lastFaultClear (c i : Nat) (s : State) :
    exec (.lastFaultClear c i) s = hosted s (fun s => s.hostField .engValid [c, i] 1) := rfl

theorem exec_lostClear (c : Nat) (s : State) :
    exec (.lostClear c) s = hosted s (fun s => s.hostField .llsLostClear [c] 1) := rfl

theorem exec_counterClear (c i : Nat) (s : State) :
    exec (.counterClear c i) s = hosted s (fun s => s.hostField .progClear [c, i] 1) := rfl

theorem captureClear_takes (ht : HostTakes s) (hc : c < 4) (hk : k < 48) (hf : f < 8) :
    exec (.captureClear c k f) s = .next ((s.tlpIn 4).clearAll (captureRecord.map fun r => (r, [c, k, f]))) := by
  have hh : Reg.capValid.has [c, k, f] = true := by simp [Reg.has, Reg.capValid, hc, hk, hf]
  rw [exec_captureClear, hosted_takes ht, State.hostField_takes ht hh]
  rfl

theorem lastFaultClear_takes (ht : HostTakes s) (hc : c < 4) (hi : i < 5) :
    exec (.lastFaultClear c i) s =
      .next ((s.tlpIn 4).clearAll [(.engValid, [c, i]), (.engStatus, [c, i]), (.engGroup, [c, i])]) := by
  have hh : Reg.engValid.has [c, i] = true := by simp [Reg.has, Reg.engValid, hc, hi]
  rw [exec_lastFaultClear, hosted_takes ht, State.hostField_takes ht hh]
  rfl

theorem lostClear_takes (ht : HostTakes s) (hc : c < 4) :
    exec (.lostClear c) s = .next ((s.tlpIn 4).clearAll (lostTable c)) := by
  have hh : Reg.llsLostClear.has [c] = true := by simp [Reg.has, Reg.llsLostClear, hc]
  rw [exec_lostClear, hosted_takes ht, State.hostField_takes ht hh, ← State.lostClear_eq]
  rfl

theorem counterClear_takes (ht : HostTakes s) (hc : c < 4) (hi : i < 16) :
    exec (.counterClear c i) s = .next ((s.tlpIn 4).clearAll [(.progValue, [c, i])]) := by
  have hh : Reg.progClear.has [c, i] = true := by simp [Reg.has, Reg.progClear, hc, hi]
  rw [exec_counterClear, hosted_takes ht, State.hostField_takes ht hh]
  rfl

end

/-! The channel that homes a bolt depends on the shares and on which HBM channels are mapped out (R19, R216). -/

section

variable {s t : State}

theorem lt_of_mem_spreadOrder {x : Nat} (h : x ∈ spreadOrder) : x < 640 := by
  obtain ⟨k, hk, rfl⟩ := List.mem_map.1 h
  have := List.mem_range.1 hk
  omega

theorem State.healthyList_congr (hm : ∀ x < 640, t.rd .hbmState [x] = s.rd .hbmState [x]) (r : Region) :
    t.healthyList r = s.healthyList r := by
  refine List.filter_congr fun x hx => ?_
  simp only [State.mappedOut, hm x (lt_of_mem_spreadOrder hx)]

theorem State.shareOf_congr (hd : t.dShare = s.dShare) (hc : t.cShare = s.cShare) (r : Region) : t.shareOf r = s.shareOf r := by
  cases r <;> simp only [State.shareOf, State.cShareOf, hd, hc]

theorem State.homeChannel_congr (hd : t.dShare = s.dShare) (hc : t.cShare = s.cShare)
    (hm : ∀ x < 640, t.rd .hbmState [x] = s.rd .hbmState [x]) (b : Nat) : t.homeChannel b = s.homeChannel b := by
  simp only [State.homeChannel, State.locate, State.healthyList_congr hm, State.shareOf_congr hd hc]

end

/-! LOST_CLEAR. -/

/-- The keys of a slice's lost-bolt table, in the order that the statement gives them. -/
def lostTableKeys (c : Nat) : List Nat :=
  Reg.llsLostCount.key [c] :: Reg.llsLostOverflow.key [c] :: (List.range 64).map (fun k => Reg.llsLostAddr.key [c, k])

theorem lostTable_key_mem {c : Nat} : ∀ f ∈ lostTable c, f.1.key f.2 ∈ lostTableKeys c := by
  simp only [lostTable, lostTableKeys, List.mem_append, List.mem_map, List.mem_cons, List.not_mem_nil, or_false]
  rintro f (⟨k, hk, rfl⟩ | rfl | rfl)
  · exact .inr (.inr ⟨k, hk, rfl⟩)
  · exact .inl rfl
  · exact .inr (.inl rfl)

theorem hbmState_not_mem_lostClear {c x : Nat} (_ : x < 640) :
    Reg.hbmState.key [x] ∉ channelKeys 0 ++ lostTableKeys c := by
  simp only [channelKeys, lostTableKeys, List.mem_append, List.mem_cons, List.mem_map, List.mem_range, Reg.key, strideSum,
    Reg.hbmState, Reg.progValue, Reg.llsLostCount, Reg.llsLostOverflow, Reg.llsLostAddr]
  omega

section

variable {s : State} {n c b : Nat}

/-- Clearing a lost-bolt table maps no HBM channel out or in, so it moves no bolt's home. -/
theorem State.clearLost_homeChannel :
    ((s.tlpIn n).clearAll (lostTable c)).homeChannel b = s.homeChannel b := by
  obtain ⟨honly, hregs, -⟩ : HostWrote n (lostTableKeys c) s ((s.tlpIn n).clearAll (lostTable c)) :=
    State.clearAll_hostWrote lostTable_key_mem
  exact State.homeChannel_congr (honly .dShare (by decide)) (honly .cShare (by decide))
    (fun x hx => hregs _ _ (hbmState_not_mem_lostClear hx)) b

theorem State.clearLost_count : ((s.tlpIn n).clearAll (lostTable c)).rd .llsLostCount [c] = 0 :=
  State.clearAll_rd (by decide) (List.mem_append_right _ List.mem_cons_self)

theorem State.clearLost_overflow : ((s.tlpIn n).clearAll (lostTable c)).rd .llsLostOverflow [c] = 0 :=
  State.clearAll_rd (by decide) (List.mem_append_right _ (List.mem_cons_of_mem _ List.mem_cons_self))

/-- No bolt that the slice homes is lost any more. -/
theorem State.clearLost_lostBolt (hb : s.homeChannel b = some c) :
    ((s.tlpIn n).clearAll (lostTable c)).lostBolt b = false := by
  refine State.lostBolt_eq_false fun d hd => ?_
  rw [State.clearLost_homeChannel, hb] at hd
  obtain rfl : c = d := Option.some.inj hd
  rw [State.flag, State.clearLost_overflow, State.clearLost_count]
  exact ⟨rfl, fun k hk => absurd hk (Nat.not_lt_zero k)⟩

end

/-- Settles O24: each command counts its bytes and clears a list of fields that reset to 0; a lost-bolt table that is empty and
has not overflowed loses no bolt that its slice homes. -/
theorem recordAndTableClears : Obligations.RecordAndTableClears := by
  intro s ht
  refine ⟨fun c k f hc hk hf => ?_, fun c i hc hi => ?_, fun c hc => ?_, fun c i hc hi => ?_⟩
  · have hzero : ∀ r ∈ captureRecord, r ∉ [Reg.arbWeight, .devModuleId, .grpModuleId, .devFwMinor] ∧ r.reset = 0 := by decide
    refine ⟨_, captureClear_takes ht hc hk hf, fun r hr => State.clearAll_rd (hzero r hr) (List.mem_map.2 ⟨r, hr, rfl⟩),
      State.clearAll_hostWrote fun g hg => ?_⟩
    obtain ⟨r, hr, rfl⟩ := List.mem_map.1 hg
    exact List.mem_map.2 ⟨r, hr, rfl⟩
  · exact ⟨_, lastFaultClear_takes ht hc hi, State.clearAll_rd (by decide) (by simp), State.clearAll_rd (by decide) (by simp),
      State.clearAll_rd (by decide) (by simp), State.clearAll_hostWrote (by simp)⟩
  · exact ⟨_, lostClear_takes ht hc, State.clearLost_count, State.clearLost_overflow, fun _ hb => State.clearLost_lostBolt hb,
      State.clearAll_hostWrote lostTable_key_mem⟩
  · exact ⟨_, counterClear_takes ht hc hi, State.clearAll_rd (by decide) List.mem_cons_self,
      State.clearAll_hostWrote (by simp)⟩

end Sys2Proof.Machine
end

section
/-! PROOFS. REEF_SET and REEF_CLEAR: the bits of a word of REEF_STATE, and the reef state coming into force (R142, R180, R184,
R199). -/

namespace Sys2Proof.Machine

/-! Bits of a word. -/

section

variable {v i j : Nat}

/-- Adding an absent power of two sets its bit and keeps the others: nothing carries. -/
theorem testBit_add_two_pow (h : v.testBit i = false) : (v + 2 ^ i).testBit j = if j = i then true else v.testBit j := by
  rcases Nat.lt_trichotomy j i with hlt | rfl | hgt
  · rw [if_neg hlt.ne, Nat.add_comm, Nat.testBit_two_pow_add_gt hlt]
  · rw [if_pos rfl, Nat.add_comm, Nat.testBit_two_pow_add_eq, h, Bool.not_false]
  · have heven : v / 2 ^ i % 2 ≠ 1 := of_decide_eq_false (Nat.testBit_eq_decide_div_mod_eq.symm.trans h)
    have hhigh : (v + 2 ^ i) / 2 ^ (i + 1) = v / 2 ^ (i + 1) := by
      rw [Nat.pow_succ, ← Nat.div_div_eq_div_mul, ← Nat.div_div_eq_div_mul, Nat.add_div_right _ (Nat.two_pow_pos i)]
      omega
    obtain ⟨k, rfl⟩ := Nat.exists_eq_add_of_lt hgt
    rw [if_neg hgt.ne', Nat.add_assoc, Nat.add_comm i, Nat.add_assoc, Nat.add_comm 1,
      ← Nat.testBit_div_two_pow, ← Nat.testBit_div_two_pow, hhigh]

/-- Subtracting a power of two that is present clears its bit and keeps the others. -/
theorem testBit_sub_two_pow (h : v.testBit i = true) : (v - 2 ^ i).testBit j = if j = i then false else v.testBit j := by
  have hsplit : v - 2 ^ i + 2 ^ i = v := Nat.sub_add_cancel (Nat.ge_two_pow_of_testBit h)
  have hoff : (v - 2 ^ i).testBit i = false := by
    rw [← hsplit, Nat.add_comm, Nat.testBit_two_pow_add_eq] at h
    simpa using h
  have hback : v.testBit j = if j = i then true else (v - 2 ^ i).testBit j := by
    rw [← testBit_add_two_pow hoff, hsplit]
  split
  · rwa [‹j = i›]
  · rw [hback, if_neg ‹_›]

end

/-! Layers of a word of REEF_STATE. -/

/-- Layers of word w take their bits in REEF_STATE, in turn. -/
def State.setReefs (on : Bool) (w : Nat) (s : State) (is : List Nat) : State :=
  is.foldl (fun s i => s.setReef on (32 * w + i)) s

section

variable {s : State} {on : Bool} {w i j : Nat} {is : List Nat}

theorem State.setReef_eq (hi : i < 32) : s.setReef on (32 * w + i) =
    if (s.rd .olReefState [w]).testBit i = on then s
    else s.wr .olReefState [w] (if on then s.rd .olReefState [w] + 2 ^ i else s.rd .olReefState [w] - 2 ^ i) := by
  have hword : (32 * w + i) / 32 = w := by omega
  have hbit : (32 * w + i) % 32 = i := by omega
  unfold State.setReef
  rw [hword, hbit]

theorem State.setReef_touches (hi : i < 32) : Touches [.regs] [Reg.olReefState.key [w]] s (s.setReef on (32 * w + i)) := by
  rw [State.setReef_eq hi]
  exact .ite (fun _ => .refl) (OnlyRegs.wr List.mem_cons_self).touches

/-- A layer's bit becomes `on`; the word's other bits stay. -/
theorem State.setReef_testBit (hi : i < 32) (hj : j < 32) : ((s.setReef on (32 * w + i)).rd .olReefState [w]).testBit j =
    if j = i then on else (s.rd .olReefState [w]).testBit j := by
  rw [State.setReef_eq hi]
  split
  case isTrue hsame =>
    split
    · rwa [‹j = i›]
    · rfl
  case isFalse hdiff =>
    have hwidth : ∀ n : Nat, (n % 2 ^ Reg.olReefState.width).testBit j = n.testBit j := fun n => by
      rw [Nat.testBit_mod_two_pow, decide_eq_true (show j < Reg.olReefState.width from hj), Bool.true_and]
    rw [State.rd_wr_same, hwidth]
    cases on with
    | true => exact testBit_add_two_pow (Bool.eq_false_iff.2 hdiff)
    | false => exact testBit_sub_two_pow (Bool.not_eq_false _ ▸ hdiff)

theorem State.setReefs_touches (his : ∀ i ∈ is, i < 32) : Touches [.regs] [Reg.olReefState.key [w]] s (s.setReefs on w is) :=
  Touches.foldl fun i hi _ => State.setReef_touches (his i hi)

/-- The bits of the listed layers become `on`; the word's other bits stay. -/
theorem State.setReefs_testBit (his : ∀ i ∈ is, i < 32) (hj : j < 32) : ((s.setReefs on w is).rd .olReefState [w]).testBit j =
    if j ∈ is then on else (s.rd .olReefState [w]).testBit j := by
  induction is generalizing s with
  | nil => rfl
  | cons i is ih =>
    have hrest : s.setReefs on w (i :: is) = (s.setReef on (32 * w + i)).setReefs on w is := rfl
    rw [hrest, ih (fun k hk => his k (List.mem_cons_of_mem _ hk)), State.setReef_testBit (his i List.mem_cons_self) hj]
    by_cases hm : j ∈ is <;> by_cases he : j = i <;> simp [hm, he]

end

/-! Stack engines wake (R184, R374). -/

/-- The fields of the stack engines' domains that waking changes, and of the one past them: 56 + 20, the domain of a shard in no
stack's window. -/
def engineKeys : List Nat :=
  (List.range 21).map (fun k => Reg.domDstate.key [56 + k]) ++ (List.range 21).map (fun k => Reg.domClocksStopped.key [56 + k])

theorem stackWindow_le (a : Nat) : stackWindow a ≤ 20 := by
  unfold stackWindow
  split
  case h_1 st hr =>
    simp only [regionOf] at hr
    split_ifs at hr <;> cases hr
    omega
  case h_2 => exact Nat.le_refl _

theorem olReefState_not_mem_engineKeys {w : Nat} (_ : w < 128) : Reg.olReefState.key [w] ∉ engineKeys := by
  simp only [engineKeys, List.mem_append, List.mem_map, List.mem_range, Reg.key, strideSum, Reg.olReefState, Reg.domDstate,
    Reg.domClocksStopped]
  omega

section

variable {s t : State} {stream sts : List Nat} {shards : List Shard}

theorem State.wake_engine_touches {k : Nat} (hk : k ≤ 20) : Touches [.regs] engineKeys s (s.wake (56 + k)) := by
  have hr : k ∈ List.range 21 := List.mem_range.2 (Nat.lt_succ_of_le hk)
  have hstate : Reg.domDstate.key [56 + k] ∈ engineKeys := List.mem_append_left _ (List.mem_map.2 ⟨k, hr, rfl⟩)
  have hclocks : Reg.domClocksStopped.key [56 + k] ∈ engineKeys := List.mem_append_right _ (List.mem_map.2 ⟨k, hr, rfl⟩)
  exact .ite (fun _ => ((OnlyRegs.wr hstate).trans (OnlyRegs.wr hclocks)).touches) .refl

theorem stacksOf_le : ∀ k ∈ stacksOf shards, k ≤ 20 := by
  intro k hk
  obtain ⟨sh, -, rfl⟩ := List.mem_map.1 (List.mem_eraseDups.1 hk)
  exact stackWindow_le _

theorem State.wakeEngines_touches (h : ∀ k ∈ sts, k ≤ 20) : Touches [.regs] engineKeys s (s.wakeEngines stream sts) :=
  Touches.foldl fun k hk _ => State.wake_engine_touches (h k (List.mem_of_mem_filter hk))

/-! REEF_STATE takes effect (R142, R199). -/

theorem State.reefState_congr (h : ∀ w < 128, t.rd .olReefState [w] = s.rd .olReefState [w]) : t.reefState = s.reefState := by
  unfold State.reefState
  refine congrArg List.flatten (List.map_congr_left fun w hw => ?_)
  simp only [h w (List.mem_range.1 hw)]

theorem State.applyReef_only : ChangesOnly [.regs, .reef, .rewrites, .rewritesDue, .rewriteStream] s s.applyReef :=
  (State.applyReef_does s Does.refl).only

/-- Beside REEF_STATE taking effect, engines wake: no other register field changes. -/
theorem State.applyReef_regs : RegsBut engineKeys s s.applyReef :=
  (State.wakeEngines_touches stacksOf_le).regs

theorem State.applyReef_reef : s.applyReef.reef = s.reefState :=
  (State.wakeEngines_touches stacksOf_le).only .reef (by decide)

theorem State.applyReef_rewritesDue : s.applyReef.rewritesDue = [] :=
  (State.wakeEngines_touches stacksOf_le).only .rewritesDue (by decide)

theorem State.applyReef_olReefState {w : Nat} (hw : w < 128) : s.applyReef.rd .olReefState [w] = s.rd .olReefState [w] :=
  State.applyReef_regs _ _ (olReefState_not_mem_engineKeys hw)

theorem State.applyReef_reefState : s.applyReef.reefState = s.reefState :=
  State.reefState_congr fun _ hw => State.applyReef_olReefState hw

end

/-! The commands. -/

/-- The layers of a word that a value names, by their place in the word. -/
def layerBits (bits : Nat) : List Nat := (List.range 32).filter (fun i => bits.testBit i)

theorem layerBits_lt (bits : Nat) : ∀ i ∈ layerBits bits, i < 32 := fun _ hi => List.mem_range.1 (List.mem_of_mem_filter hi)

theorem mem_layerBits {bits i : Nat} (hi : i < 32) : i ∈ layerBits bits ↔ bits.testBit i = true := by
  simp [layerBits, hi]

section

variable {s : State} {on : Bool} {w bits : Nat}

theorem olReefState_not_mem_channelKeys (_ : w < 128) : Reg.olReefState.key [w] ∉ channelKeys 0 := by
  simp only [channelKeys, List.mem_map, List.mem_range, Reg.key, strideSum, Reg.olReefState, Reg.progValue]
  omega

theorem stState_not_mem_reefWrite (_ : w < 128) : Reg.stState.key [] ∉ Reg.olReefState.key [w] :: channelKeys 0 := by
  simp only [channelKeys, List.mem_cons, List.mem_map, List.mem_range, Reg.key, strideSum, Reg.olReefState, Reg.progValue,
    Reg.stState]
  omega

/-- The bytes of a write of REEF_SET or REEF_CLEAR count, and REEF_STATE takes the bits. -/
def State.reefBits (s : State) (on : Bool) (w bits : Nat) : State := (s.tlpIn 4).setReefs on w (layerBits bits)

theorem State.reefBits_touches : Touches [.regs, .bwTotals, .bwWindow] (Reg.olReefState.key [w] :: channelKeys 0) s
    (s.reefBits on w bits) :=
  (State.tlpIn_touches.mono (List.subset_cons_self _ _)).trans
    ((State.setReefs_touches (layerBits_lt bits)).mono (List.cons_subset_cons _ (List.nil_subset _)))

theorem State.reefBits_testBit {i : Nat} (hw : w < 128) (hi : i < 32) : ((s.reefBits on w bits).rd .olReefState [w]).testBit i =
    if bits.testBit i then on else (s.rd .olReefState [w]).testBit i := by
  rw [State.reefBits, State.setReefs_testBit (layerBits_lt bits) hi,
    State.tlpIn_touches.regs _ _ (olReefState_not_mem_channelKeys hw)]
  exact if_congr (mem_layerBits hi) rfl rfl

theorem State.reefBits_hostBytes : HostBytes 4 s (s.reefBits on w bits) := by
  have htotals : (s.reefBits on w bits).bwTotals = (s.tlpIn 4).bwTotals :=
    (State.setReefs_touches (layerBits_lt bits)).only .bwTotals (by decide)
  rw [HostBytes, htotals]
  exact State.tlpIn_hostBytes

theorem State.reefBits_stepOpen (hw : w < 128) : (s.reefBits on w bits).stepOpen = s.stepOpen := by
  rw [State.stepOpen, State.stepOpen, State.reefBits_touches.regs _ _ (stState_not_mem_reefWrite hw)]

/-- A write of REEF_SET or REEF_CLEAR that came from the host: with no step open the reef state takes effect. -/
def State.reefTake (s : State) (on : Bool) (w bits : Nat) : State :=
  if s.stepOpen then s.reefBits on w bits else (s.reefBits on w bits).applyReef

theorem State.reefWrite_tlpIn (hw : w < 128) : (s.tlpIn 4).reefWrite on w bits = s.reefTake on w bits := by
  rw [State.reefTake, ← State.reefBits_stepOpen (on := on) (bits := bits) hw]
  rfl

theorem exec_reefSet (w bits : Nat) (s : State) :
    exec (.reefSet w bits) s = hosted s (fun s => s.hostField .olReefSet [w] bits) := rfl

theorem exec_reefClear (w bits : Nat) (s : State) :
    exec (.reefClear w bits) s = hosted s (fun s => s.hostField .olReefClear [w] bits) := rfl

theorem reefSet_takes (ht : HostTakes s) (hw : w < 128) (hb : bits < 2 ^ 32) :
    exec (.reefSet w bits) s = .next (s.reefTake true w bits) := by
  have hh : Reg.olReefSet.has [w] = true := by simp [Reg.has, Reg.olReefSet, hw]
  rw [exec_reefSet, hosted_takes ht, State.hostField_takes ht hh, ← State.reefWrite_tlpIn hw,
    show bits % 2 ^ Reg.olReefSet.width = bits from Nat.mod_eq_of_lt hb]
  rfl

theorem reefClear_takes (ht : HostTakes s) (hw : w < 128) (hb : bits < 2 ^ 32) :
    exec (.reefClear w bits) s = .next (s.reefTake false w bits) := by
  have hh : Reg.olReefClear.has [w] = true := by simp [Reg.has, Reg.olReefClear, hw]
  rw [exec_reefClear, hosted_takes ht, State.hostField_takes ht hh, ← State.reefWrite_tlpIn hw,
    show bits % 2 ^ Reg.olReefClear.width = bits from Nat.mod_eq_of_lt hb]
  rfl

/-! What the write leaves, with a step open or not. -/

theorem State.reefTake_olReefState (hw : w < 128) :
    (s.reefTake on w bits).rd .olReefState [w] = (s.reefBits on w bits).rd .olReefState [w] := by
  unfold State.reefTake
  split
  · rfl
  · exact State.applyReef_olReefState hw

theorem State.reefTake_touches : Touches [.regs, .bwTotals, .bwWindow, .reef, .rewrites, .rewritesDue, .rewriteStream]
    ((Reg.olReefState.key [w] :: channelKeys 0) ++ engineKeys) s (s.reefTake on w bits) := by
  have hbits : Touches [.regs, .bwTotals, .bwWindow, .reef, .rewrites, .rewritesDue, .rewriteStream]
      ((Reg.olReefState.key [w] :: channelKeys 0) ++ engineKeys) s (s.reefBits on w bits) :=
    State.reefBits_touches.mono (List.subset_append_left _ _)
  have happly : Touches _ engineKeys (s.reefBits on w bits) (s.reefBits on w bits).applyReef :=
    ⟨State.applyReef_only, State.applyReef_regs⟩
  exact .ite (fun _ => hbits) (hbits.trans (happly.mono (List.subset_append_right _ _)))

theorem State.reefTake_hostBytes : HostBytes 4 s (s.reefTake on w bits) := by
  have htotals : (s.reefTake on w bits).bwTotals = (s.reefBits on w bits).bwTotals := by
    unfold State.reefTake
    split
    · rfl
    · exact State.applyReef_only .bwTotals (by decide)
  rw [HostBytes, htotals]
  exact State.reefBits_hostBytes

/-- While a step is open the layers in force and the rewrites stay; else every pending layer is in force. -/
theorem State.reefTake_inForce : if s.stepOpen
    then (s.reefTake on w bits).reef = s.reef ∧ (s.reefTake on w bits).rewrites = s.rewrites
    else (s.reefTake on w bits).reef = (s.reefTake on w bits).reefState ∧ (s.reefTake on w bits).rewritesDue = [] := by
  unfold State.reefTake
  split
  · exact ⟨State.reefBits_touches.only .reef (by decide), State.reefBits_touches.only .rewrites (by decide)⟩
  · exact ⟨State.applyReef_reef.trans State.applyReef_reefState.symm, State.applyReef_rewritesDue⟩

end

/-- Settles O20: either command counts its bytes and sets or clears the bits of one word; with no step open the layers in force
become those of REEF_STATE, which waking the engines leaves alone. -/
theorem reefWritesSetLayerBits : Obligations.ReefWritesSetLayerBits := by
  intro s w bits ht hw hb after
  have written : ∀ on, after on (s.reefTake on w bits) := fun on => by
    refine ⟨fun i hi => ?_, ?_, State.reefTake_touches.only, State.reefTake_hostBytes, State.reefTake_inForce⟩
    · rw [State.reefTake_olReefState hw, State.reefBits_testBit hw hi]
    · rw [List.append_assoc]
      exact State.reefTake_touches.regs
  exact ⟨⟨_, reefSet_takes ht hw hb, written true⟩, _, reefClear_takes ht hw hb, written false⟩

end Sys2Proof.Machine
end

section
/-! PROOFS. DEFAULTS and CLEAR_BROKEN: writes of 1 to the step-control block that set several of its fields (R145, R155, R173,
R180). -/

namespace Sys2Proof.Machine

/-! Host writes by what they touch, and fields of an array that return to their reset values. -/

/-- A filter by key finds a key that it keeps, and no other. -/
theorem Tab.find_filter_key {α : Type} (t : Tab α) (f : Nat → Bool) (k : Nat) :
    Tab.find (t.filter (fun p => f p.1)) k = if f k then Tab.find t k else none := by
  induction t with
  | nil => simp [Tab.find]
  | cons p t ih =>
    obtain ⟨i, w⟩ := p
    by_cases hik : i = k
    · subst hik
      by_cases hf : f i = true
      · simp [Tab.find, hf]
      · simp [hf, ih]
    · by_cases hf : f i = true <;> simp [Tab.find, hf, hik, ih]

/-- Keys of the fields at bit `lsb` of `n` words, `stride` bytes apart from `off`. -/
def arrayKey (lsb off stride n k : Nat) : Bool :=
  k % 32 == lsb && decide (off ≤ k / 32) && decide (k / 32 < off + stride * n) && (k / 32 - off) % stride == 0

theorem get_clearFields (d : Nat) (t : Tab Nat) (lsb off stride n k : Nat) :
    Tab.get d (clearFields t lsb off stride n) k = if arrayKey lsb off stride n k then d else Tab.get d t k := by
  have hfind : Tab.find (clearFields t lsb off stride n) k = if !arrayKey lsb off stride n k then Tab.find t k else none :=
    Tab.find_filter_key t (fun k => !arrayKey lsb off stride n k) k
  unfold Tab.get
  rw [hfind]
  cases arrayKey lsb off stride n k <;> rfl

/-- The keys of the monitors' POLICY fields. -/
def policyKeys : List Nat := (List.range 256).map (fun i => Reg.monPolicy.key [i])

theorem mem_policyKeys_of_arrayKey {k : Nat} (h : arrayKey 16 0x101000 0x20 256 k = true) : k ∈ policyKeys := by
  simp only [arrayKey, Bool.and_eq_true, beq_iff_eq, decide_eq_true_eq] at h
  obtain ⟨⟨⟨hbit, hlow⟩, hhigh⟩, hstride⟩ := h
  refine List.mem_map.2 ⟨(k / 32 - 0x101000) / 0x20, List.mem_range.2 (by omega), ?_⟩
  simp only [Reg.key, Reg.monPolicy, strideSum]
  omega

theorem arrayKey_monPolicy {i : Nat} (hi : i < 256) : arrayKey 16 0x101000 0x20 256 (Reg.monPolicy.key [i]) = true := by
  simp only [arrayKey, Bool.and_eq_true, beq_iff_eq, decide_eq_true_eq, Reg.key, Reg.monPolicy, strideSum]
  omega

section

variable {s t : State} {n : Nat} {ks : List Nat}

/-- A host write counts its bytes; what it then does to register fields is all else that it changes. -/
theorem Touches.hostWrote (h : Touches [.regs] ks (s.tlpIn n) t) : HostWrote n ks s t := by
  have hall : Touches [.regs, .bwTotals, .bwWindow, .heldWords] (channelKeys 0 ++ ks) s t :=
    (State.tlpIn_touches.mono (List.subset_append_left _ _)).trans (h.mono (List.subset_append_right _ _))
  refine ⟨hall.only, hall.regs, ?_⟩
  rw [HostBytes, h.only .bwTotals (by decide)]
  exact State.tlpIn_hostBytes

theorem Touches.wr {r : Reg} {idx : List Nat} {v : Nat} (h : Touches [.regs] ks s t) (hk : r.key idx ∈ ks) :
    Touches [.regs] ks s (t.wr r idx v) :=
  h.trans (OnlyRegs.wr hk).touches

theorem State.withRegs_touches (s : State) {m : Tab Nat}
    (h : ∀ (r : Reg) (idx : List Nat), r.key idx ∉ ks → Tab.get (r.resetAt idx) m (r.key idx) = s.rd r idx) :
    Touches [.regs] ks s { s with regs := m } := by
  refine ⟨fun f hf => ?_, h⟩
  cases f
  case regs => exact absurd List.mem_cons_self hf
  all_goals rfl

end

/-! DEFAULTS (R155, R180). -/

section

variable {s : State} {num : Nat}

theorem State.installDefaults_rd (s : State) (num : Nat) (r : Reg) (idx : List Nat) : (s.installDefaults num).rd r idx =
    if arrayKey 16 0x101000 0x20 256 (r.key idx) then r.resetAt idx
    else ((s.wr .stNumPolicy [] num).wr .olMode [] 1).rd r idx :=
  get_clearFields ..

theorem State.installDefaults_numPolicy : (s.installDefaults num).rd .stNumPolicy [] = num % 2 ^ 16 := by
  rw [State.installDefaults_rd, if_neg (by decide), State.rd_wr_ne _ _ (by decide), State.rd_wr_same]
  rfl

theorem State.installDefaults_olMode : (s.installDefaults num).rd .olMode [] = 1 := by
  rw [State.installDefaults_rd, if_neg (by decide), State.rd_wr_same]
  rfl

theorem State.installDefaults_monPolicy {i : Nat} (hi : i < 256) : (s.installDefaults num).rd .monPolicy [i] = 0 := by
  rw [State.installDefaults_rd, if_pos (arrayKey_monPolicy hi)]
  exact State.reset_rd (r := .monPolicy) [i] (by decide)

theorem State.installDefaults_touches :
    Touches [.regs] (Reg.stNumPolicy.key [] :: Reg.olMode.key [] :: policyKeys) s (s.installDefaults num) := by
  have hset : Touches [.regs] (Reg.stNumPolicy.key [] :: Reg.olMode.key [] :: policyKeys) s
      ((s.wr .stNumPolicy [] num).wr .olMode [] 1) :=
    (Touches.refl.wr List.mem_cons_self).wr (List.mem_cons_of_mem _ List.mem_cons_self)
  refine hset.trans (State.withRegs_touches _ fun r idx hk => ?_)
  have hkeep : arrayKey 16 0x101000 0x20 256 (r.key idx) ≠ true := fun ha =>
    hk (List.mem_cons_of_mem _ (List.mem_cons_of_mem _ (mem_policyKeys_of_arrayKey ha)))
  rw [get_clearFields, if_neg hkeep]
  rfl

end

/-! CLEAR_BROKEN (R145, R173). -/

section

variable {s t : State}

/-- The live copy depends on STATE_BASE and memory. -/
theorem State.liveCopy_congr (hb : t.rd .stStateBase [] = s.rd .stStateBase []) (hm : t.mem = s.mem) :
    t.liveCopy = s.liveCopy := by
  simp only [State.liveCopy, hb, hm]

theorem ofLe_lt (bs : List Byte) : ofLe bs < 2 ^ (8 * bs.length) := by
  induction bs with
  | nil => exact Nat.one_pos
  | cons b bs ih =>
    have hb := b.isLt
    have hpow : 2 ^ (8 * (b :: bs).length) = 256 * 2 ^ (8 * bs.length) := by
      rw [List.length_cons, Nat.mul_add, Nat.pow_add]
      omega
    rw [ofLe, hpow]
    omega

/-- Four bytes of memory fit a 32-bit field. -/
theorem ofLe_read_mod (m : Mem) (a : Nat) : ofLe (m.read a 4) % 2 ^ 32 = ofLe (m.read a 4) := by
  have h := ofLe_lt (m.read a 4)
  rw [Mem.length_read] at h
  exact Nat.mod_eq_of_lt h

theorem State.loadLive_gradScale : s.loadLive.rd .stGradScale [] = ofLe (s.mem.read (s.liveCopy.1 + 0x18) 4) := by
  have h : s.loadLive.rd .stGradScale [] = ofLe (s.mem.read (s.liveCopy.1 + 0x18) 4) % 2 ^ 32 :=
    (State.rd_wr_ne _ _ (by decide)).trans (State.rd_wr_same ..)
  rw [h, ofLe_read_mod]

theorem State.loadLive_gsClean : s.loadLive.rd .stGsClean [] = ofLe (s.mem.read (s.liveCopy.1 + 0x1C) 4) := by
  have h : s.loadLive.rd .stGsClean [] = ofLe (s.mem.read (s.liveCopy.1 + 0x1C) 4) % 2 ^ 32 := State.rd_wr_same ..
  rw [h, ofLe_read_mod]

/-- BROKEN, GRAD_SCALE and GS_CLEAN. -/
def brokenKeys : List Nat := [Reg.stBroken.key [], Reg.stGradScale.key [], Reg.stGsClean.key []]

theorem State.loadLive_touches : Touches [.regs] brokenKeys s s.loadLive :=
  (Touches.refl.wr (List.mem_cons_of_mem _ List.mem_cons_self)).wr (by decide)

/-- BROKEN clears in a write of 4 bytes that came from the host. -/
def State.unbroken (s : State) : State := (s.tlpIn 4).wr .stBroken [] 0

theorem State.unbroken_broken : s.unbroken.rd .stBroken [] = 0 := State.rd_wr_same ..

theorem State.unbroken_touches : Touches [.regs] [Reg.stBroken.key []] (s.tlpIn 4) s.unbroken :=
  Touches.refl.wr List.mem_cons_self

theorem State.unbroken_stateBase : s.unbroken.rd .stStateBase [] = s.rd .stStateBase [] :=
  State.unbroken_touches.hostWrote.2.1 _ _ (by decide)

theorem State.unbroken_mem : s.unbroken.mem = s.mem := State.unbroken_touches.hostWrote.1 .mem (by decide)

theorem State.unbroken_liveCopy : s.unbroken.liveCopy = s.liveCopy :=
  State.liveCopy_congr State.unbroken_stateBase State.unbroken_mem

end

section

variable {s : State}

theorem exec_defaults (s : State) : exec .defaults s = hosted s (fun s => s.hostField .stDefaults [] 1) := rfl

theorem exec_clearBroken (s : State) : exec .clearBroken s = hosted s (fun s => s.hostField .stClearBroken [] 1) := rfl

theorem State.fieldWrite_stDefaults (s0 s : State) :
    s0.fieldWrite s .stDefaults [] 1 = s.installDefaults 0x2096 := by
  unfold State.fieldWrite
  rfl

theorem State.fieldWrite_stClearBroken (s0 s : State) : s0.fieldWrite s .stClearBroken [] 1 = s.clearBroken := by
  unfold State.fieldWrite
  rfl

theorem State.clearBroken_tlpIn : (s.tlpIn 4).clearBroken =
    if s.rd .stStateBase [] = 0 then s.unbroken else s.unbroken.loadLive := by
  rw [← State.unbroken_stateBase]
  rfl

theorem defaults_takes (ht : HostTakes s) : exec .defaults s = .next ((s.tlpIn 4).installDefaults 0x2096) := by
  rw [exec_defaults, hosted_takes ht, State.hostField_takes ht rfl]
  exact congrArg Host.Outcome.next (State.fieldWrite_stDefaults ..)

theorem clearBroken_takes (ht : HostTakes s) : exec .clearBroken s =
    .next (if s.rd .stStateBase [] = 0 then s.unbroken else s.unbroken.loadLive) := by
  rw [exec_clearBroken, hosted_takes ht, State.hostField_takes ht rfl, ← State.clearBroken_tlpIn]
  exact congrArg Host.Outcome.next (State.fieldWrite_stClearBroken ..)

end

/-- Settles O21: DEFAULTS writes two fields and clears the POLICY array, whose fields reset to RECORD; CLEAR_BROKEN clears its
bit and, with a step-state area, loads the live copy's header, which the write leaves as it was. -/
theorem stepControlActions : Obligations.StepControlActions := by
  intro s ht
  refine ⟨⟨_, defaults_takes ht, State.installDefaults_numPolicy, State.installDefaults_olMode,
    fun i hi => State.installDefaults_monPolicy hi, State.installDefaults_touches.hostWrote⟩, _, clearBroken_takes ht, ?_⟩
  by_cases hb : s.rd .stStateBase [] = 0
  · rw [if_pos hb, if_pos hb]
    exact ⟨State.unbroken_broken, State.unbroken_touches.hostWrote⟩
  · rw [if_neg hb, if_neg hb]
    have hkept : s.unbroken.loadLive.rd .stBroken [] = s.unbroken.rd .stBroken [] :=
      (State.rd_wr_ne _ _ (by decide)).trans (State.rd_wr_ne _ _ (by decide))
    have hall : Touches [.regs] brokenKeys (s.tlpIn 4) s.unbroken.loadLive :=
      (State.unbroken_touches.mono (by decide)).trans State.loadLive_touches
    rw [hkept, State.loadLive_gradScale, State.loadLive_gsClean, State.unbroken_liveCopy, State.unbroken_mem]
    exact ⟨State.unbroken_broken, rfl, rfl, hall.hostWrote⟩

end Sys2Proof.Machine
end

section
/-! PROOFS. A commit phase that closes a step whose STEP_END names a ring that there is not (R152, R171, R283, R346). -/

namespace Sys2Proof.Machine

/-- STEP_END that runs, on ring 3840. -/
def strayStepEnd : Packet := { shiftPacket with ring := 0xF00, op := .stepEnd 0 false, phase := .running }

/-- The open attempt, in its close: nothing latched, nothing fed. -/
def strayAttempt : StepSt := { (default : StepSt) with endPid := some strayStepEnd.pid }

/-- The commit phase at its last group, 5, which has no shard. -/
def strayCommit : CommitSt := { (default : CommitSt) with todo := [5] }

/-- Parameter group 5, without shards. -/
def strayGroup : ParamGroup := { (default : ParamGroup) with num := 5 }

/-- The module after start-up in the commit phase, its step-state area and its record ring outside every region. STATUS_TAIL of
ring 3840, were there such a ring, would be the word of DONE. -/
def strayClosing : State :=
  { State.reset with
    startDone := true, nextId := 2, flight := [strayStepEnd], step := some strayAttempt, commit := some strayCommit
    groups := [strayGroup]
    regs := Tab.put (Tab.put [] (Reg.stStateBase.key []) 0x090000000000) (Reg.stRecordBase.key []) 0x090000000000 }

theorem strayClosing_inv : Inv strayClosing :=
  ⟨rfl, by decide, List.forall_mem_singleton.2 (by decide)⟩

theorem strayClosing_settled : Settled strayClosing where
  packets p hp _ := by
    rw [List.mem_singleton.1 hp]
    exact .inl rfl
  commit c hc := by cases hc; rfl
  verdict q v hq hv := by cases hq; cases hv
  copy c hc := by cases hc
  restore r hr := by cases hr
  fences := by decide +kernel

/-- No bolt has an error and no slice has lost one. -/
theorem strayClosing_badBolts (a n : Nat) : strayClosing.badBolts a n = [] := if_pos (by decide +kernel)

/-- The groups and DONE after the last group: its record of the STEP_END has counted on in the word of DONE. -/
theorem strayClosing_done : strayClosing.groupDone.rd .stDone [] = 7 := by decide +kernel

theorem exec_commitGroupComplete {s : State} (hp : s.power = 1) : exec .commitGroupComplete s = .next s.groupDone := by
  change powered s (fun s => s.groupDone) = _
  rw [powered, hp]
  rfl

/-- Refutes O58: in `strayClosing` the last group sets DONE to 6, and the status record of the STEP_END then counts in the word
that STATUS_TAIL of its ring would be, which is DONE's. No device is in such a state: it has 16 rings, and no packet names ring
3840. -/
theorem not_verdictsAndTheCommitPhase : ¬ Obligations.VerdictsAndTheCommitPhase := by
  intro h
  obtain ⟨-, -, -, -, -, -, hlast⟩ := h
  obtain ⟨t, ht, -, hdone, -⟩ := hlast strayClosing strayAttempt strayCommit strayGroup 5 rfl strayClosing_settled
    rfl rfl rfl rfl rfl rfl rfl (List.forall_mem_nil _) rfl rfl rfl (by decide +kernel) strayClosing_inv strayClosing_badBolts
  rw [exec_commitGroupComplete rfl] at ht
  injection ht with ht
  rw [← ht, strayClosing_done] at hdone
  exact absurd hdone (by decide)

end Sys2Proof.Machine
end

section
/-! PROOFS. A counter that LOST_ADDR counts moves as a command counts its events: a step that opens, and writes into the live
copy (R146, R149, R167, R180, R228, R362). -/

namespace Sys2Proof.Machine

/-! Lost-bolt tables, read from the register table. -/

section

variable {s : State}

theorem key_lostOverflow (c : Nat) : Reg.llsLostOverflow.key [c] = 101187591 + 8192 * c := by
  simp [Reg.key, strideSum, Reg.llsLostOverflow]
  omega

theorem key_lostCount (c : Nat) : Reg.llsLostCount.key [c] = 101187584 + 8192 * c := by
  simp [Reg.key, strideSum, Reg.llsLostCount]
  omega

theorem key_lostAddr_one (k : Nat) : Reg.llsLostAddr.key [1, k] = 101335040 + 256 * k := by
  simp [Reg.key, strideSum, Reg.llsLostAddr]
  omega

/-- Fields of the lost-bolt tables are zero at reset. -/
theorem State.rd_lost {r : Reg} {idx : List Nat} (hr : r ∈ [Reg.llsLostOverflow, .llsLostCount, .llsLostAddr])
    (h : ∀ p ∈ s.regs, p.1 ≠ r.key idx) : s.rd r idx = 0 := by
  have hreset : r.resetAt idx = 0 := by
    simp only [List.mem_cons, List.not_mem_nil, or_false] at hr
    rcases hr with rfl | rfl | rfl <;>
      simp [Reg.resetAt, Reg.llsLostOverflow, Reg.llsLostCount, Reg.llsLostAddr, Reg.arbWeight, Reg.devModuleId,
        Reg.grpModuleId, Reg.devFwMinor]
  rcases s.rd_mem r idx with hz | hm
  · exact hz.trans hreset
  · exact absurd rfl (h _ hm)

/-- Of the lost-bolt tables that a register table holds none has overflowed, only slice 1's counts bolts, and no word from its
first LOST_ADDR on, 8 bytes apart, is the address of a bolt. -/
structure TablesNameNoBolt (t : Tab Nat) : Prop where
  overflow : ∀ p ∈ t, p.1 % 8192 ≠ 101187591 % 8192
  count : ∀ p ∈ t, 101187584 ≤ p.1 → p.1 % 8192 = 0 → p.1 = 101195776
  addr : ∀ p ∈ t, 101335040 ≤ p.1 → p.1 % 256 = 0 → p.2 % 512 ≠ 0

theorem State.badBolts_of_tablesNameNoBolt (h : TablesNameNoBolt s.regs) (hu : s.ue = []) (hz : s.homeChannel 0 = some 0)
    (a n : Nat) : s.badBolts a n = [] := by
  refine State.badBolts_eq_nil hu fun b hb => State.lostBolt_eq_false fun c hc => ⟨?_, fun k hk => ?_⟩
  · have hf : s.rd .llsLostOverflow [c] = 0 := State.rd_lost (by decide) fun p hp hkey => by
      have := h.overflow p hp
      rw [hkey, key_lostOverflow] at this
      omega
    simp [State.flag, hf]
  by_cases h1 : c = 1
  · subst h1
    have hb0 : b ≠ 0 := fun h0 => by
      subst h0
      cases hz.symm.trans hc
    rcases s.rd_mem .llsLostAddr [1, k] with hr | hm
    · have h0 : Reg.llsLostAddr.resetAt [1, k] = 0 := by
        simp [Reg.resetAt, Reg.llsLostAddr, Reg.arbWeight, Reg.devModuleId, Reg.grpModuleId, Reg.devFwMinor]
      rw [hr, h0]
      exact hb0.symm
    · have hkey := key_lostAddr_one k
      have := h.addr _ hm (by dsimp only; omega) (by dsimp only; omega)
      exact fun he => this (he ▸ hb)
  · have h0 : s.rd .llsLostCount [c] = 0 := State.rd_lost (by decide) fun p hp hkey => by
      have hcount := key_lostCount c
      have := h.count p hp (by omega) (by omega)
      omega
    omega

end

/-! The state. -/

/-- The register fields of `sliding` that do not hold their reset values. -/
def slidingRegs (e v : Nat) : Tab Nat :=
  [(Reg.devReady.key [], 1), (Reg.devDeviceEnable.key [], 1), (Reg.ringEnable.key [0], 1), (Reg.ringRingTail.key [0], 1),
    (Reg.stEnable.key [], 1), (Reg.stSlots.key [], 2), (Reg.stStateBase.key [], sliceOne), (Reg.seHyperBase.key [], sliceOne),
    (Reg.llsLostCount.key [1], 653252), (Reg.progEvent.key [0, 1], e), (Reg.progEnable.key [0, 1], 1),
    (Reg.progValue.key [0, 1], v)].foldl (fun t p => Tab.put t p.1 p.2) []

/-- The module with steps enabled, its step-state area and its hyperparameters in slice 1, and a packet published on ring 0.
LOST_COUNT of slice 1 holds a value wider than its seven bits, so that LOST_ADDR 653251 counts as one of them; that word is VALUE
of programmable counter 1 of channel 0, which counts event e and stands at v. -/
def sliding (e v : Nat) : State :=
  { State.reset with
    startDone := true, perst := false, pwrGood := true, pcieUp := true, partitions := [(1, 0, 1), (1, 1, 1)]
    regs := slidingRegs e v }

/-! A step that opens. -/

section

variable {s : State} {n e : Nat} {g o : Bool}

/-- A STEP_BEGIN that nothing refuses reads hyperparameters without an error. -/
theorem State.stepRefusal_bad (hb : s.badBolts (s.rd .seHyperBase []) 2048 ≠ []) : s.stepRefusal n e g o ≠ none := by
  unfold State.stepRefusal
  have hbad : ¬ (s.badBolts (s.rd .seHyperBase []) 2048 ++ s.badBolts s.liveCopy.1 copyBytes).isEmpty = true := by simp [hb]
  dsimp only
  rw [if_neg hbad]
  split_ifs <;> simp

/-- A refused STEP_BEGIN opens no step. -/
theorem State.stepBegin_refused {p : Packet} (hr : s.stepRefusal n e g o ≠ none) : (s.stepBegin p n e g o).step = s.step := by
  unfold State.stepBegin
  split
  · split_ifs
    · rfl
    · exact (State.endBad_does s p.pid p.tag _
        (Does.refl (fs := [.regs, .flight, .ilog, .reports, .reportSeq, .riskEvents, .out]))).only .step (by decide)
  · next h => exact absurd h hr

end

/-- The header of the packet. -/
def slidingHdr : PktHdr := { ring := 0, tag := 0, length := 1, sigEn := false, signal := 0, waits := [] }

/-- STEP_BEGIN of step 0. -/
def slidingOp : Op := .stepBegin 0 0 false false

/-- The module whose counter counts packets fetched, just below the address of slice 1's first bolt. -/
def slidingFetch : State := sliding 0x40 (sliceOne - 1)

theorem slidingFetch_badBolts (a n : Nat) : slidingFetch.badBolts a n = [] :=
  State.badBolts_of_tablesNameNoBolt ⟨by decide +kernel, by decide +kernel, by decide +kernel⟩ rfl (by decide +kernel) a n

theorem slidingFetch_quiet : Quiet slidingFetch slidingHdr where
  inv := ⟨by decide +kernel, by decide +kernel, List.forall_mem_nil _⟩
  power := rfl
  fetch := by decide +kernel
  between := by decide +kernel
  length := by decide +kernel
  waits := ⟨by decide, List.forall_mem_nil _⟩
  attempt := fun h => absurd h (by decide +kernel)
  cool := by decide +kernel

theorem slidingFetch_stepRefusal : slidingFetch.stepRefusal 0 0 false false = none := by
  unfold State.stepRefusal
  dsimp only
  rw [slidingFetch_badBolts, slidingFetch_badBolts, if_neg (by decide +kernel), if_neg (by decide +kernel),
    if_neg (by decide +kernel), if_neg (by decide +kernel), if_neg (by decide +kernel), if_neg (by decide +kernel),
    if_neg (by decide +kernel), if_neg (by decide +kernel)]
  rfl

/-- The packet as fetched. -/
def slidingPacket : Packet := { shiftPacket with ring := 0, op := slidingOp }

theorem slidingFetch_packet : (slidingFetch.arrive slidingHdr slidingOp).packet 1 = some slidingPacket := by decide +kernel

/-- The packet as it starts. -/
def slidingStarted : Packet :=
  { slidingPacket with phase := .running, started := (slidingFetch.arrive slidingHdr slidingOp).aoNow }

/-- The module as the packet starts. -/
def slidingStart : State := (slidingFetch.arrive slidingHdr slidingOp).setPacket slidingStarted

theorem slidingStart_badBolts : slidingStart.badBolts (slidingStart.rd .seHyperBase []) 2048 ≠ [] :=
  List.ne_nil_of_mem (mem_badBolts_of_moved (by decide +kernel) (by decide +kernel) (by decide +kernel))

theorem slidingFetch_packetIn : slidingFetch.packetIn slidingHdr slidingOp =
    slidingStart.stepBegin slidingStarted 0 0 false false := by
  have hin : slidingFetch.packetIn slidingHdr slidingOp = (slidingFetch.arrive slidingHdr slidingOp).startPacket 1 :=
    if_pos (by decide +kernel)
  rw [hin, State.startPacket_runs slidingFetch_packet rfl rfl rfl rfl (by decide +kernel)]
  rfl

theorem exec_stepBegin (h : PktHdr) (n e : Nat) (g o : Bool) (s : State) :
    exec (.stepBegin h n e g o) s = .next (s.packetIn h (.stepBegin n e g o)) := rfl

/-- Refutes O46: in `slidingFetch` no row of R149 refuses the step, but fetching its packet moves a counter that LOST_ADDR counts
as an address of the hyperparameters, and STEP_BEGIN ends with MEM_UNCORRECTABLE. No device is in such a state: its LOST_COUNT
does not fit its field. -/
theorem not_stepsOpenAndClose : ¬ Obligations.StepsOpenAndClose := by
  intro h
  obtain ⟨hopens, -⟩ := h
  obtain ⟨t, q, ht, hq, -⟩ := hopens slidingFetch slidingHdr 0 0 false false slidingFetch_quiet rfl rfl (by decide +kernel)
    slidingFetch_stepRefusal
  have hnone : (slidingFetch.packetIn slidingHdr slidingOp).step = none := by
    rw [slidingFetch_packetIn, State.stepBegin_refused (State.stepRefusal_bad slidingStart_badBolts)]
    decide +kernel
  rw [exec_stepBegin] at ht
  injection ht with ht
  rw [← ht] at hq
  cases hnone.symm.trans hq

/-! Writes into the live copy. -/

/-- The module whose counter counts bytes from the host, four below the address of slice 1's first bolt. -/
def slidingWrite : State := sliding 0x1E0 (sliceOne - 4)

/-- The module as a write of four bytes counts. -/
def slidingWritten : State := slidingWrite.tlpIn 4

theorem slidingWrite_takes : HostTakes slidingWrite := by
  constructor <;> decide +kernel

theorem slidingWrite_badBolts (a n : Nat) : slidingWrite.badBolts a n = [] :=
  State.badBolts_of_tablesNameNoBolt ⟨by decide +kernel, by decide +kernel, by decide +kernel⟩ rfl (by decide +kernel) a n

/-- The gradient scale and the clean count that GS_SET writes. -/
def slidingScale : List Byte := leBytes 4 0x800000 ++ leBytes 4 0

section

variable {s : State} {v : Nat}

theorem State.ignore181_ignoredWrites : s.ignore181.rd .stIgnoredWrites [] ≠ 0 := by
  have hw : Reg.stIgnoredWrites.width = 16 := rfl
  rw [State.ignore181, State.rd_count_same, hw]
  unfold satAdd
  split_ifs <;> omega

/-- A write into the live copy meets an error of a bolt that it does not fill. -/
theorem State.writeLive_bad {off b : Nat} {bs : List Byte} (hw : b ∉ wholeBolts (s.liveCopy.1 + off) bs.length)
    (hb : b ∈ (s.writeTraffic (s.viaHome (s.liveCopy.1 + off)) (s.liveCopy.1 + off) bs.length).badBolts
      (s.liveCopy.1 + off) bs.length) : (s.writeLive off bs).2 ≠ [] :=
  List.ne_nil_of_mem (State.writeMem_partial hb hw)

/-- A GS_SET whose write meets an error is ignored. -/
theorem State.gsSet_ignored (hb : s.rd .stStateBase [] ≠ 0) (hw : (s.writeLive 0x18 (leBytes 4 v ++ leBytes 4 0)).2 ≠ []) :
    (s.gsSet v).rd .stIgnoredWrites [] ≠ 0 := by
  have hbad : ¬ (s.writeLive 0x18 (leBytes 4 v ++ leBytes 4 0)).2.isEmpty = true := by simpa using hw
  unfold State.gsSet
  dsimp only
  rw [if_neg hb, if_neg hbad]
  split_ifs
  all_goals exact State.ignore181_ignoredWrites

theorem State.fieldWrite_stGsSet (s0 s : State) (v : Nat) : s0.fieldWrite s .stGsSet [] v = s.gsSet v := by
  unfold State.fieldWrite
  rfl

theorem gsSet_takes (ht : HostTakes s) (hv : v < 2 ^ 32) : exec (.gsSet v) s = .next ((s.tlpIn 4).gsSet v) := by
  change hosted s (fun s => s.hostField .stGsSet [] v) = _
  rw [hosted_takes ht, State.hostField_takes ht rfl, State.fieldWrite_stGsSet]
  exact congrArg (fun v => Host.Outcome.next ((s.tlpIn 4).gsSet v)) (Nat.mod_eq_of_lt hv)

end

theorem slidingWritten_lost : sliceOne ∈
    (slidingWritten.writeTraffic (slidingWritten.viaHome (slidingWritten.liveCopy.1 + 0x18))
    (slidingWritten.liveCopy.1 + 0x18) slidingScale.length).badBolts (slidingWritten.liveCopy.1 + 0x18) slidingScale.length :=
  mem_badBolts_of_moved (by decide +kernel) (by decide +kernel) (by decide +kernel)

/-- The write meets an error. -/
theorem slidingWritten_writeLive : (slidingWritten.writeLive 0x18 slidingScale).2 ≠ [] :=
  State.writeLive_bad (by decide +kernel) slidingWritten_lost

/-- Refutes O22: in `slidingWrite` no bolt meets an error, but the bytes that GS_SET brings move a counter that LOST_ADDR counts
as the address of the live copy's header, and the write is ignored and counted. No device is in such a state: its LOST_COUNT does
not fit its field. -/
theorem not_gradientScaleAndBaselineSets : ¬ Obligations.GradientScaleAndBaselineSets := by
  intro h
  obtain ⟨-, hset, -⟩ := h slidingWrite 0 0x800000 slidingWrite_takes (by decide) (by decide)
  obtain ⟨t, ht, -, -, hlive⟩ := hset rfl (slidingWrite_badBolts _ _) (by decide) (by decide)
  rw [if_neg (by decide +kernel)] at hlive
  obtain ⟨-, -, -, hregs⟩ := hlive
  have hkept : t.rd .stIgnoredWrites [] = slidingWrite.rd .stIgnoredWrites [] := hregs _ _ (by decide +kernel)
  have hzero : slidingWrite.rd .stIgnoredWrites [] = 0 := by decide +kernel
  rw [gsSet_takes slidingWrite_takes (by decide)] at ht
  injection ht with ht
  rw [hzero, ← ht] at hkept
  exact State.gsSet_ignored (by decide +kernel) slidingWritten_writeLive hkept

end Sys2Proof.Machine
end

section
/-! PROOFS. The start of a packet that names what its operation does not, and waits for a stack at CRIT (R230, R342, R351). -/

namespace Sys2Proof.Machine

/-- A tensor's descriptor on stack 0. -/
def hotTensor : TDesc := smallTensor 0x040000000000

/-- A NOP that waits for nothing and carries a tensor's descriptor. -/
def hotNop : Packet := { shiftPacket with op := .nop, descs := [hotTensor] }

/-- The module with stack 0 at CRIT and that packet in flight. -/
def hot : State :=
  { State.reset with startDone := true, nextId := 2, flight := [hotNop], regs := [(Reg.stkTstate.key [0], 2)] }

theorem hot_settled : Settled hot where
  packets p hp hr := by
    rw [List.mem_singleton.1 hp] at hr
    cases hr
  commit c hc := by cases hc
  verdict q v hq hv := by cases hq
  copy c hc := by cases hc
  restore r hr := by cases hr
  fences := by decide +kernel

theorem exec_packetStart {s : State} (pid : Nat) (hp : s.power = 1) :
    exec (.packetStart pid) s = .next (s.startPacket pid).after := by
  change powered s (fun s => (s.startPacket pid).after) = _
  rw [powered, if_pos hp]

/-- The packet is held. -/
theorem hot_start : ((hot.startPacket hotNop.pid).after.packet hotNop.pid).map (fun p => p.phase) = some .waiting := by
  decide +kernel

/-- Refutes O50: in `hot` the tensor that the NOP carries lies on a stack at CRIT, so that the packet does not start. No device
is in such a state: a NOP names no descriptor. -/
theorem not_packetsAreFetchedStartedAndReported : ¬ Obligations.PacketsAreFetchedStartedAndReported := by
  intro h
  obtain ⟨-, -, -, hstart, -⟩ := h
  obtain ⟨-, -, -, hnop⟩ := hstart hot hotNop rfl hot_settled rfl rfl
  obtain ⟨t, ht, hended, -⟩ := hnop rfl rfl rfl rfl rfl
  rw [exec_packetStart _ rfl] at ht
  injection ht with ht
  rw [EndedAs, ← ht, hot_start] at hended
  cases hended

end Sys2Proof.Machine
end

section
/-! PROOFS. A counter that LOST_ADDR counts moves as a packet is fetched: a DIGEST and a load of the group table then meet an
error in what they read (R56, R185, R209, R228, R362). -/

set_option Elab.async false

namespace Sys2Proof.Machine

/-! How a packet that meets an error ends. -/

section

variable {s t : State} {p q : Packet} {pid : Nat}

/-- A packet added last to flight has ended. -/
theorem endedAs_of_new {st : Status} {d : Nat} (hi : Numbered s) (hf : t.flight = s.flight ++ [p]) (hp : p.pid = s.nextId)
    (hph : p.phase = .ended st d false) : EndedAs t s.nextId st d := by
  rw [EndedAs, State.packet_new hi hf hp, Option.map_some, hph]

theorem RanTo.endedAs {h : PktHdr} {op : Op} {st : Status} {d : Nat} {fs : List Field} {ks : List Nat}
    (hr : RanTo s h op st d fs ks t) (hi : Numbered s) : EndedAs t s.nextId st d := by
  obtain ⟨p, hf, hpid, -, -, -, -, -, hph⟩ := hr.packet
  exact endedAs_of_new hi hf hpid hph

/-- A packet ends with one status. -/
theorem EndedAs.status_eq {st st' : Status} {d d' : Nat} (h : EndedAs t pid st d) (h' : EndedAs t pid st' d') : st = st' := by
  have := h.symm.trans h'
  injection this with this
  injection this

/-- A packet that runs ends over its bad bolts (R56). -/
theorem State.endBad_endedAs {tag : Nat} {bs : List Nat} (hp : s.packet pid = some p) (hr : p.isEnded = false) :
    EndedAs (s.endBad pid tag bs) pid .memUncorrectable (faultDetail 0 0 (lowest bs)) := by
  have hf : (s.noteBads tag bs).flight = s.flight :=
    (State.noteBads_does s tag bs (Does.refl (fs := [.regs, .ilog, .reports, .reportSeq, .riskEvents, .out]))).only .flight
      (by decide)
  exact State.endPacket_endedAs ((State.packet_congr hf).trans hp) hr

/-- A DIGEST on a running engine that meets an error in its range ends with MEM_UNCORRECTABLE (R209). -/
theorem State.digestRun_bad {a n d k : Nat} (hp : s.packet p.pid = some q) (hq : q.isEnded = false)
    (hl : s.stackLocal a n = some k) (hn : 0 < n) (hd : d % 64 = 0) (hr : s.rangeRefusal [(a, n), (d, 32)] = none)
    (hon : s.rd .domDstate [56 + k] = 2) (hb : s.badBolts a n ≠ []) :
    ∃ x, EndedAs (s.digestRun p a n d) p.pid .memUncorrectable x := by
  have hne : (s.badBolts a n).isEmpty = false := by simpa using hb
  have hlegal : ¬ (n = 0 ∨ d % 64 ≠ 0) := by omega
  have hrun : ¬ (s.digestCores k = false ∧ s.rd .domDstate [56 + k] ≠ 2) := fun h => h.2 hon
  unfold State.digestRun
  simp only [hl, if_neg hlegal, hr, if_neg hrun, hne, Bool.not_false, if_true]
  refine ⟨_, State.endBad_endedAs ?_ hq⟩
  have hspoil : ∀ u : State, (u.spoilDest p.pid).flight = u.flight := fun u =>
    (State.spoilDest_does u p.pid (Does.refl (fs := [.mem, .free]))).only .flight (by decide)
  have hfault : (s.engineFault k .memUncorrectable 0xFFF).flight = s.flight :=
    (State.engineFault_does s k .memUncorrectable 0xFFF (Does.refl (fs := [.regs]))).only .flight (by decide)
  rw [← hp]
  refine State.packet_congr ((hspoil _).trans ?_)
  split
  · rfl
  · exact hfault

/-- A PARAM_GROUPS_LOAD that meets an error in the table ends with MEM_UNCORRECTABLE (R185). -/
theorem State.loadGroups_bad (hp : s.packet p.pid = some q) (hq : q.isEnded = false) (ho : s.stepOpen = false)
    (hi : s.inRegion (s.rd .seGroupTableBase []) 1048576 = true)
    (hu : ∀ r ∈ groupRanges (s.rd .seGroupTableBase []) (s.rd .seHyperBase []) (s.readTable.map (fun g => g.1)),
      s.unavailIn r.1 r.2 = false)
    (hb : s.badBolts (s.rd .seGroupTableBase []) 1048576 ≠ []) :
    ∃ x, EndedAs (s.loadGroups p) p.pid .memUncorrectable x := by
  have hup : (groupRanges (s.rd .seGroupTableBase []) (s.rd .seHyperBase []) (s.readTable.map (fun g => g.1))).any
      (fun r => s.unavailIn r.1 r.2) = false := List.any_eq_false.2 fun r hr => by simp [hu r hr]
  have hne : ((groupRanges (s.rd .seGroupTableBase []) (s.rd .seHyperBase []) (s.readTable.map (fun g => g.1))).map
      (fun r => s.badBolts r.1 r.2)).flatten.isEmpty = false := by
    simp [groupRanges, hb]
  unfold State.loadGroups
  simp only [ho, hi, hup, hne, Bool.not_true, Bool.not_false, Bool.false_eq_true, if_false, if_true]
  exact ⟨_, State.endBad_endedAs hp hq⟩

end

/-- A bolt of channel 1 whose address counter 1 of channel 0 has come to meets an error, where LOST_COUNT of slice 1 counts that
counter. -/
theorem mem_badBolts_of_counted {s : State} {a n b : Nat} (hb : b ∈ boltsOf a n) (hh : s.homeChannel b = some 1)
    (hc : s.rd .llsLostCount [1] = 653252) (ha : s.rd .progValue [0, 1] = b) : b ∈ s.badBolts a n := by
  have haddr : s.rd .llsLostAddr [1, 653251] = b := ha
  exact State.mem_badBolts_of_lost hb (State.lostBolt_of_lostAddr hh (by omega) haddr) (show 1 < 4 by decide) (by omega)

/-! The fetch of a packet that then starts at once. -/

/-- The packet of an operation, fetched at tick 0 on ring 0 as the first of all, as it starts. -/
def firstPacket (op : Op) : Packet := { shiftPacket with ring := 0, op := op, phase := .running }

/-- The state in which that packet starts. -/
def State.firstStart (s : State) (op : Op) : State := (s.arrive slidingHdr op).setPacket (firstPacket op)

theorem State.packetIn_firstStart {s : State} {op : Op} (hq : Quiet s slidingHdr) (hid : s.nextId = 1)
    (hp : (s.arrive slidingHdr op).packet 1 = some { firstPacket op with phase := .waiting })
    (hnow : (s.arrive slidingHdr op).aoNow = 0)
    (hh : (s.arrive slidingHdr op).startHeld { firstPacket op with phase := .waiting } = false) :
    s.packetIn slidingHdr op = (s.firstStart op).runOp (firstPacket op) := by
  have hin : s.packetIn slidingHdr op = (s.arrive slidingHdr op).startPacket s.nextId :=
    if_pos ⟨hq.power, hq.fetch, by rw [hq.between]; rfl, hq.length.1, hq.length.2.1, hq.waits.1, hq.length.2.2⟩
  rw [hin, hid, State.startPacket_runs hp rfl rfl rfl rfl hh, hnow]
  rfl

/-! The state. -/

/-- The first byte of stack 5's region, homed on channel 1. -/
def stackFive : Nat := 0x045000000000

/-- The module whose counter counts packets fetched, just below the address of stack 5's first bolt, with that stack's engine
on and the group table at the start of its region. -/
def slidingStack : State :=
  { sliding 0x40 (stackFive - 1) with
    regs := Tab.put (Tab.put (slidingRegs 0x40 (stackFive - 1)) (Reg.domDstate.key [61]) 2)
      (Reg.seGroupTableBase.key []) stackFive }

theorem slidingStack_badBolts (a n : Nat) : slidingStack.badBolts a n = [] :=
  State.badBolts_of_tablesNameNoBolt ⟨by decide +kernel, by decide +kernel, by decide +kernel⟩ rfl (by decide +kernel) a n

theorem slidingStack_quiet : Quiet slidingStack slidingHdr where
  inv := ⟨by decide +kernel, by decide +kernel, List.forall_mem_nil _⟩
  power := rfl
  fetch := by decide +kernel
  between := by decide +kernel
  length := by decide +kernel
  waits := ⟨by decide, List.forall_mem_nil _⟩
  attempt := fun h => absurd h (by decide +kernel)
  cool := by decide +kernel

/-! DIGEST. -/

/-- A DIGEST of stack 5's first byte, its result to go to slice 1's scratchpad. -/
def slidingDigest : Op := .digest stackFive 1 sliceOne

/-- Once the packet is fetched, the byte's bolt meets an error. -/
theorem slidingDigest_badBolts : (slidingStack.firstStart slidingDigest).badBolts stackFive 1 ≠ [] :=
  List.ne_nil_of_mem
    (mem_badBolts_of_counted (b := stackFive) (by decide +kernel) (by decide +kernel) (by decide +kernel) (by decide +kernel))

theorem slidingDigest_packetIn : slidingStack.packetIn slidingHdr slidingDigest =
    (slidingStack.firstStart slidingDigest).digestRun (firstPacket slidingDigest) stackFive 1 sliceOne :=
  State.packetIn_firstStart slidingStack_quiet rfl (by decide +kernel) (by decide +kernel) (by decide +kernel)

/-- The DIGEST ends over that bolt. -/
theorem slidingDigest_ends : ∃ x, EndedAs (slidingStack.packetIn slidingHdr slidingDigest) 1 .memUncorrectable x := by
  rw [slidingDigest_packetIn]
  exact State.digestRun_bad (p := firstPacket slidingDigest) (q := firstPacket slidingDigest) (k := 5) (by decide +kernel) rfl
    (by decide +kernel) (by decide) (by decide) (by decide +kernel) (by decide +kernel) slidingDigest_badBolts

theorem exec_digest (h : PktHdr) (a n d : Nat) (s : State) :
    exec (.digest h a n d) s = .next (s.packetIn h (.digest a n d)) := rfl

/-- Refutes O41: in `slidingStack` no bolt meets an error, but fetching the DIGEST moves a counter that LOST_ADDR counts as the
address of the bolt to be digested, and the packet ends with MEM_UNCORRECTABLE. No device is in such a state: its LOST_COUNT does
not fit its field. -/
theorem not_digestsSnapshotsAndSampling : ¬ Obligations.DigestsSnapshotsAndSampling := by
  intro h
  obtain ⟨hdigest, -⟩ := h
  obtain ⟨t, ht, -, -, -, hran⟩ := hdigest slidingStack slidingHdr stackFive 1 sliceOne 5 slidingStack_quiet
    (by decide +kernel) (by decide) (by decide) (by decide +kernel) (slidingStack_badBolts _ _)
    (.inr (by decide +kernel)) (slidingStack_badBolts _ _)
  have hdone : EndedAs t 1 .done 0 := hran.endedAs slidingStack_quiet.inv.pids
  obtain ⟨x, hbad⟩ := slidingDigest_ends
  rw [exec_digest] at ht
  injection ht with ht
  rw [slidingDigest, ht] at hbad
  exact absurd (hbad.status_eq hdone) (by decide)

/-! PARAM_GROUPS_LOAD. -/

/-- Once the packet is fetched, the first bolt of the table meets an error. -/
theorem slidingLoad_badBolts : (slidingStack.firstStart .paramGroupsLoad).badBolts
    ((slidingStack.firstStart .paramGroupsLoad).rd .seGroupTableBase []) 1048576 ≠ [] :=
  List.ne_nil_of_mem
    (mem_badBolts_of_counted (b := stackFive) (by decide +kernel) (by decide +kernel) (by decide +kernel) (by decide +kernel))

theorem slidingLoad_packetIn : slidingStack.packetIn slidingHdr .paramGroupsLoad =
    (slidingStack.firstStart .paramGroupsLoad).loadGroups (firstPacket .paramGroupsLoad) :=
  State.packetIn_firstStart slidingStack_quiet rfl (by decide +kernel) (by decide +kernel) (by decide +kernel)

/-- The load ends over that bolt. -/
theorem slidingLoad_ends : ∃ x, EndedAs (slidingStack.packetIn slidingHdr .paramGroupsLoad) 1 .memUncorrectable x := by
  rw [slidingLoad_packetIn]
  exact State.loadGroups_bad (p := firstPacket .paramGroupsLoad) (q := firstPacket .paramGroupsLoad) (by decide +kernel) rfl
    (by decide +kernel) (by decide +kernel) (by decide +kernel) slidingLoad_badBolts

theorem exec_paramGroupsLoad (h : PktHdr) (s : State) : exec (.paramGroupsLoad h) s = .next (s.packetIn h .paramGroupsLoad) := rfl

/-- Refutes O44: in `slidingStack` no bolt meets an error and the table holds no group, but fetching the packet moves a counter
that LOST_ADDR counts as the address of a bolt of the table, and PARAM_GROUPS_LOAD ends with MEM_UNCORRECTABLE. No device is in
such a state: its LOST_COUNT does not fit its field. -/
theorem not_groupTableAndVariants : ¬ Obligations.GroupTableAndVariants := by
  intro h
  obtain ⟨hload, -⟩ := h
  obtain ⟨t, p, ht, -, -, -, hflight, hpid, hended⟩ := hload slidingStack slidingHdr slidingStack_quiet (by decide +kernel)
    (by decide +kernel) slidingStack_badBolts (by decide +kernel) (by decide +kernel)
  have hdone : EndedAs t 1 .done 0 := endedAs_of_new slidingStack_quiet.inv.pids hflight hpid hended
  obtain ⟨x, hbad⟩ := slidingLoad_ends
  rw [exec_paramGroupsLoad] at ht
  injection ht with ht
  rw [ht] at hbad
  exact absurd (hbad.status_eq hdone) (by decide)

end Sys2Proof.Machine
end

section
/-! PROOFS. What every operation keeps: the queue of waiting commands and the invariant of the machine, said together. The shared
operations of the laws above, by that measure. -/

namespace Sys2Proof.Machine

set_option Elab.async false

/-- Every field of the state but the queue of waiting commands. -/
abbrev allButQueue : List Field :=
  [.regs, .heldWords, .mem, .ue, .ce, .patrol, .heldWrites, .dShare, .cShare, .partitions, .arbiters, .tokens, .tokFaulted,
   .tokBase, .nextId, .flight, .fetchHold, .fetchBuf, .hostReads, .descs, .retries, .heldReads, .step, .commit, .groups,
   .slots, .reef, .rewrites, .rewritesDue, .rewriteStream, .ilog, .aoNow, .pcieUp, .heldOut, .lateRecords, .key, .reports,
   .reportSeq, .attLog, .ports, .delivered, .rankNodes, .colls, .endedColls, .reserved, .heldMsgs, .prep, .top, .lastEpoch,
   .sysMembers, .chunkRule, .memberIds, .memberHealth, .verdicts, .heard, .mgrHeard, .mgrMissed, .tests, .testFails,
   .dispatched, .llsTest, .testClock, .samples, .cycleBase, .power, .resetting, .startDone, .perst, .pwrGood, .thermtrip,
   .refclk, .duty, .powerLog, .drooped, .riskEvents, .attJumps, .riskQuiet, .critTicks, .flashMap, .areaA, .areaB, .active,
   .running, .recovery, .groupTable, .copy, .copyWas, .copyDue, .cursor, .signing, .hold, .newest, .serve, .restore, .joins,
   .cfg, .identityKey, .eid, .bwStart, .bwWindow, .bwTotals, .bwLast, .out, .free]

theorem mem_allButQueue {f : Field} (h : f ≠ .pending) : f ∈ allButQueue := by
  cases f with
  | pending => exact absurd rfl h
  | _ => decide

/-- One state follows another: its queue of waiting commands is the same, and the invariant is kept. -/
abbrev Keeps : State → State → Prop := Does allButQueue

variable {s a b t : State}

namespace Keeps

theorem of_inv (h : Keeps s a) (hp : t.pending = a.pending) (hi : Inv a → Inv t) : Keeps s t :=
  ⟨h.only.trans fun f hf => by
    obtain rfl : f = .pending := by_contra fun hne => hf (mem_allButQueue hne)
    exact hp, fun hs => hi (h.inv hs)⟩

/-- A record update that leaves the queue and the four fields of the invariant alone. -/
theorem fields (h : Keeps s a) (hp : t.pending = a.pending) (hm : t.mem = a.mem) (hr : t.regs = a.regs)
    (hf : t.flight = a.flight) (hn : t.nextId = a.nextId) : Keeps s t :=
  h.of_inv hp fun hi => hi.of_same hm hr hf hn

/-- A record update that leaves the queue and the four fields of the invariant alone, written out. -/
theorem mk (h : Keeps s a)
    {x2 x4 x5 x6 x7 x8 x9 x10 x11 x12 x13 x14 x17 x18 x19 x20 x21 x22 x23 x24 x25 x26 x27 x28 x29 x30 x31 x32 x33 x34
    x35 x36 x37 x38 x39 x40 x41 x42 x43 x44 x45 x46 x47 x48 x49 x50 x51 x52 x53 x54 x55 x56 x57 x58 x59 x60 x61 x62
    x63 x64 x65 x66 x67 x68 x69 x70 x71 x72 x73 x74 x75 x76 x77 x78 x79 x80 x81 x82 x83 x84 x85 x86 x87 x88 x89 x90
    x91 x92 x93 x94 x95 x96 x97 x98 x99 x100 x101 x102 x103 x104} :
    Keeps s (State.mk
      a.pending a.regs x2 a.mem x4 x5 x6 x7 x8 x9 x10 x11 x12 x13 x14 a.nextId a.flight x17 x18 x19 x20 x21 x22 x23
      x24 x25 x26 x27 x28 x29 x30 x31 x32 x33 x34 x35 x36 x37 x38 x39 x40 x41 x42 x43 x44 x45 x46 x47 x48 x49 x50 x51
      x52 x53 x54 x55 x56 x57 x58 x59 x60 x61 x62 x63 x64 x65 x66 x67 x68 x69 x70 x71 x72 x73 x74 x75 x76 x77 x78 x79
      x80 x81 x82 x83 x84 x85 x86 x87 x88 x89 x90 x91 x92 x93 x94 x95 x96 x97 x98 x99 x100 x101 x102 x103 x104) :=
  h.fields rfl rfl rfl rfl rfl

theorem foldl {β : Type} {f : State → β → State} {l : List β} (h : Keeps s a) (hf : ∀ x b, Keeps s x → Keeps s (f x b)) :
    Keeps s (l.foldl f a) := Does.foldl hf l h

theorem foldl_fst {α β : Type} {f : State × α → β → State × α} {l : List β} {x : State × α} (h : Keeps s x.1)
    (hf : ∀ x b, Keeps s x.1 → Keeps s (f x b).1) : Keeps s (l.foldl f x).1 := Does.foldl_fst hf l h

theorem ite {c : Prop} [Decidable c] (ha : Keeps s a) (hb : Keeps s b) : Keeps s (if c then a else b) := Does.ite ha hb

/-- Device memory in its canonical form replaces device memory. -/
theorem withMem (h : Keeps s a) {m : Mem} (hm : a.mem.wf = true → m.wf = true) : Keeps s { a with mem := m } :=
  State.withMem_does _ _ hm h

/-- A register table with rising keys replaces the register table. -/
theorem withRegs (h : Keeps s a) {m : Tab Nat} (hm : Tab.sorted a.regs = true → Tab.sorted m = true) :
    Keeps s { a with regs := m } := State.withRegs_does _ _ hm h

/-- Packets with numbers of packets in flight replace those in flight. -/
theorem withFlight (h : Keeps s a) {l : List Packet} (hl : ∀ p ∈ l, ∃ q ∈ a.flight, p.pid = q.pid) :
    Keeps s { a with flight := l } := State.withFlight_does _ _ hl h

/-- The next number grows. -/
theorem withNextId (h : Keeps s a) {n : Nat} (hn : a.nextId ≤ n) : Keeps s { a with nextId := n } :=
  State.withNextId_does _ _ hn h

/-! The shared operations. -/

theorem wr (h : Keeps s a) {r : Reg} {idx : List Nat} {v : Nat} : Keeps s (a.wr r idx v) :=
  State.wr_does _ _ _ _ h
theorem emit (h : Keeps s a) {o : Out} : Keeps s (a.emit o) := State.emit_does _ _ h
theorem freeVal (h : Keeps s a) {w : Nat} : Keeps s (a.freeVal w).2 := State.freeVal_does _ _ h
theorem count (h : Keeps s a) {r : Reg} {idx : List Nat} {n : Nat} : Keeps s (a.count r idx n) :=
  State.count_does _ _ _ _ h
theorem bump (h : Keeps s a) {r : Reg} {idx : List Nat} {n : Nat} : Keeps s (a.bump r idx n) :=
  State.bump_does _ _ _ _ h
theorem sendDatagram (h : Keeps s a) {bytes : List Byte} : Keeps s (a.sendDatagram bytes) :=
  State.sendDatagram_does _ _ h
theorem report (h : Keeps s a) {type : Nat} {body : List Byte} : Keeps s (a.report type body) :=
  State.report_does _ _ _ h
theorem log (h : Keeps s a) {type code addr tag uclass uindex detail : Nat} :
    Keeps s (a.log type code addr tag uclass uindex detail) :=
  State.log_does _ _ _ _ _ _ _ _ h
theorem countEvent (h : Keeps s a) {c ev n : Nat} : Keeps s (a.countEvent c ev n) :=
  State.countEvent_does _ _ _ _ h
theorem countCluster (h : Keeps s a) {k e n : Nat} : Keeps s (a.countCluster k e n) :=
  State.countCluster_does _ _ _ _ h
theorem countBw (h : Keeps s a) {p : Nat} {inward : Bool} {n : Nat} : Keeps s (a.countBw p inward n) :=
  State.countBw_does _ _ _ _ h
theorem tlpOut (h : Keeps s a) {n : Nat} : Keeps s (a.tlpOut n) := State.tlpOut_does _ _ h
theorem tlpIn (h : Keeps s a) {n : Nat} : Keeps s (a.tlpIn n) := State.tlpIn_does _ _ h
theorem emitHost (h : Keeps s a) {o : Out} : Keeps s (a.emitHost o) := State.emitHost_does _ _ h
theorem noteRisk (h : Keeps s a) {kind n : Nat} : Keeps s (a.noteRisk kind n) := State.noteRisk_does _ _ _ h
theorem sampleOnce (h : Keeps s a) {c kind index operand tag : Nat} :
    Keeps s (a.sampleOnce c kind index operand tag) :=
  State.sampleOnce_does _ _ _ _ _ _ h
theorem makePending (h : Keeps s a) {x cause : Nat} : Keeps s (a.makePending x cause) :=
  State.makePending_does _ _ _ h
theorem wake (h : Keeps s a) {dom : Nat} : Keeps s (a.wake dom) := State.wake_does _ _ h
theorem wakeStack (h : Keeps s a) {x : Nat} : Keeps s (a.wakeStack x) := State.wakeStack_does _ _ h
theorem stackEvent (h : Keeps s a) {st j n : Nat} : Keeps s (a.stackEvent st j n) :=
  State.stackEvent_does _ _ _ _ h
theorem corrected (h : Keeps s a) {x n : Nat} : Keeps s (a.corrected x n) := State.corrected_does _ _ _ h
theorem readTraffic (h : Keeps s a) {via : Via} {addr n : Nat} : Keeps s (a.readTraffic via addr n) :=
  State.readTraffic_does _ _ _ _ h
theorem readsTraffic (h : Keeps s a) {via : Via} {rs : List (Nat × Nat)} : Keeps s (a.readsTraffic via rs) :=
  State.readsTraffic_does _ _ _ h
theorem noteBad (h : Keeps s a) {tag b : Nat} : Keeps s (a.noteBad tag b) := State.noteBad_does _ _ _ h
theorem noteBads (h : Keeps s a) {tag : Nat} {bs : List Nat} : Keeps s (a.noteBads tag bs) :=
  State.noteBads_does _ _ _ h
theorem clearBolt (h : Keeps s a) {b : Nat} : Keeps s (a.clearBolt b) := State.clearBolt_does _ _ h
theorem writeMem (h : Keeps s a) {via : Via} {tag addr : Nat} {bs : List Byte} :
    Keeps s (a.writeMem via tag addr bs).1 :=
  State.writeMem_does _ _ _ _ _ h
theorem writeMems (h : Keeps s a) {via : Via} {tag : Nat} {ws : List (Nat × List Byte)} :
    Keeps s (a.writeMems via tag ws).1 :=
  State.writeMems_does _ _ _ _ h
theorem spoil (h : Keeps s a) {addr n : Nat} : Keeps s (a.spoil addr n) := State.spoil_does _ _ _ h
theorem spoils (h : Keeps s a) {rs : List (Nat × Nat)} : Keeps s (a.spoils rs) := State.spoils_does _ _ h
theorem spoilTensors (h : Keeps s a) {ds : List TDesc} : Keeps s (a.spoilTensors ds) :=
  State.spoilTensors_does _ _ h
theorem raiseToken (h : Keeps s a) {t n : Nat} : Keeps s (a.raiseToken t n) := State.raiseToken_does _ _ _ h
theorem setFaulted (h : Keeps s a) {t : Nat} {b : Bool} : Keeps s (a.setFaulted t b) :=
  State.setFaulted_does _ _ _ h
theorem signal (h : Keeps s a) {t : Nat} {st : Status} : Keeps s (a.signal t st) := State.signal_does _ _ _ h
theorem setPacket (h : Keeps s a) {p : Packet} : Keeps s (a.setPacket p) := State.setPacket_does _ _ h
theorem endPacket (h : Keeps s a) {pid : Nat} {st : Status} {d : Nat} : Keeps s (a.endPacket pid st d) :=
  State.endPacket_does _ _ _ _ h
theorem endBad (h : Keeps s a) {pid tag : Nat} {bs : List Nat} : Keeps s (a.endBad pid tag bs) :=
  State.endBad_does _ _ _ _ h
theorem flushStops (h : Keeps s a) {r : Nat} : Keeps s (a.flushStops r) := State.flushStops_does _ _ h
theorem finishLate (h : Keeps s a) {l : LateRecord} : Keeps s (a.finishLate l) := State.finishLate_does _ _ h
theorem finishPacket (h : Keeps s a) {pid : Nat} : Keeps s (a.finishPacket pid) := State.finishPacket_does _ _ h
theorem fetchPacket (h : Keeps s a) {hd : PktHdr} {op : Op} : Keeps s (a.fetchPacket hd op) :=
  State.fetchPacket_does _ _ _ h
theorem stopRing (h : Keeps s a) {r tag opcode : Nat} {st : Status} {detail : Nat} :
    Keeps s (a.stopRing r tag opcode st detail) :=
  State.stopRing_does _ _ _ _ _ _ h
theorem setPort (h : Keeps s a) {p : Nat} {q : PortSt} : Keeps s (a.setPort p q) := State.setPort_does _ _ _ h
theorem portEvent (h : Keeps s a) {p j n : Nat} : Keeps s (a.portEvent p j n) := State.portEvent_does _ _ _ _ h
theorem groupEvent (h : Keeps s a) {j n : Nat} : Keeps s (a.groupEvent j n) := State.groupEvent_does _ _ _ h
theorem sendFlit (h : Keeps s a) {p type vc seq : Nat} {payload : List Byte} :
    Keeps s (a.sendFlit p type vc seq payload) :=
  State.sendFlit_does _ _ _ _ _ _ h
theorem sendNak (h : Keeps s a) {p : Nat} : Keeps s (a.sendNak p) := State.sendNak_does _ _ h
theorem pump (h : Keeps s a) {p : Nat} : Keeps s (a.pump p) := State.pump_does _ _ h
theorem idleFlit (h : Keeps s a) {p : Nat} : Keeps s (a.idleFlit p) := State.idleFlit_does _ _ h
theorem queueCell (h : Keeps s a) {p vc : Nat} {bytes : List Byte} : Keeps s (a.queueCell p vc bytes) :=
  State.queueCell_does _ _ _ _ h
theorem takeTotals (h : Keeps s a) {p ack cvc credits : Nat} : Keeps s (a.takeTotals p ack cvc credits) :=
  State.takeTotals_does _ _ _ _ _ h
theorem retrain (h : Keeps s a) {p : Nat} : Keeps s (a.retrain p) := State.retrain_does _ _ h
theorem resendOrRetrain (h : Keeps s a) {p : Nat} : Keeps s (a.resendOrRetrain p) :=
  State.resendOrRetrain_does _ _ h
theorem takeSync (h : Keeps s a) {p : Nat} {t : FlitTotals} {peerId peerPort session : Nat} {credits : List Nat} :
    Keeps s (a.takeSync p t peerId peerPort session credits) :=
  State.takeSync_does _ _ _ _ _ _ _ h
theorem sendColl (h : Keeps s a) {c : CollSt} {rank vc phase msg : Nat} {content : List Byte} :
    Keeps s (a.sendColl c rank vc phase msg content) :=
  State.sendColl_does _ _ _ _ _ _ _ h
theorem setColl (h : Keeps s a) {c : CollSt} : Keeps s (a.setColl c) := State.setColl_does _ _ h
theorem sendAborts (h : Keeps s a) {c : CollSt} {cause field rank : Nat} :
    Keeps s (a.sendAborts c cause field rank) :=
  State.sendAborts_does _ _ _ _ _ h
theorem failColl (h : Keeps s a) {c : CollSt} {st : Status} {cause field rank : Nat} :
    Keeps s (a.failColl c st cause field rank) :=
  State.failColl_does _ _ _ _ _ _ h
theorem failCheck (h : Keeps s a) {c : CollSt} : Keeps s (a.failCheck c) := State.failCheck_does _ _ h
theorem advance (h : Keeps s a) {c : CollSt} : Keeps s (a.advance c) := State.advance_does _ _ h
theorem takeUnit (h : Keeps s a) {c : CollSt} {k phase : Nat} {bs : List Byte} : Keeps s (a.takeUnit c k phase bs) :=
  State.takeUnit_does _ _ _ _ _ h
theorem dropStale (h : Keeps s a) : Keeps s (a.dropStale) := State.dropStale_does _ h
theorem takeLaunch (h : Keeps s a) {c : CollSt} {k : Nat} {m : LaunchMsg} : Keeps s (a.takeLaunch c k m) :=
  State.takeLaunch_does _ _ _ _ h
theorem takeAbort (h : Keeps s a) {c : CollSt} {cause field rank : Nat} : Keeps s (a.takeAbort c cause field rank) :=
  State.takeAbort_does _ _ _ _ _ h
theorem completeColl (h : Keeps s a) {c : CollSt} : Keeps s (a.completeColl c) := State.completeColl_does _ _ h
theorem slowCheck (h : Keeps s a) : Keeps s (a.slowCheck) := State.slowCheck_does _ h
theorem sendGroup (h : Keeps s a) {dest msg epoch : Nat} {content : List Byte} :
    Keeps s (a.sendGroup dest msg epoch content) :=
  State.sendGroup_does _ _ _ _ _ h
theorem termCheck (h : Keeps s a) {src term : Nat} : Keeps s (a.termCheck src term).1 :=
  State.termCheck_does _ _ _ h
theorem startEpoch (h : Keeps s a) : Keeps s (a.startEpoch) := State.startEpoch_does _ h
theorem memberChange (h : Keeps s a) {node mstate : Nat} : Keeps s (a.memberChange node mstate) :=
  State.memberChange_does _ _ _ h
theorem noteGrisk (h : Keeps s a) : Keeps s (a.noteGrisk) := State.noteGrisk_does _ h
theorem reportChange (h : Keeps s a) {node mstate : Nat} : Keeps s (a.reportChange node mstate) :=
  State.reportChange_does _ _ _ h
theorem setMstate (h : Keeps s a) {m st : Nat} : Keeps s (a.setMstate m st) := State.setMstate_does _ _ _ h
theorem installEpoch (h : Keeps s a) {p : PrepSt} : Keeps s (a.installEpoch p) := State.installEpoch_does _ _ h
theorem staleColls (h : Keeps s a) {epoch : Nat} : Keeps s (a.staleColls epoch) := State.staleColls_does _ _ h
theorem heartbeatTo (h : Keeps s a) : Keeps s (a.heartbeatTo).2 := State.heartbeatTo_does _ h
theorem sendJoin (h : Keeps s a) : Keeps s (a.sendJoin) := State.sendJoin_does _ h
theorem keepScale (h : Keeps s a) {e : Nat} : Keeps s (a.keepScale e) := State.keepScale_does _ _ h
theorem keepScales (h : Keeps s a) : Keeps s (a.keepScales) := State.keepScales_does _ h
theorem freshScales (h : Keeps s a) : Keeps s a.freshScales := State.freshScales_does _ h
theorem loadLive (h : Keeps s a) : Keeps s (a.loadLive) := State.loadLive_does _ h
theorem writeLive (h : Keeps s a) {off : Nat} {bs : List Byte} : Keeps s (a.writeLive off bs).1 :=
  State.writeLive_does _ _ _ h
theorem spoilWorks (h : Keeps s a) {l : List (ParamGroup × Shard)} : Keeps s (a.spoilWorks l) :=
  State.spoilWorks_does _ _ h
theorem engineFault (h : Keeps s a) {st : Nat} {e : Status} {group : Nat} : Keeps s (a.engineFault st e group) :=
  State.engineFault_does _ _ _ _ h
theorem rewriteAll (h : Keeps s a) {stepField : Nat} {inAttempt : Bool} {l : List (ParamGroup × Shard)} :
    Keeps s (a.rewriteAll stepField inAttempt l).1 :=
  State.rewriteAll_does _ _ _ _ h
theorem sendShroud (h : Keeps s a) {dest msg slot stack part bolt sourceId : Nat} {content : List Byte} :
    Keeps s (a.sendShroud dest msg slot stack part bolt sourceId content) :=
  State.sendShroud_does _ _ _ _ _ _ _ _ _ h
theorem sendForStack (h : Keeps s a) {dest msg slot stack part bolt : Nat} {content : List Byte} :
    Keeps s (a.sendForStack dest msg slot stack part bolt content) :=
  State.sendForStack_does _ _ _ _ _ _ _ _ h
theorem reportShroud (h : Keeps s a) {event cause step : Nat} : Keeps s (a.reportShroud event cause step) :=
  State.reportShroud_does _ _ _ _ h
theorem setSrcState (h : Keeps s a) {v : Nat} : Keeps s (a.setSrcState v) := State.setSrcState_does _ _ h
theorem computeImage (h : Keeps s a) : Keeps s (a.computeImage) := State.computeImage_does _ h
theorem sendStack (h : Keeps s a) {st : Nat} {p : Nat → Bool} : Keeps s (a.sendStack st p) :=
  State.sendStack_does _ _ _ h
theorem sendGroupBolts (h : Keeps s a) {g : ParamGroup} : Keeps s (a.sendGroupBolts g) :=
  State.sendGroupBolts_does _ _ h
theorem sendDigests (h : Keeps s a) : Keeps s (a.sendDigests) := State.sendDigests_does _ h
theorem countAbandon (h : Keeps s a) {cause step : Nat} : Keeps s (a.countAbandon cause step) :=
  State.countAbandon_does _ _ _ h
theorem sendHello (h : Keeps s a) {holder step : Nat} : Keeps s (a.sendHello holder step) :=
  State.sendHello_does _ _ _ h
theorem beginCopy (h : Keeps s a) {pid : Option Nat} {step : Nat} : Keeps s (a.beginCopy pid step).1 :=
  State.beginCopy_does _ _ _ h
theorem setReef (h : Keeps s a) {on : Bool} {layer : Nat} : Keeps s (State.setReef on a layer) :=
  State.setReef_does _ _ _ h
theorem applyReef (h : Keeps s a) : Keeps s (a.applyReef) := State.applyReef_does _ h
theorem startAttempt (h : Keeps s a) {n : Nat} : Keeps s (a.startAttempt n) := State.startAttempt_does _ _ h
theorem raise (h : Keeps s a) {bits : Nat} : Keeps s (a.raise bits) := State.raise_does _ _ h
theorem abortStep (h : Keeps s a) : Keeps s (a.abortStep) := State.abortStep_does _ h
theorem commitStop (h : Keeps s a) {st : Status} {stack : Option Nat} : Keeps s (a.commitStop st stack) :=
  State.commitStop_does _ _ _ h
theorem startGroups (h : Keeps s a) {l : List Nat} : Keeps s (a.startGroups l) := State.startGroups_does _ _ h
theorem resumeCommit (h : Keeps s a) : Keeps s (a.resumeCommit) := State.resumeCommit_does _ h
theorem applyVerdict (h : Keeps s a) {verdict reasons : Nat} {plan : OutlierPlan} {other : Status} :
    Keeps s (a.applyVerdict verdict reasons plan other) :=
  State.applyVerdict_does _ _ _ _ _ h
theorem agreeVerdict (h : Keeps s a) : Keeps s (a.agreeVerdict) := State.agreeVerdict_does _ h
theorem closeAttempt (h : Keeps s a) : Keeps s (a.closeAttempt) := State.closeAttempt_does _ h
theorem spoilPacket (h : Keeps s a) {p : Packet} : Keeps s (a.spoilPacket p) := State.spoilPacket_does _ _ h
theorem spoilDest (h : Keeps s a) {pid : Nat} : Keeps s (a.spoilDest pid) := State.spoilDest_does _ _ h
theorem failCompute (h : Keeps s a) {pid : Nat} {st : Status} {detail : Nat} :
    Keeps s (a.failCompute pid st detail) :=
  State.failCompute_does _ _ _ _ h
theorem startCompute (h : Keeps s a) {pid : Nat} : Keeps s (a.startCompute pid) := State.startCompute_does _ _ h
theorem dispatch (h : Keeps s a) {u : ExecUnit} {k : DescKind} : Keeps s (a.dispatch u k).1 :=
  State.dispatch_does _ _ _ h
theorem startDesc (h : Keeps s a) {u : ExecUnit} : Keeps s (a.startDesc u) := State.startDesc_does _ _ h
theorem checkEvent (h : Keeps s a) {u : ExecUnit} {code addr tag execution : Nat} :
    Keeps s (a.checkEvent u code addr tag execution) :=
  State.checkEvent_does _ _ _ _ _ _ h
theorem addRetry (h : Keeps s a) {what : RetryFor} {u0 u1 u2 : ExecUnit} {kind : Nat} :
    Keeps s (a.addRetry what u0 u1 u2 kind) :=
  State.addRetry_does _ _ _ _ _ _ h
theorem latchDesc (h : Keeps s a) {id : Nat} {check : Check} : Keeps s (a.latchDesc id check) :=
  State.latchDesc_does _ _ _ h
theorem capture (h : Keeps s a) {k tag id : Nat} {f : FlagSet} : Keeps s (a.capture k tag id f) :=
  State.capture_does _ _ _ _ _ h
theorem endDesc (h : Keeps s a) {id : Nat} : Keeps s (a.endDesc id) := State.endDesc_does _ _ h
theorem preempt (h : Keeps s a) {k : Nat} {q : Progress} : Keeps s (a.preempt k q) := State.preempt_does _ _ _ h
theorem resume (h : Keeps s a) {id : Nat} : Keeps s (a.resume id) := State.resume_does _ _ h
theorem setDomain (h : Keeps s a) {d st : Nat} : Keeps s (a.setDomain d st) := State.setDomain_does _ _ _ h
theorem domainOn (h : Keeps s a) {d : Nat} : Keeps s (a.domainOn d) := State.domainOn_does _ _ h
theorem enablePort (h : Keeps s a) {p : Nat} : Keeps s (a.enablePort p) := State.enablePort_does _ _ h
theorem disablePort (h : Keeps s a) {p : Nat} : Keeps s (a.disablePort p) := State.disablePort_does _ _ h
theorem reply (h : Keeps s a) {seq : Nat} {st : Status} {detail : Nat} : Keeps s (a.reply seq st detail) :=
  State.reply_does _ _ _ _ h
theorem answer (h : Keeps s a) {asker : Asker} {st : Status} {detail : Nat} : Keeps s (a.answer asker st detail) :=
  State.answer_does _ _ _ _ h
theorem settleFences (h : Keeps s a) : Keeps s (a.settleFences) := State.settleFences_does _ h
theorem refreshHealth (h : Keeps s a) : Keeps s (a.refreshHealth) := State.refreshHealth_does _ h
theorem testHealth (h : Keeps s a) {u result clean : Nat} : Keeps s (a.testHealth u result clean) :=
  State.testHealth_does _ _ _ _ h
theorem queueTest (h : Keeps s a) {u : Nat} {asker : Asker} {unfence : Bool} :
    Keeps s (a.queueTest u asker unfence) :=
  State.queueTest_does _ _ _ _ h
theorem deferExpiry (h : Keeps s a) {u : Nat} {places : List Progress} : Keeps s (a.deferExpiry u places) :=
  State.deferExpiry_does _ _ _ h
theorem slotStart (h : Keeps s a) {u : Nat} : Keeps s (a.slotStart u) := State.slotStart_does _ _ h
theorem slotEnd (h : Keeps s a) {u result kernel skipped : Nat} {channels : List Nat} :
    Keeps s (a.slotEnd u result kernel skipped channels) :=
  State.slotEnd_does _ _ _ _ _ _ h
theorem betweenJob (h : Keeps s a) {pid mask : Nat} : Keeps s (a.betweenJob pid mask) :=
  State.betweenJob_does _ _ _ h
theorem unitTest (h : Keeps s a) {asker : Asker} {u : Nat} : Keeps s (a.unitTest asker u) :=
  State.unitTest_does _ _ _ h
theorem unitFence (h : Keeps s a) {asker : Asker} {u cause : Nat} : Keeps s (a.unitFence asker u cause) :=
  State.unitFence_does _ _ _ _ h
theorem unitUnfence (h : Keeps s a) {asker : Asker} {u : Nat} : Keeps s (a.unitUnfence asker u) :=
  State.unitUnfence_does _ _ _ h
theorem overdueCheck (h : Keeps s a) : Keeps s (a.overdueCheck) := State.overdueCheck_does _ h
theorem writeBatch (h : Keeps s a) {sh n : Nat} : Keeps s (a.writeBatch sh n) := State.writeBatch_does _ _ _ h
theorem majority (h : Keeps s a) {id : Nat} {e0e2 e1e2 : Bool} {c1 c2 : Check} :
    Keeps s (a.majority id e0e2 e1e2 c1 c2) :=
  State.majority_does _ _ _ _ _ _ h
theorem shadowDone (h : Keeps s a) {id : Nat} {agree : Bool} {c : Check} : Keeps s (a.shadowDone id agree c) :=
  State.shadowDone_does _ _ _ _ h
theorem updPacket (h : Keeps s a) {pid : Nat} {f : Packet → Packet} (hf : ∀ p, (f p).pid = p.pid) :
    Keeps s (a.updPacket pid f) := State.updPacket_does _ _ _ h hf

end Keeps

end Sys2Proof.Machine
end

section
/-! PROOFS. What memory, counters and shroud copies keep (R218–R233, R308–R323, R361–R366). -/

namespace Sys2Proof.Machine

set_option Elab.async false

variable {s a t : State}

namespace Keeps

/-! Counters (R361–R366). -/

theorem selectWrite (h : Keeps s a) {c i ev filter : Nat} {enable : Bool} : Keeps s (a.selectWrite c i ev filter enable) := by
  unfold State.selectWrite
  exact h.count.ite (h.wr.wr.wr.ite h.wr.wr).wr

theorem counterClear (h : Keeps s a) {c i : Nat} : Keeps s (a.counterClear c i) := h.wr

theorem bwEnable (h : Keeps s a) {on : Bool} : Keeps s (a.bwEnable on) := by
  unfold State.bwEnable
  exact h.ite h.mk.wr

theorem bwEnd (h : Keeps s a) : Keeps s a.bwEnd := by
  unfold State.bwEnd
  exact h.ite h.mk.bump.wr

theorem sampleControl (h : Keeps s a) {on : Bool} {k : Nat} : Keeps s (a.sampleControl on k) := by
  unfold State.sampleControl
  exact (h.wr.wr.foldl fun _ _ h => h.wr).ite h.wr

/-! Errors and scrub (R218–R220, R228). -/

theorem hbmUpset (h : Keeps s a) {b : Nat} : Keeps s (a.hbmUpset b) := h.ite h.mk

theorem loseBolt (h : Keeps s a) {b : Nat} : Keeps s (a.loseBolt b) := by
  unfold State.loseBolt
  split
  · exact h
  · exact h.countEvent.noteRisk.ite (h.countEvent.noteRisk.wr.wr.ite h.countEvent.noteRisk.wr.log)

theorem dropLine (h : Keeps s a) {b : Nat} : Keeps s (a.dropLine b) := h.noteRisk.log

theorem homeCorrected (h : Keeps s a) {c : Option Nat} :
    Keeps s (match c with
      | some c => (a.count .llsLlsCorrected [c] 1).countEvent c 0x14A 1
      | none => a) := by
  split
  · exact h.count.countEvent
  · exact h

theorem upset (h : Keeps s a) {b code : Nat} : Keeps s (a.upset b code) := by
  unfold State.upset
  split
  case h_2 => exact h.dropLine
  case h_4 => exact h.dropLine
  case h_5 => exact h.loseBolt
  case h_6 => exact h.hbmUpset
  case h_8 => exact h.hbmUpset
  case h_9 => exact h.homeCorrected
  case h_11 => exact h.mk
  all_goals exact h

theorem lostClear (h : Keeps s a) {c : Nat} : Keeps s (a.lostClear c) :=
  Keeps.wr <| Keeps.wr <| h.foldl fun _ _ h => h.wr

theorem scrubAccess (h : Keeps s a) {st n : Nat} {u : Bool} : Keeps s (a.scrubAccess st n u) := by
  unfold State.scrubAccess
  refine h.ite (h.mk.ite ?_)
  split
  · exact h
  · extract_lets x src moved reached
    have hm : Keeps s moved := h.mk
    have hr : Keeps s reached := hm.wakeStack.stackEvent
    split
    · exact hr
    · extract_lets counted written read
      have hk : Keeps s counted := hr.corrected
      have hw : Keeps s written := hk.mk
      have hc : Keeps s read := hw.hbmUpset.ite hw
      exact hc.noteBad.ite hc

theorem scrubReaches (h : Keeps s a) {x bolt n : Nat} {u : Bool} : Keeps s (a.scrubReaches x bolt n u) := h.scrubAccess.ite h

theorem scrubPeriodEnd (h : Keeps s a) {late : Bool} : Keeps s (a.scrubPeriodEnd late) := by
  unfold State.scrubPeriodEnd
  have hc : Keeps s ((List.range 640).foldl (fun s x => s.wr .hbmCeCount [x] 0) a) := h.foldl fun _ _ h => h.wr
  exact (hc.bump.bump.ite hc.bump).mk.ite h

/-! Rebuild and scratchpad partitions (R223, R224, R227). -/

theorem mapOut (h : Keeps s a) {x cause : Nat} : Keeps s (a.mapOut x cause) := h.wr.wr.log.mk.noteRisk

theorem applyShares (h : Keeps s a) : Keeps s a.applyShares := (h.foldl fun _ _ h => h.mapOut).mk

theorem zeroRange (h : Keeps s a) {x n : Nat} : Keeps s (a.zeroRange x n) :=
  (h.foldl fun _ _ h => h.clearBolt).withMem (Mem.wf_zero _ _) |>.mk

theorem zeroTraffic (h : Keeps s a) {r : Region} : Keeps s (a.zeroTraffic r) :=
  h.foldl fun _ _ h => h.ite h.stackEvent.countBw

theorem zeroRegion (h : Keeps s a) {r : Region} : Keeps s (a.zeroRegion r) := h.zeroTraffic.zeroRange

theorem rebuild (h : Keeps s a) : Keeps s a.rebuild.1 := by
  unfold State.rebuild
  extract_lets new rs zeroed forgotten
  have hz : Keeps s zeroed := h.applyShares.foldl fun _ _ h => h.zeroRegion
  have hf : Keeps s { zeroed with groups := [], groupTable := [] } := hz.mk
  have hw : Keeps s forgotten := hf.wr.ite hz
  dsimp only
  exact hw

theorem refreshUnits (h : Keeps s a) {c : Nat} : Keeps s (a.refreshUnits c) := h.wr

theorem takePartition (h : Keeps s a) {c n : Nat} {r : Nat × State} (hr : a.takePartition c n = some r) : Keeps s r.2 := by
  obtain ⟨u, -, rfl⟩ := Option.map_eq_some_iff.1 hr
  exact h.mk.zeroRange.refreshUnits

theorem partition (h : Keeps s a) {pid c n : Nat} : Keeps s (a.partition pid c n) := by
  unfold State.partition
  refine h.endPacket.ite (h.endPacket.ite (h.endPacket.ite ?_))
  split
  · exact (h.takePartition ‹_›).endPacket
  · exact h

theorem settlePartitions (h : Keeps s a) : Keeps s a.settlePartitions :=
  h.foldl fun _ p h => by
    split
    · exact h.partition
    · exact h

theorem releasePartition (h : Keeps s a) {pid c u : Nat} : Keeps s (a.releasePartition pid c u) := by
  unfold State.releasePartition
  split
  · exact h.endPacket
  · exact h.endPacket.ite (h.endPacket.ite h.mk.zeroRange.refreshUnits.endPacket.settlePartitions)

/-! Stack temperature and arbiters (R229–R233). -/

theorem reportThermal (h : Keeps s a) {source st temp : Nat} : Keeps s (a.reportThermal source st temp) := h.report

theorem stackTemp (h : Keeps s a) {st temp : Nat} : Keeps s (a.stackTemp st temp) := by
  unfold State.stackTemp
  extract_lets was now read entered warn warned crit done
  have hr : Keeps s read := h.wr
  have he : Keeps s entered := hr.wr.wr
  have hw : Keeps s warned := he.bump.noteRisk.ite he
  have hc : Keeps s crit := hw.bump.noteRisk.ite hw
  have hd : Keeps s done := hc.reportThermal.slowCheck
  exact hr.ite (hd.resumeCommit.ite hd)

theorem critTick (h : Keeps s a) : Keeps s a.critTick := by
  unfold State.critTick
  exact Keeps.ite (h.foldl fun _ _ h => h.mk.wr.ite h) h

theorem freeze (h : Keeps s a) {x : Nat} {on : Bool} : Keeps s (a.freeze x on) := h.wr.ite h.wr.wr

theorem drained (h : Keeps s a) {x : Nat} : Keeps s (a.drained x) := h.wr.ite h

/-! Shroud copies at the source (R310–R315). -/

theorem releaseFetch (h : Keeps s a) {pid : Nat} : Keeps s (a.releaseFetch pid) := h.mk

theorem dropCells (h : Keeps s a) {c : CopySt} : Keeps s (a.dropCells c) := by
  unfold State.dropCells
  exact h.mk.foldl fun _ _ h => h.ite h.setPort

theorem dropCopy (h : Keeps s a) {cause : Nat} {c : CopySt} : Keeps s (State.dropCopy cause a c) := by
  unfold State.dropCopy
  extract_lets dropped
  have hd : Keeps s dropped := h.dropCells.countAbandon
  split
  · exact hd.releaseFetch.endPacket
  · exact hd

theorem abandonCopies (h : Keeps s a) {cause : Nat} {p : CopySt → Bool} : Keeps s (a.abandonCopies cause p) := by
  unfold State.abandonCopies
  extract_lets gone kept
  have hk : Keeps s kept := h.mk
  exact h.ite (hk.foldl fun _ _ h => h.dropCopy).resumeCommit

theorem shroudCopy (h : Keeps s a) {pid : Nat} : Keeps s (a.shroudCopy pid) := by
  unfold State.shroudCopy
  exact h.endPacket.ite (h.ite (h.endPacket.ite (h.beginCopy.mk.ite h.beginCopy.endPacket)))

theorem readCopy (h : Keeps s a) : Keeps s a.readCopy := by
  unfold State.readCopy
  split
  · exact h
  · split
    · exact h
    · refine h.ite ?_
      have hc : Keeps s { a with copy := none } := h.mk
      exact (h.readsTraffic.foldl fun _ _ h => h.sendStack).sendDigests.releaseFetch.ite hc.dropCells.releaseFetch.endBad

theorem startCopies (h : Keeps s a) : Keeps s a.startCopies := h.foldl fun _ _ h => h.shroudCopy

theorem goCopies (h : Keeps s a) : Keeps s a.goCopies := h.readCopy.startCopies

theorem probeHolder (h : Keeps s a) : Keeps s a.probeHolder := by
  unfold State.probeHolder
  exact h.sendHello.ite h

theorem takeAccept (h : Keeps s a) {src result slot : Nat} : Keeps s (a.takeAccept src result slot) := by
  unfold State.takeAccept
  refine h.ite ?_
  extract_lets answered refused
  have ha : Keeps s answered := h.wr
  have hr : Keeps s refused := ha.ite ha.setSrcState
  split
  · exact ha.setSrcState
  · extract_lets accepted
    have hc : Keeps s accepted := ha.mk
    exact ha.ite (hr.abandonCopies.ite (hc.resumeCommit.ite hc.goCopies))

theorem takeComplete (h : Keeps s a) {src : Nat} : Keeps s (a.takeComplete src) := by
  unfold State.takeComplete
  split
  · exact h
  · extract_lets kept done
    have hk : Keeps s kept := h.mk
    have hd : Keeps s done := hk.wr.bump.wr
    refine ite ?_ h
    split
    · exact hd.endPacket
    · exact hd

theorem takeIncomplete (h : Keeps s a) {src : Nat} : Keeps s (a.takeIncomplete src) := by
  unfold State.takeIncomplete
  split
  · exact h
  · exact h.abandonCopies

theorem holderLost (h : Keeps s a) : Keeps s a.holderLost := by
  unfold State.holderLost
  exact h.ite h.setSrcState.reportShroud.abandonCopies

theorem takeLost (h : Keeps s a) {src : Nat} : Keeps s (a.takeLost src) := by
  unfold State.takeLost
  have hd : Keeps s { a with copyDue := true } := h.mk
  exact h.ite hd.abandonCopies

theorem signatureDone (h : Keeps s a) : Keeps s a.signatureDone := by
  unfold State.signatureDone
  split
  · exact h
  · exact h.mk.foldl fun _ _ h => h.sendForStack

/-! Shroud copies at the holder (R308, R309, R313, R320–R322). -/

theorem holdWrite (h : Keeps s a) {kind addr : Nat} {bs : List Byte} : Keeps s (a.holdWrite kind addr bs) := h.mk

theorem writeArea (h : Keeps s a) {addr : Nat} {bs : List Byte} : Keeps s (a.writeArea addr bs) := by
  unfold State.writeArea
  exact h.holdWrite.ite h.writeMem

theorem takeHello (h : Keeps s a) {src sourceId step : Nat} {bolts : List Nat} :
    Keeps s (a.takeHello src sourceId step bolts) := by
  unfold State.takeHello
  extract_lets r k x held
  have hx : Keeps s held := h.mk.ite h
  exact hx.sendShroud

theorem fillSlot (h : Keeps s a) {x : HoldSt} : Keeps s (a.fillSlot x) := by
  unfold State.fillSlot
  extract_lets k header marked
  have hh : Keeps s header := h.mk.foldl fun _ _ h => h.zeroRange.zeroRange.writeArea
  have hm : Keeps s marked := hh.wr.wr.wr
  exact h.ite hm.wr.wr.wr

theorem holdData (h : Keeps s a) {x : HoldSt} {stack part bolt : Nat} {content : List Byte} :
    Keeps s (a.holdData x stack part bolt content) := by
  unfold State.holdData
  extract_lets filled x' key n
  have hf : Keeps s filled := h.fillSlot
  refine hf.mk.ite ?_
  split
  · exact hf
  · extract_lets whole header
    have hh : Keeps s header := hf.writeArea.writeArea
    exact hf.ite hh.mk

theorem holdShards (h : Keeps s a) {x : HoldSt} {stack part : Nat} {content : List Byte} :
    Keeps s (a.holdShards x stack part content) := by
  unfold State.holdShards
  exact h.fillSlot.ite h.fillSlot.writeArea

theorem holdManifest (h : Keeps s a) {x : HoldSt} {part : Nat} {content : List Byte} :
    Keeps s (a.holdManifest x part content) := by
  unfold State.holdManifest
  extract_lets filled x' m n k ended manifest done
  have hf : Keeps s filled := h.fillSlot
  have he : Keeps s ended := hf.mk
  have hm : Keeps s manifest := he.foldl fun _ _ h => h.writeArea
  have hd : Keeps s done := hm.mk.foldl fun _ _ h => h.writeArea
  exact hf.mk.ite (hd.wr.wr.sendShroud.ite he.sendShroud)

theorem holdSignature (h : Keeps s a) {x : HoldSt} {part : Nat} {content : List Byte} :
    Keeps s (a.holdSignature x part content) := by
  unfold State.holdSignature
  extract_lets k written st marked
  have hw : Keeps s written := h.foldl fun _ _ h => h.writeArea
  have hm : Keeps s marked := hw.foldl fun _ _ h => h.writeArea
  exact hw.ite hm.wr

theorem takeFetch (h : Keeps s a) {src sourceId : Nat} {older : Bool} : Keeps s (a.takeFetch src sourceId older) := by
  unfold State.takeFetch
  split
  · exact h.sendShroud
  · next k _ =>
    extract_lets serving area headers manifest signature
    have hs : Keeps s { a with serve := some { dest := src, source := sourceId, slot := k } } := h.mk
    have hv : Keeps s serving := hs.sendShroud
    have hh : Keeps s headers := hv.foldl fun _ _ h => h.foldl fun _ _ h => h.sendShroud
    have hm : Keeps s manifest := hh.foldl fun _ _ h => h.sendShroud
    have hg : Keeps s signature := (hm.foldl fun _ _ h => h.sendShroud).ite hm
    exact hg.foldl fun _ _ h => h.readTraffic.foldl fun _ _ h => h.sendShroud.sendShroud

theorem emptySlots (h : Keeps s a) : Keeps s a.emptySlots := by
  unfold State.emptySlots
  extract_lets emptied
  have he : Keeps s emptied := h.foldl fun _ _ h => h.writeArea.writeArea
  exact he.mk.foldl fun _ _ h => h.wr.wr.wr.wr

theorem areaRebuilt (h : Keeps s a) {rs : List Region} : Keeps s (a.areaRebuilt rs) := by
  unfold State.areaRebuilt
  exact (h.emptySlots.ite h.emptySlots.sendShroud).ite h

theorem shroudRelease (h : Keeps s a) {pid : Nat} : Keeps s (a.shroudRelease pid) := by
  unfold State.shroudRelease
  exact h.endPacket.ite h.emptySlots.wr.wr.wr.endPacket

theorem retain (h : Keeps s a) : Keeps s a.retain := by
  unfold State.retain
  split
  · have hn : Keeps s { a with hold := none } := h.mk
    exact hn.wr
  · exact h.wr.wr.wr
  · exact h

theorem takePartner (h : Keeps s a) {holder source : Nat} {forced : Bool} {refuse sourceId : Nat} :
    Keeps s (a.takePartner holder source forced refuse sourceId) := by
  unfold State.takePartner
  extract_lets same named told paired holding
  have hn : Keeps s named := h.wr.wr.wr
  have ht : Keeps s told := hn.reportShroud.ite hn
  have hp : Keeps s paired := ht.setSrcState.ite (ht.ite ht.setSrcState.probeHolder)
  have hh : Keeps s holding := hp.wr.ite hp.wr
  exact hp.retain.ite (hp.ite hh.wr.wr)

theorem sendPartners (h : Keeps s a) : Keeps s a.sendPartners := by
  unfold State.sendPartners
  exact h.ite (h.foldl fun _ _ h => h.sendGroup)

/-! RESTORE (R319, R320). -/

theorem endRestore (h : Keeps s a) {pid : Nat} {st : Status} {detail : Nat} : Keeps s (a.endRestore pid st detail) := by
  have hn : Keeps s { a with restore := none } := h.mk
  exact hn.releaseFetch.endPacket

theorem restoreBegin (h : Keeps s a) {pid sourceId expect dest : Nat} {older override : Bool} {holder : Nat} :
    Keeps s (a.restoreBegin pid sourceId expect dest older override holder) := by
  unfold State.restoreBegin
  extract_lets x src r
  have hr : Keeps s { a with restore := some r } := h.mk
  have he {st : Status} {d : Nat} : Keeps s (a.endRestore pid st d) := h.endRestore
  exact he.ite (he.ite (he.ite (he.ite (he.ite (he.ite (he.ite hr.sendShroud))))))

theorem restoreFinish (h : Keeps s a) {r : RestoreSt} : Keeps s (a.restoreFinish r) := by
  unfold State.restoreFinish
  extract_lets step st all state b scaled live marked todo w kept done
  have hl : Keeps s live := h.keepScales.writeMem.writeMem.loadLive
  have hm : Keeps s marked := hl.wr.wr.wr
  have hs : Keeps s { marked with rewriteStream := marked.streamStacks } := hm.mk
  have hw : Keeps s w.1 := hs.rewriteAll
  have hk : Keeps s kept := hw
  have hd : Keeps s done := hk.mk
  split
  · exact hd.endRestore
  · exact hd.spoilTensors.wr.endRestore

theorem restoreGo (h : Keeps s a) : Keeps s a.restoreGo := by
  unfold State.restoreGo
  split
  · exact h
  · refine ite (h.ite ?_) (h.ite ?_)
    · extract_lets sig w written broken
      have hw : Keeps s written := h.writeMems
      refine hw.endRestore.ite ?_
      split
      · exact hw.endRestore
      · have hb : Keeps s broken := hw.wr
        exact hb.mk
    · split
      · exact h.endRestore
      · exact h.restoreFinish

theorem takeFetchReply (h : Keeps s a) {src stack part : Nat} {content : List Byte} :
    Keeps s (a.takeFetchReply src stack part content) := by
  unfold State.takeFetchReply
  split
  · exact h
  · exact (h.mk.ite h.endRestore).ite (restoreGo h.mk)

theorem restoreData (h : Keeps s a) {r : RestoreSt} {stack part bolt : Nat} {content : List Byte} :
    Keeps s (a.restoreData r stack part bolt content) := by
  unfold State.restoreData
  extract_lets key heard own
  refine h.mk.ite (h.mk.ite ?_)
  split
  · exact h.mk
  · extract_lets bs written
    have hw : Keeps s written := by
      unfold written
      split
      · exact h.holdWrite.ite h.writeMem
      · exact h
    exact restoreGo hw.mk

theorem shroudTimeout (h : Keeps s a) : Keeps s a.shroudTimeout := by
  unfold State.shroudTimeout
  extract_lets lim checked
  have hc : Keeps s checked := h.abandonCopies
  split
  · exact hc.endRestore.ite hc
  · exact hc

end Keeps

end Sys2Proof.Machine
end

section
/-! PROOFS. What power, resets, group membership and the management port keep (R248, R249, R316, R372–R408). -/

namespace Sys2Proof.Machine

set_option Elab.async false

variable {s a t : State}

namespace Keeps

/-! The risk estimate (R316). -/

theorem riskRecompute (h : Keeps s a) : Keeps s a.riskRecompute := by
  unfold State.riskRecompute
  extract_lets recent levels cand now quiet next counted cause shown
  have hr : Keeps s recent := h.mk
  have hc : Keeps s counted := hr.mk
  have hw : Keeps s shown := hc.wr.wr.wr
  exact hw.ite hw.report

/-! The attestation log (R386, R406). -/

theorem attest (h : Keeps s a) {kind : Nat} {d content : List Byte} : Keeps s (a.attest kind d content) := h.mk.ite h.wr

theorem measure (h : Keeps s a) {area : Nat} : Keeps s (a.measure area) := h.attest.attest.attest

theorem measureHealth (h : Keeps s a) : Keeps s a.measureHealth := h.attest

/-! What the resets keep (R392, R393). -/

theorem keepRegs (h : Keeps s a) {rs : List Reg} : Keeps s (a.keepRegs rs) := h.withRegs (Tab.sorted_filter _)

theorem showShares (h : Keeps s a) : Keeps s a.showShares := h.wr.wr

theorem stopCommit (h : Keeps s a) : Keeps s a.stopCommit := by
  unfold State.stopCommit
  split
  · exact h.wr.wr.wr.wr
  · exact h

theorem loseScratch (h : Keeps s a) : Keeps s a.loseScratch := h.mk.foldl fun _ _ h => h.zeroRegion

theorem stopWrites (h : Keeps s a) : Keeps s a.stopWrites := (h.foldl fun _ _ h => h.spoilPacket).spoils

theorem clearRings (h : Keeps s a) : Keeps s a.clearRings := by
  have hf : Keeps s { a with flight := [] } := h.withFlight (by simp)
  exact hf.mk

theorem dropTesting (h : Keeps s a) {before : List TestSt} : Keeps s (a.dropTesting before) :=
  h.foldl fun _ _ h => h.ite h.wr

theorem resetCore (h : Keeps s a) {kind : Nat} {keep : List Reg} : Keeps s (a.resetCore kind keep) := by
  unfold State.resetCore
  extract_lets kept cleared
  have hk : Keeps s kept := h.stopWrites.stopCommit.loseScratch.clearRings.keepRegs
  have hc : Keeps s cleared := hk.mk
  exact hc.showShares.refreshHealth.wr

/-! Start-up (R384–R391). -/

theorem idleDomains (h : Keeps s a) : Keeps s a.idleDomains :=
  h.foldl fun _ _ h => h.setDomain.ite (h.domainOn.ite (h.setDomain.ite h.setDomain))

theorem bootDomains (h : Keeps s a) : Keeps s a.bootDomains := h.foldl fun _ _ h => h.domainOn.ite h.setDomain

theorem bootFail (h : Keeps s a) {code : Nat} : Keeps s (a.bootFail code) := by
  have hd : Keeps s { a with startDone := false } := h.mk
  exact hd.wr.wr

theorem selfCheckUnit (h : Keeps s a) {r : BootReport} {u : Nat} : Keeps s (State.selfCheckUnit r a u) := by
  unfold State.selfCheckUnit
  extract_lets q run noted
  have hr : Keeps s run := h.bump.wr.wr
  have hn : Keeps s noted := hr.ite hr.bump.wr.log
  exact hn.testHealth

theorem applyFlashMap (h : Keeps s a) : Keeps s a.applyFlashMap := h.foldl fun _ _ h => h.freeVal.wr.wr

theorem startUp (h : Keeps s a) {cold : Bool} {r : BootReport} : Keeps s (a.startUp cold r) := by
  unfold State.startUp
  extract_lets begun mapped booted
  have hb : Keeps s begun := h.mk
  have hm : Keeps s mapped := hb.applyFlashMap.ite hb
  have hd : Keeps s booted := hm.bootDomains
  refine hd.bootFail.ite ?_
  split
  · exact hd.bootFail
  · extract_lets img loaded staged measured tested checked
    have hi : Keeps s { booted with running := img } := hd.mk
    have hl : Keeps s loaded := hi.wr
    have hs : Keeps s staged := hl.wr.ite hl
    have ht : Keeps s measured := hs.wr.wr.measure
    have hh : Keeps s tested := (ht.foldl fun _ _ h => h.mapOut).ite ht
    have hc : Keeps s checked := (hh.foldl fun _ _ h => h.selfCheckUnit).refreshHealth
    exact hc.bootFail.ite (hc.bootFail.ite hc.measureHealth.idleDomains.mk)

theorem setReady (h : Keeps s a) : Keeps s a.setReady := by
  unfold State.setReady
  extract_lets ready
  have hr : Keeps s ready := h.wr
  have ha : Keeps s { ready with active := ready.rd .pwrBootArea [] } := hr.mk
  exact (ha.wr.ite hr).ite h

/-! The five resets (R392). -/

theorem coldReset (h : Keeps s a) {r : BootReport} : Keeps s (a.coldReset r) := by
  unfold State.coldReset
  extract_lets f
  apply startUp
  refine h.of_inv rfl fun hi => ?_
  obtain ⟨-, hregs, -⟩ := hi
  exact ⟨rfl, Tab.sorted_filter _ hregs, fun _ hp => absurd hp List.not_mem_nil⟩

theorem warmReset (h : Keeps s a) {r : BootReport} : Keeps s (a.warmReset r) := startUp h.resetCore.mk

theorem mgmtReset (h : Keeps s a) {r : BootReport} : Keeps s (a.mgmtReset r) := startUp h.resetCore.mk

theorem flr (h : Keeps s a) : Keeps s a.flr := setDomain (setDomain h.resetCore.mk)

theorem softReset (h : Keeps s a) : Keeps s a.softReset := by
  unfold State.softReset
  extract_lets dropped stopped cleared
  have hd : Keeps s dropped := h.foldl fun _ _ h => h.dropCells
  have hs : Keeps s stopped := hd.stopWrites.abortStep.clearRings.dropTesting
  have hr : Keeps s { stopped with regs := stopped.regs.filter fun p => !ringRegs.any fun r => r.owns p.1 } :=
    hs.withRegs (Tab.sorted_filter _)
  have hc : Keeps s cleared := hr.mk
  exact hc.wr.wr

theorem settleSoft (h : Keeps s a) : Keeps s a.settleSoft := by
  unfold State.settleSoft
  exact h.softReset.ite h

theorem settle (h : Keeps s a) : Keeps s a.settle := h.agreeVerdict.resumeCommit.goCopies.restoreGo.settleFences.settleSoft

theorem resetComplete (h : Keeps s a) : Keeps s a.resetComplete := by
  unfold State.resetComplete
  exact ite (setReady h.mk) h

/-! Supply, temperature and gating (R374–R381, R420). -/

theorem powerSample (h : Keeps s a) {mv w : Nat} {domains : List (Nat × Nat)} : Keeps s (a.powerSample mv w domains) := by
  unfold State.powerSample
  extract_lets was log avg limit low duty logged read
  have hl : Keeps s logged := h.mk
  have hr : Keeps s read := hl.foldl fun _ _ h => h.wr.ite h
  exact hr.wr.wr.wr.slowCheck

theorem cutTests (h : Keeps s a) {units : Nat → Bool} : Keeps s (a.cutTests units) := h.mk

theorem droop (h : Keeps s a) {d : Nat} : Keeps s (a.droop d) := by
  unfold State.droop
  extract_lets noted cut
  have hn : Keeps s noted := h.ite h.mk
  have hc : Keeps s cut := hn.cutTests
  exact hc.count.report.noteRisk

theorem droopEnd (h : Keeps s a) {d : Nat} : Keeps s (a.droopEnd d) := h.mk

theorem domainsOff (h : Keeps s a) {always : Nat} : Keeps s (a.domainsOff always) := by
  unfold State.domainsOff
  extract_lets off unlocked
  have ho : Keeps s off := h.foldl fun _ _ h => h.setDomain
  have hu : Keeps s unlocked := ho.foldl fun _ _ h => h.wr
  exact hu.mk

theorem brownOut (h : Keeps s a) : Keeps s a.brownOut := h.domainsOff.mk

theorem trip (h : Keeps s a) {source temp : Nat} : Keeps s (a.trip source temp) :=
  h.count.wr.wr.reportThermal.domainsOff.wr.mk

theorem dieTemp (h : Keeps s a) {c temp : Nat} : Keeps s (a.dieTemp c temp) := by
  unfold State.dieTemp
  extract_lets bit v was now read warm throttled changed cut
  have hr : Keeps s read := h.wr.wr
  have hw : Keeps s warm := hr.noteRisk.ite hr
  have ht : Keeps s throttled := hw.wr.reportThermal
  have hc : Keeps s changed := hw.ite (ht.noteRisk.ite ht).slowCheck
  have hk : Keeps s cut := hc.cutTests.ite hc
  exact hk.trip.ite hk

theorem stackReading (h : Keeps s a) {st temp : Nat} : Keeps s (a.stackReading st temp) := by
  unfold State.stackReading
  exact h.stackTemp.trip.ite h.stackTemp

theorem gateQuad (h : Keeps s a) {q : Nat} : Keeps s (a.gateQuad q) := by
  unfold State.gateQuad
  exact h.setDomain.ite h

theorem gateStack (h : Keeps s a) {st : Nat} : Keeps s (a.gateStack st) := by
  unfold State.gateStack
  exact h.setDomain.ite h

theorem wakeDone (h : Keeps s a) {d : Nat} : Keeps s (a.wakeDone d) := by
  unfold State.wakeDone
  exact h.domainOn.ite h

/-! Join and leave (R248, R249). -/

theorem joinGroup (h : Keeps s a) : Keeps s a.joinGroup := by
  unfold State.joinGroup
  have hm : Keeps s { a with mgrMissed := 0, mgrHeard := false, heard := [] } := h.mk
  exact h.ite hm.wr.sendJoin

theorem leaveGroup (h : Keeps s a) : Keeps s a.leaveGroup := by
  unfold State.leaveGroup
  extract_lets told
  have ht : Keeps s told := h.sendGroup.ite h
  exact ht.wr.setSrcState.retain.wr

theorem groupJoin (h : Keeps s a) {x : Asker} : Keeps s (a.groupJoin x) := by
  unfold State.groupJoin
  exact h.answer.ite (h.answer.ite h.joinGroup.mk)

theorem groupLeave (h : Keeps s a) {x : Asker} : Keeps s (a.groupLeave x) := by
  unfold State.groupLeave
  exact h.count.answer.ite (h.answer.ite (h.answer.ite h.leaveGroup.answer))

theorem joinAnswered (h : Keeps s a) {result : Nat} : Keeps s (a.joinAnswered result) :=
  h.mk.foldl fun _ _ h => h.answer

theorem joinTimeout (h : Keeps s a) : Keeps s a.joinTimeout := h.mk.foldl fun _ _ h => h.answer

theorem roleSet (h : Keeps s a) {x : Asker} {role : Nat} {nodes : List (Reg × Nat)} : Keeps s (a.roleSet x role nodes) := by
  unfold State.roleSet
  exact h.count.answer.ite (h.answer.ite (h.answer.ite (h.wr.foldl fun _ _ h => h.wr).answer))

/-! The management port (R384, R385, R396–R408). -/

theorem command (h : Keeps s a) {m : MgmtHeader} {type : Nat} {body : List Byte} {f : State → State}
    (hf : ∀ x, Keeps s x → Keeps s (f x)) : Keeps s (a.command m type body f) := by
  unfold State.command
  extract_lets taken
  have ht : Keeps s taken := h.wr.count
  exact h.ite (h.count.ite (h.count.reply.ite (ht.reply.ite (hf _ ht))))

theorem summary (h : Keeps s a) : Keeps s a.summary := h.report

theorem resend (h : Keeps s a) : Keeps s a.resend := h.foldl fun _ _ h => h.sendDatagram

theorem ack (h : Keeps s a) {seq : Nat} : Keeps s (a.ack seq) := by
  unfold State.ack
  split
  · exact h.mk
  · exact h

theorem putImage (h : Keeps s a) {area : Nat} {i : FwImage} : Keeps s (a.putImage area i) := h.mk.ite h.mk

theorem firmwareStage (h : Keeps s a) {pid tag src bytes : Nat} : Keeps s (a.firmwareStage pid tag src bytes) := by
  unfold State.firmwareStage
  extract_lets m read
  have hr : Keeps s read := h.readTraffic
  exact h.endPacket.ite (h.endPacket.ite (h.endBad.ite (hr.putImage.wr.endPacket.ite hr.endPacket)))

theorem recover (h : Keeps s a) {seq offset : Nat} {data : List Byte} : Keeps s (a.recover seq offset data) := by
  unfold State.recover
  extract_lets m
  have hp : Keeps s { a.putImage 0 (imageOf m) with active := 0 } := h.putImage.mk
  have hw : Keeps s { a with recovery := a.recovery.write offset data } := h.mk
  exact h.reply.ite ((hp.wr.reply.ite h.count.reply).ite (h.reply.ite hw.reply))

theorem statusQuery (h : Keeps s a) {seq : Nat} : Keeps s (a.statusQuery seq) := h.reply.summary

theorem mgmtResetCommand (h : Keeps s a) {seq : Nat} {r : BootReport} : Keeps s (a.mgmtResetCommand seq r) := by
  unfold State.mgmtResetCommand
  exact h.reply.ite h.reply.mgmtReset

theorem mapoutCommand (h : Keeps s a) {seq x : Nat} : Keeps s (a.mapoutCommand seq x) := by
  unfold State.mapoutCommand
  exact h.reply.ite h.makePending.reply

theorem mapoutClear (h : Keeps s a) {seq x : Nat} : Keeps s (a.mapoutClear seq x) := by
  unfold State.mapoutClear
  have hm : Keeps s { a with flashMap := a.flashMap.filter (fun y => y != x) } := h.mk
  exact hm.reply.ite h.reply

theorem svnRaise (h : Keeps s a) {seq svn : Nat} : Keeps s (a.svnRaise seq svn) := by
  unfold State.svnRaise
  extract_lets now raised
  have hr : Keeps s raised := h.ite h.wr.attest
  exact h.reply.ite hr.reply

theorem keySet (h : Keeps s a) {seq : Nat} {key : List Byte} : Keeps s (a.keySet seq key) := attest h.reply.mk

theorem groupCommand (h : Keeps s a) {seq action : Nat} : Keeps s (a.groupCommand seq action) := by
  unfold State.groupCommand
  exact h.groupJoin.ite (h.groupLeave.ite h.reply)

theorem solicited (h : Keeps s a) {target source : Nat} : Keeps s (a.solicited target source) := by
  unfold State.solicited
  exact h.emit.ite h

theorem echoed (h : Keeps s a) {dest source : Nat} {data : List Byte} : Keeps s (a.echoed dest source data) := by
  unfold State.echoed
  exact h.emit.ite h

theorem mcRequest (h : Keeps s a) {q : McRequest} : Keeps s (a.mcRequest q) := by
  unfold State.mcRequest
  extract_lets answered
  have ha : Keeps s answered := h.emit
  split
  · exact ha.mk
  · exact ha

theorem attestTo (h : Keeps s a) {pid tag : Nat} {nonce : List Byte} {dest : Nat} :
    Keeps s (a.attestTo pid tag nonce dest) := by
  unfold State.attestTo
  exact h.endPacket.ite (h.endPacket.ite (h.endPacket.ite (h.writeMem.endPacket.ite h.writeMem.spoil.endPacket)))

theorem measurementLog (h : Keeps s a) {pid tag dest bytes : Nat} : Keeps s (a.measurementLog pid tag dest bytes) := by
  unfold State.measurementLog
  exact h.endPacket.ite (h.endPacket.ite (h.writeMem.endPacket.ite h.writeMem.spoil.endPacket))

end Keeps

end Sys2Proof.Machine
end

section
/-! PROOFS. What the host interface keeps (R13, R141–R146, R230, R325–R346, R429). -/

namespace Sys2Proof.Machine

set_option Elab.async false

variable {s a t : State}

namespace Keeps

/-! BAR0 writes that act (R90, R141–R146, R173, R180, R331–R346, R408). -/

theorem ringReset (h : Keeps s a) {r : Nat} : Keeps s (a.ringReset r) := by
  unfold State.ringReset
  extract_lets stopped
  have hs : Keeps s stopped := h.wr.wr
  have hf : Keeps s { stopped with flight := stopped.flight.map fun p =>
      if p.ring = r ∧ p.isWaiting then { p with phase := .ended .skipped 0 false } else p } :=
    hs.withFlight (pids_map _ fun p => by split <;> rfl)
  exact h.ite hf.mk

theorem ringDrained (h : Keeps s a) {r : Nat} : Keeps s (a.ringDrained r) := by
  unfold State.ringDrained
  extract_lets aborted tail
  have ha : Keeps s aborted := by
    unfold aborted
    split
    · exact h.abortStep.ite h
    · exact h
  exact h.ite ha.wr.wr.wr.wr

theorem tokenAdd (h : Keeps s a) {t n : Nat} : Keeps s (a.tokenAdd t n) := h.raiseToken.setFaulted

theorem deviceEnable (h : Keeps s a) {on : Bool} : Keeps s (a.deviceEnable on) := by
  unfold State.deviceEnable
  exact h.ite h.wr

theorem reefWrite (h : Keeps s a) {on : Bool} {w bits : Nat} : Keeps s (a.reefWrite on w bits) := by
  unfold State.reefWrite
  extract_lets written
  have hw : Keeps s written := h.foldl fun _ _ h => h.setReef
  exact hw.ite hw.applyReef

theorem installDefaults (h : Keeps s a) {num : Nat} : Keeps s (a.installDefaults num) :=
  h.wr.wr.withRegs (sorted_clearFields _ _ _ _)

theorem ignore181 (h : Keeps s a) : Keeps s a.ignore181 := h.count

theorem gsSet (h : Keeps s a) {v : Nat} : Keeps s (a.gsSet v) := by
  unfold State.gsSet
  exact h.ignore181.ite (h.wr.wr.ite (h.writeLive.wr.wr.ite h.writeLive.ignore181))

theorem baselineSet (h : Keeps s a) {i v : Nat} : Keeps s (a.baselineSet i v) := by
  unfold State.baselineSet
  exact h.ignore181.ite (h.wr.wr.ite (h.writeLive.ite h.writeLive.ignore181))

theorem historySet (h : Keeps s a) {r : Reg} {e v : Nat} : Keeps s (a.historySet r e v) := by
  unfold State.historySet
  exact (h.ite h.ignore181).ite (h.wr.ite (h.writeLive.keepScale.wr.ite h.writeLive.ignore181))

theorem stateBaseSet (h : Keeps s a) {v : Nat} : Keeps s (a.stateBaseSet v) := by
  unfold State.stateBaseSet
  extract_lets was bad fresh via read gs w
  have hr : Keeps s read := h.readsTraffic
  clear_value read
  have hw : Keeps s w.1 := hr.writeMem
  clear_value w
  refine ite (ite h h.ignore181) (ite h.wr (ite h.ignore181 (ite h.noteBads.ignore181 (ite (ite ?_ hw.ignore181) ?_))))
  · exact hw.wr.freshScales.loadLive
  · exact (hr.ite hr.wr.freshScales).loadLive

theorem clearBroken (h : Keeps s a) : Keeps s a.clearBroken := h.wr.ite h.wr.loadLive

theorem captureClear (h : Keeps s a) {i j f : Nat} : Keeps s (a.captureClear i j f) := h.foldl fun _ _ h => h.wr

theorem lastFaultClear (h : Keeps s a) {i j : Nat} : Keeps s (a.lastFaultClear i j) := h.wr.wr.wr

theorem ringConfig (h : Keeps s a) {s0 : State} {r : Reg} {k v : Nat} : Keeps s (s0.ringConfig a r k v) := by
  unfold State.ringConfig
  exact h.ite (h.count.ite (h.ite (h.count.ite h.wr.wr.wr.wr)))

theorem statusConfig (h : Keeps s a) {s0 : State} {r : Reg} {k v : Nat} : Keeps s (s0.statusConfig a r k v) := by
  unfold State.statusConfig
  exact h.ite (h.count.ite (h.ite (h.count.ite h.wr.wr.wr.flushStops)))

theorem keyWrite (h : Keeps s a) {v : Nat} : Keeps s (a.keyWrite v) := by
  unfold State.keyWrite
  have hk : Keeps s { a with key := leBytes 32 v } := h.mk
  exact hk.wr.ite h

/-! BAR0 and BAR2 writes (R13, R230, R327, R328, R429). -/

theorem holdWords (h : Keeps s a) {r : Reg} {idx : List Nat} {off len val : Nat} : Keeps s (a.holdWords r idx off len val) := by
  unfold State.holdWords
  exact h.ite h.mk

theorem dropHeld (h : Keeps s a) {r : Reg} {idx : List Nat} : Keeps s (a.dropHeld r idx) := h.ite h.mk

theorem plainWrite (h : Keeps s a) {r : Reg} {idx : List Nat} {v : Nat} : Keeps s (a.plainWrite r idx v) :=
  (h.ignore181.ite h).ite h.wr.dropHeld

theorem fieldWrite (h : Keeps s a) {s0 : State} {r : Reg} {idx : List Nat} {v : Nat} :
    Keeps s (s0.fieldWrite a r idx v) := by
  unfold State.fieldWrite
  extract_lets k
  split
  · exact h
  · exact h
  · exact h.ite (h.captureClear.ite (h.lastFaultClear.ite h.wr))
  · exact h.keyWrite.ite (h.gsSet.ite (h.baselineSet.ite (h.reefWrite.ite (h.reefWrite.ite ((h.makePending.ite h).ite
      (h.ite (h.installDefaults.ite (h.clearBroken.ite (h.lostClear.ite (h.ringReset.ite (h.counterClear.ite h)))))))))))
  · have hp {r : Reg} {idx : List Nat} {v : Nat} : Keeps s (a.plainWrite r idx v) := h.plainWrite
    refine h.deviceEnable.ite (ite (h.wr.dropHeld.ite h) (h.ringConfig.dropHeld.ite (h.statusConfig.dropHeld.ite
      (hp.wr.ite (hp.flushStops.ite ((h.ignore181.ite h.stateBaseSet.dropHeld).ite ((h.ite h.ignore181).ite
      ((h.ignore181.ite h.historySet).ite (ite (h.ignore181.ite hp) ((h.ite h.count).ite (ite ?_
      ((h.enablePort.ite h.disablePort).ite ((h.ite hp).ite (ite (h.wr.probeHolder.ite h.wr) (h.bwEnable.ite
      (h.ite (h.freeze.ite hp)))))))))))))))))
    exact h.joinGroup.ite (h.ite (h.count.ite h.leaveGroup))

theorem hostWrite (h : Keeps s a) {off len val : Nat} : Keeps s (a.hostWrite off len val) := by
  unfold State.hostWrite
  extract_lets fs one vals plain
  have ho {x : State} {c w : Nat} (hx : Keeps s x) : Keeps s (one x c w) := hx.wr.wr.ite hx
  have hp : Keeps s plain := h.foldl fun _ _ h => by
    split
    · exact h.holdWords
    · exact h.ite h.fieldWrite
  refine (h.tokenAdd.ite h).ite ?_
  split
  · extract_lets g selected first
    have hs : Keeps s selected := h.selectWrite
    have hf : Keeps s first := ho h
    exact ite (hs.counterClear.ite hs) (ite (ho hf) hf)
  · exact hp.foldl fun _ _ h => by
      split
      · exact h.fieldWrite.ite h
      · exact h

theorem bar0Write (h : Keeps s a) {off len val : Nat} : Keeps s (a.bar0Write off len val) := by
  unfold State.bar0Write
  exact h.ite (h.holdWrite.ite h.tlpIn.hostWrite)

theorem fieldTake (h : Keeps s a) {r : Reg} {idx : List Nat} {v : Nat} : Keeps s (a.fieldTake r idx v) := h.tlpIn.fieldWrite

theorem hostField (h : Keeps s a) {r : Reg} {idx : List Nat} {v : Nat} : Keeps s (a.hostField r idx v) := by
  unfold State.hostField
  exact h.ite (h.holdWrite.ite h.fieldTake)

theorem bar2Take (h : Keeps s a) {x : Nat} {data : List Byte} : Keeps s (a.bar2Take x data) := by
  unfold State.bar2Take
  exact h.ite h.writeMem

theorem takeWrite (h : Keeps s a) {w : HeldWrite} : Keeps s (a.takeWrite w) := by
  unfold State.takeWrite
  split
  · exact h.bar0Write
  · exact h.holdWrite.ite h.bar2Take
  · exact h.writeArea
  · refine h.holdWrite.ite ?_
    split
    · exact h.fieldTake
    · exact h

theorem takeWrites (h : Keeps s a) : Keeps s a.takeWrites := h.mk.foldl fun _ _ h => h.takeWrite

/-! BAR2 reads, and what waited (R230, R233, R328). -/

theorem bar2Data (h : Keeps s a) {x n : Nat} : Keeps s (a.bar2Data x n) := by
  unfold State.bar2Data
  extract_lets bad read
  have hr : Keeps s read := h.readTraffic
  exact hr.tlpOut.emit.ite hr.noteBads.log.emit

theorem bar2Read (h : Keeps s a) {o n : Nat} : Keeps s (a.bar2Read o n) := by
  unfold State.bar2Read
  extract_lets x counted f
  have hc : Keeps s counted := h.countEvent
  clear_value counted
  have hn : Keeps s { counted with nextId := counted.nextId + 1 } := hc.withNextId (Nat.le_succ _)
  exact ite hc.log.emit (ite hc.freeVal.emit (ite hn.mk hc.bar2Data))

theorem bar2Write (h : Keeps s a) {o : Nat} {data : List Byte} : Keeps s (a.bar2Write o data) := by
  unfold State.bar2Write
  extract_lets x arrived counted
  have ha : Keeps s arrived := h.countEvent.tlpIn
  have hc : Keeps s counted := ha.ite ha.countEvent
  exact hc.log.ite hc.takeWrite

theorem holdExpiry (h : Keeps s a) {id : Nat} : Keeps s (a.holdExpiry id) := by
  unfold State.holdExpiry
  split
  · exact h
  · extract_lets st removed
    have hr : Keeps s removed := h.mk
    exact h.ite hr.log.emit

theorem releaseHeld (h : Keeps s a) : Keeps s a.releaseHeld := h.takeWrites.foldl fun t r h => by
  have hr : Keeps s { t with heldReads := t.heldReads.erase r } := h.mk
  exact h.ite hr.bar2Data

theorem thaw (h : Keeps s a) {was : State} : Keeps s (a.thaw was) := by
  unfold State.thaw
  exact h.releaseHeld.ite h

/-! Configuration space and the link (R325, R326, R388, R390, R421, R422). -/

theorem configure (h : Keeps s a) {q : ConfigReq} : Keeps s (a.configure q) := by
  unfold State.configure
  extract_lets ok
  have hk {c : ConfigSpace} : Keeps s (ok c) := h.mk
  split
  case h_15 => exact hk.ite h
  case h_16 => exact hk
  case h_17 => exact hk.ite h
  case h_18 => exact hk.ite h
  case h_19 => exact hk.ite h
  case h_20 => exact hk
  all_goals exact h.emit

theorem linkUp (h : Keeps s a) : Keeps s a.linkUp := by
  unfold State.linkUp
  extract_lets held v w trained src up
  have ht : Keeps s trained := h.freeVal.freeVal
  have hu : Keeps s up := ht.mk
  exact h.mk.ite (hu.foldl fun _ _ h => h.emitHost).setReady

theorem refclkLost (h : Keeps s a) : Keeps s a.refclkLost := h.mk

theorem startupTimeout (h : Keeps s a) : Keeps s a.startupTimeout := by
  unfold State.startupTimeout
  exact h.bootFail.ite h

end Keeps

end Sys2Proof.Machine
end

section
/-! PROOFS. What packets, steps and a tick keep (R8, R21–R24, R148–R168, R199–R209, R231–R234, R255–R272, R330–R351). -/

namespace Sys2Proof.Machine

set_option Elab.async false

variable {s a t : State}

namespace Keeps

/-! What packets do (R21–R24, R149–R168, R199–R209, R255–R272, R330–R351, R370). -/

theorem endWritten {x : State × List Nat} (h : Keeps s x.1) {pid detail : Nat} : Keeps s (State.endWritten x pid detail) := by
  unfold State.endWritten
  exact h.endPacket.ite h.spoilDest.endPacket

theorem askHost (h : Keeps s a) {x n : Nat} {what : ReadFor} : Keeps s (a.askHost x n what) := by
  unfold State.askHost
  extract_lets read asked
  have hn : Keeps s { a with nextId := a.nextId + 1 } := h.withNextId (Nat.le_succ _)
  have ha : Keeps s asked := hn.mk
  exact ha.emitHost

theorem copyWrite (h : Keeps s a) {p : Packet} {dst : Nat} {toHost : Bool} {data : List Byte} :
    Keeps s (a.copyWrite p dst toHost data) := by
  unfold State.copyWrite
  exact h.emitHost.endPacket.ite h.writeMem.endWritten

theorem copyRun (h : Keeps s a) {p : Packet} {dst src bytes flags : Nat} : Keeps s (a.copyRun p dst src bytes flags) := by
  unfold State.copyRun
  extract_lets fromHost toHost own bad data read
  have hr : Keeps s read := h.readTraffic
  refine h.endPacket.ite (h.endPacket.ite ?_)
  split
  · exact h.endPacket
  · exact h.askHost.ite (hr.spoilDest.endBad.ite hr.copyWrite)

theorem fillRun (h : Keeps s a) {p : Packet} {dst bytes pattern : Nat} : Keeps s (a.fillRun p dst bytes pattern) := by
  unfold State.fillRun
  refine h.endPacket.ite ?_
  split
  · exact h.endPacket
  · exact h.writeMem.endWritten

theorem countDigest (h : Keeps s a) {st x n : Nat} : Keeps s (a.countDigest st x n) :=
  h.bump.readTraffic.countEvent.ite h.bump.readTraffic.countEvent

theorem digestRun (h : Keeps s a) {p : Packet} {start bytes dest : Nat} : Keeps s (a.digestRun p start bytes dest) := by
  unfold State.digestRun
  split
  · exact h.endPacket
  · refine h.endPacket.ite ?_
    split
    · exact h.endPacket
    · exact h.wake.ite ((h.ite h.engineFault).spoilDest.endBad.ite h.countDigest.sampleOnce.writeMem.endWritten)

theorem settleDigests (h : Keeps s a) : Keeps s a.settleDigests :=
  h.foldl fun _ _ h => by
    split
    · exact h.digestRun
    · exact h

theorem snapshotRun (h : Keeps s a) {p : Packet} {dest : Nat} : Keeps s (a.snapshotRun p dest) := by
  unfold State.snapshotRun
  refine h.endPacket.ite ?_
  split
  · exact h.endPacket
  · exact h.writeMem.endWritten

theorem loadGroups (h : Keeps s a) {p : Packet} : Keeps s (a.loadGroups p) := by
  unfold State.loadGroups
  extract_lets base hyper gs rs bad read table loaded
  have hr : Keeps s read := h.readsTraffic
  have hl : Keeps s loaded := hr.mk
  refine h.endPacket.ite (h.endPacket.ite (h.endPacket.ite (h.endBad.ite ?_)))
  split
  · exact hr.endPacket
  · exact hl.wr.computeImage.endPacket

theorem bindVariant (h : Keeps s a) {p : Packet} {v : Nat} : Keeps s (a.bindVariant p v) := by
  unfold State.bindVariant
  refine h.endPacket.ite ?_
  split
  · exact h.endPacket.ite h.wr.endPacket
  · split
    · exact h
    · extract_lets addr
      split
      · exact h.endPacket.ite h.endBad
      · extract_lets read bound
        have hr : Keeps s read := h.readsTraffic
        have hb : Keeps s bound := hr.wr.wr.wr
        exact endPacket hb.mk

theorem releaseVariant (h : Keeps s a) {pid k : Nat} : Keeps s (a.releaseVariant pid k) := by
  unfold State.releaseVariant
  exact h.endPacket.ite h.wr.endPacket

theorem freeSlot (h : Keeps s a) {k : Nat} : Keeps s (a.freeSlot k) := by
  unfold State.freeSlot
  extract_lets src freed
  have hs : Keeps s src := h.wr.wr
  have hf : Keeps s freed := hs.mk
  refine ite (hf.foldl fun _ _ h => ?_) h
  split
  · exact h.bindVariant
  · exact h

/-! Collective launches (R255–R272, R275). -/

theorem takeHeld (h : Keeps s a) {m : HeldMsg} : Keeps s (a.takeHeld m) := by
  unfold State.takeHeld
  split
  · split
    · exact h.takeLaunch
    · exact h.takeAbort
    · exact h.setColl
  · exact h

theorem settleStreams (h : Keeps s a) : Keeps s a.settleStreams :=
  h.foldl fun _ _ h => by
    split
    · exact h.failCompute
    · exact h

theorem beginColl (h : Keeps s a) {c : CollSt} : Keeps s (a.beginColl c) := by
  unfold State.beginColl
  extract_lets entered launched mine held
  have he : Keeps s entered := groupEvent h.mk
  have hl : Keeps s launched := (he.foldl fun _ _ h => h.sendColl).slowCheck
  have hh : Keeps s held := hl.mk.foldl fun _ _ h => h.takeHeld
  split
  · exact hh.advance
  · exact hh

theorem collLaunch (h : Keeps s a) {p : Packet} : Keeps s (a.collLaunch p) := by
  unfold State.collLaunch
  extract_lets key
  split
  · exact h.setColl
  · exact endPacket h.mk
  · split
    · exact h.endPacket
    · refine h.ite ?_
      split
      · exact h.endPacket
      · exact h.beginColl

theorem settleLaunches (h : Keeps s a) : Keeps s a.settleLaunches :=
  h.foldl fun _ _ h => by
    split
    · exact h.ite h.collLaunch
    · exact h

theorem productRun (h : Keeps s a) {p : Packet} : Keeps s (a.productRun p) := by
  unfold State.productRun
  split
  · exact h.startCompute
  · extract_lets pairs started
    have hs : Keeps s started := h.startCompute
    split
    · exact h.endPacket
    · exact h.endPacket.ite (hs.ite hs.beginColl.settleStreams.settleLaunches)

theorem abortStream (h : Keeps s a) {p : Packet} : Keeps s (a.abortStream p) := by
  unfold State.abortStream
  split
  · exact h.ite h.failCheck
  · exact h

/-! Steps, and the start of a packet (R148–R152, R223, R320, R342–R344, R351). -/

theorem stepBegin (h : Keeps s a) {p : Packet} {step expect : Nat} {group setStep : Bool} :
    Keeps s (a.stepBegin p step expect group setStep) := by
  unfold State.stepBegin
  split
  · exact h.endPacket.ite h.endBad
  · extract_lets opened read current
    have hr : Keeps s read := h.readsTraffic
    have ho : Keeps s { read with step := some opened } := hr.mk
    have hc : Keeps s current := ho.wr
    exact hc.startAttempt.endPacket

theorem stepEndFetched (h : Keeps s a) {pid : Nat} : Keeps s (a.stepEndFetched pid) := by
  unfold State.stepEndFetched
  split
  · split
    · refine h.ite (ite ?_ h.endPacket)
      extract_lets closing
      have hc : Keeps s closing := h.updPacket fun _ => rfl
      exact wr hc.mk
    · exact h
  · split
    · exact h.endPacket
    · exact h
  · exact h

theorem settleHolds (h : Keeps s a) : Keeps s a.settleHolds :=
  h.foldl fun _ _ h => by
    split
    · exact h
    · refine h.ite ?_
      split
      · split
        · exact h.releaseFetch.endPacket
        · exact h.rebuild.areaRebuilt.computeImage.releaseFetch.endPacket
      · exact h.ite h.restoreBegin
      · exact h

theorem holdFetch (h : Keeps s a) {pid : Nat} : Keeps s { a with fetchHold := a.fetchHold ++ [pid] } := h.mk

theorem runOp (h : Keeps s a) {p : Packet} : Keeps s (a.runOp p) := by
  unfold State.runOp
  extract_lets pid
  split
  · exact h.endPacket
  · exact h.endPacket.ite h.hostWrite.thaw.endPacket
  · exact h.endPacket.ite h.ringReset.endPacket
  · exact h.ite h.softReset
  · exact h.copyRun
  · exact h.fillRun
  · split
    · exact h.endPacket
    · exact h.holdFetch.settleHolds
  · exact h.partition
  · exact h.releasePartition
  · exact h.digestRun
  · exact h.productRun
  · exact h.startCompute
  · exact h.startCompute
  · exact h.startCompute
  · exact h.startCompute
  · exact h.startCompute
  · exact h.startCompute
  · exact h.loadGroups
  · exact h.bindVariant
  · exact h.releaseVariant
  · exact h.collLaunch
  · exact h.roleSet
  · exact h.groupJoin
  · exact h.groupLeave
  · exact h.stepBegin
  · exact h
  · exact h.betweenJob
  · exact h.unitTest
  · exact h.unitFence
  · exact h.unitUnfence
  · exact h.shroudCopy
  · exact h.endPacket.ite h.holdFetch.settleHolds
  · exact h.endPacket.ite h.shroudRelease
  · exact h.snapshotRun
  · exact h.endPacket.ite h.sampleControl.endPacket
  · exact h.attestTo
  · exact h.measurementLog
  · exact h.firmwareStage
  · exact h.endPacket
  · exact h.endPacket

theorem startPacket (h : Keeps s a) {pid : Nat} : Keeps s (a.startPacket pid) := by
  unfold State.startPacket
  split
  · exact h
  · next p _ =>
    extract_lets read
    have hr : Keeps s read := h.readsTraffic.ite h
    refine h.settleHolds.ite (h.endPacket.ite (h.ite (ite (h.updPacket fun _ => rfl) (h.ite ?_))))
    split
    · exact hr.noteBads.endPacket
    · exact hr.ite hr.setPacket.runOp

/-! Fetching and host reads (R330–R340). -/

theorem arrive (h : Keeps s a) {hd : PktHdr} {op : Op} : Keeps s (a.arrive hd op) := h.fetchPacket.stepEndFetched

theorem packetIn (h : Keeps s a) {hd : PktHdr} {op : Op} : Keeps s (a.packetIn hd op) := by
  unfold State.packetIn
  exact h.arrive.startPacket.ite h

theorem admitBytes (h : Keeps s a) {r : Nat} {bs : List Byte} : Keeps s (a.admitBytes r bs) := h.arrive

theorem slotFault (h : Keeps s a) {r : Nat} {l : List Nat} (ht : a.slotFault r l = some t) : Keeps s t := by
  induction l with
  | nil => cases ht
  | cons x l ih =>
    rw [State.slotFault] at ht
    split at ht
    · obtain rfl := Option.some.inj ht
      exact h.freeVal.log.stopRing
    · split at ht
      · obtain rfl := Option.some.inj ht
        exact h.stopRing
      · dsimp only at ht
        split at ht
        · exact ih ht
        · obtain rfl := Option.some.inj ht
          exact h.noteBads.stopRing

theorem fetchDevice (h : Keeps s a) {r : Nat} : Keeps s (a.fetchDevice r) := by
  unfold State.fetchDevice
  refine h.ite ?_
  split
  · exact h.slotFault ‹_›
  · refine h.stopRing.ite (h.ite (h.ite ?_))
    split
    · exact h.slotFault ‹_›
    · exact h.readsTraffic.admitBytes

theorem readSlot (h : Keeps s a) {r : Nat} : Keeps s (a.readSlot r) := by
  unfold State.readSlot
  exact h.ite h.askHost

theorem fetchRing (h : Keeps s a) {r : Nat} : Keeps s (a.fetchRing r) := by
  unfold State.fetchRing
  exact h.ite (h.fetchDevice.ite h.readSlot)

theorem withFetchBuf (h : Keeps s a) {b : Tab (List Byte)} : Keeps s { a with fetchBuf := b } := h.mk

theorem slotArrived (h : Keeps s a) {r : Nat} {data : List Byte} : Keeps s (a.slotArrived r data) := by
  unfold State.slotArrived
  exact h.withFetchBuf.stopRing.ite (h.withFetchBuf.readSlot.ite h.withFetchBuf.admitBytes)

theorem readFailed (h : Keeps s a) {x : HostRead} {cause : Nat} : Keeps s (a.readFailed x cause) := by
  unfold State.readFailed
  extract_lets failed
  have hf : Keeps s failed := count h.mk
  split
  · exact hf.withFetchBuf.stopRing
  · exact hf.spoilDest.endPacket

theorem readDone (h : Keeps s a) {x : HostRead} {data : List Byte} : Keeps s (a.readDone x data) := by
  unfold State.readDone
  extract_lets read
  have hr : Keeps s read := tlpIn h.mk
  split
  · exact hr.slotArrived
  · split
    · split
      · exact hr.copyWrite
      · exact hr
    · exact hr

theorem completion (h : Keeps s a) {rid status : Nat} {data : List Byte} : Keeps s (a.completion rid status data) := by
  unfold State.completion
  split
  · exact h
  · exact h.ite (h.readDone.ite (h.readFailed.ite h))

theorem readTimeout (h : Keeps s a) {rid : Nat} : Keeps s (a.readTimeout rid) := by
  unfold State.readTimeout
  split
  · exact h
  · exact h.readFailed

/-! The end of a packet (R24, R89, R138, R155–R164, R347). -/

theorem updStep (h : Keeps s a) {f : StepSt → StepSt} : Keeps s (a.updStep f) := h.mk

theorem haltAttempt (h : Keeps s a) : Keeps s a.haltAttempt := by
  unfold State.haltAttempt
  extract_lets halted skip skipped
  have hh : Keeps s halted := h.updStep.wr
  have hs : Keeps s skipped := hh.withFlight (pids_map _ fun p => by unfold skip; split <;> rfl)
  exact hs.foldl fun _ _ h => h.failCompute

theorem onJump (h : Keeps s a) {t : StepSt} {policy tag : Nat} {amax : F32} :
    Keeps s (a.onJump t policy tag amax).1 := by
  unfold State.onJump
  split
  · split
    · exact h.raise
    · split
      · exact h.raise
      · exact h.updStep
  · exact h.raise
  · exact h.raise
  · exact h.raise.haltAttempt
  · exact h

theorem ite_snd {α : Type} {c : Prop} [Decidable c] {x y : α × State} (hx : Keeps s x.2) (hy : Keeps s y.2) :
    Keeps s (if c then x else y).2 := by
  split
  · exact hx
  · exact hy

theorem judgeFeed (h : Keeps s a) {t : StepSt} {redone : Bool} {r : WriteReport} :
    Keeps s (a.judgeFeed t redone r).1 := by
  unfold State.judgeFeed
  extract_lets i counted more k kept f n c b jump e noted
  have hc : Keeps s counted := h.countEvent
  clear_value counted
  have hk : Keeps s kept := ite_snd hc.wr.freeVal hc
  clear_value kept
  have hn : Keeps s noted := hk.wr.wr.updStep
  split
  · exact h
  · split
    · exact hk
    · split
      · exact hn.onJump
      · exact hn

theorem noteEnd (h : Keeps s a) {p : Packet} {st : Status} : Keeps s (a.noteEnd p st) := by
  unfold State.noteEnd
  split
  · exact h
  · refine h.ite ?_
    extract_lets isProduct faulted raised e noted o
    have hf : Keeps s faulted := h.raise.updStep.ite h
    have hr : Keeps s raised := hf.raise
    have hn : Keeps s noted := hr.updStep.ite hr
    split
    · exact hn
    · extract_lets spilled
      have ho : Keeps s spilled := hn.updStep.ite hn
      split
      · exact ho.updStep
      · exact ho

theorem redo (h : Keeps s a) {p : Packet} : Keeps s (a.redo p) := startCompute (setPacket h.mk)

theorem afterPacket (h : Keeps s a) {p : Packet} : Keeps s (a.afterPacket p) := by
  unfold State.afterPacket
  refine h.ite ?_
  extract_lets fault gone
  have hg : Keeps s gone := by
    unfold gone
    split
    · exact h.failCheck.ite h.advance
    · exact h.abortStream.ite h
  exact hg.settleLaunches.settleHolds.settleSoft

theorem raceWrites (h : Keeps s a) {p : Packet} : Keeps s (a.raceWrites p) := by
  unfold State.raceWrites
  split
  · refine ite (h.spoils.withFlight (pids_map _ fun q => ?_)) h
    unfold State.takesDown
    split
    · rfl
    · split <;> rfl
  · exact h

theorem packetEnd (h : Keeps s a) {pid : Nat} : Keeps s (a.packetEnd pid) := by
  unfold State.packetEnd
  split
  · exact h
  · split
    · refine h.ite ?_
      extract_lets j noted dropped begins away headed
      have hj : Keeps s j.1 := by
        unfold j
        split
        · split
          · exact h.judgeFeed
          · exact h
        · exact h
      have hn : Keeps s noted := hj.noteEnd
      have hd : Keeps s dropped := hn.mk
      have hh : Keeps s headed := hd.wr.ite hd
      exact ite hj.countEvent.redo (hh.ite hh.raceWrites).finishPacket.afterPacket
    · exact h

theorem recordDeferred (h : Keeps s a) {pid : Nat} : Keeps s (a.recordDeferred pid) := by
  unfold State.recordDeferred
  split
  · exact h.raceWrites.finishLate.afterPacket.ite h
  · exact h

/-! The close and the commit phase (R152, R168, R192, R199, R208, R283). -/

theorem stepClose (h : Keeps s a) : Keeps s a.stepClose := by
  unfold State.stepClose
  exact h.closeAttempt.settle.ite h

theorem rewriteDone (h : Keeps s a) : Keeps s a.rewriteDone := by
  unfold State.rewriteDone
  extract_lets shards r failed src written due
  have hs : Keeps s src := h.rewriteAll.spoilWorks
  have hw : Keeps s written := hs.mk
  have hd : Keeps s due := by
    unfold due
    split
    · exact hw
    · exact hw.updStep.raise.ite hw.mk
  exact h.ite hd.settle

theorem digestGroup (h : Keeps s a) {g : ParamGroup} : Keeps s (a.digestGroup g).1 := by
  unfold State.digestGroup
  extract_lets rs
  split
  · exact h.noteBads
  · exact h.foldl fun _ _ h => h.countDigest

theorem writeCounts (h : Keeps s a) {g : ParamGroup} {count : Nat} : Keeps s (a.writeCounts g count).1 := by
  unfold State.writeCounts
  exact foldl_fst h fun _ _ h => h.writeMem

theorem groupDone (h : Keeps s a) : Keeps s a.groupDone := by
  unfold State.groupDone
  split
  · split
    · next t c _ _ n rest g _ _ =>
      refine h.ite ?_
      extract_lets r done
      have hr : Keeps s r.1 := h.writeCounts
      have hd : Keeps s done := by
        unfold done
        refine ite hr.commitStop ?_
        have hw := State.writeWorks_does r.1 g (a.stepField true) true g.shards hr
        split
        · next he => exact commitStop (hw.2 _ he)
        · next w he =>
          extract_lets sent d e written
          have hs : Keeps s sent := sendGroupBolts (hw.1 _ he)
          have hg : Keeps s d.1 := by
            unfold d
            split
            · exact hs.digestGroup
            · exact hs
          have hn : Keeps s written := hg.updStep.wr
          exact startGroups hn.mk
      exact hd.settle
    · exact h
  · exact h

theorem updateBatch (h : Keeps s a) {sh n : Nat} {check : Check} : Keeps s (a.updateBatch sh n check) := by
  unfold State.updateBatch
  split
  · exact h
  · split
    · exact h
    · refine h.ite ?_
      split
      · exact h.writeBatch.settle
      · extract_lets u counted
        have hc : Keeps s counted := h.checkEvent
        exact addRetry hc.mk

theorem majorityDone (h : Keeps s a) {id : Nat} {e0e2 e1e2 : Bool} {c1 c2 : Check} :
    Keeps s (a.majorityDone id e0e2 e1e2 c1 c2) := h.majority.settle

/-! A tick (R8, R231–R234, R360, R362). -/

theorem arbStep (h : Keeps s a) {x : Nat} : Keeps s (State.arbStep x a) := by
  unfold State.arbStep
  extract_lets was r u reqs now src turned
  have hu : Keeps s u.2 := h.freeVal.freeVal
  have hs : Keeps s src := hu
  have ht : Keeps s turned := hs.mk
  exact ht.stackEvent.ite ht

theorem arbTick (h : Keeps s a) : Keeps s a.arbTick := h.foldl fun _ _ h => h.foldl fun _ _ h => h.arbStep

theorem tickCounter (h : Keeps s a) {c i : Nat} : Keeps s (a.tickCounter c i) := by
  unfold State.tickCounter
  refine ite ?_ h
  split
  · exact h.ite h.bump
  · exact h.freeVal.bump

theorem tickCluster (h : Keeps s a) {k : Nat} : Keeps s (a.tickCluster k) := by
  unfold State.tickCluster
  extract_lets powered tested timed
  have hp : Keeps s powered := h.countCluster
  have ht : Keeps s tested := hp.countCluster.ite hp
  have hm : Keeps s timed := ht.foldl fun _ _ h => h.freeVal.countCluster
  exact ite (hm.foldl fun _ _ h => h.freeVal.countCluster) ht.countCluster

theorem tickCounts (h : Keeps s a) : Keeps s a.tickCounts := by
  unfold State.tickCounts
  extract_lets clusters
  have hc : Keeps s clusters := h.foldl fun _ _ h => h.foldl fun _ _ h => h.tickCluster
  exact hc.foldl fun _ _ h => h.foldl fun _ _ h => h.tickCounter

theorem tick (h : Keeps s a) : Keeps s a.tick := by
  unfold State.tick
  extract_lets counted
  have hc : Keeps s counted := critTick h.mk
  exact h.ite (ite (hc.arbTick.foldl fun _ _ h => h.idleFlit).tickCounts hc)

end Keeps

end Sys2Proof.Machine
end

section
/-! PROOFS. Every command and every step keeps the queue and the invariant (R214, R336, R347). -/

namespace Sys2Proof.Machine

set_option Elab.async false

variable {s a t : State}

namespace Keeps

/-! What every event may let go on, and the cell that brought a message. -/

theorem after (h : Keeps s a) : Keeps s a.after := h.settleStreams.settleLaunches.settleDigests.settle

theorem consume (h : Keeps s a) {kind src msg : Nat} : Keeps s (a.consume kind src msg) := by
  unfold State.consume
  split
  · exact h.mk
  · exact h

/-! Links (R237–R246). -/

theorem trained (h : Keeps s a) {p : Nat} : Keeps s (a.trained p) := by
  unfold State.trained
  exact h.wr.sendFlit.ite h

theorem badUnit (h : Keeps s a) {stream : Nat} : Keeps s (a.badUnit stream) := by
  unfold State.badUnit
  split
  · exact h.failCheck
  · exact h

theorem routeCell (h : Keeps s a) {p vc : Nat} {bytes : List Byte} : Keeps s (a.routeCell p vc bytes) := by
  unfold State.routeCell
  extract_lets x dest kind stream body logged c src counted
  have hl : Keeps s logged := h.log.count
  have hp : Keeps s src := h.portEvent
  have hc : Keeps s counted := hp.mk
  exact ite h.count (ite (ite (ite hl.badUnit hl) (ite (ite hc.groupEvent hc) h.count)) (ite h.count h.portEvent.queueCell))

theorem assemble (h : Keeps s a) {p vc fuel : Nat} : Keeps s (State.assemble p vc fuel a) := by
  induction fuel generalizing a with
  | zero => exact h
  | succ n ih =>
    rw [State.assemble]
    exact h.ite (ih h.setPort.routeCell)

theorem takeData (h : Keeps s a) {p seq vc : Nat} {payload : List Byte} : Keeps s (a.takeData p seq vc payload) := by
  unfold State.takeData
  extract_lets q sent part taken event pumped left
  have ht : Keeps s taken := h.setPort.bump
  have he : Keeps s event := ht.portEvent
  have hp : Keeps s pumped := he.countBw.assemble.pump
  have hl : Keeps s left := hp.wr
  exact ite (hl.sendFlit.ite hl) h.sendNak

theorem takeFlit (h : Keeps s a) {p : Nat} {bytes : List Byte} {corrected uncorrectable : Nat} :
    Keeps s (a.takeFlit p bytes corrected uncorrectable) := by
  unfold State.takeFlit
  extract_lets counted x type totals
  have hc : Keeps s counted := h.bump.count.portEvent
  have ht : Keeps s totals := hc.takeTotals
  exact ite hc.count.portEvent.sendNak (hc.ite (ite ht.takeData ht.pump))

theorem slowIfRetraining (h : Keeps s a) {p : Nat} : Keeps s (a.slowIfRetraining p) := h.slowCheck.ite h

/-! Collectives (R265–R278). -/

theorem holdMsg (h : Keeps s a) {x : CollHeader} {body : HeldBody} : Keeps s (a.holdMsg x body) := by
  unfold State.holdMsg
  extract_lets l
  have hl : Keeps s { a with heldMsgs := l.drop (l.length - 1024) } := h.mk
  exact h.ite (h.count.ite hl.count)

theorem takeOrHold (h : Keeps s a) {x : CollHeader} {msg : Nat} {body : HeldBody} {f : State → CollSt → Nat → State}
    (hf : ∀ {b c k}, Keeps s b → Keeps s (f b c k)) : Keeps s (a.takeOrHold x msg body f) := by
  unfold State.takeOrHold
  extract_lets taken
  have ht : Keeps s taken := h.consume
  split
  · split
    · exact (hf ht).after
    · exact ht
  · exact ht.holdMsg

theorem collTimeout (h : Keeps s a) {c : CollSt} : Keeps s (a.collTimeout c) := h.sendAborts.failColl.count

/-! Groups (R154, R248–R254, R306, R322). -/

theorem takeJoin (h : Keeps s a) {src moduleId feed ne : Nat} : Keeps s (a.takeJoin src moduleId feed ne) := by
  unfold State.takeJoin
  extract_lets m r listed joined sent
  have hl : Keeps s listed := h.wr.wr.wr
  have hj : Keeps s joined := hl.mk.ite h
  have hs : Keeps s sent := hj.sendGroup
  exact hs.reportChange.ite hs

theorem memberGone (h : Keeps s a) {m st : Nat} : Keeps s (a.memberGone m st) := by
  unfold State.memberGone
  extract_lets node marked holder source
  have hm : Keeps s marked := h.wr
  have hh : Keeps s holder := hm.holderLost.ite hm
  have hs : Keeps s source := hh.retain.ite hh
  exact hs.reportChange

theorem takeOver (h : Keeps s a) {asTop : Bool} : Keeps s (a.takeOver asTop) := by
  unfold State.takeOver
  extract_lets me old named src top listed told holder source
  have hn : Keeps s named := h.wr.wr.wr
  have hx : Keeps s src := hn.wr
  have ht : Keeps s top := hx.mk.ite hn
  have hl : Keeps s listed := ht.foldl fun b p h => by
    dsimp only
    split
    · have hr : Keeps s (((((b.freeVal 128).2.wr .mbrMstate [p.1 % 128] 2).wr .mbrMrank [p.1 % 128] p.2).wr .mbrFeedId
        [p.1 % 128] ((b.freeVal 128).1 / 2 ^ 64 % 16)).wr .mbrRisk [p.1 % 128] ((b.freeVal 128).1 / 2 ^ 116 % 4)) :=
        h.freeVal.wr.wr.wr.wr
      exact hr.mk
    · exact h
  have hs : Keeps s told := hl.foldl fun _ _ h => h.sendGroup
  have hh : Keeps s holder := hs.holderLost.ite hs
  have hr : Keeps s source := hh.retain.ite hh
  exact hr.setMstate.ite hr.reportChange

theorem takeHeartbeat (h : Keeps s a) {src risk : Nat} {health : List Nat} : Keeps s (a.takeHeartbeat src risk health) := by
  unfold State.takeHeartbeat
  extract_lets taken m seen
  have ht : Keeps s taken := by
    unfold taken
    split
    · exact h.takeOver
    · exact h
  have hs : Keeps s seen := ht.wr.wr
  exact ite (noteGrisk hs.mk) ht

theorem managerInterval (h : Keeps s a) : Keeps s a.managerInterval := by
  unfold State.managerInterval
  extract_lets own heard noted told
  have hn : Keeps s noted := h.wr.noteGrisk
  have ht : Keeps s told := (hn.foldl fun _ _ h => h.sendGroup).ite hn
  exact h.ite (ht.foldl fun _ _ h => h.ite (ite h.sendGroup (h.sendGroup.count.memberGone.ite h.sendGroup.count)))

theorem heartbeatInterval (h : Keeps s a) : Keeps s a.heartbeatInterval := by
  unfold State.heartbeatInterval
  extract_lets managed t sent
  have hm : Keeps s managed := h.managerInterval
  have ht : Keeps s t.2 := heartbeatTo hm.mk
  have hs : Keeps s sent := hm.ite (ht.ite ht.sendGroup)
  exact h.ite hs.mk

theorem passOn (h : Keeps s a) {src msg epoch : Nat} {content : List Byte} : Keeps s (a.passOn src msg epoch content) := by
  unfold State.passOn
  exact ite (h.foldl fun _ _ h => h.sendGroup) h

theorem partnersGone (h : Keeps s a) : Keeps s a.partnersGone := by
  unfold State.partnersGone
  extract_lets gone t
  have ht : Keeps s t := h.holderLost.ite h
  exact ht.retain.ite ht

theorem groupTable254 (h : Keeps s a) : Keeps s a.groupTable254 := by
  unfold State.groupTable254
  exact h.ite (h.wr.foldl fun _ _ h => h.wr)

theorem sendTable (h : Keeps s a) : Keeps s a.sendTable := by
  unfold State.sendTable
  exact h.ite (h.foldl fun _ _ h => h.foldl fun _ _ h => h.freeVal.sendGroup)

theorem prepareLate (h : Keeps s a) : Keeps s a.prepareLate := by
  unfold State.prepareLate
  split
  · refine ite ?_ h
    extract_lets late ended lost
    have he : Keeps s ended := h.mk
    have hl : Keeps s lost := he.foldl fun b x h => by
      have hh : Keeps s (if b.rd .shrHolderNode [] = x then b.holderLost else b) := h.holderLost.ite h
      exact (hh.retain.ite hh).wr.ite (hh.retain.ite hh)
    exact startEpoch hl.mk
  · exact h

/-! Host accesses, restores, steps and tests (R13, R154, R292, R320, R327, R328). -/

theorem readBar0 (h : Keeps s a) {offset bytes : Nat} : Keeps s (a.readBar0 offset bytes) := by
  unfold State.readBar0
  split
  · exact h.tlpOut.emit
  · exact h.emit

theorem bar2ReadMeets (h : Keeps s a) {offset bytes upset : Nat} : Keeps s (a.bar2ReadMeets offset bytes upset) := by
  unfold State.bar2ReadMeets
  exact h.emit.ite (h.ite (h.upset.ite h).bar2Read)

theorem restorePart (h : Keeps s a) {r : RestoreSt} {signature : Bool} {part : Nat} {content : List Byte} :
    Keeps s (a.restorePart r signature part content) := by
  unfold State.restorePart
  exact restoreGo h.mk

theorem verdictTimedOut (h : Keeps s a) : Keeps s a.verdictTimedOut := by
  unfold State.verdictTimedOut
  split
  · exact ite (settle (applyVerdict h.mk)) h
  · exact h

theorem testFallsDue (h : Keeps s a) {u : Nat} : Keeps s (a.testFallsDue u) := by
  unfold State.testFallsDue
  extract_lets now last mark n x skipped
  have hm {b : State} {k v : Nat} (hb : Keeps s b) : Keeps s (mark k v b) := hb.mk
  have hk : Keeps s skipped := (hm h).count
  exact h.ite (ite (ite (queueTest (hm (hm h))) (ite (queueTest (hm h)) h)) (ite (ite (queueTest (hm h)) h)
    (ite (queueTest hk.mk) h)))

end Keeps

/-- A next state that a command answers keeps the queue and the invariant. -/
def AnswerKeeps (s : State) (r : Answer) : Prop := ∀ t, r = .next t → Keeps s t

namespace AnswerKeeps

theorem next (h : Keeps s t) : AnswerKeeps s (.next t) := fun x hx => by
  obtain rfl : t = x := by injection hx
  exact h

variable {f : State → State}

theorem powered (h : Keeps s (f s)) : AnswerKeeps s (powered s f) := next (h.ite .refl)

theorem managed (h : Keeps s (f s)) : AnswerKeeps s (managed s f) := next (Keeps.ite .refl h)

theorem hosted (h : Keeps s (f s)) : AnswerKeeps s (hosted s f) := next (h.ite .refl)

theorem linkedReq (h : Keeps s (f s)) : AnswerKeeps s (linkedReq s f) := next (h.ite .refl)

theorem mgmtCommand {m : MgmtHeader} {type : Nat} {body : List Byte} (hf : ∀ x, Keeps s x → Keeps s (f x)) :
    AnswerKeeps s (mgmtCommand s m type body f) := managed (Keeps.command .refl hf)

theorem shrouded {x : ShroudHeader} {msg : Nat} (hf : ∀ b, Keeps s b → Keeps s (f b)) :
    AnswerKeeps s (shrouded s x msg f) := powered (Keeps.ite (hf _ (Keeps.consume .refl)).after .refl)

theorem grouped {x : GroupHeader} {msg : Nat} (hf : ∀ b, Keeps s b → Keeps s (f b)) :
    AnswerKeeps s (grouped s x msg f) := by
  have ht : Keeps s ((s.consume 3 x.src msg).termCheck x.src x.term).1 := (Keeps.consume .refl).termCheck
  exact powered (Keeps.ite ((hf _ ht).ite ht) .refl)

theorem collective {x : CollHeader} {msg : Nat} {f : State → CollSt → Nat → State}
    (hf : ∀ b c k, Keeps s b → Keeps s (f b c k)) : AnswerKeeps s (collective s x msg f) := by
  have hc : Keeps s (s.consume 2 x.src msg) := Keeps.consume .refl
  refine powered ?_
  dsimp only
  split
  · exact (hf _ _ _ hc).after
  · exact hc

/-! Commands whose meaning has branches of its own. -/

theorem boltCell {src stream : Nat} {bytes : List Byte} : AnswerKeeps s (execBoltCell src stream bytes s) := by
  have hc : Keeps s (s.consume 1 src 0) := Keeps.consume .refl
  refine powered ?_
  dsimp only
  split
  · exact hc.takeUnit.after
  · exact hc

theorem collectiveData {h : CollHeader} {unit phase half : Nat} {data : List Byte} :
    AnswerKeeps s (execCollectiveData h unit phase half data s) := by
  refine collective fun b c k h => ?_
  dsimp only
  refine h.setColl.ite ?_
  split
  · exact h.takeUnit
  · exact h

theorem collComplete {key : CollKey} : AnswerKeeps s (execCollComplete key s) := by
  refine powered ?_
  split
  · exact Keeps.ite (Keeps.completeColl .refl).after .refl
  · exact .refl

theorem collWatchdogExpiry {key : CollKey} : AnswerKeeps s (execCollWatchdogExpiry key s) := by
  refine powered ?_
  split
  · exact Keeps.ite (Keeps.collTimeout .refl).after .refl
  · exact .refl

theorem epochPrepare {h : GroupHeader} {members fp chunkRule segments : Nat} :
    AnswerKeeps s (execEpochPrepare h members fp chunkRule segments s) := by
  refine grouped fun b hb => ?_
  extract_lets p
  have hp : Keeps s { b with prep := some p, lastEpoch := max b.lastEpoch h.epoch } := hb.mk
  exact hb.count.ite (hb.ite hp.wr.passOn)

theorem epochList {h : GroupHeader} {first : Nat} {nodes : List Nat} :
    AnswerKeeps s (execEpochList h first nodes s) := by
  refine grouped fun b hb => hb.count.ite ?_
  split
  · exact Keeps.ite (Keeps.passOn hb.mk) hb
  · exact hb

theorem epochReadySend : AnswerKeeps s (execEpochReadySend s) := by
  refine powered ?_
  split
  · exact Keeps.ite (Keeps.wr .refl).sendGroup .refl
  · exact .refl

theorem epochReady {h : GroupHeader} : AnswerKeeps s (execEpochReady h s) := by
  refine grouped fun b hb => ?_
  dsimp only
  split
  · exact hb.ite (Keeps.ite (hb.mk.foldl fun _ _ h => h.sendGroup) hb.mk)
  · exact hb

theorem epochCommit {h : GroupHeader} {fp : Nat} : AnswerKeeps s (execEpochCommit h fp s) := by
  refine grouped fun b hb => hb.count.ite ?_
  split
  · exact Keeps.ite hb.staleColls.installEpoch.dropStale.partnersGone.groupTable254.sendPartners.sendTable.after hb
  · exact hb

theorem takeover {h : GroupHeader} {node : Nat} : AnswerKeeps s (execTakeover h node s) := by
  refine grouped fun b hb => ?_
  extract_lets top named heard
  have hn : Keeps s named := hb.wr.ite hb
  have hh : Keeps s heard := hn.mk
  exact hh.wr.ite hh

theorem verdict {h : GroupHeader} {verdict reasons budget attempt : Nat} :
    AnswerKeeps s (execVerdict h verdict reasons budget attempt s) := by
  refine grouped fun b hb => ?_
  dsimp only
  split
  · exact Keeps.ite (Keeps.agreeVerdict hb.mk).settle hb
  · exact hb

theorem shroudData {h : ShroudHeader} {content : List Byte} : AnswerKeeps s (execShroudData h content s) := by
  refine shrouded fun b hb => ?_
  split
  · exact hb.holdData
  · exact hb.restoreData
  · exact hb

theorem shards {h : ShroudHeader} {content : List Byte} : AnswerKeeps s (execShards h content s) := by
  refine shrouded fun b hb => ?_
  split
  · exact hb.holdShards
  · exact hb

theorem manifest {h : ShroudHeader} {content : List Byte} : AnswerKeeps s (execManifest h content s) := by
  refine shrouded fun b hb => ?_
  split
  · exact hb.holdManifest
  · exact hb.restorePart
  · exact hb

theorem signature {h : ShroudHeader} {content : List Byte} : AnswerKeeps s (execSignature h content s) := by
  refine shrouded fun b hb => ?_
  split
  · exact hb.holdSignature
  · exact hb.restorePart
  · exact hb

/-- Every command keeps the rest of the queue and the invariant. -/
theorem exec_keeps (i : Instr) (s : State) : AnswerKeeps s (exec i s) := by
  have h : Keeps s s := .refl
  cases i
  all_goals dsimp only [exec]
  case nop | regWrite | ringReset | deviceSoftReset | copy | fill | regionRebuild | llsPartition | llsRelease | digest
      | product | matvec | softmax | rmsnorm | layernorm | xent | vprog | paramGroupsLoad | variantBind | variantRelease
      | collLaunch | roleSet | groupJoin | groupLeave | stepBegin | stepEnd | betweenJobTest | unitTest | unitFence
      | unitUnfence | shroudCopy | restore | shroudRelease | counterSnapshot | sampleControl | attest | measurementLog
      | firmwareStage => exact next h.packetIn
  case ringResetWrite | ringTailWrite | statusHeadWrite | deviceEnableWrite | ringConfigWrite | statusConfigWrite
      | reefSet | reefClear | defaults | clearBroken | gsSet | baselineSet | stateBaseWrite | scaleHistoryWrite
      | captureClear | lastFaultClear | mapoutRequest | lostClear | portEnable | portDisable | groupEnableSet
      | groupEnableClear | counterClear | bwEnableWrite | mgmtConfigWrite => refine hosted ?_; exact h.hostField
  case arbiterFreeze => refine hosted ?_; exact h.hostField.thaw
  case registerWrite => refine hosted ?_; exact h.bar0Write.thaw
  case keyWrite => refine hosted ?_; exact h.bar0Write.ite h
  case tokenAdd => refine hosted ?_; exact h.holdWrite.ite h.tlpIn.tokenAdd
  case counterSelectWrite => refine hosted ?_; exact Keeps.ite (h.holdWrite.ite h.tlpIn.selectWrite) h
  case bar2Write => refine hosted ?_; exact h.bar2Write.ite h
  case bar0BadAccess => refine linkedReq ?_; exact h.ite h.readBar0
  case bar2Read => refine linkedReq ?_; exact h.bar2ReadMeets
  case atomicOpRequest => refine linkedReq ?_; exact h.emit
  case configAccess => refine linkedReq ?_; exact h.configure
  case functionLevelReset => refine linkedReq ?_; exact h.flr
  case ringResetDrained => refine powered ?_; exact h.ringDrained.after
  case slotFreed => refine powered ?_; exact h.freeSlot
  case packetFetch => refine powered ?_; exact h.fetchRing
  case packetStart => refine powered ?_; exact h.startPacket.after
  case packetEnd => refine powered ?_; exact h.packetEnd.after
  case statusRecordDeferred => refine powered ?_; exact h.recordDeferred.after
  case hostReadCompletion => refine powered ?_; exact h.completion
  case completionTimeout => refine powered ?_; exact h.readTimeout
  case stepClose => refine powered ?_; exact h.stepClose
  case reefRewriteComplete => refine powered ?_; exact h.rewriteDone
  case commitGroupComplete => refine powered ?_; exact h.groupDone
  case updateBatchComplete => refine powered ?_; exact h.updateBatch
  case verdictTimeout => refine powered ?_; exact h.verdictTimedOut
  case descriptorStart => refine powered ?_; exact h.startDesc
  case tilePassLatch => refine powered ?_; exact h.latchDesc
  case majorityOutcome => refine powered ?_; exact h.majorityDone
  case shadowCompare => refine powered ?_; exact h.shadowDone.after
  case descriptorEnd => refine powered ?_; exact h.endDesc
  case preempt => refine powered ?_; exact h.preempt
  case contextResume => refine powered ?_; exact h.resume
  case bar2HoldExpiry => refine powered ?_; exact h.holdExpiry
  case arbiterDrained => refine powered ?_; exact h.drained.ite h
  case scrubAccess => refine powered ?_; exact h.scrubReaches
  case scrubPeriodEnd => refine powered ?_; exact h.scrubPeriodEnd
  case stackTempSample => refine powered ?_; exact h.stackReading.releaseHeld.after.ite h
  case dieTempSample => refine powered ?_; exact h.dieTemp.ite h
  case powerSample => refine powered ?_; exact h.powerSample
  case droopEvent => refine powered ?_; exact h.droop.ite h
  case droopEnd => refine powered ?_; exact h.droopEnd
  case quadIdleGate => refine powered ?_; exact h.gateQuad
  case stackIdleGate => refine powered ?_; exact h.gateStack
  case domainWakeComplete => refine powered ?_; exact h.wakeDone.after
  case resetComplete => refine powered ?_; exact h.resetComplete
  case perstDeassert => refine powered ?_; exact h.mk.ite h
  case refclkLoss => refine powered ?_; exact h.refclkLost
  case startupTimeout => refine powered ?_; exact h.startupTimeout
  case pcieLinkUp => refine powered ?_; exact h.linkUp
  case testDue => refine powered ?_; exact h.testFallsDue
  case testDeferExpiry => refine powered ?_; exact h.deferExpiry
  case testSlotStart => refine powered ?_; exact h.slotStart
  case testSlotEnd => refine powered ?_; exact h.slotEnd.after
  case bjOverdueCheck => refine powered ?_; exact h.overdueCheck
  case trainingComplete => refine powered ?_; exact h.trained
  case sync => refine powered ?_; exact h.takeSync.ite h
  case flitReceived => refine powered ?_; exact h.takeFlit.settleStreams.ite h
  case nak => refine powered ?_; exact h.takeTotals.resendOrRetrain.pump.slowIfRetraining.ite h
  case retryTimeout => refine powered ?_; exact h.resendOrRetrain.slowIfRetraining.ite h
  case lossOfLock => refine powered ?_; exact h.retrain.slowIfRetraining.ite h
  case heartbeatTimer => refine powered ?_; exact h.heartbeatInterval.after
  case prepareTimeout => refine powered ?_; exact h.prepareLate
  case joinReplyTimeout => refine powered ?_; exact h.joinTimeout
  case shroudTimeout => refine powered ?_; exact h.shroudTimeout.after
  case signatureComplete => refine powered ?_; exact h.signatureDone
  case slowTimer => refine powered ?_; exact h.slowCheck
  case bwWindowEnd => refine powered ?_; exact h.bwEnd
  case launch => refine powered ?_; exact h.takeOrHold fun h => h.takeLaunch
  case abort => refine powered ?_; exact h.takeOrHold fun h => h.takeAbort
  case slow => refine powered ?_; exact h.count.groupEvent.takeOrHold fun h => h.setColl
  case grant => refine collective fun _ _ _ h => ?_; exact h.advance
  case flags => refine collective fun _ _ _ h => ?_; exact h.ite h.advance
  case release => refine collective fun _ _ _ h => ?_; exact h.setColl.ite h
  case boltCell => exact boltCell
  case collectiveData => exact collectiveData
  case collComplete => exact collComplete
  case collWatchdogExpiry => exact collWatchdogExpiry
  case join => refine grouped fun _ h => ?_; exact h.takeJoin
  case joinReply => refine grouped fun _ h => ?_; exact h.joinAnswered
  case leave => refine grouped fun _ h => ?_; exact h.memberGone.ite h
  case heartbeat => refine grouped fun _ h => ?_; exact h.takeHeartbeat
  case mgrHeartbeat => refine grouped fun _ h => ?_; exact h.mk.ite h
  case groupReport => refine grouped fun _ h => ?_; exact h.wr.wr.memberChange.ite h
  case partner => refine grouped fun _ h => ?_; exact h.takePartner
  case epochPrepare => exact epochPrepare
  case epochList => exact epochList
  case epochReadySend => exact epochReadySend
  case epochReady => exact epochReady
  case epochCommit => exact epochCommit
  case takeover => exact takeover
  case verdict => exact verdict
  case hello => refine shrouded fun _ h => ?_; exact h.takeHello
  case accept => refine shrouded fun _ h => ?_; exact h.takeAccept
  case complete => refine shrouded fun _ h => ?_; exact h.takeComplete
  case incomplete => refine shrouded fun _ h => ?_; exact h.takeIncomplete
  case fetch => refine shrouded fun _ h => ?_; exact h.takeFetch
  case fetchReply => refine shrouded fun _ h => ?_; exact h.takeFetchReply
  case lost => refine shrouded fun _ h => ?_; exact h.takeLost
  case shroudData => exact shroudData
  case shards => exact shards
  case manifest => exact manifest
  case signature => exact signature
  case statusQuery => refine mgmtCommand fun _ h => ?_; exact h.statusQuery
  case testNow => refine mgmtCommand fun _ h => ?_; exact h.unitTest
  case fence => refine mgmtCommand fun _ h => ?_; exact h.unitFence
  case unfence => refine mgmtCommand fun _ h => ?_; exact h.unitUnfence
  case reset => refine mgmtCommand fun _ h => ?_; exact h.mgmtResetCommand
  case mgmtRoleSet => refine mgmtCommand fun _ h => ?_; exact h.roleSet
  case group => refine mgmtCommand fun _ h => ?_; exact h.groupCommand
  case mapout => refine mgmtCommand fun _ h => ?_; exact h.mapoutCommand
  case mapoutClear => refine mgmtCommand fun _ h => ?_; exact h.mapoutClear
  case svnRaise => refine mgmtCommand fun _ h => ?_; exact h.svnRaise
  case keySet => refine mgmtCommand fun _ h => ?_; exact h.keySet
  case recovery => refine mgmtCommand fun _ h => ?_; exact h.recover
  case ack => refine managed ?_; exact h.ite (h.ack.ite h.count)
  case reportResend => refine managed ?_; exact h.resend
  case summary => refine managed ?_; exact h.summary
  case riskRecompute => refine managed ?_; exact h.riskRecompute
  case brownOut => refine managed ?_; exact h.brownOut
  case neighborSolicitation => refine managed ?_; exact h.solicited
  case echoRequest => refine managed ?_; exact h.echoed
  case mctpMessage => refine managed ?_; exact h.mcRequest
  case mgmtPortLinkChange => refine managed ?_; exact h.wr
  case coldReset => exact next h.coldReset
  case warmReset => exact next (h.ite (h.warmReset.ite h.mk))

end AnswerKeeps

/-- A step takes the command at the front off the queue, or none when it is empty, and keeps the invariant. -/
theorem step_keeps (hs : step s = .next t) : Keeps { s with pending := s.pending.tail } t := by
  unfold step at hs
  split at hs
  · next hp =>
    obtain rfl : s.tick = t := by injection hs
    have he : { s with pending := s.pending.tail } = s := by
      rw [hp, List.tail_nil, ← hp]
    exact he.symm ▸ Keeps.tick .refl
  · next c rest hp =>
    rw [hp, List.tail_cons]
    exact AnswerKeeps.exec_keeps c _ t hs

/-- Settles O4: after reset device memory, the register table and the list of packets are empty. -/
theorem invariantAtReset : Obligations.InvariantAtReset := ⟨rfl, rfl, fun _ hp => absurd hp List.not_mem_nil⟩

/-- Settles O5: every operation that a command or a tick is made of keeps the invariant. -/
theorem everyStepKeepsInvariant : Obligations.EveryStepKeepsInvariant := fun _ _ hi hs =>
  (step_keeps hs).inv (hi.of_same rfl rfl rfl rfl)

end Sys2Proof.Machine
end

section
/-! PROOFS. BAR2 reads that wait (R230). -/

namespace Sys2Proof.Machine

set_option Elab.async false

/-! Where an address lies, and what holds or withholds it, depends on the shares, the partitions and a few register fields
(R19, R214–R216, R230, R298). -/

theorem regionOf_channel_lt {b c : Nat} (h : regionOf b = some (.channel c)) : c < 4 := by
  unfold regionOf at h
  split_ifs at h <;> simp only [Option.some.injEq, Region.channel.injEq, reduceCtorEq] at h
  omega

theorem regionOf_stack_lt {b k : Nat} (h : regionOf b = some (.stack k)) : k < 20 := by
  unfold regionOf at h
  split_ifs at h <;> simp only [Option.some.injEq, Region.stack.injEq, reduceCtorEq] at h
  omega

theorem regionOf_lls_lt {b c : Nat} (h : regionOf b = some (.lls c)) : c < 4 := by
  unfold regionOf at h
  split_ifs at h <;> simp only [Option.some.injEq, Region.lls.injEq, reduceCtorEq] at h
  omega

section

variable {s t : State}

theorem State.lt_of_locate {b x o : Nat} (h : s.locate b = some (x, o)) : x < 640 := by
  unfold State.locate at h
  split at h
  · cases h
  · cases h
  · dsimp only at h
    split at h
    · next y hy =>
      obtain ⟨rfl, -⟩ := Prod.mk.inj (Option.some.inj h)
      exact lt_of_mem_spreadOrder (List.mem_filter.1 (List.mem_of_getElem? hy)).1
    · cases h

theorem State.stackOf_lt {b k : Nat} (h : s.stackOf b = some k) : k < 20 := by
  unfold State.stackOf at h
  split at h
  · next hr =>
    obtain rfl := Option.some.inj h
    exact regionOf_stack_lt hr
  · obtain ⟨⟨x, o⟩, hx, rfl⟩ := Option.map_eq_some_iff.1 h
    have := State.lt_of_locate hx
    dsimp only
    omega

theorem State.homeChannel_lt {b c : Nat} (h : s.homeChannel b = some c) : c < 4 := by
  unfold State.homeChannel at h
  split at h
  · next hr =>
    obtain rfl := Option.some.inj h
    exact regionOf_lls_lt hr
  · next hr =>
    obtain rfl := Option.some.inj h
    exact regionOf_channel_lt hr
  · next hr =>
    obtain rfl := Option.some.inj h
    have := regionOf_stack_lt hr
    omega
  · obtain ⟨⟨x, o⟩, hx, rfl⟩ := Option.map_eq_some_iff.1 h
    have := State.lt_of_locate hx
    dsimp only
    omega
  · cases h

/-- Two states place every address alike, and an access waits or finds its channel unavailable in both or in neither. -/
structure SameWays (s t : State) : Prop where
  dShare : t.dShare = s.dShare
  cShare : t.cShare = s.cShare
  partitions : t.partitions = s.partitions
  hbmState : ∀ x < 640, t.rd .hbmState [x] = s.rd .hbmState [x]
  unitHstate : ∀ u < 96, t.rd .unitHstate [u] = s.rd .unitHstate [u]
  stkTstate : ∀ k < 20, t.rd .stkTstate [k] = s.rd .stkTstate [k]
  arbFreeze : ∀ a < 37, t.rd .arbFreeze [a] = s.rd .arbFreeze [a]

namespace SameWays

variable (h : SameWays s t)

include h

theorem regionSize (r : Region) : t.regionSize r = s.regionSize r := by
  cases r with
  | lls c => rfl
  | _ => simp only [State.regionSize, State.healthyList_congr h.hbmState, State.shareOf_congr h.dShare h.cShare]

theorem inRegion (a n : Nat) : t.inRegion a n = s.inRegion a n := by
  unfold State.inRegion State.unitHeld
  rw [h.partitions]
  split
  · rfl
  · rfl
  · rw [h.regionSize]

theorem homeChannel (b : Nat) : t.homeChannel b = s.homeChannel b :=
  State.homeChannel_congr h.dShare h.cShare h.hbmState b

theorem stackOf (b : Nat) : t.stackOf b = s.stackOf b := by
  simp only [State.stackOf, State.locate, State.healthyList_congr h.hbmState, State.shareOf_congr h.dShare h.cShare]

theorem fenced {u : Nat} (hu : u < 96) : t.fenced u = s.fenced u := by
  simp only [State.fenced, h.unitHstate u hu]

theorem channelUp {c : Nat} (hc : c < 4) : t.channelUp c = s.channelUp c := by
  simp only [State.channelUp, h.fenced (u := 48 + c) (by omega), h.fenced (u := 52 + c) (by omega)]

theorem stackHeld {k : Nat} (hk : k < 20) : t.stackHeld k = s.stackHeld k := by
  simp only [State.stackHeld, State.flag, h.stkTstate k hk, h.arbFreeze k (by omega)]

theorem banksFrozen {c : Nat} (hc : c < 4) : t.flag .arbFreeze [20 + c] = s.flag .arbFreeze [20 + c] := by
  rw [State.flag, State.flag, h.arbFreeze _ (by omega)]

theorem unavailIn (a n : Nat) : t.unavailIn a n = s.unavailIn a n := by
  have hf : (List.range 8).any (fun i => t.fenced (48 + i)) = (List.range 8).any fun i => s.fenced (48 + i) :=
    any_congr_mem fun i hi => h.fenced (by have := List.mem_range.1 hi; omega)
  unfold State.unavailIn
  rw [hf]
  refine congrArg _ (any_congr_mem fun b _ => ?_)
  rw [h.homeChannel]
  cases hc : s.homeChannel b with
  | none => rfl
  | some c => simp only [h.channelUp (State.homeChannel_lt hc)]

theorem anyHeld : t.anyHeld = s.anyHeld := by
  have hs : (List.range 20).any t.stackHeld = (List.range 20).any s.stackHeld :=
    any_congr_mem fun k hk => h.stackHeld (List.mem_range.1 hk)
  have hb : (List.range 4).any (fun c => t.flag .arbFreeze [20 + c]) = (List.range 4).any fun c => s.flag .arbFreeze [20 + c] :=
    any_congr_mem fun c hc => h.banksFrozen (List.mem_range.1 hc)
  rw [State.anyHeld, State.anyHeld, hs, hb]

theorem heldIn (a n : Nat) : t.heldIn a n = s.heldIn a n := by
  unfold State.heldIn
  rw [h.anyHeld]
  refine congrArg _ (any_congr_mem fun b _ => congrArg₂ _ ?_ ?_)
  · rw [h.stackOf]
    cases hk : s.stackOf b with
    | none => rfl
    | some k => simp only [h.stackHeld (State.stackOf_lt hk)]
  · rw [h.homeChannel]
    cases hc : s.homeChannel b with
    | none => rfl
    | some c => simp only [h.banksFrozen (State.homeChannel_lt hc)]

end SameWays

/-- An event of channel 0 that counts moves no address. -/
theorem SameWays.countEvent (s : State) (ev n : Nat) : SameWays s (s.countEvent 0 ev n) := by
  have h : OnlyRegs (channelKeys 0) s (s.countEvent 0 ev n) := OnlyRegs.countEvent 0 ev n fun i hi =>
    List.mem_map.2 ⟨i, List.mem_range.2 hi, rfl⟩
  refine ⟨h.1 .dShare (by decide), h.1 .cShare (by decide), h.1 .partitions (by decide), ?_, ?_, ?_, ?_⟩ <;>
    refine fun x hx => h.2 _ _ ?_ <;>
    simp only [channelKeys, List.mem_map, List.mem_range, Reg.key, strideSum, Reg.progValue, Reg.hbmState, Reg.unitHstate,
      Reg.stkTstate, Reg.arbFreeze] <;>
    omega

end

/-! What a log entry and its report change (R300, R302, R400). -/

section

variable {s a t : State} {ks : List Nat}

namespace RegsBut

theorem refl : RegsBut ks s s := fun _ _ _ => rfl

/-- A field of a listed key takes a value. -/
theorem wr (h : RegsBut ks s a) {r : Reg} {idx : List Nat} {v : Nat} (hk : r.key idx ∈ ks) : RegsBut ks s (a.wr r idx v) :=
  fun q jdx hq => (State.rd_wr_ne a v fun he : q.key jdx = r.key idx => hq (he ▸ hk)).trans (h q jdx hq)

/-- The register table is as before. -/
theorem same (h : RegsBut ks s a) (hr : t.regs = a.regs) : RegsBut ks s t :=
  fun q jdx hq => (State.rd_congr hr q jdx).trans (h q jdx hq)

theorem sendDatagram (h : RegsBut ks s a) {m : List Byte} : RegsBut ks s (a.sendDatagram m) := h.same (by
  unfold State.sendDatagram
  split <;> rfl)

theorem report (h : RegsBut ks s a) {type : Nat} {body : List Byte} (hs : Reg.mgmtReportsSent.key [] ∈ ks)
    (hd : Reg.mgmtReportsDropped.key [] ∈ ks) : RegsBut ks s (a.report type body) := by
  unfold State.report
  split
  · exact h
  · extract_lets seq m q queued dropped
    have hq : RegsBut ks s queued := h.same rfl
    have hc : RegsBut ks s dropped := by
      unfold dropped
      split
      · exact hq.wr hd
      · exact hq
    exact (hc.wr hs).sendDatagram

theorem log (h : RegsBut ks s a) {type code addr tag uclass uindex detail : Nat} (hk : logKeys ⊆ ks) :
    RegsBut ks s (a.log type code addr tag uclass uindex detail) := by
  unfold State.log
  extract_lets n e first entered
  have he : RegsBut ks s entered := h.same rfl
  exact (he.wr (hk (by decide))).report (hk (by decide)) (hk (by decide))

end RegsBut

theorem State.log_touches (s : State) (type code addr tag uclass uindex detail : Nat) :
    Touches logFields logKeys s (s.log type code addr tag uclass uindex detail) :=
  ⟨(State.log_does s type code addr tag uclass uindex detail Does.refl (fs := logFields)).only,
    RegsBut.refl.log (List.Subset.refl _)⟩

/-- The last entry of a list that a filter keeps stays the last. -/
theorem getLast?_filter_append {α : Type} {l : List α} {x : α} {f : α → Bool} (h : f x = true) :
    ((l ++ [x]).filter f).getLast? = some x := by
  simp [List.filter_append, h]

/-- An event is the last of the log, with its tick and the next number (R300). -/
theorem State.log_logged (s : State) (type code addr tag uclass uindex detail : Nat) :
    Logged type code addr s (s.log type code addr tag uclass uindex detail) := by
  unfold State.log
  extract_lets n e first entered
  have hfirst : first < n := by
    have : first ≤ n - 4096 := by
      unfold first
      split <;> omega
    have : 0 < n := Nat.succ_pos _
    omega
  have hilog : ((entered.wr .intIlogWritten [] n).report 0x01 e.bytes).ilog = entered.ilog :=
    (State.report_does _ 0x01 e.bytes (State.wr_does entered .intIlogWritten [] n Does.refl)
      (fs := [.regs, .reports, .reportSeq, .out])).only .ilog (by decide)
  refine ⟨e, ?_, rfl, rfl, rfl, rfl, rfl⟩
  rw [hilog]
  exact getLast?_filter_append (by simpa using hfirst)

/-- A log entry is as well one of a state with the same tick and the same number of entries. -/
theorem Logged.of_same {type code addr : Nat} (h : Logged type code addr a t) (hn : a.aoNow = s.aoNow)
    (hw : a.rd .intIlogWritten [] = s.rd .intIlogWritten []) : Logged type code addr s t := by
  obtain ⟨e, hlast, htype, hcode, haddr, htick, hseq⟩ := h
  exact ⟨e, hlast, htype, hcode, haddr, htick.trans hn, hw ▸ hseq⟩

/-- What keeps the log keeps its last entry. -/
theorem Logged.of_ilog {type code addr : Nat} (h : Logged type code addr s a) (hl : t.ilog = a.ilog) :
    Logged type code addr s t := by
  obtain ⟨e, hlast, hrest⟩ := h
  exact ⟨e, hl ▸ hlast, hrest⟩

end

/-! BAR2 reads that wait (R230). -/

theorem exec_bar2HoldExpiry (id : Nat) (s : State) : exec (.bar2HoldExpiry id) s = powered s (fun s => s.holdExpiry id) := rfl

theorem powered_on {s : State} {f : State → State} (hp : s.power = 1) : powered s f = .next (f s) := by
  rw [powered, if_pos hp]

section

variable {s : State} {o n : Nat} {h : HeldRead}

/-- A read of n bytes at address a joins those that wait. -/
def State.holdRead (s : State) (a n : Nat) : State :=
  { s with heldReads := s.heldReads ++ [{ id := s.nextId, addr := a, len := n, since := s.aoNow }], nextId := s.nextId + 1 }

/-- A read of a held stack or slice counts its event and waits. -/
theorem State.bar2ReadMeets_held (hh : s.hostOk = true) (hi : s.bar2Inside o n = true) (hd : s.startDone = true)
    (hr : s.inRegion (s.rd .devBar2Base [] + o) n = true) (hu : s.unavailIn (s.rd .devBar2Base [] + o) n = false)
    (hw : s.heldIn (s.rd .devBar2Base [] + o) n = true) :
    s.bar2ReadMeets o n 0 = (s.countEvent 0 0x1E2 1).holdRead (s.rd .devBar2Base [] + o) n := by
  have hways : SameWays s (s.countEvent 0 0x1E2 1) := SameWays.countEvent ..
  have hdone : (s.countEvent 0 0x1E2 1).startDone = true := by
    rw [(State.countEvent_does s 0 0x1E2 1 Does.refl (fs := [.regs])).only .startDone (by decide), hd]
  unfold State.bar2ReadMeets State.bar2Read
  simp [hh, hi, hdone, hways.inRegion, hr, hways.unavailIn, hu, hways.heldIn, hw, State.upset, State.holdRead]

theorem State.holdRead_out (a n : Nat) : (s.holdRead a n).out = s.out := rfl

theorem State.holdRead_regs (a n : Nat) : (s.holdRead a n).regs = s.regs := rfl

theorem State.holdRead_heldReads (a n : Nat) :
    (s.holdRead a n).heldReads = s.heldReads ++ [{ id := s.nextId, addr := a, len := n, since := s.aoNow }] := rfl

theorem State.holdRead_changes (a n : Nat) : ChangesOnly [.regs, .heldReads, .nextId] s (s.holdRead a n) := by
  intro f hf
  cases f
  case heldReads => exact absurd (by decide) hf
  case nextId => exact absurd (by decide) hf
  all_goals rfl

theorem State.holdExpiry_logged (c d : Nat) : Logged 0x05 c h.addr s
    ((({ s with heldReads := s.heldReads.erase h } : State).log 0x05 c h.addr 0 0 0 d).emit .readCA) := by
  have hl := State.log_logged { s with heldReads := s.heldReads.erase h } 0x05 c h.addr 0 0 0 d
  have hw : ({ s with heldReads := s.heldReads.erase h } : State).rd .intIlogWritten [] = s.rd .intIlogWritten [] := rfl
  exact Logged.of_same (hl.of_ilog (State.emit_ilog _ _)) rfl hw

/-- A read that waits and has reached BAR2_HOLD_LIMIT is logged as a THERMAL_HOLD and answered. -/
theorem State.holdExpiry_due (hf : s.heldReads.find? (fun x => x.id == h.id) = some h)
    (hl : h.since + msTicks (s.rd .memBar2HoldLimit []) ≤ s.aoNow) :
    ∃ c d, s.holdExpiry h.id = (({ s with heldReads := s.heldReads.erase h } : State).log 0x05 c h.addr 0 0 0 d).emit .readCA := by
  unfold State.holdExpiry
  simp only [hf]
  exact ⟨_, _, if_neg (by omega)⟩

theorem State.holdExpiry_early (hf : s.heldReads.find? (fun x => x.id == h.id) = some h)
    (hl : s.aoNow < h.since + msTicks (s.rd .memBar2HoldLimit [])) : s.holdExpiry h.id = s := by
  unfold State.holdExpiry
  simp only [hf]
  exact if_pos hl

theorem State.withHeldReads_touches (l : List HeldRead) : Touches [.heldReads] logKeys s { s with heldReads := l } := by
  refine ChangesOnly.touches (fun f hf => ?_) rfl
  cases f
  case heldReads => exact absurd List.mem_cons_self hf
  all_goals rfl

end

/-- Settles O18: counting the read's event moves no address, so that the read waits; a read that has waited long enough is
logged and answered. -/
theorem heldReadsExpire : Obligations.HeldReadsExpire := by
  refine ⟨fun s o n hh hd hi hr hu hw => ?_, fun s h hp hf => ⟨fun hl => ?_, fun hl => ?_⟩⟩
  · have hlinked : s.linked = true := by
      simp only [State.hostOk, Bool.and_eq_true] at hh
      exact hh.1.1
    have hcount : OnlyRegs (channelKeys 0) s (s.countEvent 0 0x1E2 1) := OnlyRegs.countEvent 0 0x1E2 1 fun i hi =>
      List.mem_map.2 ⟨i, List.mem_range.2 hi, rfl⟩
    have hid : (s.countEvent 0 0x1E2 1).nextId = s.nextId := hcount.1 .nextId (by decide)
    have hnow : (s.countEvent 0 0x1E2 1).aoNow = s.aoNow := hcount.1 .aoNow (by decide)
    have hreads : (s.countEvent 0 0x1E2 1).heldReads = s.heldReads := hcount.1 .heldReads (by decide)
    have hout : (s.countEvent 0 0x1E2 1).out = s.out := hcount.1 .out (by decide)
    refine ⟨(s.countEvent 0 0x1E2 1).holdRead (s.rd .devBar2Base [] + o) n, ?_, ?_, ?_, ?_, ?_⟩
    · rw [exec_bar2Read, linkedReq_linked hlinked, State.bar2ReadMeets_held hh hi hd hr hu hw]
    · rw [State.holdRead_out, hout]
    · rw [State.holdRead_heldReads, hid, hnow, hreads]
    · exact (hcount.1.mono (by decide)).trans (State.holdRead_changes _ _)
    · exact RegsBut.same hcount.2 (State.holdRead_regs _ _)
  · rw [exec_bar2HoldExpiry, powered_on hp, State.holdExpiry_early hf hl]
  · obtain ⟨c, d, he⟩ := State.holdExpiry_due hf hl
    have hw : Touches (.heldReads :: logFields) logKeys s { s with heldReads := s.heldReads.erase h } :=
      (State.withHeldReads_touches _).widen
    have hlog := State.log_touches { s with heldReads := s.heldReads.erase h } 0x05 c h.addr 0 0 0 d
    have hemit := State.emit_touches (ks := logKeys)
      (({ s with heldReads := s.heldReads.erase h } : State).log 0x05 c h.addr 0 0 0 d) .readCA
    have hall : Touches (.heldReads :: logFields) logKeys s _ := (hw.trans hlog.widen).trans hemit.widen
    refine ⟨_, c, ?_, ?_, ?_, ?_, hall.only, hall.regs⟩
    · rw [exec_bar2HoldExpiry, powered_on hp, he]
    · exact (State.emit_heldReads _ _).trans (hlog.only .heldReads (by decide))
    · simp
    · exact State.holdExpiry_logged c d

end Sys2Proof.Machine
end

section
/-! PROOFS. Copies and fills (R341). -/

namespace Sys2Proof.Machine

set_option Elab.async false

/-- A COPY between ranges of device memory that meets an error in its source ends with MEM_UNCORRECTABLE (R56, R351). -/
theorem State.copyRun_bad {s : State} {p q : Packet} {d a n f : Nat} (hp : s.packet p.pid = some q)
    (hq : q.isEnded = false) (hn : 0 < n) (hle : n ≤ 2 ^ 40) (hfrom : f.testBit 0 = false) (hto : f.testBit 1 = false)
    (ho : overlaps d a n = false) (hr : s.rangeRefusal [(d, n), (a, n)] = none) (hb : s.badBolts a n ≠ []) :
    ∃ x, EndedAs (s.copyRun p d a n f) p.pid .memUncorrectable x := by
  have hne : (s.badBolts a n).isEmpty = false := by simpa using hb
  have hsize : ¬ (n = 0 ∨ 2 ^ 40 < n) := by omega
  unfold State.copyRun
  simp only [if_neg hsize, hfrom, hto, ho, Bool.not_false, and_false, Bool.false_eq_true, if_false, List.singleton_append,
    hr, hne, if_true]
  refine ⟨_, State.endBad_endedAs ?_ hq⟩
  have hspoil : ((s.readTraffic p.via a n).spoilDest p.pid).flight = (s.readTraffic p.via a n).flight :=
    (State.spoilDest_does _ p.pid (Does.refl (fs := [.mem, .free]))).only .flight (by decide)
  have hread : (s.readTraffic p.via a n).flight = s.flight :=
    (State.readTraffic_does s p.via a n Does.refl (fs := trafficFields)).only .flight (by decide)
  exact (State.packet_congr (hspoil.trans hread)).trans hp

/-- A COPY of stack 5's first byte to slice 1's scratchpad. -/
def slidingCopy : Op := .copy sliceOne stackFive 1 0

/-- Once the packet is fetched, the byte's bolt meets an error. -/
theorem slidingCopy_badBolts : (slidingStack.firstStart slidingCopy).badBolts stackFive 1 ≠ [] :=
  List.ne_nil_of_mem
    (mem_badBolts_of_counted (b := stackFive) (by decide +kernel) (by decide +kernel) (by decide +kernel) (by decide +kernel))

theorem slidingCopy_packetIn : slidingStack.packetIn slidingHdr slidingCopy =
    (slidingStack.firstStart slidingCopy).copyRun (firstPacket slidingCopy) sliceOne stackFive 1 0 :=
  State.packetIn_firstStart slidingStack_quiet rfl (by decide +kernel) (by decide +kernel) (by decide +kernel)

/-- The COPY ends over that bolt. -/
theorem slidingCopy_ends : ∃ x, EndedAs (slidingStack.packetIn slidingHdr slidingCopy) 1 .memUncorrectable x := by
  rw [slidingCopy_packetIn]
  exact State.copyRun_bad (p := firstPacket slidingCopy) (q := firstPacket slidingCopy) (by decide +kernel) rfl (by decide)
    (by decide) (by decide) (by decide) (by decide) (by decide +kernel) slidingCopy_badBolts

theorem exec_copy (h : PktHdr) (d a n f : Nat) (s : State) :
    exec (.copy h d a n f) s = .next (s.packetIn h (.copy d a n f)) := rfl

/-- Refutes O40: in `slidingStack` no bolt meets an error, but fetching the COPY moves a counter that LOST_ADDR counts as the
address of the bolt to be copied, and the packet ends with MEM_UNCORRECTABLE. No device is in such a state: its LOST_COUNT does
not fit its field. -/
theorem not_copiesAndFills : ¬ Obligations.CopiesAndFills := by
  intro h
  obtain ⟨hcopy, -⟩ := h
  obtain ⟨t, ht, -, -, hran⟩ := hcopy slidingStack slidingHdr sliceOne stackFive 1 0 slidingStack_quiet (by decide)
    (by decide) (by decide) (by decide) (by decide) (by decide +kernel) (slidingStack_badBolts _ _) (slidingStack_badBolts _ _)
  have hdone : EndedAs t 1 .done 0 := hran.endedAs slidingStack_quiet.inv.pids
  obtain ⟨x, hbad⟩ := slidingCopy_ends
  rw [exec_copy] at ht
  injection ht with ht
  rw [slidingCopy, ht] at hbad
  exact absurd (hbad.status_eq hdone) (by decide)

end Sys2Proof.Machine
end

section
/-! PROOFS. MAPOUT_REQUEST, FREEZE and DRAINED (R222, R233, R316). -/

namespace Sys2Proof.Machine

set_option Elab.async false

/-! A channel of device memory that becomes PENDING (R222). -/

section

variable {s a t : State} {x c : Nat}

/-- STATE and CAUSE of HBM channel x. -/
def pendingMarks (x : Nat) : List Nat := [Reg.hbmState.key [x], Reg.hbmCause.key [x]]

/-- The register fields that change as HBM channel x becomes PENDING. -/
def pendingKeys (x : Nat) : List Nat := pendingMarks x ++ logKeys

/-- HBM channel x has become PENDING with a cause: logged, reported and noted for the risk estimate (R222, R316). -/
structure BecomesPending (x c : Nat) (s t : State) : Prop where
  state : t.rd .hbmState [x] = 1
  cause : t.rd .hbmCause [x] = c
  logged : Logged 0x0D 1 0 s t
  risk : t.riskEvents = s.riskEvents ++ [{ kind := 1, tick := s.aoNow, n := 1 }]
  touches : Touches (.riskEvents :: logFields) (pendingKeys x) s t

theorem hbmState_not_mem_logKeys : Reg.hbmState.key [x] ∉ logKeys := by
  simp only [logKeys, List.mem_cons, List.not_mem_nil, or_false, Reg.key, strideSum, Reg.hbmState, Reg.intIlogWritten,
    Reg.mgmtReportsSent, Reg.mgmtReportsDropped]
  omega

theorem hbmCause_not_mem_logKeys : Reg.hbmCause.key [x] ∉ logKeys := by
  simp only [logKeys, List.mem_cons, List.not_mem_nil, or_false, Reg.key, strideSum, Reg.hbmCause, Reg.intIlogWritten,
    Reg.mgmtReportsSent, Reg.mgmtReportsDropped]
  omega

theorem intIlogWritten_not_mem_pendingMarks : Reg.intIlogWritten.key [] ∉ pendingMarks x := by
  simp only [pendingMarks, List.mem_cons, List.not_mem_nil, or_false, Reg.key, strideSum, Reg.hbmState, Reg.hbmCause,
    Reg.intIlogWritten]
  omega

theorem hbmState_ne_hbmCause {y : Nat} : Reg.hbmState.key [x] ≠ Reg.hbmCause.key [y] := by
  simp only [Reg.key, strideSum, Reg.hbmState, Reg.hbmCause]
  omega

theorem State.noteRisk_changes (s : State) (k n : Nat) : ChangesOnly [.riskEvents] s (s.noteRisk k n) :=
  (State.noteRisk_does s k n Does.refl).only

theorem State.makePending_healthy (h : s.rd .hbmState [x] = 0) : s.makePending x c =
    (((s.wr .hbmState [x] 1).wr .hbmCause [x] c).log 0x0D 1 0 0 9 x c).noteRisk 1 1 := if_pos h

theorem State.makePending_not_healthy (h : s.rd .hbmState [x] ≠ 0) : s.makePending x c = s := if_neg h

theorem State.makePending_becomes (h : s.rd .hbmState [x] = 0) (hc : c < 8) : BecomesPending x c s (s.makePending x c) := by
  rw [State.makePending_healthy h]
  have hmarked : OnlyRegs (pendingMarks x) s ((s.wr .hbmState [x] 1).wr .hbmCause [x] c) :=
    OnlyRegs.trans (OnlyRegs.wr (by simp [pendingMarks])) (OnlyRegs.wr (by simp [pendingMarks]))
  generalize hm : (s.wr .hbmState [x] 1).wr .hbmCause [x] c = m at hmarked
  have hstate : m.rd .hbmState [x] = 1 := by
    rw [← hm, State.rd_wr_ne _ _ hbmState_ne_hbmCause, State.rd_wr_same]
    rfl
  have hcause : m.rd .hbmCause [x] = c := by
    rw [← hm, State.rd_wr_same]
    exact Nat.mod_eq_of_lt hc
  have hwritten : m.rd .intIlogWritten [] = s.rd .intIlogWritten [] := hmarked.2 _ _ intIlogWritten_not_mem_pendingMarks
  have hnow : m.aoNow = s.aoNow := hmarked.1 .aoNow (by decide)
  have hlogged := State.log_logged m 0x0D 1 0 0 9 x c
  have hlog := State.log_touches m 0x0D 1 0 0 9 x c
  generalize m.log 0x0D 1 0 0 9 x c = l at hlogged hlog
  have hnote := State.noteRisk_changes l 1 1
  have hregs : (l.noteRisk 1 1).regs = l.regs := hnote .regs (by decide)
  refine ⟨?_, ?_, (hlogged.of_same hnow hwritten).of_ilog (hnote .ilog (by decide)), ?_, ?_⟩
  · rw [State.rd_congr hregs, hlog.regs _ _ hbmState_not_mem_logKeys, hstate]
  · rw [State.rd_congr hregs, hlog.regs _ _ hbmCause_not_mem_logKeys, hcause]
  · have hl : l.riskEvents = s.riskEvents := (hlog.only .riskEvents (by decide)).trans (hmarked.1 .riskEvents (by decide))
    have hn : l.aoNow = s.aoNow := (hlog.only .aoNow (by decide)).trans hnow
    rw [← hl, ← hn]
    rfl
  · have htouched : Touches (.riskEvents :: logFields) (pendingKeys x) s l :=
      (hmarked.touches (fs := [.regs]) |>.mono (List.subset_append_left ..)).trans (hlog.mono (List.subset_append_right ..))
    exact htouched.trans (hnote.touches hregs).widen

end

/-! Commands of the host. -/

theorem exec_mapoutRequest (x : Nat) (s : State) :
    exec (.mapoutRequest x) s = hosted s (fun s => s.hostField .memMapoutRequest [] x) := rfl

theorem exec_arbiterFreeze (a : Nat) (on : Bool) (s : State) :
    exec (.arbiterFreeze a on) s = hosted s (fun s => (s.hostField .arbFreeze [a] (b2n on)).thaw s) := rfl

theorem exec_arbiterDrained (a : Nat) (s : State) : exec (.arbiterDrained a) s =
    powered s (fun s => if Reg.arbDrained.has [a] then s.drained a else s) := rfl

section

variable {s : State} {x a : Nat}

theorem State.fieldWrite_memMapoutRequest (s0 s : State) (v : Nat) :
    s0.fieldWrite s .memMapoutRequest [] v = if v < 640 then s.makePending v 4 else s := by
  unfold State.fieldWrite
  rfl

theorem State.fieldWrite_arbFreeze (s0 s : State) (a v : Nat) : s0.fieldWrite s .arbFreeze [a] v = s.freeze a (v == 1) := by
  unfold State.fieldWrite
  rfl

theorem mapoutRequest_takes (ht : HostTakes s) (hx : x < 640) :
    exec (.mapoutRequest x) s = .next ((s.tlpIn 4).makePending x 4) := by
  have hv : x % 2 ^ Reg.memMapoutRequest.width = x := Nat.mod_eq_of_lt (by simp only [Reg.memMapoutRequest]; omega)
  rw [exec_mapoutRequest, hosted_takes ht, State.hostField_takes ht rfl, hv, State.fieldWrite_memMapoutRequest, if_pos hx]
  rfl

theorem arbiterFreeze_takes (ht : HostTakes s) (ha : a < 37) (on : Bool) :
    exec (.arbiterFreeze a on) s = .next (((s.tlpIn 4).freeze a on).thaw s) := by
  have hh : Reg.arbFreeze.has [a] = true := by simp [Reg.has, Reg.arbFreeze, ha]
  have hv : (b2n on % 2 ^ Reg.arbFreeze.width == 1) = on := by cases on <;> rfl
  rw [exec_arbiterFreeze, hosted_takes ht, State.hostField_takes ht hh, State.fieldWrite_arbFreeze, hv]
  rfl

end

/-! FREEZE and DRAINED (R233). -/

section

variable {s t : State} {a b : Nat} {on : Bool}

/-- FREEZE and DRAINED of arbiter a. -/
def freezeKeys (a : Nat) : List Nat := [Reg.arbFreeze.key [a], Reg.arbDrained.key [a]]

theorem arbFreeze_ne_arbDrained : Reg.arbFreeze.key [a] ≠ Reg.arbDrained.key [b] := by
  simp only [Reg.key, strideSum, Reg.arbFreeze, Reg.arbDrained]
  omega

theorem arbDrained_not_mem_channelKeys : Reg.arbDrained.key [a] ∉ channelKeys 0 := by
  simp only [channelKeys, List.mem_map, List.mem_range, not_exists, not_and, Reg.key, Reg.progValue, Reg.arbDrained, strideSum]
  omega

theorem arbFreeze_not_mem_freezeKeys (h : b ≠ a) : Reg.arbFreeze.key [b] ∉ freezeKeys a := by
  simp only [freezeKeys, List.mem_cons, List.not_mem_nil, or_false, Reg.key, Reg.arbFreeze, Reg.arbDrained, strideSum]
  omega

theorem State.freeze_on (s : State) (a : Nat) : s.freeze a true = s.wr .arbFreeze [a] 1 := rfl

theorem State.freeze_off (s : State) (a : Nat) : s.freeze a false = (s.wr .arbFreeze [a] 0).wr .arbDrained [a] 0 := rfl

theorem State.freeze_onlyRegs (s : State) (a : Nat) (on : Bool) : OnlyRegs (freezeKeys a) s (s.freeze a on) := by
  have hfreeze : OnlyRegs (freezeKeys a) s (s.wr .arbFreeze [a] (b2n on)) := OnlyRegs.wr (by simp [freezeKeys])
  cases on
  · rw [State.freeze_off]
    exact hfreeze.trans (OnlyRegs.wr (by simp [freezeKeys]))
  · exact hfreeze

theorem State.freeze_arbFreeze (s : State) (a : Nat) (on : Bool) : (s.freeze a on).rd .arbFreeze [a] = if on then 1 else 0 := by
  cases on
  · rw [State.freeze_off, State.rd_wr_ne _ _ arbFreeze_ne_arbDrained, State.rd_wr_same]
    rfl
  · rw [State.freeze_on, State.rd_wr_same]
    rfl

theorem State.freeze_arbDrained (s : State) (a : Nat) (on : Bool) :
    (s.freeze a on).rd .arbDrained [a] = if on then s.rd .arbDrained [a] else 0 := by
  cases on
  · rw [State.freeze_off, State.rd_wr_same]
    rfl
  · rw [State.freeze_on, State.rd_wr_ne _ _ arbFreeze_ne_arbDrained.symm]
    rfl

theorem State.takeWrites_none (h : s.heldWrites = []) : s.takeWrites = s := by
  rw [State.takeWrites, h, List.foldl_nil, ← h]

/-- Where nothing waits, nothing is released. -/
theorem State.releaseHeld_none (hr : s.heldReads = []) (hw : s.heldWrites = []) : s.releaseHeld = s := by
  simp only [State.releaseHeld, State.takeWrites_none hw, hr, List.foldl_nil]

/-- Where nothing waits, nothing thaws. -/
theorem State.thaw_none (hr : t.heldReads = []) (hw : t.heldWrites = []) : t.thaw s = t := by
  unfold State.thaw
  rw [State.releaseHeld_none hr hw, ite_self]

/-- Nothing thaws where no FREEZE returns to 0. -/
theorem State.thaw_of_no_fall (h : ∀ b < 37, s.rd .arbFreeze [b] = 1 → t.rd .arbFreeze [b] = 1) : t.thaw s = t := by
  refine if_neg ?_
  simp only [List.any_eq_true, List.mem_range, not_exists, not_and, State.flag, Bool.and_eq_true, beq_iff_eq,
    Bool.not_eq_true', beq_eq_false_iff_ne]
  exact fun b hb hs => not_not_intro (h b hb hs)

theorem State.freeze_tlpIn_thaw (_ : a < 37)
    (h : on = true ∨ s.rd .arbFreeze [a] ≠ 1 ∨ s.heldReads = [] ∧ s.heldWrites = []) :
    ((s.tlpIn 4).freeze a on).thaw s = (s.tlpIn 4).freeze a on := by
  have hfreeze := State.freeze_onlyRegs (s.tlpIn 4) a on
  have hown := State.freeze_arbFreeze (s.tlpIn 4) a on
  have hother (b : Nat) (hb : b < 37) (hne : b ≠ a) : ((s.tlpIn 4).freeze a on).rd .arbFreeze [b] = s.rd .arbFreeze [b] :=
    (hfreeze.2 _ _ (arbFreeze_not_mem_freezeKeys hne)).trans (State.tlpIn_arbFreeze hb)
  obtain rfl | hoff | ⟨hr, hw⟩ := h
  · refine State.thaw_of_no_fall fun b hb hs => ?_
    by_cases hba : b = a
    · rw [hba, hown]
      rfl
    · exact (hother b hb hba).trans hs
  · refine State.thaw_of_no_fall fun b hb hs => ?_
    have hba : b ≠ a := fun he => hoff (he ▸ hs)
    exact (hother b hb hba).trans hs
  · refine State.thaw_none ?_ ?_
    · rw [hfreeze.1 .heldReads (by decide), State.tlpIn_touches.only .heldReads (by decide), hr]
    · rw [hfreeze.1 .heldWrites (by decide), State.tlpIn_touches.only .heldWrites (by decide), hw]

end

/-! MAPOUT_REQUEST by the host (R222). -/

theorem hbmState_not_mem_channelKeys {x : Nat} : Reg.hbmState.key [x] ∉ channelKeys 0 := by
  simp only [channelKeys, List.mem_map, List.mem_range, not_exists, not_and, Reg.key, Reg.progValue, Reg.hbmState, strideSum]
  omega

theorem intIlogWritten_not_mem_channelKeys : Reg.intIlogWritten.key [] ∉ channelKeys 0 := by decide

/-- Settles O25: a write's bytes touch neither the channel's STATE nor an arbiter's FREEZE; nothing thaws but what waits. -/
theorem mapoutAndArbiterWrites : Obligations.MapoutAndArbiterWrites := by
  refine ⟨fun s x ht hx => ⟨_, mapoutRequest_takes ht hx, ?_⟩,
    fun s a on ht ha hq => ⟨_, arbiterFreeze_takes ht ha on, ?_⟩,
    fun s a hp ha => ⟨_, (exec_arbiterDrained a s).trans (powered_on hp), ?_⟩⟩
  · have htlp : Touches [.regs, .bwTotals, .bwWindow] (channelKeys 0) s (s.tlpIn 4) := State.tlpIn_touches
    have hbytes : HostBytes 4 s (s.tlpIn 4) := State.tlpIn_hostBytes
    have hwrote : HostWrote 4 [] s (s.tlpIn 4) := State.tlpIn_hostWrote
    generalize s.tlpIn 4 = u at htlp hbytes hwrote
    have hstate : u.rd .hbmState [x] = s.rd .hbmState [x] := htlp.regs _ _ hbmState_not_mem_channelKeys
    split
    · next h =>
      obtain ⟨hpending, hcause, hlogged, hrisk, htouch⟩ :=
        State.makePending_becomes (x := x) (c := 4) (hstate.trans h) (by decide)
      have hnow : u.aoNow = s.aoNow := htlp.only .aoNow (by decide)
      have hwritten : u.rd .intIlogWritten [] = s.rd .intIlogWritten [] := htlp.regs _ _ intIlogWritten_not_mem_channelKeys
      have hall : Touches (.riskEvents :: .bwTotals :: .bwWindow :: logFields) (pendingKeys x ++ channelKeys 0) s _ :=
        (htlp.mono (List.subset_append_right _ _)).trans (htouch.mono (List.subset_append_left _ _))
      refine ⟨hpending, hcause, hlogged.of_same hnow hwritten, ?_, hall.only, ?_, hall.regs⟩
      · rw [hrisk, hnow, htlp.only .riskEvents (by decide)]
      · rw [HostBytes, htouch.only .bwTotals (by decide)]
        exact hbytes
    · next h =>
      rw [State.makePending_not_healthy fun he => h (hstate.symm.trans he)]
      exact hwrote
  · rw [State.freeze_tlpIn_thaw ha hq]
    have hdrained : (s.tlpIn 4).rd .arbDrained [a] = s.rd .arbDrained [a] :=
      State.tlpIn_touches.regs _ _ arbDrained_not_mem_channelKeys
    exact ⟨State.freeze_arbFreeze .., hdrained ▸ State.freeze_arbDrained .., (State.freeze_onlyRegs ..).touches.hostWrote⟩
  · have hhas : Reg.arbDrained.has [a] = true := by simp [Reg.has, Reg.arbDrained, ha]
    rw [if_pos hhas, State.drained]
    simp only [State.flag, Bool.and_eq_true, beq_iff_eq, Option.isNone_iff_eq_none]
    split
    · exact ⟨(State.rd_wr_same ..).trans rfl, OnlyRegs.wr List.mem_cons_self⟩
    · rfl

end Sys2Proof.Machine
end

section
/-! PROOFS. Accepted management commands (R399, R401, R403). -/

namespace Sys2Proof.Machine

set_option Elab.async false

/-! How the module takes and answers a management command (R399, R401). -/

section

variable {s a t : State} {h : MgmtHeader} {type : Nat} {body : List Byte} {f : State → State} {seq d : Nat} {st : Status}

/-- The state in which a command of number seq runs: LAST_CMD_SEQ and CMDS_ACCEPTED have taken it. -/
def State.accept (s : State) (seq : Nat) : State := (s.wr .mgmtLastCmdSeq [] seq).count .mgmtCmdsAccepted [] 1

/-- LAST_CMD_SEQ and CMDS_ACCEPTED of t have taken a command of number seq that came in s. -/
structure Taken (seq : Nat) (s t : State) : Prop where
  last : t.rd .mgmtLastCmdSeq [] = seq
  count : t.rd .mgmtCmdsAccepted [] = satAdd 32 (s.rd .mgmtCmdsAccepted []) 1

theorem satAdd_lt {w v n : Nat} : satAdd w v n < 2 ^ w := by
  have : 0 < 2 ^ w := Nat.two_pow_pos w
  unfold satAdd
  split <;> omega

theorem State.accept_taken (hs : seq < 2 ^ 64) : Taken seq s (s.accept seq) := by
  have hne : Reg.mgmtLastCmdSeq.key [] ≠ Reg.mgmtCmdsAccepted.key [] := by decide
  refine ⟨?_, ?_⟩
  · rw [State.accept, State.rd_count_ne _ _ hne, State.rd_wr_same]
    exact Nat.mod_eq_of_lt hs
  · rw [State.accept, State.rd_count_same, State.rd_wr_ne _ _ hne.symm]
    exact Nat.mod_eq_of_lt satAdd_lt

theorem State.accept_onlyRegs (s : State) (seq : Nat) : OnlyRegs acceptKeys s (s.accept seq) :=
  OnlyRegs.trans (OnlyRegs.wr (by decide)) (OnlyRegs.wr (by decide))

/-- A command stays taken under what keeps the two fields. -/
theorem Taken.keep {fs : List Field} {ks : List Nat} (h : Taken seq s a) (ht : Touches fs ks a t)
    (hl : Reg.mgmtLastCmdSeq.key [] ∉ ks) (hc : Reg.mgmtCmdsAccepted.key [] ∉ ks) : Taken seq s t :=
  ⟨(ht.regs _ _ hl).trans h.last, (ht.regs _ _ hc).trans h.count⟩

/-- A command that verifies and is new runs; while BOOT_ERROR is 1 only STATUS_QUERY, RECOVERY and RESET do (R399, R403). -/
theorem State.command_runs (hup : s.rd .mgmtPortUp [] = 1) (hok : s.messageOk h type body = true)
    (hnew : s.rd .mgmtLastCmdSeq [] < h.seq)
    (hboot : s.rd .devBootError [] = 1 → type = 0x40 ∨ type = 0x4B ∨ type = 0x44) :
    s.command h type body f = f (s.accept h.seq) := by
  have hkept : (s.accept h.seq).rd .devBootError [] = s.rd .devBootError [] :=
    (State.accept_onlyRegs s h.seq).2 _ _ (by decide)
  have hruns : ¬ ((s.accept h.seq).rd .devBootError [] = 1 ∧ type ≠ 0x40 ∧ type ≠ 0x4B ∧ type ≠ 0x44) := by
    rw [hkept]
    rintro ⟨hb, h1, h2, h3⟩
    obtain h | h | h := hboot hb
    · exact h1 h
    · exact h2 h
    · exact h3 h
  unfold State.command
  rw [State.flag, hup, hok, if_neg (by decide), if_neg (by decide), if_neg (Nat.not_le.2 hnew)]
  exact if_neg hruns

theorem managed_on {f : State → State} (hp : s.power ≠ 0) : managed s f = .next (f s) := by
  rw [managed, if_neg hp]

theorem mgmtCommand_accepts (ha : Accepts s h type body) : mgmtCommand s h type body f = .next (f (s.accept h.seq)) := by
  obtain ⟨hp, hup, hok, hnew, hboot⟩ := ha
  rw [mgmtCommand, managed_on hp, State.command_runs hup hok hnew fun he => absurd he hboot]

theorem State.reply_up (hup : s.rd .mgmtPortUp [] = 1) : s.reply seq st d =
    s.emit (.mgmt (mgmtMessage s.key 0xC0 seq s.aoNow (leBytes 1 st.code ++ zeros 7 ++ leBytes 8 d))) := by
  rw [State.reply, State.flag, hup]
  rfl

theorem State.reply_replied (hup : s.rd .mgmtPortUp [] = 1) : Replied seq st d s (s.reply seq st d) :=
  ⟨[], by rw [State.reply_up hup, State.emit_out]⟩

theorem State.reply_touches (s : State) (seq : Nat) (st : Status) (d : Nat) {ks : List Nat} :
    Touches [.out] ks s (s.reply seq st d) := by
  unfold State.reply
  exact .ite (fun _ => State.emit_touches s _) .refl

/-- A reply to what a state with the same key, tick and output asked. -/
theorem Replied.of_onlyRegs {ks : List Nat} (h : Replied seq st d a t) (ho : OnlyRegs ks s a) : Replied seq st d s t := by
  obtain ⟨l, hl⟩ := h
  rw [ho.1 .out (by decide), ho.1 .key (by decide), ho.1 .aoNow (by decide)] at hl
  exact ⟨l, hl⟩

/-- A reply has left whatever leaves after it. -/
theorem Replied.of_prefix (h : Replied seq st d s a) (ho : a.out <+: t.out) : Replied seq st d s t := by
  obtain ⟨l, hl⟩ := h
  obtain ⟨m, hm⟩ := ho
  exact ⟨l ++ m, by rw [← hm, hl, List.append_assoc, List.cons_append]⟩

/-- A reply under the same key and tick answers, after what left before it. -/
theorem Replied.answered (h : Replied seq st d a t) (ho : s.out <+: a.out) (hk : a.key = s.key) (hn : a.aoNow = s.aoNow) :
    Answered seq st d s t := by
  obtain ⟨l, hl⟩ := h
  obtain ⟨m, hm⟩ := ho
  rw [← hm, hk, hn, List.append_assoc] at hl
  exact ⟨_, hl, List.mem_append_right _ List.mem_cons_self⟩

end

/-! What leaves the module only grows as an event is logged and reported (R300, R400). -/

section

variable {s : State}

theorem State.sendDatagram_out_prefix (s : State) (m : List Byte) : s.out <+: (s.sendDatagram m).out := by
  unfold State.sendDatagram
  split
  · exact List.prefix_append _ _
  · exact List.prefix_rfl

theorem State.report_out_prefix (s : State) (type : Nat) (body : List Byte) : s.out <+: (s.report type body).out := by
  unfold State.report
  split
  · exact List.prefix_rfl
  · extract_lets seq m q queued dropped
    have hout : (dropped.bump .mgmtReportsSent [] 1).out = s.out := by
      rw [State.bump_out]
      unfold dropped
      split
      · exact State.count_out ..
      · rfl
    exact hout ▸ State.sendDatagram_out_prefix _ m

theorem State.log_out_prefix (s : State) (type code addr tag uclass uindex detail : Nat) :
    s.out <+: (s.log type code addr tag uclass uindex detail).out := by
  unfold State.log
  extract_lets n e first entered
  have hout : (entered.wr .intIlogWritten [] n).out = s.out := State.wr_out ..
  exact hout ▸ State.report_out_prefix _ 0x01 e.bytes

theorem State.makePending_out_prefix (s : State) (x c : Nat) : s.out <+: (s.makePending x c).out := by
  by_cases h : s.rd .hbmState [x] = 0
  · rw [State.makePending_healthy h]
    have hout : ((s.wr .hbmState [x] 1).wr .hbmCause [x] c).out = s.out := by rw [State.wr_out, State.wr_out]
    have hlog := State.log_out_prefix ((s.wr .hbmState [x] 1).wr .hbmCause [x] c) 0x0D 1 0 0 9 x c
    rw [hout] at hlog
    generalize ((s.wr .hbmState [x] 1).wr .hbmCause [x] c).log 0x0D 1 0 0 9 x c = l at hlog
    rwa [(State.noteRisk_changes l 1 1) .out (by decide)]
  · rw [State.makePending_not_healthy h]

/-- The register fields that a report changes. -/
def sentKeys : List Nat := [Reg.mgmtReportsSent.key [], Reg.mgmtReportsDropped.key []]

theorem State.report_touches (s : State) (type : Nat) (body : List Byte) :
    Touches [.regs, .reports, .reportSeq, .out] sentKeys s (s.report type body) :=
  ⟨(State.report_does s type body Does.refl).only, RegsBut.refl.report (by decide) (by decide)⟩

/-- An entry of the attestation log, or LOG_FULL (R406). -/
theorem State.attest_touches (s : State) (kind : Nat) (d content : List Byte) :
    Touches [.regs, .attLog] [Reg.mgmtLogFull.key []] s (s.attest kind d content) := by
  unfold State.attest
  refine .ite (fun _ => ?_) (OnlyRegs.wr List.mem_cons_self).touches
  refine ChangesOnly.touches (fun f hf => ?_) rfl
  cases f
  case attLog => exact absurd (by decide) hf
  all_goals rfl

end

/-! The commands (R401, R403). -/

section

variable {s a t : State} {h : MgmtHeader}

theorem exec_mapout (h : MgmtHeader) (x : Nat) (s : State) :
    exec (.mapout h x) s = mgmtCommand s h 0x47 (leBytes 2 x) (fun s => s.mapoutCommand h.seq x) := rfl

theorem exec_mapoutClear (h : MgmtHeader) (x : Nat) (s : State) :
    exec (.mapoutClear h x) s = mgmtCommand s h 0x48 (leBytes 2 x) (fun s => s.mapoutClear h.seq x) := rfl

theorem exec_svnRaise (h : MgmtHeader) (v : Nat) (s : State) :
    exec (.svnRaise h v) s = mgmtCommand s h 0x49 (leBytes 4 v) (fun s => s.svnRaise h.seq v) := rfl

theorem exec_keySet (h : MgmtHeader) (k : List Byte) (s : State) :
    exec (.keySet h k) s = mgmtCommand s h 0x4A (slice k 0 32) (fun s => s.keySet h.seq k) := rfl

theorem exec_recovery (h : MgmtHeader) (o : Nat) (d : List Byte) (s : State) :
    exec (.recovery h o d) s = managed s fun s =>
      s.command h 0x4B (leBytes 4 o ++ zeros 4 ++ d) fun s => s.recover h.seq o d := rfl

theorem exec_statusQuery (h : MgmtHeader) (s : State) :
    exec (.statusQuery h) s = mgmtCommand s h 0x40 [] (fun s => s.statusQuery h.seq) := rfl


variable {x v o : Nat} {k d : List Byte}

theorem Accepts.portUp {type : Nat} {body : List Byte} (ha : Accepts s h type body) :
    (s.accept h.seq).rd .mgmtPortUp [] = 1 := by
  obtain ⟨-, hup, -⟩ := ha
  rw [(State.accept_onlyRegs s h.seq).2 _ _ (by decide), hup]

theorem hbmState_not_mem_acceptKeys : Reg.hbmState.key [x] ∉ acceptKeys := by
  simp only [acceptKeys, List.mem_cons, List.not_mem_nil, or_false, Reg.key, strideSum, Reg.hbmState, Reg.mgmtLastCmdSeq,
    Reg.mgmtCmdsAccepted]
  omega

/-- None of the fields that change as a channel becomes PENDING is of the management port, but the reports' counts. -/
theorem not_mem_pendingKeys {r : Reg} (hr : r ∈ [Reg.mgmtLastCmdSeq, Reg.mgmtCmdsAccepted, Reg.mgmtPortUp]) :
    r.key [] ∉ pendingKeys x := by
  have hoff : Reg.mgmtLastCmdSeq.key [] ∉ logKeys ∧ Reg.mgmtCmdsAccepted.key [] ∉ logKeys ∧
      Reg.mgmtPortUp.key [] ∉ logKeys := by decide
  simp only [pendingKeys, pendingMarks, List.mem_append, List.mem_cons, List.not_mem_nil, or_false] at hr ⊢
  obtain ⟨h1, h2, h3⟩ := hoff
  rintro (hm | hl)
  · simp only [Reg.key, strideSum, Reg.hbmState, Reg.hbmCause] at hm
    obtain rfl | rfl | rfl := hr <;> simp only [Reg.mgmtLastCmdSeq, Reg.mgmtCmdsAccepted, Reg.mgmtPortUp] at hm <;> omega
  · obtain rfl | rfl | rfl := hr
    · exact h1 hl
    · exact h2 hl
    · exact h3 hl

/-- MAPOUT of a HEALTHY channel. -/
theorem mapout_acts (ha : Accepts s h 0x47 (leBytes 2 x)) (hq : h.seq < 2 ^ 64) (hx : x < 640) (hs : s.rd .hbmState [x] = 0) :
    ∃ t, exec (.mapout h x) s = .next t ∧ Taken h.seq s t ∧ Answered h.seq .done 0 s t ∧ t.rd .hbmState [x] = 1 ∧
      t.rd .hbmCause [x] = 4 ∧ Logged 0x0D 1 0 s t ∧
      Touches (.riskEvents :: logFields) (acceptKeys ++ pendingKeys x) s t := by
  have htaken := State.accept_taken (s := s) hq
  have hacc := State.accept_onlyRegs s h.seq
  have hup := ha.portUp
  have hexec : exec (.mapout h x) s = .next (((s.accept h.seq).makePending x 4).reply h.seq .done 0) := by
    rw [exec_mapout, mgmtCommand_accepts ha, State.mapoutCommand, if_neg (by omega)]
  generalize s.accept h.seq = a at *
  have hout := State.makePending_out_prefix a x 4
  obtain ⟨hstate, hcause, hlogged, -, htouch⟩ :=
    State.makePending_becomes (x := x) (c := 4) ((hacc.2 _ _ hbmState_not_mem_acceptKeys).trans hs) (by decide)
  generalize a.makePending x 4 = b at *
  have hreply : Touches [.out] [] b (b.reply h.seq .done 0) := State.reply_touches ..
  have hbup : b.rd .mgmtPortUp [] = 1 := (htouch.regs _ _ (not_mem_pendingKeys (by decide))).trans hup
  have hrep : Replied h.seq .done 0 b (b.reply h.seq .done 0) := State.reply_replied hbup
  generalize b.reply h.seq .done 0 = t at *
  have hkey : b.key = s.key := (htouch.only .key (by decide)).trans (hacc.1 .key (by decide))
  have hnow : b.aoNow = s.aoNow := (htouch.only .aoNow (by decide)).trans (hacc.1 .aoNow (by decide))
  have hall : Touches (.riskEvents :: logFields) (acceptKeys ++ pendingKeys x) s b :=
    (hacc.touches.mono (fs := [.regs]) (List.subset_append_left ..)).trans (htouch.mono (List.subset_append_right ..))
  refine ⟨t, hexec, ?_, hrep.answered ((hacc.1 .out (by decide)) ▸ hout) hkey hnow, ?_, ?_, ?_,
    hall.trans (hreply.mono (List.nil_subset _))⟩
  · have hpending := htaken.keep htouch (not_mem_pendingKeys (by decide)) (not_mem_pendingKeys (by decide))
    exact hpending.keep hreply (by simp) (by simp)
  · exact (hreply.regs _ _ (by simp)).trans hstate
  · exact (hreply.regs _ _ (by simp)).trans hcause
  · exact (hlogged.of_same (hacc.1 .aoNow (by decide)) (hacc.2 _ _ (by decide))).of_ilog (hreply.only .ilog (by decide))

/-- A command of number seq was taken in s and replied to; beside that only the listed fields and register fields changed. -/
structure Acted (seq : Nat) (st : Status) (d : Nat) (fs : List Field) (ks : List Nat) (s t : State) : Prop where
  taken : Taken seq s t
  replied : Replied seq st d s t
  touches : Touches (.regs :: .out :: fs) (acceptKeys ++ ks) s t

/-- The register fields that the taking of a command and its reply need kept. -/
def acceptRegs : List Reg := [.mgmtLastCmdSeq, .mgmtCmdsAccepted, .mgmtPortUp]

section

variable {seq n : Nat} {st : Status} {fs gs : List Field} {ks ls : List Nat}

theorem Touches.subset (h : Touches fs ks s t) (hf : fs ⊆ gs) (hk : ks ⊆ ls) : Touches gs ls s t :=
  ⟨fun f hn => h.only f fun hm => hn (hf hm), fun r i hn => h.regs r i fun hm => hn (hk hm)⟩

theorem Taken.keep_of_acceptRegs (h : Taken seq s a) (ht : Touches fs ks a t) (hk : ∀ r ∈ acceptRegs, r.key [] ∉ ks) :
    Taken seq s t :=
  h.keep ht (hk _ (by simp [acceptRegs])) (hk _ (by simp [acceptRegs]))

/-- An accepted command does what it does and replies. -/
theorem State.reply_acted (hup : s.rd .mgmtPortUp [] = 1) (hq : h.seq < 2 ^ 64) (hb : Touches fs ks (s.accept h.seq) a)
    (hk : ∀ r ∈ acceptRegs, r.key [] ∉ ks) (hf : .key ∉ fs ∧ .out ∉ fs ∧ .aoNow ∉ fs) :
    Acted h.seq st n fs ks s (a.reply h.seq st n) := by
  obtain ⟨hkey, hout, hnow⟩ := hf
  have htaken := (State.accept_taken (s := s) hq).keep_of_acceptRegs hb hk
  have hacc := State.accept_onlyRegs s h.seq
  have haup : a.rd .mgmtPortUp [] = 1 :=
    (hb.regs _ _ (hk _ (by simp [acceptRegs]))).trans ((hacc.2 _ _ (by decide)).trans hup)
  have hreply : Touches [.out] [] a (a.reply h.seq st n) := State.reply_touches ..
  obtain ⟨l, hl⟩ : Replied h.seq st n a (a.reply h.seq st n) := State.reply_replied haup
  generalize a.reply h.seq st n = t at *
  refine ⟨htaken.keep hreply (by simp) (by simp), ⟨l, ?_⟩, ?_⟩
  · rw [hl, hb.only .key hkey, hb.only .out hout, hb.only .aoNow hnow, hacc.1 .key (by decide), hacc.1 .out (by decide),
      hacc.1 .aoNow (by decide)]
  · have hin : Touches (.regs :: .out :: fs) (acceptKeys ++ ks) s (s.accept h.seq) :=
      hacc.touches (fs := [.regs]) |>.subset (by simp) (List.subset_append_left ..)
    exact (hin.trans (hb.subset (by simp) (List.subset_append_right ..))).trans (hreply.subset (by simp) (List.nil_subset _))

/-- What follows a reply keeps it. -/
theorem Acted.trans (h : Acted seq st n fs ks s a) (ht : Touches gs ls a t) (hout : a.out <+: t.out)
    (hk : ∀ r ∈ acceptRegs, r.key [] ∉ ls) : Acted seq st n (fs ++ gs) (ks ++ ls) s t := by
  refine ⟨h.taken.keep_of_acceptRegs ht hk, h.replied.of_prefix hout, (h.touches.subset ?_ ?_).trans (ht.subset ?_ ?_)⟩
  all_goals intro x hx; simp only [List.mem_cons, List.mem_append] at hx ⊢; tauto

end

theorem State.reply_changes (s : State) (seq : Nat) (st : Status) (n : Nat) : ChangesOnly [.out] s (s.reply seq st n) :=
  (State.reply_touches s seq st n (ks := [])).only

/-- MAPOUT_CLEAR. -/
theorem mapoutClear_acts (ha : Accepts s h 0x48 (leBytes 2 x)) (hq : h.seq < 2 ^ 64) :
    ∃ t, exec (.mapoutClear h x) s = .next t ∧ t.flashMap = s.flashMap.filter (fun y => y != x) ∧
      Acted h.seq (if s.flashMap.contains x then .done else .badParam) 0 [.flashMap] [] s t := by
  obtain ⟨-, hup, -⟩ := id ha
  have hmap : (s.accept h.seq).flashMap = s.flashMap := (State.accept_onlyRegs s h.seq).1 .flashMap (by decide)
  have hexec : exec (.mapoutClear h x) s = .next ((s.accept h.seq).mapoutClear h.seq x) := by
    rw [exec_mapoutClear, mgmtCommand_accepts ha]
  refine ⟨_, hexec, ?_⟩
  unfold State.mapoutClear
  rw [hmap]
  split
  · refine ⟨State.reply_changes _ _ _ _ .flashMap (by decide),
      State.reply_acted hup hq (ChangesOnly.touches (fun f hf => ?_) rfl) (by simp) (by decide)⟩
    cases f
    case flashMap => exact absurd (by decide) hf
    all_goals rfl
  · next hc =>
    refine ⟨(State.reply_changes _ _ _ _ .flashMap (by decide)).trans (hmap.trans ?_),
      State.reply_acted hup hq .refl (by simp) (by decide)⟩
    refine (List.filter_eq_self.2 fun y hy => ?_).symm
    have : y ≠ x := fun he => hc (by simpa using he ▸ hy)
    simpa using this

/-- SVN_MIN takes a value, with an entry of the attestation log where it changes. -/
theorem State.svnTo_raises {m : Nat} (hv : v < 2 ^ 32) (hm : a.rd .mgmtSvnMin [] = m) :
    (if v = m then a else (a.wr .mgmtSvnMin [] v).attest 5 [] (leBytes 4 v)).rd .mgmtSvnMin [] = v ∧
      Touches [.regs, .attLog] [Reg.mgmtSvnMin.key [], Reg.mgmtLogFull.key []] a
        (if v = m then a else (a.wr .mgmtSvnMin [] v).attest 5 [] (leBytes 4 v)) := by
  split
  · next he => exact ⟨hm.trans he.symm, .refl⟩
  · have hlog := State.attest_touches (a.wr .mgmtSvnMin [] v) 5 [] (leBytes 4 v)
    have hwr : OnlyRegs [Reg.mgmtSvnMin.key []] a (a.wr .mgmtSvnMin [] v) := OnlyRegs.wr List.mem_cons_self
    refine ⟨?_, (hwr.touches (fs := [.regs]) |>.mono (by simp)).trans (hlog.mono (by simp))⟩
    rw [hlog.regs _ _ (by decide), State.rd_wr_same]
    exact Nat.mod_eq_of_lt hv

/-- SVN_RAISE. -/
theorem svnRaise_acts (ha : Accepts s h 0x49 (leBytes 4 v)) (hq : h.seq < 2 ^ 64) (hv : v < 2 ^ 32) :
    ∃ t, exec (.svnRaise h v) s = .next t ∧
      if s.rd .mgmtSvnMin [] ≤ v ∧ v ≤ s.running.svn then t.rd .mgmtSvnMin [] = v ∧
        Acted h.seq .done 0 [.regs, .attLog] [Reg.mgmtSvnMin.key [], Reg.mgmtLogFull.key []] s t
      else Acted h.seq .badParam 0 [] [] s t := by
  obtain ⟨-, hup, -⟩ := id ha
  have hacc := State.accept_onlyRegs s h.seq
  have hmin : (s.accept h.seq).rd .mgmtSvnMin [] = s.rd .mgmtSvnMin [] := hacc.2 _ _ (by decide)
  have hexec : exec (.svnRaise h v) s = .next ((s.accept h.seq).svnRaise h.seq v) := by
    rw [exec_svnRaise, mgmtCommand_accepts ha]
  refine ⟨_, hexec, ?_⟩
  unfold State.svnRaise
  dsimp only
  rw [hmin, hacc.1 .running (by decide)]
  by_cases hin : s.rd .mgmtSvnMin [] ≤ v ∧ v ≤ s.running.svn
  · rw [if_pos hin, if_neg (by omega)]
    obtain ⟨hsvn, htouch⟩ := State.svnTo_raises (v := v) (a := s.accept h.seq) hv hmin
    refine ⟨?_, State.reply_acted hup hq htouch (by decide) (by decide)⟩
    exact ((State.reply_touches _ _ _ _ (ks := [])).regs _ _ (by simp)).trans hsvn
  · rw [if_neg hin, if_pos (by omega)]
    exact State.reply_acted hup hq .refl (by simp) (by decide)

theorem slice_all {n : Nat} (hk : k.length = n) : slice k 0 n = k := by
  simp [slice, ← hk, zeros]

/-- KEY_SET. -/
theorem keySet_acts (hk : k.length = 32) (ha : Accepts s h 0x4A k) (hq : h.seq < 2 ^ 64) :
    ∃ t, exec (.keySet h k) s = .next t ∧ t.key = k ∧
      Acted h.seq .done 0 [.key, .regs, .attLog] [Reg.mgmtLogFull.key []] s t := by
  obtain ⟨-, hup, -⟩ := id ha
  have hslice : slice k 0 32 = k := slice_all hk
  have hexec : exec (.keySet h k) s = .next ((s.accept h.seq).keySet h.seq k) := by
    rw [exec_keySet, hslice, mgmtCommand_accepts ha]
  have hacted : Acted h.seq .done 0 [] [] s ((s.accept h.seq).reply h.seq .done 0) :=
    State.reply_acted hup hq .refl (by simp) (by decide)
  refine ⟨_, hexec, ?_⟩
  unfold State.keySet
  dsimp only
  generalize (s.accept h.seq).reply h.seq .done 0 = a at hacted
  rw [hslice]
  have hkey : Touches [.key, .regs, .attLog] [Reg.mgmtLogFull.key []] a { a with key := k } := by
    refine ChangesOnly.touches (fun f hf => ?_) rfl
    cases f
    case key => exact absurd (by decide) hf
    all_goals rfl
  have hlog := State.attest_touches { a with key := k } 6 [] (leBytes 8 h.seq)
  generalize { a with key := k }.attest 6 [] (leBytes 8 h.seq) = t at hlog
  have hout : t.out = a.out := hlog.only .out (by decide)
  exact ⟨hlog.only .key (by decide), hacted.trans (hkey.trans hlog.widen) (hout ▸ List.prefix_rfl) (by decide)⟩

/-- A chunk of RECOVERY while BOOT_ERROR is 1. -/
theorem recovery_acts (hp : s.power ≠ 0) (hup : s.rd .mgmtPortUp [] = 1)
    (hok : s.messageOk h 0x4B (leBytes 4 o ++ zeros 4 ++ d) = true) (hnew : s.rd .mgmtLastCmdSeq [] < h.seq)
    (hboot : s.rd .devBootError [] = 1) (ho : o ≠ 0xFFFFFFFF) (hroom : o + d.length ≤ 28 * 1048576) (hq : h.seq < 2 ^ 64) :
    ∃ t, exec (.recovery h o d) s = .next t ∧ t.recovery = s.recovery.write o d ∧
      Acted h.seq .done 0 [.recovery] [] s t := by
  have hacc := State.accept_onlyRegs s h.seq
  have hkept : (s.accept h.seq).rd .devBootError [] = 1 := (hacc.2 _ _ (by decide)).trans hboot
  have hexec : exec (.recovery h o d) s = .next ((s.accept h.seq).recover h.seq o d) := by
    rw [exec_recovery, managed_on hp, State.command_runs hup hok hnew fun _ => .inr (.inl rfl)]
  refine ⟨_, hexec, ?_⟩
  unfold State.recover
  rw [if_neg (not_not_intro hkept), if_neg fun hc => ho hc.1, if_neg (Nat.not_lt.2 hroom), hacc.1 .recovery (by decide)]
  refine ⟨State.reply_changes _ _ _ _ .recovery (by decide),
    State.reply_acted hup hq (ChangesOnly.touches (fun f hf => ?_) rfl) (by simp) (by decide)⟩
  cases f
  case recovery => exact absurd (by decide) hf
  all_goals rfl

theorem State.accept_healthWord (s : State) (seq : Nat) : (s.accept seq).healthWord = s.healthWord := by
  have hacc := State.accept_onlyRegs s seq
  unfold State.healthWord
  rw [hacc.2 .intClustersInService [] (by decide), hacc.2 .intSuspectCount [] (by decide), hacc.2 .intFencedCount [] (by decide),
    hacc.2 .intRisk [] (by decide), hacc.2 .intBjOverdue [] (by decide), hacc.2 .intWithheldAny [] (by decide)]

/-- STATUS_QUERY. -/
theorem statusQuery_acts (ha : Accepts s h 0x40 []) (hq : h.seq < 2 ^ 64) :
    ∃ t, exec (.statusQuery h) s = .next t ∧
      Acted h.seq .done s.healthWord [.regs, .reports, .reportSeq, .out] sentKeys s t := by
  obtain ⟨-, hup, -⟩ := id ha
  have hexec : exec (.statusQuery h) s = .next (((s.accept h.seq).reply h.seq .done s.healthWord).summary) := by
    rw [exec_statusQuery, mgmtCommand_accepts ha, State.statusQuery, State.accept_healthWord]
  have hacted : Acted h.seq .done s.healthWord [] [] s ((s.accept h.seq).reply h.seq .done s.healthWord) :=
    State.reply_acted hup hq .refl (by simp) (by decide)
  exact ⟨_, hexec, hacted.trans (State.report_touches ..) (State.report_out_prefix ..) (by decide)⟩

end

/-- Settles O35: an accepted command runs in the state that counts it, and its reply leaves under the key and at the tick of
the command. -/
theorem acceptedCommandsAct : Obligations.AcceptedCommandsAct := by
  refine fun s h hq => ⟨fun x ha hx hs => ?_, fun x ha => ?_, fun v ha hv => ?_, fun k hk ha => ?_,
    fun o d hp hup hok hnew hboot ho hroom => ?_, fun ha => ?_⟩
  · obtain ⟨t, he, ⟨hlast, hcount⟩, hans, hstate, hcause, hlogged, htouch⟩ := mapout_acts ha hq hx hs
    exact ⟨t, he, ⟨hlast, hcount⟩, hans, hstate, hcause, hlogged, htouch.only, htouch.regs⟩
  · obtain ⟨t, he, hmap, ⟨hlast, hcount⟩, hrep, htouch⟩ := mapoutClear_acts ha hq
    refine ⟨t, he, ⟨hlast, hcount⟩, ?_, fun y hy => ?_, hrep, htouch.only.mono (by decide), htouch.regs⟩
    · simp [hmap]
    · simp [hmap, List.contains_eq_mem, hy]
  · obtain ⟨t, he, hif⟩ := svnRaise_acts ha hq hv
    split at hif
    · next hin =>
      obtain ⟨hsvn, ⟨hlast, hcount⟩, hrep, htouch⟩ := hif
      refine ⟨t, he, ⟨hlast, hcount⟩, ?_⟩
      rw [if_pos hin]
      exact ⟨hsvn, hrep, htouch.only.mono (by decide)⟩
    · next hin =>
      obtain ⟨⟨hlast, hcount⟩, hrep, htouch⟩ := hif
      refine ⟨t, he, ⟨hlast, hcount⟩, ?_⟩
      rw [if_neg hin]
      exact ⟨hrep, htouch.only, htouch.regs⟩
  · obtain ⟨t, he, hkey, ⟨hlast, hcount⟩, hrep, htouch⟩ := keySet_acts hk ha hq
    exact ⟨t, he, ⟨hlast, hcount⟩, hkey, hrep, htouch.only.mono (by decide)⟩
  · obtain ⟨t, he, hrec, ⟨hlast, hcount⟩, hrep, htouch⟩ := recovery_acts hp hup hok hnew hboot ho hroom hq
    refine ⟨t, he, ⟨hlast, hcount⟩, ?_, fun x hx => ?_, hrep, htouch.only, htouch.regs⟩
    · rw [hrec, Mem.read_write_same]
    · rw [hrec, Mem.byte_write_out _ _ hx]
  · obtain ⟨t, he, ⟨hlast, hcount⟩, hrep, htouch⟩ := statusQuery_acts ha hq
    exact ⟨t, he, ⟨hlast, hcount⟩, hrep, htouch.only.mono (by decide), htouch.regs⟩

end Sys2Proof.Machine
end

section
/-! PROOFS. Where nothing waits for an event, nothing goes on. -/

namespace Sys2Proof.Machine

set_option Elab.async false

/-! Where nothing waits for an event, nothing goes on (R154, R184, R196, R230, R271, R311, R320, R392). -/

section

variable {s t : State}

/-- A fold whose steps keep the state at every element of the list keeps it. -/
theorem foldl_kept {β : Type} {f : State → β → State} {l : List β} (h : ∀ b ∈ l, f s b = s) : l.foldl f s = s := by
  induction l with
  | nil => rfl
  | cons b l ih =>
    rw [List.foldl_cons, h b List.mem_cons_self]
    exact ih fun c hc => h c (List.mem_cons_of_mem _ hc)

namespace Settled

variable (h : Settled s)

include h

theorem settleStreams : s.settleStreams = s := by
  unfold State.settleStreams
  refine foldl_kept fun p hp => ?_
  obtain ⟨hp, hsel⟩ := List.mem_filter.1 hp
  obtain ⟨hrun, hstream⟩ := (Bool.and_eq_true_iff).1 hsel
  obtain hop | ⟨⟨a, hop⟩, -⟩ | ⟨hop, -⟩ := h.packets p hp (by simpa using hrun)
  · cases ho : p.op with
    | product o c x y =>
      rw [ho] at hop hstream
      simp [standsAlone] at hop hstream
      exact absurd hop hstream
    | _ => simp [ho] at hstream
  · simp [hop] at hstream
  · simp [hop] at hstream

theorem settleLaunches : s.settleLaunches = s := by
  unfold State.settleLaunches
  refine foldl_kept fun p hp => ?_
  obtain ⟨hp, hrun⟩ := List.mem_filter.1 hp
  obtain hop | ⟨⟨a, hop⟩, hcoll⟩ | ⟨hop, -⟩ := h.packets p hp (by simpa using hrun)
  · cases ho : p.op with
    | collLaunch a =>
      rw [ho] at hop
      cases hop
    | _ => rfl
  · rw [hop]
    exact if_pos hcoll
  · rw [hop]

theorem settleDigests : s.settleDigests = s := by
  unfold State.settleDigests
  refine foldl_kept fun p hp => ?_
  obtain ⟨hp, hrun⟩ := List.mem_filter.1 hp
  obtain hop | ⟨⟨a, hop⟩, -⟩ | ⟨hop, -⟩ := h.packets p hp (by simpa using hrun)
  · cases ho : p.op with
    | digest a n d =>
      rw [ho] at hop
      cases hop
    | _ => rfl
  · rw [hop]
  · rw [hop]

theorem agreeVerdict : s.agreeVerdict = s := by
  unfold State.agreeVerdict
  cases hq : s.step with
  | none => rfl
  | some q =>
    dsimp only
    cases hv : (if s.closeHeld then none else q.verdict) with
    | none => rfl
    | some v =>
      have hverdict : q.verdict = some v := by
        split at hv
        · cases hv
        · exact hv
      dsimp only
      rw [h.verdict q v hq hverdict]

theorem resumeCommit : s.resumeCommit = s := by
  unfold State.resumeCommit
  cases hc : s.commit with
  | none => rfl
  | some c =>
    dsimp only
    rw [h.commit c hc]
    rfl

theorem readCopy : s.readCopy = s := by
  unfold State.readCopy
  cases hc : s.copy with
  | none => rfl
  | some c =>
    dsimp only
    cases hp : c.pid with
    | none => rfl
    | some pid =>
      dsimp only
      refine if_pos ?_
      obtain hn | ha | hs := h.copy c hc
      · rw [hp] at hn
        cases hn
      · exact .inl ha
      · exact .inr (.inl hs)

theorem startCopies : s.startCopies = s := by
  have hnone : s.flight.filter (fun p => p.phase == .running && p.op == .shroudCopy &&
      !s.copies.any (fun c => c.pid == some p.pid)) = [] := by
    refine List.filter_eq_nil_iff.2 fun p hp => ?_
    simp only [Bool.and_eq_true, beq_iff_eq, Bool.not_eq_true', not_and, Bool.not_eq_false, and_imp]
    intro hrun hcopy
    obtain hop | ⟨⟨a, hop⟩, -⟩ | ⟨-, hany⟩ := h.packets p hp hrun
    · rw [hcopy] at hop
      cases hop
    · rw [hcopy] at hop
      cases hop
    · exact hany
  unfold State.startCopies
  rw [hnone, List.foldl_nil]

theorem restoreGo : s.restoreGo = s := by
  unfold State.restoreGo
  cases hr : s.restore with
  | none => rfl
  | some r =>
    obtain ⟨hchecked, hready⟩ := h.restore r hr
    simp only [hchecked, hready, Bool.not_false, if_true, true_or]

theorem settleFences : s.settleFences = s := by
  unfold State.settleFences
  refine foldl_kept fun k hk => if_neg ?_
  rintro ⟨hfenced, hd, -⟩
  exact hd (h.fences k (List.mem_range.1 hk) hfenced)

theorem settleSoft : s.settleSoft = s := by
  have hnone : s.softWaits = false := by
    unfold State.softWaits
    refine List.any_eq_false.2 fun p hp => ?_
    cases ho : p.op with
    | deviceSoftReset =>
      cases hrun : p.phase with
      | running =>
        obtain hop | ⟨⟨a, hop⟩, -⟩ | ⟨hop, -⟩ := h.packets p hp hrun <;> rw [ho] at hop <;> cases hop
      | _ => simp
    | _ => simp
  refine if_neg ?_
  rw [hnone]
  exact fun hc => Bool.false_ne_true hc.1

theorem settle : s.settle = s := by
  rw [State.settle, State.goCopies, h.agreeVerdict, h.resumeCommit, h.readCopy, h.startCopies, h.restoreGo, h.settleFences,
    h.settleSoft]

theorem after : s.after = s := by
  rw [State.after, h.settleStreams, h.settleLaunches, h.settleDigests, h.settle]

end Settled

/-- The fields that tell whether something waits for an event. -/
def settledFields : List Field := [.flight, .colls, .copy, .copyWas, .commit, .verdicts, .step, .restore]

/-- The register fields that tell it: members and rank of the group, and the engines' health and domains. -/
def settledKeys : List Nat :=
  [Reg.grpMembers.key [], Reg.grpRank.key []] ++
  ((List.range 20).map (fun k => [Reg.unitHstate.key [56 + k], Reg.domDstate.key [56 + k]])).flatten

/-- A machine stays settled under what keeps them. -/
theorem Settled.of_touches {fs : List Field} {ks : List Nat} (h : Settled s) (ht : Touches fs ks s t)
    (hf : ∀ f ∈ settledFields, f ∉ fs) (hk : ∀ k ∈ settledKeys, k ∉ ks) : Settled t := by
  have hflight : t.flight = s.flight := ht.only .flight (hf _ (by decide))
  have hcolls : t.colls = s.colls := ht.only .colls (hf _ (by decide))
  have hcopy : t.copy = s.copy := ht.only .copy (hf _ (by decide))
  have hcopies : t.copies = s.copies := by rw [State.copies, hcopy, ht.only .copyWas (hf _ (by decide)), State.copies]
  have hcommit : t.commit = s.commit := ht.only .commit (hf _ (by decide))
  have hverdicts : t.verdicts = s.verdicts := ht.only .verdicts (hf _ (by decide))
  have hstep : t.step = s.step := ht.only .step (hf _ (by decide))
  have hrestore : t.restore = s.restore := ht.only .restore (hf _ (by decide))
  have hmembers : t.rd .grpMembers [] = s.rd .grpMembers [] := ht.regs _ _ (hk _ (by decide))
  have hrank : t.rd .grpRank [] = s.rd .grpRank [] := ht.regs _ _ (hk _ (by decide))
  refine ⟨?_, ?_, ?_, ?_, ?_, fun k hk20 hfenced => ?_⟩
  · rw [hflight, hcolls, hcopies]
    exact h.packets
  · rw [hcommit]
    exact h.commit
  · rw [hstep, hverdicts, hmembers, hrank]
    exact h.verdict
  · rw [hcopy]
    exact h.copy
  · rw [hrestore]
    exact h.restore
  · have hmem : ∀ r ∈ [Reg.unitHstate, Reg.domDstate], r.key [56 + k] ∈ settledKeys := by
      intro r hr
      refine List.mem_append_right _ (List.mem_flatten.2 ⟨_, List.mem_map.2 ⟨k, List.mem_range.2 hk20, rfl⟩, ?_⟩)
      obtain rfl | rfl := by simpa using hr
      · simp
      · simp
    have hhealth : t.fenced (56 + k) = s.fenced (56 + k) := by
      rw [State.fenced, State.fenced, ht.regs _ _ (hk _ (hmem _ (by simp)))]
    rw [ht.regs _ _ (hk _ (hmem _ (by simp)))]
    exact h.fences k hk20 (hhealth ▸ hfenced)

end

end Sys2Proof.Machine
end

section
/-! PROOFS. The thermal states of a stack (R229). -/

namespace Sys2Proof.Machine

set_option Elab.async false

/-! A stack's reading (R229). -/

section

variable {s a t : State} {k c : Nat}

theorem exec_stackTempSample (k c : Nat) (s : State) : exec (.stackTempSample k c) s =
    powered s (fun s => if k < 20 then ((s.stackReading k (c % 256)).releaseHeld).after else s) := rfl

theorem State.slowCheck_none (h : s.colls = []) : s.slowCheck = s := by
  unfold State.slowCheck
  rw [h, List.map_nil, ← h, List.filter_eq_nil_iff.2 (by simp [h]), List.foldl_nil, ite_self]

/-- A stack's reading is stored with its thermal state and THROTTLED. -/
def State.markTemp (s : State) (k c now : Nat) : State :=
  ((s.wr .stkTemp [k] c).wr .stkTstate [k] now).wr .engThrottled [k / 5, k % 5] (b2n (now == 1))

/-- An entry to a thermal state is counted and noted for the risk estimate where it happens. -/
def State.countEntry (s : State) (happens : Prop) [Decidable happens] (r : Reg) (k kind : Nat) : State :=
  if happens then (s.bump r [k] 1).noteRisk kind 1 else s

/-- WARN is entered from below it, and passed through at once from NORMAL to CRIT. -/
def entersWarn (was now : Nat) : Bool := now == 1 && was != 1 || (now == 2 && was == 0)

/-- The register fields that a reading changes. -/
def tempKeys (k : Nat) : List Nat :=
  [Reg.stkTemp.key [k], Reg.stkTstate.key [k], Reg.engThrottled.key [k / 5, k % 5], Reg.stkWarnEntries.key [k],
    Reg.stkCritEntries.key [k]] ++ sentKeys

theorem tempKeys_nodup : ∀ k < 20, (tempKeys k).Nodup := by decide

theorem tempKeys_not_settled : ∀ k < 20, ∀ x ∈ settledKeys, x ∉ tempKeys k := by decide +kernel

theorem State.countEntry_touches (s : State) (happens : Prop) [Decidable happens] (r : Reg) (k kind : Nat) :
    Touches [.regs, .riskEvents] [r.key [k]] s (s.countEntry happens r k kind) :=
  .ite (fun _ => ((OnlyRegs.wr List.mem_cons_self).touches).trans ((State.noteRisk_changes _ _ _).touches rfl).widen) .refl

theorem State.countEntry_rd_same (s : State) (happens : Prop) [Decidable happens] (r : Reg) (k kind : Nat) :
    (s.countEntry happens r k kind).rd r [k] = if happens then (s.rd r [k] + 1) % 2 ^ r.width else s.rd r [k] := by
  unfold State.countEntry
  split
  · exact State.rd_bump_same ..
  · rfl

theorem State.countEntry_rd_ne (s : State) {happens : Prop} [Decidable happens] {r q : Reg} {i kind : Nat} {idx : List Nat}
    (h : q.key idx ≠ r.key [i]) : (s.countEntry happens r i kind).rd q idx = s.rd q idx :=
  (State.countEntry_touches ..).regs _ _ (by simpa using h)

theorem State.markTemp_onlyRegs (s : State) (k c now : Nat) : OnlyRegs (tempKeys k) s (s.markTemp k c now) :=
  ((OnlyRegs.wr (by simp [tempKeys])).trans (OnlyRegs.wr (by simp [tempKeys]))).trans (OnlyRegs.wr (by simp [tempKeys]))

/-- What a reading that changes the thermal state does. -/
def State.changeTemp (s : State) (k c was now : Nat) : State :=
  (((s.markTemp k c now).countEntry (entersWarn was now) .stkWarnEntries k 3).countEntry (now = 2) .stkCritEntries k
    4).reportThermal (5 + k) now c

theorem State.changeTemp_touches (s : State) (k c was now : Nat) :
    Touches [.regs, .riskEvents, .reports, .reportSeq, .out] (tempKeys k) s (s.changeTemp k c was now) := by
  have hmark := State.markTemp_onlyRegs s k c now
  have hwarn := State.countEntry_touches (s.markTemp k c now) (entersWarn was now) .stkWarnEntries k 3
  have hcrit := State.countEntry_touches ((s.markTemp k c now).countEntry (entersWarn was now) .stkWarnEntries k 3) (now = 2)
    .stkCritEntries k 4
  exact ((hmark.touches.trans (hwarn.mono (by simp [tempKeys]))).trans (hcrit.mono (by simp [tempKeys]))).trans
    ((State.report_touches ..).mono (List.subset_append_right ..))

theorem State.changeTemp_reads (hk : k < 20) (hc : c < 2 ^ 8) {was now : Nat} (hn : now < 2 ^ 2) :
    (s.changeTemp k c was now).rd .stkTemp [k] = c ∧ (s.changeTemp k c was now).rd .stkTstate [k] = now ∧
    (s.changeTemp k c was now).rd .engThrottled [k / 5, k % 5] = b2n (now == 1) ∧
    (s.changeTemp k c was now).rd .stkCritEntries [k] =
      (if now = 2 then (s.rd .stkCritEntries [k] + 1) % 2 ^ 32 else s.rd .stkCritEntries [k]) ∧
    (s.changeTemp k c was now).rd .stkWarnEntries [k] =
      (if entersWarn was now then (s.rd .stkWarnEntries [k] + 1) % 2 ^ 32 else s.rd .stkWarnEntries [k]) := by
  have hdistinct := tempKeys_nodup k hk
  simp only [tempKeys, sentKeys, List.cons_append, List.nil_append, List.nodup_cons, List.mem_cons, List.not_mem_nil, or_false,
    not_or] at hdistinct
  obtain ⟨⟨hTS, hTE, hTW, hTC, hT, hT'⟩, ⟨hSE, hSW, hSC, hS, hS'⟩, ⟨hEW, hEC, hE, hE'⟩, ⟨hWC, hW, hW'⟩, ⟨hC, hC'⟩, -⟩ :=
    hdistinct
  have hreport {x : State} {type : Nat} {body : List Byte} {r : Reg} {idx : List Nat}
      (h : r.key idx ≠ Reg.mgmtReportsSent.key []) (h' : r.key idx ≠ Reg.mgmtReportsDropped.key []) :
      (x.report type body).rd r idx = x.rd r idx := (State.report_touches ..).regs _ _ (by simp [sentKeys, h, h'])
  unfold State.changeTemp State.reportThermal
  refine ⟨?_, ?_, ?_, ?_, ?_⟩
  · rw [hreport hT hT', State.countEntry_rd_ne _ hTC, State.countEntry_rd_ne _ hTW, State.markTemp, State.rd_wr_ne _ _ hTE,
      State.rd_wr_ne _ _ hTS, State.rd_wr_same]
    exact Nat.mod_eq_of_lt hc
  · rw [hreport hS hS', State.countEntry_rd_ne _ hSC, State.countEntry_rd_ne _ hSW, State.markTemp, State.rd_wr_ne _ _ hSE,
      State.rd_wr_same]
    exact Nat.mod_eq_of_lt hn
  · rw [hreport hE hE', State.countEntry_rd_ne _ hEC, State.countEntry_rd_ne _ hEW, State.markTemp, State.rd_wr_same]
    cases now == 1 <;> rfl
  · rw [hreport hC hC', State.countEntry_rd_same, State.countEntry_rd_ne _ (Ne.symm hWC), State.markTemp,
      State.rd_wr_ne _ _ (Ne.symm hEC), State.rd_wr_ne _ _ (Ne.symm hSC), State.rd_wr_ne _ _ (Ne.symm hTC)]
    rfl
  · rw [hreport hW hW', State.countEntry_rd_ne _ hWC, State.countEntry_rd_same, State.markTemp,
      State.rd_wr_ne _ _ (Ne.symm hEW), State.rd_wr_ne _ _ (Ne.symm hSW), State.rd_wr_ne _ _ (Ne.symm hTW)]
    rfl

/-- A reading that changes the thermal state, where nothing waits for the stack. -/
theorem State.stackTemp_changed (hchange : s.rd .stkTstate [k] ≠ thermalNext (s.rd .stkTstate [k]) c) (hk : k < 20)
    (hcolls : s.colls = []) (hs : Settled s) :
    s.stackTemp k c = s.changeTemp k c (s.rd .stkTstate [k]) (thermalNext (s.rd .stkTstate [k]) c) := by
  have htouch := State.changeTemp_touches s k c (s.rd .stkTstate [k]) (thermalNext (s.rd .stkTstate [k]) c)
  have hslow := State.slowCheck_none ((htouch.only .colls (by decide)).trans hcolls)
  have hcommit := (hs.of_touches htouch (by decide) (tempKeys_not_settled k hk)).resumeCommit
  unfold State.stackTemp
  dsimp only
  rw [if_neg hchange]
  change ite (s.rd .stkTstate [k] = 2) (State.changeTemp ..).slowCheck.resumeCommit (State.changeTemp ..).slowCheck = _
  rw [hslow, hcommit, ite_self]


/-- The reading that keeps the thermal state. -/
theorem State.stackTemp_same (h : s.rd .stkTstate [k] = thermalNext (s.rd .stkTstate [k]) c) :
    s.stackTemp k c = s.wr .stkTemp [k] c := by
  unfold State.stackTemp
  dsimp only
  exact if_pos h

theorem State.stackReading_below (hc : c < 110) : s.stackReading k c = s.stackTemp k c := by
  unfold State.stackReading
  exact if_neg fun h => absurd h.2 (Nat.not_le.2 hc)

theorem thermalNext_lt {was : Nat} : thermalNext was c < 2 ^ 2 := by
  unfold thermalNext
  split_ifs <;> decide

/-- A reading touches little, where nothing waits for the stack. -/
theorem State.stackTemp_touches (hk : k < 20) (hcolls : s.colls = []) (hs : Settled s) :
    Touches [.regs, .riskEvents, .reports, .reportSeq, .out] (tempKeys k) s (s.stackTemp k c) := by
  by_cases h : s.rd .stkTstate [k] = thermalNext (s.rd .stkTstate [k]) c
  · rw [State.stackTemp_same h]
    exact (OnlyRegs.wr (by simp [tempKeys])).touches
  · rw [State.stackTemp_changed h hk hcolls hs]
    exact State.changeTemp_touches ..

/-- Below the trip, and where nothing waits for the stack, a reading takes effect and nothing else goes on. -/
theorem stackTempSample_below (hp : s.power = 1) (hk : k < 20) (hc : c < 110) (hr : s.heldReads = []) (hw : s.heldWrites = [])
    (hcolls : s.colls = []) (hs : Settled s) : exec (.stackTempSample k c) s = .next (s.stackTemp k c) := by
  have htouch := State.stackTemp_touches (c := c) hk hcolls hs
  have hfree := State.releaseHeld_none ((htouch.only .heldReads (by decide)).trans hr)
    ((htouch.only .heldWrites (by decide)).trans hw)
  have hafter := (hs.of_touches htouch (by decide) (tempKeys_not_settled k hk)).after
  rw [exec_stackTempSample, powered_on hp, if_pos hk, Nat.mod_eq_of_lt (show c < 256 by omega), State.stackReading_below hc,
    hfree, hafter]

/-- The thermal state of R229, as the statement of it gives the thresholds. -/
theorem thermalNext_eq {was : Nat} : thermalNext was c =
    if 105 ≤ c then 2 else if was = 2 then (if 100 ≤ c then 2 else 1)
      else if was = 1 then (if 92 ≤ c then 1 else 0) else if 95 ≤ c then 1 else 0 := by
  unfold thermalNext
  split_ifs <;> omega

end

/-- Settles O27: the reading is stored with the state that the thresholds give; where that changes, its entry is counted,
noted and reported, and nothing that waits goes on. -/
theorem stackTemperatureStates : Obligations.StackTemperatureStates := by
  intro s k c hp hk hc hlt hr hw hcolls hs
  have hmem : (s.stackTemp k c).mem = s.mem := (State.stackTemp_touches hk hcolls hs).only .mem (by decide)
  refine ⟨_, stackTempSample_below hp hk hc hr hw hcolls hs, ?_⟩
  dsimp only
  rw [← thermalNext_eq]
  by_cases h : s.rd .stkTstate [k] = thermalNext (s.rd .stkTstate [k]) c
  · rw [State.stackTemp_same h] at hmem ⊢
    have hne : Reg.stkTstate.key [k] ≠ Reg.stkTemp.key [k] := by
      simp only [Reg.key, strideSum, Reg.stkTstate, Reg.stkTemp]
      omega
    refine ⟨(State.rd_wr_same ..).trans (Nat.mod_eq_of_lt (show c < 2 ^ 8 by omega)), hmem,
      (State.rd_wr_ne _ _ hne).trans h, fun _ => OnlyRegs.wr List.mem_cons_self, fun hn => absurd h.symm hn⟩
  · obtain ⟨htemp, hstate, hthrottled, hcrit, hwarn⟩ := State.changeTemp_reads (s := s) (was := s.rd .stkTstate [k]) hk
      (show c < 2 ^ 8 by omega) (thermalNext_lt (was := s.rd .stkTstate [k]) (c := c))
    have htouch := State.changeTemp_touches s k c (s.rd .stkTstate [k]) (thermalNext (s.rd .stkTstate [k]) c)
    rw [State.stackTemp_changed h hk hcolls hs] at hmem ⊢
    refine ⟨htemp, hmem, hstate, fun he => absurd he.symm h, fun _ => ⟨?_, hcrit, ?_, htouch.only⟩⟩
    · simp only [hthrottled, b2n, beq_iff_eq]
    · have henters : entersWarn (s.rd .stkTstate [k]) (thermalNext (s.rd .stkTstate [k]) c) = true ↔
          thermalNext (s.rd .stkTstate [k]) c = 1 ∨ thermalNext (s.rd .stkTstate [k]) c = 2 ∧ s.rd .stkTstate [k] = 0 := by
        simp only [entersWarn, Bool.or_eq_true, Bool.and_eq_true, beq_iff_eq, bne_iff_ne]
        omega
      simp only [hwarn, henters]

end Sys2Proof.Machine
end

section
/-! PROOFS. Patrol scrub (R218–R222). -/

namespace Sys2Proof.Machine

set_option Elab.async false

/-! The corrected-burst count and the PENDING state of one HBM channel, under what an access meets (R218, R219, R222). -/

section

variable {s a t : State} {x y k n p b : Nat} {u : Bool}

/-- STATE, CAUSE and the corrected-burst count of HBM channel x. -/
def burstKeys (x : Nat) : List Nat := [Reg.hbmCeCount.key [x], Reg.hbmState.key [x], Reg.hbmCause.key [x]]

/-- The corrected-burst count of HBM channel x is as before, and its STATE and CAUSE are where it was not HEALTHY. -/
structure KeepsBursts (x : Nat) (s t : State) : Prop where
  count : t.rd .hbmCeCount [x] = s.rd .hbmCeCount [x]
  state : s.rd .hbmState [x] ≠ 0 → t.rd .hbmState [x] = s.rd .hbmState [x] ∧ t.rd .hbmCause [x] = s.rd .hbmCause [x]

theorem KeepsBursts.refl : KeepsBursts x s s := ⟨rfl, fun _ => ⟨rfl, rfl⟩⟩

theorem KeepsBursts.trans (h1 : KeepsBursts x s a) (h2 : KeepsBursts x a t) : KeepsBursts x s t := by
  refine ⟨h2.count.trans h1.count, fun hs => ?_⟩
  obtain ⟨hstate, hcause⟩ := h1.state hs
  obtain ⟨hstate', hcause'⟩ := h2.state fun h0 => hs (hstate.symm.trans h0)
  exact ⟨hstate'.trans hstate, hcause'.trans hcause⟩

theorem KeepsBursts.of_regs {ks : List Nat} (h : RegsBut ks s t) (hk : ∀ key ∈ burstKeys x, key ∉ ks) : KeepsBursts x s t :=
  ⟨h _ _ (hk _ (by simp [burstKeys])), fun _ => ⟨h _ _ (hk _ (by simp [burstKeys])), h _ _ (hk _ (by simp [burstKeys]))⟩⟩

theorem burstKeys_not_mem_logKeys (hx : x < 640) : ∀ key ∈ burstKeys x, key ∉ logKeys := by
  intro key hkey hlog
  simp only [burstKeys, logKeys, List.mem_cons, List.not_mem_nil, or_false, Reg.key, strideSum, Reg.hbmState, Reg.hbmCause,
    Reg.hbmCeCount, Reg.intIlogWritten, Reg.mgmtReportsSent, Reg.mgmtReportsDropped] at hkey hlog
  omega

theorem burstKeys_ne_hbmUeCount : ∀ key ∈ burstKeys x, key ∉ [Reg.hbmUeCount.key [y]] := by
  intro key hkey hue
  simp only [burstKeys, List.mem_cons, List.not_mem_nil, or_false, Reg.key, strideSum, Reg.hbmState, Reg.hbmCause, Reg.hbmCeCount,
    Reg.hbmUeCount] at hkey hue
  omega

theorem burstKeys_not_mem_pendingMarks (h : x ≠ y) : ∀ key ∈ burstKeys x, key ∉ pendingMarks y := by
  simp only [burstKeys, pendingMarks, List.mem_cons, List.not_mem_nil, or_false, Reg.key, strideSum, Reg.hbmState, Reg.hbmCause,
    Reg.hbmCeCount]
  omega

theorem hbmCeCount_not_mem_pendingMarks : Reg.hbmCeCount.key [x] ∉ pendingMarks y := by
  simp only [pendingMarks, List.mem_cons, List.not_mem_nil, or_false, Reg.key, strideSum, Reg.hbmState, Reg.hbmCause,
    Reg.hbmCeCount]
  omega

theorem State.log_keepsBursts (hx : x < 640) (s : State) (type code addr tag uclass uindex detail : Nat) :
    KeepsBursts x s (s.log type code addr tag uclass uindex detail) :=
  .of_regs (State.log_touches ..).regs (burstKeys_not_mem_logKeys hx)

theorem State.noteRisk_keepsBursts (s : State) (kind n : Nat) : KeepsBursts x s (s.noteRisk kind n) :=
  ⟨rfl, fun _ => ⟨rfl, rfl⟩⟩

/-- Another channel may become PENDING. -/
theorem State.makePending_keepsBursts (hx : x < 640) (s : State) (y : Nat) {c : Nat} (hc : c < 8) :
    KeepsBursts x s (s.makePending y c) := by
  by_cases h : s.rd .hbmState [y] = 0
  · have htouch := (State.makePending_becomes h hc).touches
    by_cases hxy : x = y
    · refine ⟨htouch.regs _ _ fun hm => ?_, fun hs => absurd (hxy ▸ h) hs⟩
      obtain hm | hm := List.mem_append.1 hm
      · exact hbmCeCount_not_mem_pendingMarks hm
      · exact burstKeys_not_mem_logKeys hx _ (by simp [burstKeys]) hm
    · refine .of_regs htouch.regs fun key hkey hm => ?_
      obtain hm | hm := List.mem_append.1 hm
      · exact burstKeys_not_mem_pendingMarks hxy key hkey hm
      · exact burstKeys_not_mem_logKeys hx key hkey hm
  · rw [State.makePending_not_healthy h]
    exact .refl

/-- An uncorrectable error that is met counts elsewhere. -/
theorem State.noteBad_keepsBursts (hx : x < 640) (s : State) (tag : Nat) (h : s.ue.contains b = true) :
    KeepsBursts x s (s.noteBad tag b) := by
  unfold State.noteBad
  rw [if_pos h]
  dsimp only
  have hrisk : KeepsBursts x s (s.noteRisk 2 1) := State.noteRisk_keepsBursts s 2 1
  generalize s.noteRisk 2 1 = r at hrisk
  cases r.locate b with
  | some place =>
    obtain ⟨y, o⟩ := place
    have hcount {e : State} : KeepsBursts x e (e.count .hbmUeCount [y] 1) :=
      .of_regs (OnlyRegs.wr List.mem_cons_self).2 burstKeys_ne_hbmUeCount
    exact ((hrisk.trans (State.log_keepsBursts hx ..)).trans hcount).trans (State.makePending_keepsBursts hx _ _ (by decide))
  | none => exact hrisk.trans (State.log_keepsBursts hx ..)

end

section

variable {s a t : State} {x y k n p b st : Nat} {u : Bool}

/-- What reaching a stack's arrays changes among register fields: its domain wakes, and the programmable counters of its
channel count (R362, R374). -/
def reachKeys (st : Nat) : List Nat := [Reg.domDstate.key [56 + st], Reg.domClocksStopped.key [56 + st]] ++ channelKeys (st / 5)

theorem State.stackEvent_onlyRegs (s : State) (st j n : Nat) : OnlyRegs (channelKeys (st / 5)) s (s.stackEvent st j n) :=
  OnlyRegs.countEvent _ _ _ fun i hi => List.mem_map.2 ⟨i, List.mem_range.2 hi, rfl⟩

theorem State.wakeStack_onlyRegs (h : x / 32 = st) : OnlyRegs (reachKeys st) s (s.wakeStack x) := by
  rw [State.wakeStack, h, State.wake]
  split
  · exact (OnlyRegs.wr (by simp [reachKeys])).trans (OnlyRegs.wr (by simp [reachKeys]))
  · exact .refl

theorem burstKeys_not_mem_channelKeys (hx : x < 640) : ∀ key ∈ burstKeys x, key ∉ channelKeys y := by
  intro key hkey hm
  obtain ⟨i, hi, rfl⟩ := List.mem_map.1 hm
  simp only [burstKeys, List.mem_cons, List.not_mem_nil, or_false, Reg.key, strideSum, Reg.hbmState, Reg.hbmCause, Reg.hbmCeCount,
    Reg.progValue] at hkey
  omega

theorem burstKeys_not_mem_reachKeys (hx : x < 640) : ∀ key ∈ burstKeys x, key ∉ reachKeys st := by
  intro key hkey hm
  obtain hm | hm := List.mem_append.1 hm
  · simp only [burstKeys, List.mem_cons, List.not_mem_nil, or_false, Reg.key, strideSum, Reg.hbmState, Reg.hbmCause,
      Reg.hbmCeCount, Reg.domDstate, Reg.domClocksStopped] at hkey hm
    omega
  · exact burstKeys_not_mem_channelKeys hx key hkey hm

theorem memCeLimit_not_mem_channelKeys : Reg.memCeLimit.key [] ∉ channelKeys y := by
  simp only [channelKeys, List.mem_map, List.mem_range, not_exists, not_and, Reg.key, strideSum, Reg.memCeLimit, Reg.progValue]
  omega

theorem memCeLimit_not_mem_reachKeys : Reg.memCeLimit.key [] ∉ reachKeys st := by
  simp only [reachKeys, List.mem_append, not_or]
  refine ⟨?_, memCeLimit_not_mem_channelKeys⟩
  simp only [List.mem_cons, List.not_mem_nil, or_false, Reg.key, strideSum, Reg.memCeLimit, Reg.domDstate, Reg.domClocksStopped]
  omega

theorem reachKeys_subset_trafficKeys (h : st < 20) : reachKeys st ⊆ trafficKeys := by
  intro key hkey
  simp only [trafficKeys, List.mem_append]
  obtain hm | hm := List.mem_append.1 hkey
  · exact .inr (List.mem_flatten.2 ⟨_, List.mem_map.2 ⟨st, List.mem_range.2 h, rfl⟩, hm⟩)
  · exact .inl (.inl (.inl (List.mem_flatten.2 ⟨_, List.mem_map.2 ⟨st / 5, List.mem_range.2 (by omega), rfl⟩, hm⟩)))

/-- The corrected bursts of a channel, counted (R218). -/
def State.countBursts (s : State) (x n : Nat) : State :=
  ((s.count .hbmCeCount [x] n).noteRisk 0 n).stackEvent (x / 32) 7 n

theorem State.corrected_none (s : State) (x : Nat) : s.corrected x 0 = s := if_pos rfl

theorem State.corrected_some (hn : 0 < n) : s.corrected x n =
    if (s.countBursts x n).rd .memCeLimit [] < s.rd .hbmCeCount [x] + n then (s.countBursts x n).makePending x 1
    else s.countBursts x n := if_neg (by omega)

theorem State.countBursts_touches (s : State) (x n : Nat) :
    Touches [.regs, .riskEvents] (Reg.hbmCeCount.key [x] :: channelKeys (x / 32 / 5)) s (s.countBursts x n) := by
  have hcount : OnlyRegs [Reg.hbmCeCount.key [x]] s (s.count .hbmCeCount [x] n) := OnlyRegs.wr List.mem_cons_self
  have hrisk := (State.noteRisk_changes (s.count .hbmCeCount [x] n) 0 n).touches rfl (ks := [])
  have hevent := State.stackEvent_onlyRegs ((s.count .hbmCeCount [x] n).noteRisk 0 n) (x / 32) 7 n
  exact ((hcount.touches.mono (fs := [.regs]) (by simp)).trans (hrisk.mono (List.nil_subset _))).trans
    (hevent.touches.mono (fs := [.regs]) (List.subset_cons_self ..))

theorem State.countBursts_ceCount (hx : x < 640) :
    (s.countBursts x n).rd .hbmCeCount [x] = satAdd 16 (s.rd .hbmCeCount [x]) n := by
  have hevent := State.stackEvent_onlyRegs ((s.count .hbmCeCount [x] n).noteRisk 0 n) (x / 32) 7 n
  have hcount : ((s.count .hbmCeCount [x] n).noteRisk 0 n).rd .hbmCeCount [x] = satAdd 16 (s.rd .hbmCeCount [x]) n :=
    (State.rd_count_same ..).trans (Nat.mod_eq_of_lt satAdd_lt)
  exact (hevent.2 _ _ (burstKeys_not_mem_channelKeys hx _ (by simp [burstKeys]))).trans hcount

theorem State.countBursts_hbmState (hx : x < 640) : (s.countBursts x n).rd .hbmState [x] = s.rd .hbmState [x] := by
  refine (State.countBursts_touches s x n).regs _ _ fun hm => ?_
  obtain hm | hm := List.mem_cons.1 hm
  · simp only [Reg.key, strideSum, Reg.hbmState, Reg.hbmCeCount] at hm
    omega
  · exact burstKeys_not_mem_channelKeys hx _ (by simp [burstKeys]) hm

theorem State.countBursts_memCeLimit (_ : x < 640) : (s.countBursts x n).rd .memCeLimit [] = s.rd .memCeLimit [] := by
  refine (State.countBursts_touches s x n).regs _ _ fun hm => ?_
  obtain hm | hm := List.mem_cons.1 hm
  · simp only [Reg.key, strideSum, Reg.memCeLimit, Reg.hbmCeCount] at hm
    omega
  · exact memCeLimit_not_mem_channelKeys hm

/-- Corrected bursts are counted, saturating. -/
theorem State.corrected_ceCount (hx : x < 640) (hn : 0 < n) :
    (s.corrected x n).rd .hbmCeCount [x] = satAdd 16 (s.rd .hbmCeCount [x]) n := by
  rw [State.corrected_some hn]
  split
  · exact (State.makePending_keepsBursts hx _ _ (by decide)).count.trans (State.countBursts_ceCount hx)
  · exact State.countBursts_ceCount hx

/-- Above CE_LIMIT a HEALTHY channel becomes PENDING. -/
theorem State.corrected_pending (hx : x < 640) (hn : 0 < n) (hlimit : s.rd .memCeLimit [] < s.rd .hbmCeCount [x] + n)
    (hs : s.rd .hbmState [x] = 0) :
    (s.corrected x n).rd .hbmState [x] = 1 ∧ (s.corrected x n).rd .hbmCause [x] = 1 := by
  rw [State.corrected_some hn, State.countBursts_memCeLimit hx, if_pos hlimit]
  have hpending := State.makePending_becomes (c := 1) ((State.countBursts_hbmState (n := n) hx).trans hs) (by decide)
  exact ⟨hpending.state, hpending.cause⟩

/-- The corrected bursts of bolt b are counted and written back. -/
def State.repairs (s : State) (x b m : Nat) : State := { s.corrected x m with ce := Tab.del (s.corrected x m).ce b }

/-- An uncorrectable error is found in a bolt, or none. -/
def State.mayUpset (s : State) (b : Nat) (u : Bool) : State := if u then s.hbmUpset b else s

/-- A bolt with an uncorrectable error is noted. -/
def State.noteIfBad (s : State) (b : Nat) : State := if s.ue.contains b then s.noteBad 0 b else s

/-- What patrol scrub finds in bolt b of channel x: m corrected bursts, and perhaps an uncorrectable error (R218, R219). -/
def State.scrubFinds (s : State) (x b m : Nat) (u : Bool) : State := ((s.repairs x b m).mayUpset b u).noteIfBad b

theorem State.hbmUpset_changes (s : State) (b : Nat) : ChangesOnly [.ue] s (s.hbmUpset b) := by
  unfold State.hbmUpset
  split
  · exact Does.refl.only
  · intro f hf
    cases f
    case ue => exact absurd (by decide) hf
    all_goals rfl

theorem State.hbmUpset_contains (s : State) (b : Nat) : (s.hbmUpset b).ue.contains b = true := by
  unfold State.hbmUpset
  split
  · assumption
  · simp

theorem State.mayUpset_changes (s : State) (b : Nat) (u : Bool) : ChangesOnly [.ue] s (s.mayUpset b u) := by
  cases u
  · exact Does.refl.only
  · exact State.hbmUpset_changes s b

theorem State.mayUpset_none (s : State) (b : Nat) : s.mayUpset b false = s := rfl

theorem State.noteIfBad_good (h : s.ue.contains b = false) : s.noteIfBad b = s := by
  rw [State.noteIfBad, h]
  rfl

/-- What a noted error changes. -/
def noteFields : List Field := [.regs, .ilog, .reports, .reportSeq, .riskEvents, .out]

theorem State.noteIfBad_changes (s : State) (b : Nat) : ChangesOnly noteFields s (s.noteIfBad b) := by
  unfold State.noteIfBad
  split
  · exact (State.noteBad_does s 0 b Does.refl).only
  · exact Does.refl.only

theorem State.withCe_changes (s : State) (l : Tab Nat) : ChangesOnly [.ce] s { s with ce := l } := by
  intro f hf
  cases f
  case ce => exact absurd (by decide) hf
  all_goals rfl

theorem State.repairs_changes (s : State) (x b m : Nat) : ChangesOnly (.ce :: noteFields) s (s.repairs x b m) :=
  ((State.corrected_does s x m Does.refl (fs := noteFields)).only.mono (by decide)).trans
    ((State.withCe_changes _ _).mono (by decide))

theorem State.scrubFinds_changes (s : State) (x b m : Nat) (u : Bool) :
    ChangesOnly (.ue :: .ce :: noteFields) s (s.scrubFinds x b m u) :=
  (((State.repairs_changes s x b m).mono (by decide)).trans ((State.mayUpset_changes _ b u).mono (by decide))).trans
    ((State.noteIfBad_changes _ b).mono (by decide))

/-- Beside the bursts that it counts, what scrub finds leaves the count, and STATE and CAUSE of a channel not HEALTHY. -/
theorem State.scrubFinds_keepsBursts (hx : x < 640) (s : State) (b m : Nat) (u : Bool) :
    KeepsBursts x (s.corrected x m) (s.scrubFinds x b m u) := by
  have hrepair : KeepsBursts x (s.corrected x m) (s.repairs x b m) := .of_regs (ks := []) (fun _ _ _ => rfl) (by simp)
  have hupset : KeepsBursts x (s.repairs x b m) ((s.repairs x b m).mayUpset b u) :=
    .of_regs (ks := []) (fun _ _ _ => State.rd_congr (State.mayUpset_changes _ _ _ .regs (by decide)) _ _) (by simp)
  refine (hrepair.trans hupset).trans ?_
  unfold State.scrubFinds State.noteIfBad
  split
  · exact State.noteBad_keepsBursts hx _ _ ‹_›
  · exact .refl

/-- A bolt found with an uncorrectable error is held as such. -/
theorem State.scrubFinds_upset (s : State) (x b m : Nat) : (s.scrubFinds x b m true).ue.contains b = true := by
  have hue := State.noteIfBad_changes ((s.repairs x b m).hbmUpset b) b .ue (by decide)
  rw [show (s.scrubFinds x b m true).ue = _ from hue]
  exact State.hbmUpset_contains ..

/-- Where nothing is found, the bolt is read and no more. -/
theorem State.scrubFinds_nothing (h : s.ue.contains b = false) :
    s.scrubFinds x b 0 false = { s with ce := Tab.del s.ce b } := by
  rw [State.scrubFinds, State.mayUpset_none, State.repairs, State.corrected_none]
  exact State.noteIfBad_good h

end

/-! Where patrol scrub stands (R220). -/

section

variable {s a t : State} {x y k n p b st : Nat} {u : Bool}

theorem State.addrOf_congr (hd : t.dShare = s.dShare) (hc : t.cShare = s.cShare)
    (hm : ∀ x < 640, t.rd .hbmState [x] = s.rd .hbmState [x]) (x o : Nat) : t.addrOf x o = s.addrOf x o := by
  have hregion : t.regionAt x o = s.regionAt x o := by
    unfold State.regionAt State.cShareOf
    rw [hd, hc]
  have hlist := State.healthyList_congr hm (s.regionAt x o).1
  unfold State.addrOf
  dsimp only
  rw [hregion, hlist]

/-- Patrol scrub on stack st steps past bolt p, and reaches the stack's arrays. -/
def State.scrubTurn (s : State) (st p : Nat) : State :=
  (({ s with patrol := { s.patrol with pos := Tab.put s.patrol.pos st (p + 1), last := s.aoNow } } : State).wakeStack
    (32 * st + p / channelBolts)).stackEvent st 6 1

theorem State.withPatrol_changes (s : State) (l : PatrolSt) : ChangesOnly [.patrol] s { s with patrol := l } := by
  intro f hf
  cases f
  case patrol => exact absurd (by decide) hf
  all_goals rfl

/-- The channel of the next bolt lies on its stack. -/
theorem scrubChannel_div (hp : p < 32 * channelBolts) : (32 * st + p / channelBolts) / 32 = st := by
  have hlt : p / channelBolts < 32 := Nat.div_lt_of_lt_mul (by rwa [Nat.mul_comm])
  generalize p / channelBolts = h at hlt
  omega

theorem State.scrubTurn_touches (s : State) (hp : p < 32 * channelBolts) :
    Touches [.regs, .patrol] (reachKeys st) s (s.scrubTurn st p) := by
  have hmove := (State.withPatrol_changes s { s.patrol with pos := Tab.put s.patrol.pos st (p + 1), last := s.aoNow }).touches rfl
    (ks := reachKeys st)
  have hevent {r : State} : OnlyRegs (reachKeys st) r (r.stackEvent st 6 1) :=
    (State.stackEvent_onlyRegs ..).mono fun _ hm => List.mem_append_right _ hm
  exact (hmove.widen.trans (State.wakeStack_onlyRegs (scrubChannel_div hp)).touches).trans hevent.touches

theorem State.scrubTurn_pos (s : State) : (s.scrubTurn st p).patrol.pos = Tab.put s.patrol.pos st (p + 1) := by
  have hevent {r : State} : (r.stackEvent st 6 1).patrol = r.patrol := (State.stackEvent_onlyRegs r st 6 1).1 .patrol (by decide)
  have hwake {r : State} : (r.wakeStack (32 * st + p / channelBolts)).patrol = r.patrol :=
    (State.wakeStack_does r _ Does.refl (fs := [.regs])).only .patrol (by decide)
  rw [State.scrubTurn, hevent, hwake]

end

section

variable {s t : State} {y k n p b : Nat} {u : Bool}

theorem exec_scrubAccess (y k n : Nat) (u : Bool) (s : State) :
    exec (.scrubAccess y k n u) s = powered s (fun s => s.scrubReaches y k n u) := rfl

theorem exec_scrubPeriodEnd (late : Bool) (s : State) :
    exec (.scrubPeriodEnd late) s = powered s (fun s => s.scrubPeriodEnd late) := rfl

theorem State.memScrubEnable_flag : s.flag .memScrubEnable [] = false ↔ s.rd .memScrubEnable [] ≠ 1 := by
  rw [State.flag, beq_eq_false_iff_ne]

/-- Nothing is read with scrub off, or on a stack that is not there. -/
theorem State.scrubReaches_off (h : 20 ≤ y / 32 ∨ s.rd .memScrubEnable [] ≠ 1) : s.scrubReaches y k n u = s := by
  have hoff : 20 ≤ y / 32 ∨ s.flag .memScrubEnable [] = false := h.imp id State.memScrubEnable_flag.2
  unfold State.scrubReaches
  dsimp only
  split
  · exact if_pos hoff
  · rfl

/-- Patrol scrub notes that stack st pauses it. -/
def State.scrubPauses (s : State) (st : Nat) : State :=
  { s with patrol := { s.patrol with held := if s.patrol.held.contains st then s.patrol.held else s.patrol.held ++ [st] } }

theorem State.scrubPauses_held (s : State) (st : Nat) : st ∈ (s.scrubPauses st).patrol.held := by
  unfold State.scrubPauses
  dsimp only
  split
  · next h => simpa using h
  · simp

/-- A stack that is held pauses scrub. -/
theorem State.scrubReaches_held (hst : y / 32 < 20) (hon : s.rd .memScrubEnable [] = 1) (hh : s.stackHeld (y / 32) = true) :
    s.scrubReaches y k n u = s.scrubPauses (y / 32) := by
  have hoff : ¬ (20 ≤ y / 32 ∨ s.flag .memScrubEnable [] = false) := by
    rw [State.memScrubEnable_flag]
    omega
  unfold State.scrubReaches State.scrubAccess
  dsimp only
  rw [if_pos (.inl hh), if_neg hoff, if_pos hh]
  rfl

/-- A bolt that is not the next one is not read. -/
theorem State.scrubReaches_other (hh : s.stackHeld (y / 32) = false)
    (h : s.scrubNext (y / 32) ≠ some (y % 32 * channelBolts + k) ∨ channelBolts ≤ k) : s.scrubReaches y k n u = s := by
  unfold State.scrubReaches
  refine if_neg ?_
  rw [hh]
  rintro (hc | ⟨hk, hnext⟩)
  · exact Bool.false_ne_true hc
  · obtain h | h := h
    · exact h hnext
    · omega

/-- The bolt at offset o of channel x is read; a mapped-out channel has none. -/
def State.scrubReads (s : State) (x o n : Nat) (u : Bool) : State :=
  match s.addrOf x o with
  | none => s
  | some b => s.scrubFinds x b (min 16 (Tab.get 0 s.ce b + n)) u

theorem State.scrubReads_none {x o : Nat} (h : s.addrOf x o = none) : s.scrubReads x o n u = s := by
  unfold State.scrubReads
  rw [h]

theorem State.scrubReads_some {x o : Nat} (h : s.addrOf x o = some b) :
    s.scrubReads x o n u = s.scrubFinds x b (min 16 (Tab.get 0 s.ce b + n)) u := by
  unfold State.scrubReads
  rw [h]

/-- The next bolt is read: scrub steps past it, and takes what it finds there. -/
theorem State.scrubReaches_next (hst : y / 32 < 20) (hon : s.rd .memScrubEnable [] = 1) (hh : s.stackHeld (y / 32) = false)
    (hnext : s.scrubNext (y / 32) = some p) (hp : p = y % 32 * channelBolts + k) (hk : k < channelBolts) :
    s.scrubReaches y k n u =
      (s.scrubTurn (y / 32) p).scrubReads (32 * (y / 32) + p / channelBolts) (p % channelBolts * 512) n u := by
  have hoff : ¬ (20 ≤ y / 32 ∨ s.flag .memScrubEnable [] = false) := by
    rw [State.memScrubEnable_flag]
    omega
  unfold State.scrubReaches State.scrubAccess
  dsimp only
  rw [if_pos (.inr ⟨hk, hp ▸ hnext⟩), if_neg hoff, hh, if_neg Bool.false_ne_true, hnext]
  dsimp only
  split
  · next hb => exact (State.scrubReads_none hb).symm
  · next b hb => exact (State.scrubReads_some hb).symm

end

section

variable {s a t : State} {x y k n p b st m o : Nat} {u : Bool}

theorem State.scrubReads_changes (s : State) (x o n : Nat) (u : Bool) :
    ChangesOnly (.ue :: .ce :: noteFields) s (s.scrubReads x o n u) := by
  cases h : s.addrOf x o with
  | none =>
    rw [State.scrubReads_none h]
    exact Does.refl.only
  | some b =>
    rw [State.scrubReads_some h]
    exact State.scrubFinds_changes _ _ _ _ _

/-- The stack's arrays have been reached: where every address lies, and the channel's bursts, are as before. -/
theorem addrOf_of_reached (h : Touches [.regs, .patrol] (reachKeys st) s a) (x o : Nat) : a.addrOf x o = s.addrOf x o :=
  State.addrOf_congr (h.only .dShare (by decide)) (h.only .cShare (by decide))
    (fun _ hx => h.regs _ _ (burstKeys_not_mem_reachKeys hx _ (by simp [burstKeys]))) x o

/-- Corrected bursts are counted, saturating, and no more is. -/
theorem State.scrubFinds_count (hx : x < 640) (hm : 0 < m) :
    (s.scrubFinds x b m u).rd .hbmCeCount [x] = satAdd 16 (s.rd .hbmCeCount [x]) m :=
  (State.scrubFinds_keepsBursts hx s b m u).count.trans (State.corrected_ceCount hx hm)

/-- A HEALTHY channel whose count passes CE_LIMIT is PENDING with CAUSE 1, whatever else is found. -/
theorem State.scrubFinds_pending (hx : x < 640) (hm : 0 < m) (hlimit : s.rd .memCeLimit [] < s.rd .hbmCeCount [x] + m)
    (hs : s.rd .hbmState [x] = 0) :
    (s.scrubFinds x b m u).rd .hbmState [x] = 1 ∧ (s.scrubFinds x b m u).rd .hbmCause [x] = 1 := by
  obtain ⟨hstate, hcause⟩ := State.corrected_pending hx hm hlimit hs
  obtain ⟨hstate', hcause'⟩ := (State.scrubFinds_keepsBursts hx s b m u).state (by rw [hstate]; decide)
  exact ⟨hstate'.trans hstate, hcause'.trans hcause⟩

/-- A bolt that is found good is read and no more. -/
theorem State.scrubFinds_good (hst : st < 20) (h : Touches [.regs, .patrol] (reachKeys st) s a) (hue : s.ue.contains b = false) :
    Touches [.regs, .patrol, .ce] trafficKeys s (a.scrubFinds x b 0 false) := by
  rw [State.scrubFinds_nothing ((congrArg (List.contains · b) (h.only .ue (by decide))).trans hue)]
  have hce := (State.withCe_changes a (Tab.del a.ce b)).touches rfl (ks := trafficKeys)
  exact (h.mono (reachKeys_subset_trafficKeys hst)).trans hce.widen

theorem nextBolt_lt (hk : k < channelBolts) : y % 32 * channelBolts + k < 32 * channelBolts := by
  simp only [channelBolts] at hk ⊢
  omega

/-- SCRUB_ACCESS of the next bolt. -/
theorem scrubReaches_acts (hst : y / 32 < 20) (hon : s.rd .memScrubEnable [] = 1) (hh : s.stackHeld (y / 32) = false)
    (hnext : s.scrubNext (y / 32) = some p) (hp : p = y % 32 * channelBolts + k) (hk : k < channelBolts) :
    (s.scrubReaches y k n u).patrol.pos = Tab.put s.patrol.pos (y / 32) (p + 1) ∧
    ∀ b, s.addrOf (32 * (y / 32) + p / channelBolts) (p % channelBolts * 512) = some b →
      let x := 32 * (y / 32) + p / channelBolts
      let m := min 16 (Tab.get 0 s.ce b + n)
      (0 < m → (s.scrubReaches y k n u).rd .hbmCeCount [x] = satAdd 16 (s.rd .hbmCeCount [x]) m) ∧
      (u = true → (s.scrubReaches y k n u).ue.contains b = true) ∧
      (0 < m → s.rd .memCeLimit [] < s.rd .hbmCeCount [x] + m → s.rd .hbmState [x] = 0 →
        (s.scrubReaches y k n u).rd .hbmState [x] = 1 ∧ (s.scrubReaches y k n u).rd .hbmCause [x] = 1) ∧
      (m = 0 → u = false → s.ue.contains b = false → ChangesOnly [.regs, .patrol, .ce] s (s.scrubReaches y k n u) ∧
        RegsBut trafficKeys s (s.scrubReaches y k n u)) := by
  have hpass : p < 32 * channelBolts := hp ▸ nextBolt_lt hk
  have hx : 32 * (y / 32) + p / channelBolts < 640 := by
    have := scrubChannel_div (st := y / 32) hpass
    omega
  have hturn := State.scrubTurn_touches (st := y / 32) s hpass
  rw [State.scrubReaches_next hst hon hh hnext hp hk]
  have hpos := State.scrubTurn_pos (st := y / 32) (p := p) s
  generalize s.scrubTurn (y / 32) p = a at hturn hpos
  refine ⟨?_, fun b hb => ?_⟩
  · rw [State.scrubReads_changes a _ _ _ _ .patrol (by decide), hpos]
  · have hce : a.ce = s.ce := hturn.only .ce (by decide)
    rw [State.scrubReads_some ((addrOf_of_reached hturn _ _).trans hb), hce]
    generalize 32 * (y / 32) + p / channelBolts = x at hx
    have hcount : a.rd .hbmCeCount [x] = s.rd .hbmCeCount [x] :=
      hturn.regs _ _ (burstKeys_not_mem_reachKeys hx _ (by simp [burstKeys]))
    have hstate : a.rd .hbmState [x] = s.rd .hbmState [x] :=
      hturn.regs _ _ (burstKeys_not_mem_reachKeys hx _ (by simp [burstKeys]))
    have hlim : a.rd .memCeLimit [] = s.rd .memCeLimit [] := hturn.regs _ _ memCeLimit_not_mem_reachKeys
    dsimp only
    rw [← hcount, ← hstate, ← hlim]
    generalize min 16 (Tab.get 0 s.ce b + n) = m
    refine ⟨State.scrubFinds_count hx, ?_, State.scrubFinds_pending hx, ?_⟩
    · rintro rfl
      exact State.scrubFinds_upset ..
    · rintro rfl rfl hue
      have hgood := State.scrubFinds_good (x := x) hst hturn hue
      exact ⟨hgood.only, hgood.regs⟩

/-- Patrol scrub stores nothing. -/
theorem State.scrubReaches_mem (s : State) (y k n : Nat) (u : Bool) : (s.scrubReaches y k n u).mem = s.mem := by
  by_cases hoff : 20 ≤ y / 32 ∨ s.rd .memScrubEnable [] ≠ 1
  · rw [State.scrubReaches_off hoff]
  obtain ⟨hst, hon⟩ := not_or.1 hoff
  have hst : y / 32 < 20 := Nat.not_le.1 hst
  have hon : s.rd .memScrubEnable [] = 1 := not_not.1 hon
  cases hh : s.stackHeld (y / 32) with
  | true =>
    rw [State.scrubReaches_held hst hon hh]
    rfl
  | false =>
    by_cases hother : s.scrubNext (y / 32) ≠ some (y % 32 * channelBolts + k) ∨ channelBolts ≤ k
    · rw [State.scrubReaches_other hh hother]
    obtain ⟨hnext, hk⟩ := not_or.1 hother
    have hk : k < channelBolts := Nat.not_le.1 hk
    have hturn := State.scrubTurn_touches (st := y / 32) s (nextBolt_lt (y := y) hk)
    rw [State.scrubReaches_next hst hon hh (not_not.1 hnext) rfl hk, State.scrubReads_changes _ _ _ _ _ .mem (by decide)]
    exact hturn.only .mem (by decide)

end

/-! The end of a scrub period (R220, R222). -/

section

variable {s a t : State} {x : Nat} {late : Bool}

/-- The corrected-burst counts of every HBM channel. -/
def ceCounts : List (Reg × List Nat) := (List.range 640).map fun x => (.hbmCeCount, [x])

/-- The register fields that the end of a period changes. -/
def periodKeys : List Nat :=
  Reg.memScrubPasses.key [] :: Reg.memScrubLate.key [] :: (List.range 640).map (fun x => Reg.hbmCeCount.key [x])

/-- The counts restart. -/
def State.restartCounts (s : State) : State := s.clearAll ceCounts

/-- The passes are counted, and a late period. -/
def State.countPeriod (s : State) (late : Bool) : State :=
  if late then (s.bump .memScrubPasses [] 1).bump .memScrubLate [] 1 else s.bump .memScrubPasses [] 1

/-- The next passes begin. -/
def State.beginPasses (s : State) : State :=
  { s with patrol := { pos := [], held := [], since := s.aoNow, last := s.aoNow } }

theorem ceCounts_keys : ∀ f ∈ ceCounts, f.1.key f.2 ∈ (List.range 640).map fun x => Reg.hbmCeCount.key [x] := by
  intro f hf
  obtain ⟨x, hx, rfl⟩ := List.mem_map.1 hf
  exact List.mem_map.2 ⟨x, hx, rfl⟩

theorem State.restartCounts_touches (s : State) :
    Touches [.regs] ((List.range 640).map fun x => Reg.hbmCeCount.key [x]) s s.restartCounts :=
  State.clearAll_touches ceCounts_keys

theorem State.restartCounts_ceCount (hx : x < 640) : s.restartCounts.rd .hbmCeCount [x] = 0 :=
  State.clearAll_rd (by decide) (List.mem_map.2 ⟨x, List.mem_range.2 hx, rfl⟩)

theorem State.countPeriod_onlyRegs (s : State) (late : Bool) :
    OnlyRegs [Reg.memScrubPasses.key [], Reg.memScrubLate.key []] s (s.countPeriod late) := by
  have hpass : OnlyRegs [Reg.memScrubPasses.key [], Reg.memScrubLate.key []] s (s.bump .memScrubPasses [] 1) :=
    OnlyRegs.wr List.mem_cons_self
  cases late
  · exact hpass
  · exact hpass.trans (OnlyRegs.wr (by decide))

theorem State.countPeriod_passes (s : State) (late : Bool) :
    (s.countPeriod late).rd .memScrubPasses [] = (s.rd .memScrubPasses [] + 1) % 2 ^ 32 := by
  have hne : Reg.memScrubPasses.key [] ≠ Reg.memScrubLate.key [] := by decide
  cases late
  · exact State.rd_bump_same ..
  · exact (State.rd_bump_ne _ _ hne).trans (State.rd_bump_same ..)

theorem State.countPeriod_late (s : State) (late : Bool) : (s.countPeriod late).rd .memScrubLate [] =
    if late = true then (s.rd .memScrubLate [] + 1) % 2 ^ 32 else s.rd .memScrubLate [] := by
  have hne : Reg.memScrubLate.key [] ≠ Reg.memScrubPasses.key [] := by decide
  cases late
  · exact State.rd_bump_ne _ _ hne
  · have hlate : (s.bump .memScrubPasses [] 1).rd .memScrubLate [] = s.rd .memScrubLate [] := State.rd_bump_ne _ _ hne
    exact (State.rd_bump_same ..).trans (by rw [hlate]; rfl)

theorem State.scrubDrawn_iff : s.scrubDrawn = late ↔
    (late = true ↔ s.patrol.held ≠ [] ∧ s.patrol.since + s.scrubTicks < s.patrol.last) := by
  have hdrawn : s.scrubDrawn = true ↔ s.patrol.held ≠ [] ∧ s.patrol.since + s.scrubTicks < s.patrol.last := by
    simp [State.scrubDrawn]
  rw [← hdrawn, eq_comm, Bool.eq_iff_iff]

theorem State.scrubPeriodEnd_over (h : s.scrubOver = true ∧ s.scrubDrawn = late) :
    s.scrubPeriodEnd late = (s.restartCounts.countPeriod late).beginPasses := by
  have hclear : (List.range 640).foldl (fun s x => s.wr .hbmCeCount [x] 0) s = s.restartCounts := by
    rw [State.restartCounts, State.clearAll, ceCounts, List.foldl_map]
  unfold State.scrubPeriodEnd
  rw [if_pos h, hclear]
  rfl

theorem State.scrubPeriodEnd_early (h : ¬ (s.scrubOver = true ∧ s.scrubDrawn = late)) : s.scrubPeriodEnd late = s := if_neg h

theorem memScrub_not_mem_ceCounts {r : Reg} (hr : r ∈ [Reg.memScrubPasses, Reg.memScrubLate]) :
    r.key [] ∉ (List.range 640).map fun x => Reg.hbmCeCount.key [x] := by
  intro hm
  obtain ⟨x, -, hx⟩ := List.mem_map.1 hm
  obtain rfl | rfl := by simpa using hr
  all_goals
    simp only [Reg.key, strideSum, Reg.hbmCeCount, Reg.memScrubPasses, Reg.memScrubLate] at hx
    omega

theorem hbmCeCount_not_mem_memScrub : Reg.hbmCeCount.key [x] ∉ [Reg.memScrubPasses.key [], Reg.memScrubLate.key []] := by
  simp only [List.mem_cons, List.not_mem_nil, or_false, Reg.key, strideSum, Reg.hbmCeCount, Reg.memScrubPasses, Reg.memScrubLate]
  omega

/-- SCRUB_PERIOD_END of a period that is over, as it went. -/
theorem scrubPeriodEnd_acts (h : s.scrubOver = true ∧ s.scrubDrawn = late) :
    (∀ x, x < 640 → (s.scrubPeriodEnd late).rd .hbmCeCount [x] = 0) ∧
    (s.scrubPeriodEnd late).rd .memScrubPasses [] = (s.rd .memScrubPasses [] + 1) % 2 ^ 32 ∧
    (s.scrubPeriodEnd late).rd .memScrubLate [] =
      (if late = true then (s.rd .memScrubLate [] + 1) % 2 ^ 32 else s.rd .memScrubLate []) ∧
    (s.scrubPeriodEnd late).patrol = { pos := [], held := [], since := s.aoNow, last := s.aoNow } ∧
    Touches [.regs, .patrol] periodKeys s (s.scrubPeriodEnd late) := by
  have hclear := State.restartCounts_touches s
  have hzero (x : Nat) (hx : x < 640) : s.restartCounts.rd .hbmCeCount [x] = 0 := State.restartCounts_ceCount hx
  rw [State.scrubPeriodEnd_over h]
  generalize s.restartCounts = a at hclear hzero
  have hperiod := State.countPeriod_onlyRegs a late
  have hpasses := State.countPeriod_passes a late
  have hlate := State.countPeriod_late a late
  generalize a.countPeriod late = b at hperiod hpasses hlate
  have hregs (r : Reg) (idx : List Nat) : b.beginPasses.rd r idx = b.rd r idx := rfl
  have hnow : b.aoNow = s.aoNow := (hperiod.1 .aoNow (by decide)).trans (hclear.only .aoNow (by decide))
  have hpatrol := (State.withPatrol_changes b { pos := [], held := [], since := b.aoNow, last := b.aoNow }).touches rfl
    (ks := periodKeys)
  refine ⟨fun x hx => ?_, ?_, ?_, ?_, ?_⟩
  · rw [hregs, hperiod.2 _ _ hbmCeCount_not_mem_memScrub, hzero x hx]
  · rw [hregs, hpasses, hclear.regs _ _ (memScrub_not_mem_ceCounts (by simp))]
  · rw [hregs, hlate, hclear.regs _ _ (memScrub_not_mem_ceCounts (by simp))]
  · rw [State.beginPasses, hnow]
  · have hcleared : Touches [.regs] periodKeys s a :=
      hclear.mono fun _ hm => List.mem_cons_of_mem _ (List.mem_cons_of_mem _ hm)
    have hcounted : Touches [.regs] periodKeys a b := hperiod.touches.mono (fs := [.regs]) (by simp [periodKeys])
    exact (hcleared.trans hcounted).widen.trans hpatrol.widen

end

/-- Settles O26: scrub reads the next bolt of its stack and no other; an uncorrectable error that it notes counts elsewhere than
the corrected bursts, and leaves a channel that they have made PENDING as it is. -/
theorem patrolScrub : Obligations.PatrolScrub := by
  refine ⟨fun s y k n u hp => ⟨_, (exec_scrubAccess ..).trans (powered_on hp), ?_, State.scrubReaches_off, ?_, ?_⟩,
    fun s late hp => ⟨_, (exec_scrubPeriodEnd ..).trans (powered_on hp), ?_⟩⟩
  · exact State.scrubReaches_mem ..
  · intro hst hon hh
    rw [State.scrubReaches_held hst hon hh]
    exact ⟨State.withPatrol_changes _ _, rfl, State.scrubPauses_held ..⟩
  · intro hst hon hh
    refine ⟨State.scrubReaches_other hh, fun p hnext hp hk => ?_⟩
    exact scrubReaches_acts hst hon hh hnext hp hk
  · split
    · next h =>
      obtain ⟨hzero, hpasses, hlate, hpatrol, htouch⟩ := scrubPeriodEnd_acts (h.imp id State.scrubDrawn_iff.2)
      exact ⟨hzero, hpasses, hlate, hpatrol, htouch.only, htouch.regs⟩
    · next h => exact State.scrubPeriodEnd_early fun hover => h (hover.imp id State.scrubDrawn_iff.1)

end Sys2Proof.Machine
end

section
/-! PROOFS. Flits and cells leave the link ports (R238–R242, R246): what sending touches, and that it leaves what waits for an
event as it is. -/

namespace Sys2Proof.Machine

set_option Elab.async false

/-! The register fields that sending changes. -/

/-- FLITS_TX, TX_CREDITS and PARTIAL of a port. -/
def portKeys (p : Nat) : List Nat :=
  Reg.portFlitsTx.key [p] :: (List.range 4).map (fun v => Reg.portTxCredits.key [p, v]) ++
    (List.range 4).map (fun v => Reg.portPartial.key [p, v])

/-- PARTIAL of a port, for each VC. -/
def partialKeys (p : Nat) : List Nat := (List.range 4).map (fun v => Reg.portPartial.key [p, v])

section

variable {p v k c i : Nat}

theorem portPartial_mem_partialKeys (hv : v < 4) : Reg.portPartial.key [p, v] ∈ partialKeys p :=
  List.mem_map.2 ⟨v, List.mem_range.2 hv, rfl⟩

theorem partialKeys_subset_portKeys : partialKeys p ⊆ portKeys p := List.subset_append_right _ _

theorem portTxCredits_mem_portKeys (hv : v < 4) : Reg.portTxCredits.key [p, v] ∈ portKeys p :=
  List.mem_cons_of_mem _ (List.mem_append_left _ (List.mem_map.2 ⟨v, List.mem_range.2 hv, rfl⟩))

theorem portKeys_subset_sendKeys (hp : p < 12) : portKeys p ⊆ sendKeys := fun _ hk =>
  List.mem_append_right _ (List.mem_flatten.2 ⟨portKeys p, List.mem_map.2 ⟨p, List.mem_range.2 hp, rfl⟩, hk⟩)

theorem partialKeys_subset_sendKeys (hp : p < 12) : partialKeys p ⊆ sendKeys :=
  List.Subset.trans partialKeys_subset_portKeys (portKeys_subset_sendKeys hp)

theorem counterKeys_subset_sendKeys : counterKeys ⊆ sendKeys := fun _ hk =>
  List.mem_append_left _ (List.mem_cons_of_mem _ hk)

theorem grpLocalUnroutable_mem_sendKeys : Reg.grpLocalUnroutable.key [] ∈ sendKeys := List.mem_cons_self

theorem progValue_mem_counterKeys (hc : c < 4) (hi : i < 16) : Reg.progValue.key [c, i] ∈ counterKeys :=
  List.mem_flatten.2 ⟨channelKeys c, List.mem_map.2 ⟨c, List.mem_range.2 hc, rfl⟩, List.mem_map.2 ⟨i, List.mem_range.2 hi, rfl⟩⟩

theorem channelKeys_subset_counterKeys (hc : c < 4) : channelKeys c ⊆ counterKeys := fun _ hk => by
  obtain ⟨i, hi, rfl⟩ := List.mem_map.1 hk
  exact progValue_mem_counterKeys hc (List.mem_range.1 hi)

/-- The programmable counters lie in the counter block, above every other block that the groups and ports write. -/
theorem counterKeys_bounds (hk : k ∈ counterKeys) : 0x801000 * 32 ≤ k ∧ k < 0x802000 * 32 := by
  simp only [counterKeys, channelKeys, List.mem_flatten, List.mem_map, List.mem_range] at hk
  obtain ⟨_, ⟨c, hc, rfl⟩, hk⟩ := hk
  obtain ⟨i, hi, rfl⟩ := List.mem_map.1 hk
  have hi := List.mem_range.1 hi
  simp only [Reg.key, Reg.progValue, strideSum]
  omega

/-- The fields of a port lie in its page. -/
theorem portKeys_bounds (hk : k ∈ portKeys p) : (0x400000 + 0x100 * p) * 32 ≤ k ∧ k < (0x400100 + 0x100 * p) * 32 := by
  simp only [portKeys, List.cons_append, List.mem_cons, List.mem_append, List.mem_map, List.mem_range] at hk
  obtain rfl | ⟨v, hv, rfl⟩ | ⟨v, hv, rfl⟩ := hk <;>
    simp only [Reg.key, Reg.portFlitsTx, Reg.portTxCredits, Reg.portPartial, strideSum] <;> omega

/-- A field above the ports' pages and below the counter block, or above it, is none of those that sending changes, but
LOCAL_UNROUTABLE. -/
theorem not_mem_sendKeys
    (hin : 0x400C00 * 32 ≤ k ∧ k < 0x801000 * 32 ∨ 0x802000 * 32 ≤ k ∨ k < 0x400000 * 32 := by decide)
    (hne : k ≠ Reg.grpLocalUnroutable.key [] := by decide) : k ∉ sendKeys := by
  intro hk
  obtain hk | hk := List.mem_append.1 hk
  · obtain rfl | hk := List.mem_cons.1 hk
    · exact hne rfl
    · have := counterKeys_bounds hk
      omega
  · obtain ⟨_, hl, hk⟩ := List.mem_flatten.1 hk
    obtain ⟨p, hp, rfl⟩ := List.mem_map.1 hl
    have := List.mem_range.1 hp
    have := portKeys_bounds (p := p) hk
    omega

end

/-! Flits. -/

section

variable {s t : State} {p v : Nat} {q : PortSt}

theorem State.port_congr (h : t.ports = s.ports) (p : Nat) : t.port p = s.port p := by rw [State.port, h, State.port]

theorem State.setPort_touches : Touches [.regs, .ports] (partialKeys p) s (s.setPort p q) := by
  have hports : Touches [.regs, .ports] (partialKeys p) s { s with ports := Tab.put s.ports p q } :=
    (State.withPorts_does s _ Does.refl).only.touches rfl
  exact hports.trans (Touches.foldl fun _ hv _ => (OnlyRegs.wr (portPartial_mem_partialKeys (List.mem_range.1 hv))).touches)

theorem State.setPort_ports (s : State) (p : Nat) (q : PortSt) : (s.setPort p q).ports = Tab.put s.ports p q := by
  have h : Touches [.regs] (partialKeys p) { s with ports := Tab.put s.ports p q } (s.setPort p q) :=
    Touches.foldl fun _ hv _ => (OnlyRegs.wr (portPartial_mem_partialKeys (List.mem_range.1 hv))).touches
  exact h.only .ports (by decide)

@[simp] theorem State.setPort_port (s : State) (p : Nat) (q : PortSt) : (s.setPort p q).port p = q := by
  rw [State.port, State.setPort_ports, Tab.get_put_same]

theorem State.countEvent_touches {c ev n : Nat} (hc : c < 4) : Touches [.regs] counterKeys s (s.countEvent c ev n) :=
  (OnlyRegs.countEvent c ev n fun _ hi => progValue_mem_counterKeys hc hi).touches

theorem State.portEvent_touches {j n : Nat} (hp : p < 12) : Touches [.regs] counterKeys s (s.portEvent p j n) :=
  State.countEvent_touches (by omega)

theorem State.groupEvent_touches {j n : Nat} : Touches [.regs, .free] counterKeys s (s.groupEvent j n) := by
  have hc : (s.freeVal 2).1 < 4 := Nat.mod_lt _ (by decide)
  exact (s.freeVal_touches 2).widen.trans (State.countEvent_touches hc).widen

theorem State.countBw_touches {inward : Bool} {n : Nat} {ks : List Nat} :
    Touches [.bwTotals, .bwWindow] ks s (s.countBw p inward n) :=
  (State.countBw_does s p inward n Does.refl).only.touches (State.countBw_regs ..)

/-- What a flit of a type and a number of payload bytes counts (R362, R363). -/
def State.countFlit (s : State) (p type n : Nat) : State :=
  match type with
  | 0 => ((s.bump .portFlitsTx [p] 1).countBw (20 + p) false n).portEvent p 0 1
  | 1 => s.portEvent p 12 1
  | 2 => s.portEvent p 3 1
  | _ => s

/-- The flit that leaves with the totals of a port (R238, R239). -/
def PortSt.flit (q : PortSt) (type vc seq : Nat) (payload : List Byte) : List Byte :=
  flitBytes (flitHeader seq q.lastRx vc type payload.length q.cvc (q.returned.getD q.cvc 0)) payload

variable {type vc seq : Nat} {payload : List Byte}

theorem State.sendFlit_eq (s : State) (p type vc seq : Nat) (payload : List Byte) : s.sendFlit p type vc seq payload =
    ((s.countFlit p type payload.length).setPort p { s.port p with cvc := ((s.port p).cvc + 1) % 4 }).emit
      (.flit p ((s.port p).flit type vc seq payload)) := by
  unfold State.sendFlit State.countFlit PortSt.flit
  rfl

/-- A flit that is no DATA flit counts as an event alone. -/
theorem State.countFlit_control {n : Nat} (hp : p < 12) (ht : type ≠ 0) : Touches [.regs] counterKeys s (s.countFlit p type n) := by
  unfold State.countFlit
  split
  · exact absurd rfl ht
  · exact State.portEvent_touches hp
  · exact State.portEvent_touches hp
  · exact .refl

theorem State.countFlit_touches {n : Nat} (hp : p < 12) :
    Touches [.regs, .bwTotals, .bwWindow] (Reg.portFlitsTx.key [p] :: counterKeys) s (s.countFlit p type n) := by
  by_cases ht : type = 0
  · subst ht
    have hbump : OnlyRegs (Reg.portFlitsTx.key [p] :: counterKeys) s (s.bump .portFlitsTx [p] 1) := OnlyRegs.wr List.mem_cons_self
    have hevent := State.portEvent_touches (s := (s.bump .portFlitsTx [p] 1).countBw (20 + p) false n) (j := 0) (n := 1) hp
    exact (hbump.touches.trans State.countBw_touches.widen).trans (hevent.mono (List.subset_cons_self ..))
  · exact (State.countFlit_control hp ht).mono (List.subset_cons_self ..)

@[simp] theorem State.sendFlit_port (s : State) (p type vc seq : Nat) (payload : List Byte) :
    (s.sendFlit p type vc seq payload).port p = { s.port p with cvc := ((s.port p).cvc + 1) % 4 } := by
  rw [State.sendFlit_eq, State.port_congr (State.emit_ports _ _), State.setPort_port]

theorem State.sendFlit_out (hp : p < 12) :
    (s.sendFlit p type vc seq payload).out = s.out ++ [.flit p ((s.port p).flit type vc seq payload)] := by
  have hset := (State.setPort_touches (s := s.countFlit p type payload.length) (p := p)
    (q := { s.port p with cvc := ((s.port p).cvc + 1) % 4 })).only .out (by decide)
  have hcount := (State.countFlit_touches (s := s) (type := type) (n := payload.length) hp).only .out (by decide)
  rw [State.sendFlit_eq, State.emit_out, hset, hcount]

/-- A flit that is no DATA flit touches the port, its PARTIAL fields and the counters. -/
theorem State.sendFlit_control (hp : p < 12) (ht : type ≠ 0) :
    Touches [.regs, .ports, .out] (counterKeys ++ partialKeys p) s (s.sendFlit p type vc seq payload) := by
  rw [State.sendFlit_eq]
  exact (((State.countFlit_control hp ht).mono (List.subset_append_left ..)).trans
    (State.setPort_touches.mono (List.subset_append_right ..))).trans (State.emit_touches _ _).widen

theorem State.sendFlit_touches (hp : p < 12) :
    Touches [.regs, .ports, .bwWindow, .bwTotals, .out] sendKeys s (s.sendFlit p type vc seq payload) := by
  have hflits : Reg.portFlitsTx.key [p] :: counterKeys ⊆ sendKeys :=
    List.cons_subset.2 ⟨portKeys_subset_sendKeys hp List.mem_cons_self, counterKeys_subset_sendKeys⟩
  rw [State.sendFlit_eq]
  exact (((State.countFlit_touches hp).mono hflits).trans
    (State.setPort_touches.mono (partialKeys_subset_sendKeys hp))).trans
    (State.emit_touches _ _).widen

end

/-! Cells. -/

/-- A copy in progress as far as what waits for it goes: its packet, and whether it was accepted and sent. -/
def SameCopy (c d : CopySt) : Prop := d.pid = c.pid ∧ d.accepted = c.accepted ∧ d.sent = c.sent

/-- Cells and flits leave: a state follows another by what sending changes, and copies in progress only note their progress. -/
structure Sends (s t : State) : Prop where
  touches : Touches sendFields sendKeys s t
  copies : ∃ f : CopySt → CopySt, (∀ c, SameCopy c (f c)) ∧ t.copy = s.copy.map f ∧ t.copyWas = s.copyWas.map f

section

variable {fs : List Field} {ks : List Nat} {s a t : State} {p vc : Nat}

namespace Sends

/-- What sending changes, the copies left alone. -/
theorem of_touches (h : Touches fs ks s t) (hk : ks ⊆ sendKeys) (hs : Field.sub fs sendFields = true := by decide)
    (hc : .copy ∉ fs ∧ .copyWas ∉ fs := by decide) : Sends s t := by
  obtain ⟨hcopy, hwas⟩ := hc
  refine ⟨h.mono hk hs, id, fun c => ⟨rfl, rfl, rfl⟩, ?_, ?_⟩
  · rw [h.only .copy hcopy, Option.map_id, id]
  · rw [h.only .copyWas hwas, List.map_id]

theorem refl : Sends s s := of_touches (fs := []) (ks := []) .refl (List.nil_subset _)

theorem trans (h1 : Sends s a) (h2 : Sends a t) : Sends s t := by
  obtain ⟨f, hf, hcopy, hwas⟩ := h1.copies
  obtain ⟨g, hg, hcopy', hwas'⟩ := h2.copies
  refine ⟨h1.touches.trans h2.touches, g ∘ f, fun c => ?_, ?_, ?_⟩
  · obtain ⟨hp, ha, hs⟩ := hf c
    obtain ⟨hp', ha', hs'⟩ := hg (f c)
    exact ⟨hp'.trans hp, ha'.trans ha, hs'.trans hs⟩
  · rw [hcopy', hcopy, Option.map_map]
  · rw [hwas', hwas, List.map_map]

theorem foldl {β : Type} {f : State → β → State} {l : List β} (hf : ∀ b ∈ l, ∀ x, Sends x (f x b)) : Sends s (l.foldl f s) := by
  induction l generalizing s with
  | nil => exact .refl
  | cons b l ih => exact (hf b List.mem_cons_self s).trans (ih fun c hc => hf c (List.mem_cons_of_mem _ hc))

theorem ite {c : Prop} [Decidable c] {x y : State} (hx : c → Sends s x) (hy : ¬ c → Sends s y) :
    Sends s (if c then x else y) := by
  split
  · exact hx ‹_›
  · exact hy ‹_›

end Sends

theorem State.setPort_sends {q : PortSt} (hp : p < 12) : Sends s (s.setPort p q) :=
  .of_touches State.setPort_touches (partialKeys_subset_sendKeys hp)

/-- The progress of the copies is noted (R312). -/
theorem State.withCopies_sends {f : CopySt → CopySt} (hf : ∀ c, SameCopy c (f c)) :
    Sends s { s with copy := s.copy.map f, copyWas := s.copyWas.map f } := by
  refine ⟨ChangesOnly.touches (fun g hg => ?_) rfl, f, hf, rfl, rfl⟩
  cases g
  case copy => exact absurd (by decide) hg
  case copyWas => exact absurd (by decide) hg
  all_goals rfl

/-- The copies with a cell's progress noted at the tick (R312). -/
def State.noteProgress (s : State) (bytes : List Byte) (c : CopySt) : CopySt :=
  if s.copyCell c bytes then { c with progress := s.aoNow } else c

theorem State.noteProgress_same (s : State) (bytes : List Byte) (c : CopySt) : SameCopy c (s.noteProgress bytes c) := by
  unfold State.noteProgress
  split <;> exact ⟨rfl, rfl, rfl⟩

theorem State.startCell_sends (hp : p < 12) : Sends s (s.startCell p vc) := by
  unfold State.startCell
  extract_lets q
  split
  · exact .refl
  · next w hw =>
    have hvc : vc < 4 := by
      have := List.find?_some hw
      simp only [beq_iff_eq] at this
      omega
    extract_lets note noted counted
    have hnote : Sends s noted := State.withCopies_sends fun c => State.noteProgress_same s w.2 c
    have hcount : Sends noted counted := .ite (fun _ => .of_touches State.groupEvent_touches counterKeys_subset_sendKeys) fun _ => .refl
    have hcredit : Sends counted (counted.wr .portTxCredits [p, vc] (counted.rd .portTxCredits [p, vc] - 1)) :=
      .of_touches (fs := [.regs]) (ks := portKeys p) (OnlyRegs.wr (portTxCredits_mem_portKeys hvc)).touches
        (portKeys_subset_sendKeys hp)
    exact ((hnote.trans hcount).trans hcredit).trans (State.setPort_sends hp)

theorem State.sendFlit_sends {type seq : Nat} {payload : List Byte} (hp : p < 12) :
    Sends s (s.sendFlit p type vc seq payload) := .of_touches (State.sendFlit_touches hp) (List.Subset.refl _)

theorem State.sendData_sends (hp : p < 12) : Sends s (s.sendData p vc) := by
  unfold State.sendData
  extract_lets started q rest f set
  have hstart : Sends s started := .ite (fun _ => State.startCell_sends hp) fun _ => .refl
  exact (hstart.trans (State.setPort_sends hp)).trans (State.sendFlit_sends hp)

theorem State.pumpFlits_sends (hp : p < 12) (n : Nat) : Sends s (State.pumpFlits p n s) := by
  induction n generalizing s with
  | zero => exact .refl
  | succ n ih =>
    rw [State.pumpFlits]
    dsimp only
    split
    · exact .refl
    · have harb : ∀ x : ArbSt, Sends s { s with arbiters := Tab.put s.arbiters (24 + p) x } := fun _ =>
        .of_touches (fs := [.arbiters]) (ks := []) ((State.withArbiters_does s _ Does.refl).only.touches rfl) (List.nil_subset _)
      exact ((harb _).trans (State.sendData_sends hp)).trans ih

theorem State.pump_sends (hp : p < 12) : Sends s (s.pump p) := .ite (fun _ => State.pumpFlits_sends hp _) fun _ => .refl

/-- A port on which no DATA flit is due sends none. -/
theorem State.pump_idle (h : (s.port p).flitsDue = 0) : s.pump p = s := by
  unfold State.pump
  rw [h]
  exact ite_self _

theorem State.queueCell_sends {bytes : List Byte} (hp : p < 12) : Sends s (s.queueCell p vc bytes) :=
  (State.setPort_sends hp).trans (State.pump_sends hp)

theorem State.withDelivered_touches (s : State) (l : List Cell) : Touches [.delivered] ks s { s with delivered := l } :=
  (State.withDelivered_does s l Does.refl).only.touches rfl

theorem State.sendCell_sends {dest kind stream : Nat} {body : List Byte} : Sends s (s.sendCell vc dest kind stream body) := by
  unfold State.sendCell
  extract_lets c
  refine .ite (fun _ => ?_) fun _ => .ite (fun _ => ?_) fun hr => State.queueCell_sends (by omega)
  · exact .of_touches (ks := []) (s.withDelivered_touches _) (List.nil_subset _)
  · exact .of_touches (fs := [.regs]) (ks := sendKeys) (OnlyRegs.wr grpLocalUnroutable_mem_sendKeys).touches (List.Subset.refl _)

/-! What waits for an event. -/

namespace Sends

/-- Sending leaves no copy where there was none. -/
theorem noCopies (h : Sends s t) (hs : s.copies = []) : t.copies = [] := by
  obtain ⟨f, -, hcopy, hwas⟩ := h.copies
  obtain ⟨hw, hc⟩ := List.append_eq_nil_iff.1 hs
  rw [State.copies, hcopy, hwas, hw, Option.toList_eq_nil_iff.1 hc]
  rfl

theorem copies_any (h : Sends s t) (pid : Nat) :
    t.copies.any (fun c => c.pid == some pid) = s.copies.any (fun c => c.pid == some pid) := by
  obtain ⟨f, hf, hcopy, hwas⟩ := h.copies
  have hmap : t.copies = s.copies.map f := by
    rw [State.copies, State.copies, hcopy, hwas, List.map_append]
    cases s.copy <;> rfl
  rw [hmap, List.any_map]
  refine any_congr_mem fun c _ => ?_
  rw [Function.comp_apply, (hf c).1]

theorem copy_some (h : Sends s t) {d : CopySt} (hd : t.copy = some d) : ∃ c, s.copy = some c ∧ SameCopy c d := by
  obtain ⟨f, hf, hcopy, -⟩ := h.copies
  rw [hcopy] at hd
  obtain ⟨c, hc, rfl⟩ := Option.map_eq_some_iff.1 hd
  exact ⟨c, hc, hf c⟩

theorem rd (h : Sends s t) {r : Reg} {idx : List Nat} (hk : r.key idx ∉ sendKeys := by exact not_mem_sendKeys) :
    t.rd r idx = s.rd r idx := h.touches.regs r idx hk

end Sends

/-- The fields that tell what waits lie outside the ports' pages and the counter block. -/
theorem settledKey_bounds {k : Nat} (hk : k ∈ settledKeys) :
    (0x400C00 * 32 ≤ k ∧ k < 0x801000 * 32 ∨ 0x802000 * 32 ≤ k ∨ k < 0x400000 * 32) ∧ k ≠ Reg.grpLocalUnroutable.key [] := by
  have hall : ∀ k ∈ settledKeys, (0x400C00 * 32 ≤ k ∧ k < 0x801000 * 32 ∨ 0x802000 * 32 ≤ k ∨ k < 0x400000 * 32) ∧
      k ≠ Reg.grpLocalUnroutable.key [] := by decide
  exact hall k hk

theorem settledKey_not_mem_sendKeys {k : Nat} (hk : k ∈ settledKeys) : k ∉ sendKeys := by
  obtain ⟨hin, hne⟩ := settledKey_bounds hk
  exact not_mem_sendKeys hin hne

/-- A machine stays settled while cells leave. -/
theorem Settled.of_sends (hs : Settled s) (h : Sends s t) : Settled t := by
  have hflight : t.flight = s.flight := h.touches.only .flight (by decide)
  have hcolls : t.colls = s.colls := h.touches.only .colls (by decide)
  have hverdicts : t.verdicts = s.verdicts := h.touches.only .verdicts (by decide)
  have hstep : t.step = s.step := h.touches.only .step (by decide)
  have hkept : ∀ r idx, r.key idx ∈ settledKeys → t.rd r idx = s.rd r idx := fun r idx hk =>
    h.rd (settledKey_not_mem_sendKeys hk)
  refine ⟨fun p hp => ?_, ?_, ?_, fun d hd => ?_, ?_, fun k hk hfenced => ?_⟩
  · rw [hcolls, h.copies_any]
    exact hs.packets p (hflight ▸ hp)
  · rw [h.touches.only .commit (by decide)]
    exact hs.commit
  · rw [hstep, hverdicts, hkept _ _ (by decide), hkept _ _ (by decide)]
    exact hs.verdict
  · obtain ⟨c, hc, hpid, haccepted, hsent⟩ := h.copy_some hd
    rw [hpid, haccepted, hsent]
    exact hs.copy c hc
  · rw [h.touches.only .restore (by decide)]
    exact hs.restore
  · have hmem : ∀ r ∈ [Reg.unitHstate, Reg.domDstate], r.key [56 + k] ∈ settledKeys := fun r hr => by
      refine List.mem_append_right _ (List.mem_flatten.2 ⟨_, List.mem_map.2 ⟨k, List.mem_range.2 hk, rfl⟩, ?_⟩)
      obtain rfl | rfl := by simpa using hr
      · simp
      · simp
    rw [State.fenced, hkept _ _ (hmem _ (by simp))] at hfenced
    rw [hkept _ _ (hmem _ (by simp))]
    exact hs.fences k hk hfenced

end

end Sys2Proof.Machine
end

section
/-! PROOFS. Link ports: enables, training and SYNC (R237, R244, R245). -/

namespace Sys2Proof.Machine

set_option Elab.async false

/-! The fields of a port's page. -/

/-- Fields of a port, one word or two in each port's page. -/
def portFields : List Reg :=
  [.portEnable, .portPeerPort, .portPeerChanged, .portPstate, .portPeerId, .portLinkSession, .portFlitsRx, .portResends,
   .portCrcErrors, .portFecCorrected, .portFecUncorrectable, .portRetrains, .portCellsLost]

section

variable {r q : Reg} {p p' v : Nat}

theorem portField_key (hr : r ∈ portFields) (p : Nat) : r.key [p] = r.key [0] + 0x2000 * p := by
  have hdims : ∀ r ∈ portFields, r.dims = [(12, 0x100)] := by decide
  simp only [Reg.key, hdims r hr, strideSum]
  omega

/-- Two fields of a port do not share a key. -/
theorem portField_ne (h : r.key [0] ≠ q.key [0] := by decide) (hr : r ∈ portFields := by decide)
    (hq : q ∈ portFields := by decide) : r.key [p] ≠ q.key [p] := by
  rw [portField_key hr, portField_key hq]
  omega

theorem portField_bounds (hr : r ∈ portFields) : 0x400000 * 32 ≤ r.key [0] ∧ r.key [0] < 0x400050 * 32 ∧
    r.key [0] ≠ 0x400018 * 32 := by
  have hall : ∀ r ∈ portFields, 0x400000 * 32 ≤ r.key [0] ∧ r.key [0] < 0x400050 * 32 ∧ r.key [0] ≠ 0x400018 * 32 := by decide
  exact hall r hr

theorem portField_not_mem_portKeys (hr : r ∈ portFields := by decide) : r.key [p] ∉ portKeys p' := by
  obtain ⟨hlow, hhigh, hflits⟩ := portField_bounds hr
  rw [portField_key hr]
  simp only [portKeys, List.cons_append, List.mem_cons, List.mem_append, List.mem_map, List.mem_range, Reg.key, strideSum,
    Reg.portFlitsTx, Reg.portTxCredits, Reg.portPartial]
  rintro (h | ⟨v, hv, h⟩ | ⟨v, hv, h⟩) <;> simp only [Reg.key] at hlow hhigh hflits <;> omega

theorem portField_not_mem_partialKeys (hr : r ∈ portFields := by decide) : r.key [p] ∉ partialKeys p' := fun h =>
  portField_not_mem_portKeys hr (partialKeys_subset_portKeys h)

theorem portField_not_mem_counterKeys (hp : p < 12) (hr : r ∈ portFields := by decide) : r.key [p] ∉ counterKeys := fun h => by
  have := counterKeys_bounds h
  obtain ⟨-, hhigh, -⟩ := portField_bounds hr
  rw [portField_key hr] at this
  omega

theorem portField_not_mem_sendKeys (hp : p < 12) (hr : r ∈ portFields := by decide) : r.key [p] ∉ sendKeys := fun h => by
  obtain h | h := List.mem_append.1 h
  · obtain h | h := List.mem_cons.1 h
    · obtain ⟨-, hhigh, -⟩ := portField_bounds hr
      rw [portField_key hr] at h
      have hlocal : Reg.grpLocalUnroutable.key [] = 0x402048 * 32 := by decide
      omega
    · exact portField_not_mem_counterKeys hp hr h
  · obtain ⟨_, hl, h⟩ := List.mem_flatten.1 h
    obtain ⟨p', -, rfl⟩ := List.mem_map.1 hl
    exact portField_not_mem_portKeys hr h

theorem portFlitsTx_not_mem_counterKeys (hp : p < 12) : Reg.portFlitsTx.key [p] ∉ counterKeys := fun h => by
  have := counterKeys_bounds h
  simp only [Reg.key, Reg.portFlitsTx, strideSum] at this
  omega

theorem portFlitsTx_not_mem_partialKeys : Reg.portFlitsTx.key [p] ∉ partialKeys p := by
  simp only [partialKeys, List.mem_map, List.mem_range, not_exists, not_and, Reg.key, Reg.portFlitsTx, Reg.portPartial, strideSum]
  omega

end

/-! Credits, and sessions that begin (R237, R242, R245). -/

/-- The transmit credits of a port. -/
def creditKeys (p : Nat) : List Nat := (List.range 4).map (fun v => Reg.portTxCredits.key [p, v])

/-- Every VC of a port takes the credits that a function gives it. -/
def State.fillCredits (s : State) (p : Nat) (f : Nat → Nat) : State :=
  (List.range 4).foldl (fun s v => s.wr .portTxCredits [p, v] (f v)) s

section

variable {s t : State} {p v : Nat} {f : Nat → Nat} {r : Reg}

theorem portTxCredits_mem_creditKeys (hv : v < 4) : Reg.portTxCredits.key [p, v] ∈ creditKeys p :=
  List.mem_map.2 ⟨v, List.mem_range.2 hv, rfl⟩

theorem State.fillCredits_touches : Touches [.regs] (creditKeys p) s (s.fillCredits p f) :=
  Touches.foldl fun v hv _ => (OnlyRegs.wr (portTxCredits_mem_creditKeys (List.mem_range.1 hv))).touches

theorem portTxCredits_key_inj {w : Nat} (h : Reg.portTxCredits.key [p, v] = Reg.portTxCredits.key [p, w]) : v = w := by
  simp only [Reg.key, Reg.portTxCredits, strideSum] at h
  omega

theorem State.fillCredits_rd (hv : v < 4) : (s.fillCredits p f).rd .portTxCredits [p, v] = f v % 1024 := by
  suffices h : ∀ (l : List Nat) (a : State), v ∈ l ∨ a.rd .portTxCredits [p, v] = f v % 1024 →
      (l.foldl (fun s v => s.wr .portTxCredits [p, v] (f v)) a).rd .portTxCredits [p, v] = f v % 1024 from
    h _ _ (.inl (List.mem_range.2 hv))
  intro l
  induction l with
  | nil => exact fun a h => h.elim (fun h => absurd h List.not_mem_nil) id
  | cons w l ih =>
    intro a h
    refine ih _ ?_
    by_cases hw : v = w
    · subst hw
      exact .inr (State.rd_wr_same ..)
    · rw [State.rd_wr_ne _ _ fun he => hw (portTxCredits_key_inj he)]
      exact h.imp (fun hm => (List.mem_cons.1 hm).resolve_left hw) id

theorem portField_not_mem_creditKeys (hr : r ∈ portFields := by decide) : r.key [p] ∉ creditKeys p := fun h =>
  portField_not_mem_portKeys hr (List.mem_cons_of_mem _ (List.mem_append_left _ h))

theorem portTxCredits_not_mem_partialKeys : Reg.portTxCredits.key [p, v] ∉ partialKeys p := by
  simp only [partialKeys, List.mem_map, List.mem_range, not_exists, not_and, Reg.key, Reg.portTxCredits, Reg.portPartial, strideSum]
  omega

/-- A port as a session begins: its cells not yet begun wait on. -/
def PortSt.renewed (q : PortSt) : PortSt := { PortSt.empty with waiting := q.waiting }

theorem State.discardPort_eq (s : State) (p : Nat) : s.discardPort p =
    ((s.count .portCellsLost [p] (s.port p).lost).fillCredits p (fun _ => 0)).setPort p (s.port p).renewed := rfl

theorem State.discardPort_port : (s.discardPort p).port p = (s.port p).renewed := by
  rw [State.discardPort_eq, State.setPort_port]

/-- A discard counts the cells lost and clears the port. -/
theorem State.discardPort_touches :
    Touches [.regs, .ports] (Reg.portCellsLost.key [p] :: creditKeys p ++ partialKeys p) s (s.discardPort p) := by
  rw [State.discardPort_eq]
  have hcount : OnlyRegs [Reg.portCellsLost.key [p]] s (s.count .portCellsLost [p] (s.port p).lost) := OnlyRegs.wr List.mem_cons_self
  refine ((hcount.touches (fs := [.regs])).mono ?_).trans ((State.fillCredits_touches.mono ?_).trans (State.setPort_touches.mono ?_))
  · simp
  · exact fun _ hk => List.mem_append_left _ (List.mem_cons_of_mem _ hk)
  · exact List.subset_append_right ..

theorem State.discardPort_rd (hr : r ∈ portFields := by decide) (hne : r.key [0] ≠ Reg.portCellsLost.key [0] := by decide) :
    (s.discardPort p).rd r [p] = s.rd r [p] := by
  refine State.discardPort_touches.regs _ _ fun h => ?_
  obtain h | h := List.mem_append.1 h
  · obtain h | h := List.mem_cons.1 h
    · exact portField_ne hne hr (by decide) h
    · exact portField_not_mem_creditKeys hr h
  · exact portField_not_mem_partialKeys hr h

theorem State.discardPort_credits (hv : v < 4) : (s.discardPort p).rd .portTxCredits [p, v] = 0 := by
  rw [State.discardPort_eq, State.setPort_touches.regs _ _ portTxCredits_not_mem_partialKeys, State.fillCredits_rd hv]

theorem State.discardPort_lost :
    (s.discardPort p).rd .portCellsLost [p] = satAdd 32 (s.rd .portCellsLost [p]) (s.port p).lost := by
  rw [State.discardPort_eq, State.setPort_touches.regs _ _ portField_not_mem_partialKeys,
    State.fillCredits_touches.regs _ _ portField_not_mem_creditKeys, State.rd_count_same]
  exact Nat.mod_eq_of_lt satAdd_lt

end

/-! PORT_ENABLE and PORT_DISABLE (R237). -/

section

variable {s a t : State} {p v : Nat}

theorem exec_portEnable (p : Nat) (s : State) : exec (.portEnable p) s = hosted s (fun s => s.hostField .portEnable [p] 1) := rfl

theorem exec_portDisable (p : Nat) (s : State) : exec (.portDisable p) s = hosted s (fun s => s.hostField .portEnable [p] 0) := rfl

theorem State.fieldWrite_portEnable (s0 s : State) (p v : Nat) :
    s0.fieldWrite s .portEnable [p] v = if v = 1 then s.enablePort p else s.disablePort p := by
  unfold State.fieldWrite
  rfl

theorem portEnable_takes (ht : HostTakes s) (hp : p < 12) : exec (.portEnable p) s = .next ((s.tlpIn 4).enablePort p) := by
  have hh : Reg.portEnable.has [p] = true := by simp [Reg.has, Reg.portEnable, hp]
  rw [exec_portEnable, hosted_takes ht, State.hostField_takes ht hh, State.fieldWrite_portEnable, if_pos (by decide)]
  rfl

theorem portDisable_takes (ht : HostTakes s) (hp : p < 12) : exec (.portDisable p) s = .next ((s.tlpIn 4).disablePort p) := by
  have hh : Reg.portEnable.has [p] = true := by simp [Reg.has, Reg.portEnable, hp]
  rw [exec_portDisable, hosted_takes ht, State.hostField_takes ht hh, State.fieldWrite_portEnable, if_neg (by decide)]
  rfl

/-- Counting the bytes of a write leaves the fields of the ports, their flit state and the health of the units alone. -/
theorem State.tlpIn_portField {r : Reg} {n : Nat} (hp : p < 12) (hr : r ∈ portFields := by decide) :
    (s.tlpIn n).rd r [p] = s.rd r [p] :=
  State.tlpIn_touches.regs _ _ fun h => portField_not_mem_counterKeys hp hr (channelKeys_subset_counterKeys (by decide) h)

theorem State.tlpIn_port {n : Nat} : (s.tlpIn n).port p = s.port p :=
  State.port_congr (State.tlpIn_touches.only .ports (by decide)) p

theorem State.tlpIn_fenced {u n : Nat} (hu : u < 96) : (s.tlpIn n).fenced u = s.fenced u := by
  have hkey : Reg.unitHstate.key [u] ∉ channelKeys 0 := fun h => by
    have := counterKeys_bounds (channelKeys_subset_counterKeys (by decide) h)
    simp only [Reg.key, Reg.unitHstate, strideSum] at this
    omega
  rw [State.fenced, State.fenced, State.tlpIn_touches.regs _ _ hkey]

/-- STATE and CLOCKS_STOPPED of the domain of a port's group. -/
def groupDomainKeys (p : Nat) : List Nat := [Reg.domDstate.key [portGroup p], Reg.domClocksStopped.key [portGroup p]]

theorem portField_not_mem_groupDomainKeys {r : Reg} (hp : p < 12) (hr : r ∈ portFields := by decide) :
    r.key [p] ∉ groupDomainKeys p := by
  obtain ⟨-, hhigh, -⟩ := portField_bounds hr
  rw [portField_key hr]
  simp only [groupDomainKeys, List.mem_cons, List.not_mem_nil, or_false, Reg.key, strideSum, Reg.domDstate,
    Reg.domClocksStopped] at hhigh ⊢
  omega

theorem portTxCredits_not_mem_groupDomainKeys (_ : p < 12) (_ : v < 4) :
    Reg.portTxCredits.key [p, v] ∉ groupDomainKeys p := by
  simp only [groupDomainKeys, List.mem_cons, List.not_mem_nil, or_false, Reg.key, strideSum, Reg.domDstate, Reg.portTxCredits,
    Reg.domClocksStopped]
  omega

theorem State.setDomain_touches {st : Nat} : Touches [.regs] (groupDomainKeys p) s (s.setDomain (portGroup p) st) :=
  (Touches.refl.wr (by simp [groupDomainKeys])).wr (by simp [groupDomainKeys])

theorem State.wake_touches : Touches [.regs] (groupDomainKeys p) s (s.wake (portGroup p)) :=
  .ite (fun _ => (Touches.refl.wr (by simp [groupDomainKeys])).wr (by simp [groupDomainKeys])) .refl

theorem State.enablePort_ignored (h : s.rd .portEnable [p] = 1 ∨ s.fenced (82 + p) = true) : s.enablePort p = s := by
  refine if_pos (h.imp (fun he => ?_) id)
  rw [State.flag, he]
  rfl

/-- A port that is enabled trains in a new session. -/
theorem State.enablePort_trains (hp : p < 12) (he : s.rd .portEnable [p] ≠ 1) (hf : s.fenced (82 + p) = false) :
    (s.enablePort p).rd .portEnable [p] = 1 ∧ (s.enablePort p).rd .portPstate [p] = 1 ∧
      (s.enablePort p).port p = (s.port p).renewed ∧
      (s.enablePort p).rd .portLinkSession [p] = (s.rd .portLinkSession [p] + 1) % 2 ^ 32 ∧
      ChangesOnly [.regs, .ports] s (s.enablePort p) := by
  have hcond : ¬ (s.flag .portEnable [p] = true ∨ s.fenced (82 + p) = true) := by simp [State.flag, he, hf]
  unfold State.enablePort
  rw [if_neg hcond]
  extract_lets begun waiting cleared
  have hbegun : ∀ r, r.key [p] ≠ Reg.portLinkSession.key [p] → begun.rd r [p] = (s.wr .portEnable [p] 1).rd r [p] := fun r hr =>
    State.rd_bump_ne _ _ hr
  have hports : begun.port p = s.port p := State.port_congr (by rw [State.bump_ports, State.wr_ports]) p
  have hset : Touches [.regs, .ports] (partialKeys p) begun cleared := State.setPort_touches
  have hwake : Touches [.regs] (groupDomainKeys p) cleared (cleared.wake (portGroup p)) := State.wake_touches
  have hkept : ∀ r ∈ portFields, r.key [0] ≠ Reg.portPstate.key [0] →
      ((cleared.wake (portGroup p)).wr .portPstate [p] psTraining).rd r [p] = begun.rd r [p] := fun r hr hne => by
    rw [State.rd_wr_ne _ _ (portField_ne hne hr), hwake.regs _ _ (portField_not_mem_groupDomainKeys hp hr),
      hset.regs _ _ (portField_not_mem_partialKeys hr)]
  refine ⟨?_, State.rd_wr_same .., ?_, ?_, ?_⟩
  · rw [hkept _ (by decide) (by decide), hbegun _ portField_ne, State.rd_wr_same]
    rfl
  · rw [State.port_congr (State.wr_ports ..), State.port_congr (hwake.only .ports (by decide)), State.setPort_port, hports]
    rfl
  · rw [hkept _ (by decide) (by decide), State.rd_bump_same, State.rd_wr_ne _ _ portField_ne]
    rfl
  · have hwr : Touches [.regs] [Reg.portEnable.key [p], Reg.portLinkSession.key [p]] s begun :=
      (Touches.refl.wr (by simp)).wr (by simp)
    have hlast : Touches [.regs] [Reg.portPstate.key [p]] (cleared.wake (portGroup p)) _ :=
      (OnlyRegs.wr (v := psTraining) List.mem_cons_self).touches
    exact (hwr.only.mono (by decide)).trans (hset.only.trans ((hwake.only.mono (by decide)).trans (hlast.only.mono (by decide))))

theorem State.disablePort_ignored (h : s.rd .portEnable [p] ≠ 1) : s.disablePort p = s := by
  refine if_pos ?_
  simp [State.flag, h]

/-- A port that is disabled is idle, its session's flits, partial cells and credits gone. -/
theorem State.disablePort_idles (hp : p < 12) (he : s.rd .portEnable [p] = 1) :
    (s.disablePort p).rd .portEnable [p] = 0 ∧ (s.disablePort p).rd .portPstate [p] = 0 ∧
      (s.disablePort p).port p = (s.port p).renewed ∧ (∀ v, v < 4 → (s.disablePort p).rd .portTxCredits [p, v] = 0) ∧
      (s.disablePort p).rd .portCellsLost [p] = satAdd 32 (s.rd .portCellsLost [p]) (s.port p).lost ∧
      ChangesOnly [.regs, .ports] s (s.disablePort p) := by
  have hcond : ¬ ((!s.flag .portEnable [p]) = true) := by simp [State.flag, he]
  unfold State.disablePort
  rw [if_neg hcond]
  extract_lets disabled idle g
  have hgate : Touches [.regs] (groupDomainKeys p) idle
      (if idle.flag .pwrAutoGate [] ∧ (List.range 6).all (fun i => !idle.flag .portEnable [6 * (g - 76) + i]) then idle.setDomain g 0
        else idle) := .ite (fun _ => State.setDomain_touches) .refl
  generalize (if idle.flag .pwrAutoGate [] ∧ (List.range 6).all (fun i => !idle.flag .portEnable [6 * (g - 76) + i]) then
    idle.setDomain g 0 else idle) = t at hgate ⊢
  have hkept : ∀ r ∈ portFields, t.rd r [p] = idle.rd r [p] := fun r hr =>
    hgate.regs _ _ (portField_not_mem_groupDomainKeys hp hr)
  refine ⟨?_, ?_, ?_, fun v hv => ?_, ?_, ?_⟩
  · rw [hkept _ (by decide), State.rd_wr_ne _ _ portField_ne, State.rd_wr_same]
    rfl
  · rw [hkept _ (by decide), State.rd_wr_same]
    rfl
  · rw [State.port_congr (hgate.only .ports (by decide)), State.port_congr (State.wr_ports ..),
      State.port_congr (State.wr_ports ..), State.discardPort_port]
  · have hfield : ∀ r ∈ [Reg.portEnable, .portPstate], r ∈ portFields := by decide
    have hne : ∀ r ∈ [Reg.portEnable, .portPstate], Reg.portTxCredits.key [p, v] ≠ r.key [p] := fun r hr he =>
      portField_not_mem_creditKeys (hfield r hr) (he ▸ portTxCredits_mem_creditKeys hv)
    rw [hgate.regs _ _ (portTxCredits_not_mem_groupDomainKeys hp hv), State.rd_wr_ne _ _ (hne _ (by simp)),
      State.rd_wr_ne _ _ (hne _ (by simp)), State.discardPort_credits hv]
  · rw [hkept _ (by decide), State.rd_wr_ne _ _ portField_ne, State.rd_wr_ne _ _ portField_ne, State.discardPort_lost]
  · have hwr : Touches [.regs] [Reg.portEnable.key [p], Reg.portPstate.key [p]] (s.discardPort p) idle :=
      (Touches.refl.wr (by simp)).wr (by simp)
    exact State.discardPort_touches.only.trans ((hwr.only.mono (by decide)).trans (hgate.only.mono (by decide)))

end

/-! Training and SYNC (R244, R245). -/

section

variable {s a t : State} {p : Nat}

theorem exec_trainingComplete (p : Nat) (s : State) : exec (.trainingComplete p) s = powered s (fun s => s.trained p) := rfl

theorem exec_sync (p : Nat) (f : FlitTotals) (i n e : Nat) (cs : List Nat) (s : State) : exec (.sync p f i n e cs) s =
    powered s (fun s => if p < 12 ∧ s.pstate p = psSync then s.takeSync p f i n e cs else s) := rfl

/-- A port that has trained sends SYNC. -/
theorem State.trained_syncs (hp : p < 12) (hs : s.pstate p = 1 ∨ s.pstate p = 4) (hg : s.rd .domDstate [portGroup p] = 2) :
    (s.trained p).pstate p = 2 ∧
      (s.trained p).out = s.out ++ [.flit p ((s.port p).flit 3 0 (s.port p).nextSeq (s.syncPayload p))] ∧
      ChangesOnly [.regs, .ports, .out] s (s.trained p) := by
  have heq : s.trained p = (s.wr .portPstate [p] psSync).sendFlit p 3 0 (s.port p).nextSeq (s.syncPayload p) :=
    if_pos ⟨hp, hs, hg⟩
  have hport : (s.wr .portPstate [p] psSync).port p = s.port p := State.port_congr (State.wr_ports ..) p
  have hsend := State.sendFlit_control (s := s.wr .portPstate [p] psSync) (vc := 0) (seq := (s.port p).nextSeq)
    (payload := s.syncPayload p) (type := 3) hp (by decide)
  have hwr : OnlyRegs [Reg.portPstate.key [p]] s (s.wr .portPstate [p] psSync) := OnlyRegs.wr List.mem_cons_self
  have hkey : Reg.portPstate.key [p] ∉ counterKeys ++ partialKeys p := fun h =>
    (List.mem_append.1 h).elim (portField_not_mem_counterKeys hp) portField_not_mem_partialKeys
  rw [heq]
  refine ⟨?_, ?_, (hwr.1.mono (by decide)).trans hsend.only⟩
  · rw [State.pstate, hsend.regs _ _ hkey, State.rd_wr_same]
    rfl
  · rw [State.sendFlit_out hp, hport, State.wr_out]

theorem State.trained_waits (h : ¬ (p < 12 ∧ (s.pstate p = 1 ∨ s.pstate p = 4) ∧ s.rd .domDstate [portGroup p] = 2)) :
    s.trained p = s := if_neg h

/-- Flits that are resent count as resends of their port (R240). -/
theorem State.resendAll_touches (hp : p < 12) :
    Touches [.regs, .ports, .bwWindow, .bwTotals, .out] (Reg.portResends.key [p] :: sendKeys) s (s.resendAll p) :=
  Touches.foldl fun f _ x => by
    have hflit := State.sendFlit_touches (s := x) (type := 0) (vc := f.2.1) (seq := f.1) (payload := f.2.2.2) hp
    have hcount : OnlyRegs (Reg.portResends.key [p] :: sendKeys) (x.sendFlit p 0 f.2.1 f.1 f.2.2.2)
        ((x.sendFlit p 0 f.2.1 f.1 f.2.2.2).count .portResends [p] 1) := OnlyRegs.wr List.mem_cons_self
    have hevent := State.portEvent_touches (s := (x.sendFlit p 0 f.2.1 f.1 f.2.2.2).count .portResends [p] 1) (j := 2) (n := 1) hp
    exact ((hflit.mono (List.subset_cons_self ..)).trans hcount.touches).trans
      (hevent.mono (fun _ hk => List.mem_cons_of_mem _ (counterKeys_subset_sendKeys hk)))

theorem State.resendAll_none (h : (s.port p).retry = []) : s.resendAll p = s := by
  rw [State.resendAll, h, List.foldl_nil]

/-- A field of the port other than RESENDS is as it was after flits are resent. -/
theorem State.resendAll_rd {r : Reg} (hp : p < 12) (hr : r ∈ portFields := by decide)
    (hne : r.key [0] ≠ Reg.portResends.key [0] := by decide) : (s.resendAll p).rd r [p] = s.rd r [p] :=
  (State.resendAll_touches hp).regs _ _ fun h =>
    (List.mem_cons.1 h).elim (portField_ne hne hr) (portField_not_mem_sendKeys hp hr)

/-- What a flit's totals leave of a port. -/
def PortSt.taking (q : PortSt) (ack cvc credits : Nat) : PortSt :=
  { q with retry := dropAcked ack q.retry, resent := if (dropAcked ack q.retry).length < q.retry.length then 0 else q.resent
           taken := q.taken.set cvc credits, inHop := dropConsumed cvc q.inHop ((credits + 1024 - q.taken.getD cvc 0) % 1024) }

theorem State.takeTotals_eq (s : State) (p ack cvc credits : Nat) : s.takeTotals p ack cvc credits =
    let u := s.setPort p ((s.port p).taking ack cvc credits)
    u.wr .portTxCredits [p, cvc] (u.rd .portTxCredits [p, cvc] + (credits + 1024 - (s.port p).taken.getD cvc 0) % 1024) := rfl

theorem State.takeTotals_port {ack cvc credits : Nat} :
    (s.takeTotals p ack cvc credits).port p = (s.port p).taking ack cvc credits := by
  rw [State.takeTotals_eq]
  exact (State.port_congr (State.wr_ports ..) p).trans (State.setPort_port ..)

theorem State.takeTotals_touches {ack cvc credits : Nat} :
    Touches [.regs, .ports] (Reg.portTxCredits.key [p, cvc] :: partialKeys p) s (s.takeTotals p ack cvc credits) := by
  rw [State.takeTotals_eq]
  exact (State.setPort_touches.mono (List.subset_cons_self ..)).trans (OnlyRegs.wr List.mem_cons_self).touches

theorem State.takeTotals_credits {ack cvc credits : Nat} :
    (s.takeTotals p ack cvc credits).rd .portTxCredits [p, cvc] =
      (s.rd .portTxCredits [p, cvc] + (credits + 1024 - (s.port p).taken.getD cvc 0) % 1024) % 1024 := by
  rw [State.takeTotals_eq]
  refine (State.rd_wr_same ..).trans ?_
  rw [State.setPort_touches.regs _ _ portTxCredits_not_mem_partialKeys]
  rfl

theorem dropAcked_nil {ack : Nat} : dropAcked ack [] = [] := rfl

theorem State.takeTotals_rd {ack cvc credits : Nat} {r : Reg} (hc : cvc < 4) (hr : r ∈ portFields := by decide) :
    (s.takeTotals p ack cvc credits).rd r [p] = s.rd r [p] :=
  State.takeTotals_touches.regs _ _ fun h => (List.mem_cons.1 h).elim
    (fun he => portField_not_mem_portKeys hr (Eq.mpr (congrArg (· ∈ portKeys p) he) (portTxCredits_mem_portKeys hc))) (portField_not_mem_partialKeys hr)

/-- The port takes a SYNC of the session it was in: it is UP with its flit state, its totals taken, and sends again what is not
acknowledged (R245). -/
def State.resumeSession (s : State) (p : Nat) (f : FlitTotals) : State :=
  ((s.takeTotals p f.ack f.cvc f.credits).setPort p { (s.takeTotals p f.ack f.cvc f.credits).port p with resent := 0 }).wr
    .portPstate [p] psUp

/-- The port has joined the session of its peer. -/
def PortSt.joined (q : PortSt) (e : Nat) : PortSt := { q with fresh := false, peerSession := e }

/-- The port takes a SYNC of another session (R245). -/
def State.renew (s : State) (p i n e : Nat) (cs : List Nat) : State :=
  let reported := ((s.discardPort p).wr .portPeerChanged [p] 1).report 0x05 ([BitVec.ofNat 8 p, 2] ++ zeros 6)
  let filled := (((reported.wr .portPeerId [p] i).wr .portPeerPort [p] n).wr .portPstate [p] psUp).fillCredits p (fun v => cs.getD v 0)
  filled.setPort p ((filled.port p).joined e)

variable {f : FlitTotals} {i n e : Nat} {cs : List Nat}

theorem State.takeSync_eq (s : State) (p : Nat) (f : FlitTotals) (i n e : Nat) (cs : List Nat) : s.takeSync p f i n e cs =
    if !(s.port p).fresh ∧ s.rd .portPeerId [p] = i ∧ s.rd .portPeerPort [p] = n ∧ (s.port p).peerSession = e then
      ((s.resumeSession p f).resendAll p).pump p
    else (s.renew p i n e cs).pump p := rfl

theorem State.resumeSession_pstate : (s.resumeSession p f).rd .portPstate [p] = 3 := by
  rw [State.resumeSession, State.rd_wr_same]
  rfl

theorem State.resumeSession_port : (s.resumeSession p f).port p = { (s.port p).taking f.ack f.cvc f.credits with resent := 0 } := by
  rw [State.resumeSession, State.port_congr (State.wr_ports ..), State.setPort_port, State.takeTotals_port]

theorem State.resumeSession_touches : Touches [.regs, .ports]
    (Reg.portPstate.key [p] :: Reg.portTxCredits.key [p, f.cvc] :: partialKeys p) s (s.resumeSession p f) := by
  have htake := State.takeTotals_touches (s := s) (p := p) (ack := f.ack) (cvc := f.cvc) (credits := f.credits)
  refine ((htake.mono (List.subset_cons_self ..)).trans (State.setPort_touches.mono ?_)).trans ((OnlyRegs.wr List.mem_cons_self).touches (fs := [.regs])).widen
  exact fun _ hk => List.mem_cons_of_mem _ (List.mem_cons_of_mem _ hk)

/-- A report changes no field of a port. -/
theorem portField_not_mem_sentKeys {r : Reg} (hp : p < 12) (hr : r ∈ portFields := by decide) : r.key [p] ∉ sentKeys := fun h => by
  have hsent : ∀ k ∈ sentKeys, 0xA00000 * 32 ≤ k := by decide
  have := hsent _ h
  obtain ⟨-, hhigh, -⟩ := portField_bounds hr
  rw [portField_key hr] at this
  omega

/-- What a new session leaves: PEER_CHANGED, the peer's identity and credits, and a port that begins. -/
theorem State.renew_begins (hp : p < 12) : (s.renew p i n e cs).rd .portPstate [p] = 3 ∧
    (s.renew p i n e cs).rd .portPeerChanged [p] = 1 ∧ (s.renew p i n e cs).rd .portPeerId [p] = i % 2 ^ 64 ∧
    (s.renew p i n e cs).rd .portPeerPort [p] = n % 16 ∧
    (∀ v, v < 4 → (s.renew p i n e cs).rd .portTxCredits [p, v] = cs.getD v 0 % 1024) ∧
    (s.renew p i n e cs).port p = (s.port p).renewed.joined e ∧
    ChangesOnly [.regs, .ports, .reports, .reportSeq, .out] s (s.renew p i n e cs) := by
  unfold State.renew
  extract_lets reported filled
  have hreport := State.report_touches ((s.discardPort p).wr .portPeerChanged [p] 1) 0x05 ([BitVec.ofNat 8 p, 2] ++ zeros 6)
  have hfill : Touches [.regs] (creditKeys p) _ filled := State.fillCredits_touches
  have hset := State.setPort_touches (s := filled) (p := p) (q := (filled.port p).joined e)
  have hlast : ∀ r ∈ portFields, (filled.setPort p ((filled.port p).joined e)).rd r [p] =
      (((reported.wr .portPeerId [p] i).wr .portPeerPort [p] n).wr .portPstate [p] psUp).rd r [p] := fun r hr => by
    rw [hset.regs _ _ (portField_not_mem_partialKeys hr), hfill.regs _ _ (portField_not_mem_creditKeys hr)]
  have hports : filled.port p = (s.port p).renewed := by
    rw [State.port_congr (hfill.only .ports (by decide)), State.port_congr (State.wr_ports ..), State.port_congr (State.wr_ports ..),
      State.port_congr (State.wr_ports ..), State.port_congr (hreport.only .ports (by decide)), State.port_congr (State.wr_ports ..),
      State.discardPort_port]
  refine ⟨?_, ?_, ?_, ?_, fun v hv => ?_, ?_, ?_⟩
  · rw [hlast _ (by decide), State.rd_wr_same]
    rfl
  · rw [hlast _ (by decide), State.rd_wr_ne _ _ portField_ne, State.rd_wr_ne _ _ portField_ne, State.rd_wr_ne _ _ portField_ne,
      hreport.regs _ _ (portField_not_mem_sentKeys hp), State.rd_wr_same]
    rfl
  · rw [hlast _ (by decide), State.rd_wr_ne _ _ portField_ne, State.rd_wr_ne _ _ portField_ne, State.rd_wr_same]
    rfl
  · rw [hlast _ (by decide), State.rd_wr_ne _ _ portField_ne, State.rd_wr_same]
    rfl
  · rw [hset.regs _ _ portTxCredits_not_mem_partialKeys, State.fillCredits_rd hv]
  · rw [State.setPort_port, hports]
  · have hchanged : OnlyRegs [Reg.portPeerChanged.key [p]] (s.discardPort p) _ := OnlyRegs.wr (v := 1) List.mem_cons_self
    have hpeer : Touches [.regs] [Reg.portPeerId.key [p], Reg.portPeerPort.key [p], Reg.portPstate.key [p]] reported
        (((reported.wr .portPeerId [p] i).wr .portPeerPort [p] n).wr .portPstate [p] psUp) :=
      ((Touches.refl.wr (by simp)).wr (by simp)).wr (by simp)
    exact (State.discardPort_touches.only.mono (by decide)).trans ((hchanged.1.mono (by decide)).trans
      ((hreport.only.mono (by decide)).trans ((hpeer.only.mono (by decide)).trans
        ((hfill.only.mono (by decide)).trans (hset.only.mono (by decide))))))

/-- SYNC brings the port UP, whatever session it continues or begins. -/
theorem State.takeSync_pstate (hp : p < 12) : (s.takeSync p f i n e cs).rd .portPstate [p] = 3 := by
  rw [State.takeSync_eq]
  split
  · rw [(State.pump_sends hp).touches.regs _ _ (portField_not_mem_sendKeys hp), State.resendAll_rd hp, State.resumeSession_pstate]
  · obtain ⟨hup, -⟩ := State.renew_begins (s := s) (i := i) (n := n) (e := e) (cs := cs) hp
    rw [(State.pump_sends hp).touches.regs _ _ (portField_not_mem_sendKeys hp), hup]

theorem flitsDue_of_renewed {q : PortSt} (hw : q.waiting = []) : q.renewed.flitsDue = 0 := by
  rw [PortSt.renewed, hw]
  rfl

/-- A port of a new session with no cell waiting sends nothing. -/
theorem State.takeSync_fresh (hp : p < 12) (hw : (s.port p).waiting = []) (hf : (s.port p).fresh = true) :
    s.takeSync p f i n e cs = s.renew p i n e cs := by
  obtain ⟨-, -, -, -, -, hport, -⟩ := State.renew_begins (s := s) (i := i) (n := n) (e := e) (cs := cs) hp
  rw [State.takeSync_eq, if_neg (by simp [hf]), State.pump_idle]
  rw [hport]
  exact flitsDue_of_renewed hw

/-- A port that continues its session with nothing to send again or to send only takes the totals. -/
theorem State.takeSync_continued (hdue : (s.port p).flitsDue = 0) (hretry : (s.port p).retry = [])
    (hf : (s.port p).fresh = false) (hi : s.rd .portPeerId [p] = i) (hn : s.rd .portPeerPort [p] = n)
    (he : (s.port p).peerSession = e) : s.takeSync p f i n e cs = s.resumeSession p f := by
  have hnone : ((s.resumeSession p f).port p).retry = [] := by
    rw [State.resumeSession_port]
    exact congrArg (dropAcked f.ack) hretry
  have hidle : ((s.resumeSession p f).port p).flitsDue = 0 := by
    rw [State.resumeSession_port]
    exact hdue
  rw [State.takeSync_eq, if_pos ⟨by rw [hf]; rfl, hi, hn, he⟩, State.resendAll_none hnone, State.pump_idle hidle]

end

end Sys2Proof.Machine
end

section
/-! PROOFS. Link ports: flits, NAK, retry and retraining (R239–R244). -/

namespace Sys2Proof.Machine

set_option Elab.async false

/-! Flits that arrive (R239, R242, R243). -/

/-- The fields of a port that a flit counts into. -/
def flitCounts : List Reg := [.portFecCorrected, .portFecUncorrectable, .portCrcErrors, .portFlitsRx]

/-- The register fields that a flit of one port changes. -/
def flitKeys (p : Nat) : List Nat := flitCounts.map (fun r => r.key [p]) ++ sendKeys

/-- The fields of the state that a flit changes when its cells are for this node. -/
def flitFields : List Field := [.regs, .ports, .delivered, .bwWindow, .bwTotals, .out, .free]

section

variable {s a t : State} {p c n : Nat} {r : Reg}

theorem flitCount_mem_flitKeys (hr : r ∈ flitCounts := by decide) : r.key [p] ∈ flitKeys p :=
  List.mem_append_left _ (List.mem_map.2 ⟨r, hr, rfl⟩)

theorem sendKeys_subset_flitKeys : sendKeys ⊆ flitKeys p := List.subset_append_right ..

theorem counterKeys_subset_flitKeys : counterKeys ⊆ flitKeys p := fun _ hk =>
  sendKeys_subset_flitKeys (counterKeys_subset_sendKeys hk)

/-- A flit that is sent, not a DATA flit, changes no field that a flit that comes does not. -/
theorem control_subset_flitKeys (hp : p < 12) : counterKeys ++ partialKeys p ⊆ flitKeys p :=
  List.append_subset.2 ⟨counterKeys_subset_flitKeys, fun _ hk => sendKeys_subset_flitKeys (partialKeys_subset_sendKeys hp hk)⟩

theorem portField_not_mem_control (hp : p < 12) (hr : r ∈ portFields := by decide) :
    r.key [p] ∉ counterKeys ++ partialKeys p := fun h =>
  (List.mem_append.1 h).elim (portField_not_mem_counterKeys hp hr) (portField_not_mem_partialKeys hr)

theorem partialKeys_subset_flitKeys (hp : p < 12) : partialKeys p ⊆ flitKeys p := fun _ hk =>
  control_subset_flitKeys hp (List.mem_append_right _ hk)

theorem joinKeys_subset_flitKeys (hp : p < 12) :
    Reg.portFlitsRx.key [p] :: (counterKeys ++ partialKeys p) ⊆ flitKeys p :=
  List.cons_subset.2 ⟨flitCount_mem_flitKeys, control_subset_flitKeys hp⟩

theorem fecKeys_subset_flitKeys :
    Reg.portFecCorrected.key [p] :: Reg.portFecUncorrectable.key [p] :: counterKeys ⊆ flitKeys p :=
  List.cons_subset.2 ⟨flitCount_mem_flitKeys, List.cons_subset.2 ⟨flitCount_mem_flitKeys, counterKeys_subset_flitKeys⟩⟩

/-- A field outside the ports' pages and the counter block is none of those that a flit changes, but LOCAL_UNROUTABLE. -/
theorem not_mem_flitKeys {k : Nat} (hp : p < 12)
    (hin : 0x400C00 * 32 ≤ k ∧ k < 0x801000 * 32 ∨ 0x802000 * 32 ≤ k ∨ k < 0x400000 * 32 := by decide)
    (hne : k ≠ Reg.grpLocalUnroutable.key [] := by decide) : k ∉ flitKeys p := fun h => by
  obtain h | h := List.mem_append.1 h
  · obtain ⟨r, hr, rfl⟩ := List.mem_map.1 h
    have hfield : ∀ r ∈ flitCounts, r ∈ portFields := by decide
    obtain ⟨hlow, hhigh, -⟩ := portField_bounds (hfield r hr)
    rw [portField_key (hfield r hr)] at hin
    omega
  · exact not_mem_sendKeys hin hne h

/-- What waits for an event does not wait for a flit. -/
theorem Settled.of_flit (hs : Settled s) (hp : p < 12) (h : Touches flitFields (flitKeys p) s t) : Settled t :=
  hs.of_touches h (by decide) fun k hk => by
    obtain ⟨hin, hne⟩ := settledKey_bounds hk
    exact not_mem_flitKeys hp hin hne

theorem exec_flitReceived (p : Nat) (bs : List Byte) (c n : Nat) (s : State) : exec (.flitReceived p bs c n) s =
    powered s (fun s => if p < 12 ∧ s.pstate p = psUp then (s.takeFlit p bs c n).settleStreams else s) := rfl

/-- A flit corrected counts on its port (R239). -/
def State.countFec (s : State) (p c n : Nat) : State :=
  ((s.bump .portFecCorrected [p] c).count .portFecUncorrectable [p] n).portEvent p 5 c

theorem State.countFec_touches (hp : p < 12) : Touches [.regs] (Reg.portFecCorrected.key [p] ::
    Reg.portFecUncorrectable.key [p] :: counterKeys) s (s.countFec p c n) := by
  have hcounts : Touches [.regs] (Reg.portFecCorrected.key [p] :: Reg.portFecUncorrectable.key [p] :: counterKeys) s
      ((s.bump .portFecCorrected [p] c).count .portFecUncorrectable [p] n) :=
    (Touches.refl.wr (by simp)).wr (by simp)
  refine hcounts.trans ((State.portEvent_touches hp).mono fun _ hk => ?_)
  exact List.mem_cons_of_mem _ (List.mem_cons_of_mem _ hk)

theorem State.countFec_port (hp : p < 12) : (s.countFec p c n).port p = s.port p :=
  State.port_congr ((State.countFec_touches hp).only .ports (by decide)) p

theorem State.countFec_corrected (hp : p < 12) :
    (s.countFec p c n).rd .portFecCorrected [p] = (s.rd .portFecCorrected [p] + c) % 2 ^ 64 := by
  rw [State.countFec, (State.portEvent_touches hp).regs _ _ (portField_not_mem_counterKeys hp),
    State.rd_count_ne _ _ portField_ne, State.rd_bump_same]
  rfl

/-- A field of the port that the counts of a corrected flit leave alone. -/
theorem State.countFec_rd (hp : p < 12) (hr : r ∈ portFields := by decide)
    (hne : r.key [0] ≠ Reg.portFecCorrected.key [0] ∧ r.key [0] ≠ Reg.portFecUncorrectable.key [0] := by decide) :
    (s.countFec p c n).rd r [p] = s.rd r [p] := by
  refine (State.countFec_touches hp).regs _ _ fun h => ?_
  obtain h | h := List.mem_cons.1 h
  · exact portField_ne hne.1 hr (by decide) h
  · obtain h | h := List.mem_cons.1 h
    · exact portField_ne hne.2 hr (by decide) h
    · exact portField_not_mem_counterKeys hp hr h

theorem State.countFec_flit (hp : p < 12) : Touches flitFields (flitKeys p) s (s.countFec p c n) :=
  (State.countFec_touches hp).mono fecKeys_subset_flitKeys

variable {bs : List Byte}

/-! A flit with a bad CRC. -/

theorem State.takeFlit_bad (h : flitGood bs = false) :
    s.takeFlit p bs c n = (((s.countFec p c n).count .portCrcErrors [p] 1).portEvent p 4 1).sendNak p := if_pos (by rw [h]; rfl)

/-- A flit with a bad CRC is counted and answered with NAK (R239). -/
theorem State.takeFlit_nak (hp : p < 12) (h : flitGood bs = false) :
    (s.takeFlit p bs c n).rd .portCrcErrors [p] = satAdd 32 (s.rd .portCrcErrors [p]) 1 ∧
      (s.takeFlit p bs c n).rd .portFecCorrected [p] = (s.rd .portFecCorrected [p] + c) % 2 ^ 64 ∧
      (s.takeFlit p bs c n).out = s.out ++ [.flit p ((s.port p).flit 2 0 (s.port p).nextSeq [])] ∧
      Touches [.regs, .ports, .out] (flitKeys p) s (s.takeFlit p bs c n) := by
  rw [State.takeFlit_bad h]
  have hfec := State.countFec_touches (s := s) (c := c) (n := n) hp
  have hcount : OnlyRegs [Reg.portCrcErrors.key [p]] (s.countFec p c n) ((s.countFec p c n).count .portCrcErrors [p] 1) :=
    OnlyRegs.wr List.mem_cons_self
  have hevent := State.portEvent_touches (s := (s.countFec p c n).count .portCrcErrors [p] 1) (j := 4) (n := 1) hp
  generalize ((s.countFec p c n).count .portCrcErrors [p] 1).portEvent p 4 1 = a at hevent
  have hsend := State.sendFlit_control (s := a) (vc := 0) (seq := (a.port p).nextSeq) (payload := []) (type := 2) hp (by decide)
  have hport : a.port p = s.port p := by
    rw [State.port_congr (hevent.only .ports (by decide)), State.port_congr (hcount.1 .ports (by decide)), State.countFec_port hp]
  have hkept : ∀ r ∈ portFields, (a.sendNak p).rd r [p] = ((s.countFec p c n).count .portCrcErrors [p] 1).rd r [p] := fun r hr => by
    rw [State.sendNak, hsend.regs _ _ (portField_not_mem_control hp hr), hevent.regs _ _ (portField_not_mem_counterKeys hp hr)]
  refine ⟨?_, ?_, ?_, ?_⟩
  · rw [hkept _ (by decide), State.rd_count_same, State.countFec_rd hp]
    exact Nat.mod_eq_of_lt satAdd_lt
  · rw [hkept _ (by decide), State.rd_count_ne _ _ portField_ne, State.countFec_corrected hp]
  · rw [State.sendNak, State.sendFlit_out hp, hport, hevent.only .out (by decide), hcount.1 .out (by decide),
      hfec.only .out (by decide)]
  · have hcounted : Touches [.regs] (flitKeys p) (s.countFec p c n) ((s.countFec p c n).count .portCrcErrors [p] 1) :=
      (OnlyRegs.wr flitCount_mem_flitKeys).touches
    exact (hfec.mono fecKeys_subset_flitKeys).trans (hcounted.widen.trans
      ((hevent.mono counterKeys_subset_flitKeys).trans (hsend.mono (control_subset_flitKeys hp))))

/-! A DATA flit whose CRC is good. -/

theorem bitsOf_vc_lt (v : Nat) : bitsOf v 39 38 < 4 := Nat.mod_lt _ (by decide)

theorem bitsOf_cvc_lt (v : Nat) : bitsOf v 27 26 < 4 := Nat.mod_lt _ (by decide)

/-- The state in which the data of a flit is judged: its counts made and its totals taken. -/
def State.heardFlit (s : State) (p : Nat) (bs : List Byte) (c n : Nat) : State :=
  (s.countFec p c n).takeTotals p (bitsOf (fieldLe bs 0 8) 51 40) (bitsOf (fieldLe bs 0 8) 27 26) (bitsOf (fieldLe bs 0 8) 25 16)

theorem State.takeFlit_data (h : flitGood bs = true) (ht : bitsOf (fieldLe bs 0 8) 37 36 = 0) :
    s.takeFlit p bs c n = (s.heardFlit p bs c n).takeData p (bitsOf (fieldLe bs 0 8) 63 52) (bitsOf (fieldLe bs 0 8) 39 38)
      (slice bs 8 (min 244 (bitsOf (fieldLe bs 0 8) 35 28))) := by
  unfold State.takeFlit
  rw [if_neg (by rw [h]; decide)]
  dsimp only
  rw [ht, if_neg (by decide), if_pos rfl]
  rfl

theorem State.heardFlit_touches (hp : p < 12) : Touches flitFields (flitKeys p) s (s.heardFlit p bs c n) := by
  refine (State.countFec_flit hp).trans (State.takeTotals_touches.mono fun k hk => sendKeys_subset_flitKeys ?_)
  obtain rfl | hk := List.mem_cons.1 hk
  · exact portKeys_subset_sendKeys hp (portTxCredits_mem_portKeys (bitsOf_cvc_lt _))
  · exact partialKeys_subset_sendKeys hp hk

theorem State.heardFlit_port (hp : p < 12) : (s.heardFlit p bs c n).port p = (s.port p).taking
    (bitsOf (fieldLe bs 0 8) 51 40) (bitsOf (fieldLe bs 0 8) 27 26) (bitsOf (fieldLe bs 0 8) 25 16) := by
  rw [State.heardFlit, State.takeTotals_port, State.countFec_port hp]

theorem State.heardFlit_only (hp : p < 12) : ChangesOnly [.regs, .ports] s (s.heardFlit p bs c n) :=
  ((State.countFec_touches hp).only.mono (by decide)).trans State.takeTotals_touches.only

theorem State.heardFlit_flitsRx (hp : p < 12) : (s.heardFlit p bs c n).rd .portFlitsRx [p] = s.rd .portFlitsRx [p] := by
  rw [State.heardFlit, State.takeTotals_rd (bitsOf_cvc_lt _), State.countFec_rd hp]

variable {seq vc : Nat} {payload : List Byte}

theorem State.takeData_late (h : seq ≠ ((s.port p).lastRx + 1) % 4096) : s.takeData p seq vc payload = s.sendNak p := if_neg h

/-- A DATA flit out of order is answered with NAK (R239). -/
theorem State.takeData_nak (hp : p < 12) (h : seq ≠ ((s.port p).lastRx + 1) % 4096) :
    (s.takeData p seq vc payload).out = s.out ++ [.flit p ((s.port p).flit 2 0 (s.port p).nextSeq [])] ∧
      ((s.takeData p seq vc payload).port p).lastRx = (s.port p).lastRx ∧
      Touches [.regs, .ports, .out] (counterKeys ++ partialKeys p) s (s.takeData p seq vc payload) := by
  rw [State.takeData_late h]
  refine ⟨State.sendFlit_out hp, ?_, State.sendFlit_control hp (by decide)⟩
  rw [State.sendNak, State.sendFlit_port]

/-- A port that has accepted a flit, its bytes joining the byte stream of its VC. -/
def PortSt.join (q : PortSt) (seq vc : Nat) (payload : List Byte) : PortSt :=
  { q with lastRx := seq, part := q.part.set vc (q.part.getD vc [] ++ payload) }

/-- The state in which the cells of an accepted flit are assembled. -/
def State.joinData (s : State) (p seq vc : Nat) (payload : List Byte) : State :=
  (((s.setPort p ((s.port p).join seq vc payload)).bump .portFlitsRx [p] 1).portEvent p 1 1).countBw (20 + p) true payload.length

theorem State.joinData_touches (hp : p < 12) : Touches [.regs, .ports, .bwTotals, .bwWindow]
    (Reg.portFlitsRx.key [p] :: (counterKeys ++ partialKeys p)) s (s.joinData p seq vc payload) := by
  have hset := State.setPort_touches (s := s) (p := p) (q := (s.port p).join seq vc payload)
  have hcount : OnlyRegs [Reg.portFlitsRx.key [p]] _ ((s.setPort p ((s.port p).join seq vc payload)).bump .portFlitsRx [p] 1) :=
    OnlyRegs.wr List.mem_cons_self
  have hevent := State.portEvent_touches (j := 1) (n := 1) hp
    (s := (s.setPort p ((s.port p).join seq vc payload)).bump .portFlitsRx [p] 1)
  have hcounted := (hcount.touches (fs := [.regs])).mono (gs := [.regs, .ports, .bwTotals, .bwWindow])
    (ls := Reg.portFlitsRx.key [p] :: (counterKeys ++ partialKeys p)) (by simp)
  refine Touches.trans ?_ (hcounted.trans (Touches.trans ?_ State.countBw_touches.widen))
  · exact hset.mono fun _ hk => List.mem_cons_of_mem _ (List.mem_append_right _ hk)
  · exact hevent.mono fun _ hk => List.mem_cons_of_mem _ (List.mem_append_left _ hk)

theorem State.joinData_port (hp : p < 12) : (s.joinData p seq vc payload).port p = (s.port p).join seq vc payload := by
  have hevent := State.portEvent_touches (j := 1) (n := 1) hp
    (s := (s.setPort p ((s.port p).join seq vc payload)).bump .portFlitsRx [p] 1)
  rw [State.joinData, State.port_congr (State.countBw_touches (ks := []) |>.only .ports (by decide)),
    State.port_congr (hevent.only .ports (by decide)), State.port_congr (State.bump_ports ..), State.setPort_port]

theorem State.joinData_flitsRx (hp : p < 12) :
    (s.joinData p seq vc payload).rd .portFlitsRx [p] = (s.rd .portFlitsRx [p] + 1) % 2 ^ 64 := by
  rw [State.joinData, State.countBw_touches (ks := []) |>.regs _ _ List.not_mem_nil,
    (State.portEvent_touches hp).regs _ _ (portField_not_mem_counterKeys hp), State.rd_bump_same,
    State.setPort_touches.regs _ _ portField_not_mem_partialKeys]
  rfl

/-- The state with the cells of an accepted flit assembled, before what is due is sent. -/
def State.assembled (s : State) (p seq vc : Nat) (payload : List Byte) : State :=
  State.assemble p vc ((s.port p).part.getD vc [] ++ payload).length (s.joinData p seq vc payload)

theorem State.takeData_next (h : seq = ((s.port p).lastRx + 1) % 4096) : s.takeData p seq vc payload =
    let z := (s.assembled p seq vc payload).pump p
    let y := z.wr .portPartial [p, vc] ((z.port p).part.getD vc []).length
    if y.rd .portFlitsTx [p] = s.rd .portFlitsTx [p] then y.sendFlit p 1 0 (y.port p).nextSeq [] else y := if_pos h

/-- Assembling touched no more than the port, the deliveries and the counters. -/
def Assembles (p : Nat) (s t : State) : Prop :=
  Touches [.regs, .ports, .delivered, .free] (counterKeys ++ partialKeys p) s t

/-- What an accepted flit leaves when nothing is due: an IDLE flit carries its ACK (R239). -/
theorem State.takeData_idle (hp : p < 12) (hvc : vc < 4) (hseq : seq = ((s.port p).lastRx + 1) % 4096)
    (hz : Assembles p (s.joinData p seq vc payload) (s.assembled p seq vc payload))
    (hdue : ((s.assembled p seq vc payload).port p).flitsDue = 0) :
    (∃ f, (s.takeData p seq vc payload).out = s.out ++ [.flit p f]) ∧
      (s.takeData p seq vc payload).delivered = (s.assembled p seq vc payload).delivered ∧
      (s.takeData p seq vc payload).rd .portFlitsRx [p] = (s.rd .portFlitsRx [p] + 1) % 2 ^ 64 ∧
      ((s.takeData p seq vc payload).port p).lastRx = ((s.assembled p seq vc payload).port p).lastRx ∧
      ((s.takeData p seq vc payload).port p).part = ((s.assembled p seq vc payload).port p).part ∧
      Touches flitFields (flitKeys p) s (s.takeData p seq vc payload) := by
  have hjoin := State.joinData_touches (s := s) (seq := seq) (vc := vc) (payload := payload) hp
  have hrx := State.joinData_flitsRx (s := s) (seq := seq) (vc := vc) (payload := payload) hp
  rw [State.takeData_next hseq, State.pump_idle hdue]
  generalize s.joinData p seq vc payload = j at hjoin hrx hz
  generalize s.assembled p seq vc payload = z at hz
  dsimp only
  have hwr : Touches [.regs] (partialKeys p) z (z.wr .portPartial [p, vc] ((z.port p).part.getD vc []).length) :=
    (OnlyRegs.wr (portPartial_mem_partialKeys hvc)).touches
  have hports : (z.wr .portPartial [p, vc] ((z.port p).part.getD vc []).length).port p = z.port p :=
    State.port_congr (State.wr_ports ..) p
  generalize z.wr .portPartial [p, vc] ((z.port p).part.getD vc []).length = y at hwr hports
  have htx : y.rd .portFlitsTx [p] = s.rd .portFlitsTx [p] := by
    have hnot : Reg.portFlitsTx.key [p] ∉ counterKeys ++ partialKeys p := fun h =>
      (List.mem_append.1 h).elim (portFlitsTx_not_mem_counterKeys hp) portFlitsTx_not_mem_partialKeys
    have hother : Reg.portFlitsTx.key [p] ≠ Reg.portFlitsRx.key [p] := by
      simp only [Reg.key, Reg.portFlitsTx, Reg.portFlitsRx, strideSum]
      omega
    rw [hwr.regs _ _ portFlitsTx_not_mem_partialKeys, hz.regs _ _ hnot,
      hjoin.regs _ _ fun h => (List.mem_cons.1 h).elim hother hnot]
  rw [if_pos htx]
  have hsend := State.sendFlit_control (s := y) (vc := 0) (seq := (y.port p).nextSeq) (payload := []) (type := 1) hp (by decide)
  have hnot : Reg.portFlitsRx.key [p] ∉ counterKeys ++ partialKeys p := portField_not_mem_control hp
  refine ⟨⟨(y.port p).flit 1 0 (y.port p).nextSeq [], ?_⟩, ?_, ?_, ?_, ?_, ?_⟩
  · rw [State.sendFlit_out hp, hwr.only .out (by decide), hz.only .out (by decide), hjoin.only .out (by decide)]
  · exact (hsend.only .delivered (by decide)).trans (hwr.only .delivered (by decide))
  · rw [hsend.regs _ _ hnot, hwr.regs _ _ portField_not_mem_partialKeys, hz.regs _ _ hnot, hrx]
  · rw [State.sendFlit_port, hports]
  · rw [State.sendFlit_port, hports]
  · have hsub := control_subset_flitKeys hp
    refine (hjoin.mono (joinKeys_subset_flitKeys hp)).trans ((hz.mono hsub).trans ?_)
    exact (hwr.mono (partialKeys_subset_flitKeys hp)).trans (hsend.mono hsub)

/-! Cells assembled (R242, R243, R246). -/

theorem getD_set_same {α : Type} {l : List α} {i : Nat} {a d : α} (h : i < l.length) : (l.set i a).getD i d = a := by
  rw [List.getD_eq_getElem _ _ (by rwa [List.length_set]), List.getElem_set_self]

/-- Less than a header waits for the rest of its cell. -/
theorem State.assemble_waits (h : ((s.port p).part.getD vc []).length < 8) (fuel : Nat) : State.assemble p vc fuel s = s := by
  cases fuel with
  | zero => rfl
  | succ fuel => exact if_pos (.inl h)

/-- A port with the cell of a VC taken off and its credit returned. -/
def PortSt.emptied (q : PortSt) (vc : Nat) : PortSt :=
  { q with part := q.part.set vc [], returned := q.returned.set vc ((q.returned.getD vc 0 + 1) % 1024) }

theorem State.assemble_cell {fuel : Nat} (hm : 8 ≤ ((s.port p).part.getD vc []).length)
    (hlen : 8 + bitsOf (fieldLe ((s.port p).part.getD vc []) 0 8) 35 26 = ((s.port p).part.getD vc []).length) :
    State.assemble p vc (fuel + 1) s =
      State.assemble p vc fuel ((s.setPort p ((s.port p).emptied vc)).routeCell p vc ((s.port p).part.getD vc [])) := by
  rw [State.assemble]
  dsimp only
  rw [hlen, if_neg (by omega), List.take_length, List.drop_length]
  rfl

/-- The group message that a whole cell carries. -/
def groupCell (bs : List Byte) : Cell :=
  { dest := bitsOf (fieldLe bs 0 8) 63 50, src := bitsOf (fieldLe bs 0 8) 49 36, kind := 3
    stream := bitsOf (fieldLe bs 0 8) 15 0, body := (bs.drop 8).take (bs.length - 12) }

/-- A group message for this node is delivered (R246). -/
theorem State.routeCell_delivers (hlen : 12 ≤ bs.length) (hdest : bitsOf (fieldLe bs 0 8) 63 50 = s.rd .grpNode [])
    (hkind : bitsOf (fieldLe bs 0 8) 23 16 = 3) (hcrc : crc32 (bs.take (bs.length - 4)) = fieldLe bs (bs.length - 4) 4)
    (hg : s.rd .grpGroupEnable [] = 1) : s.routeCell p vc bs =
      { s.portEvent p 11 1 with delivered := s.delivered ++ [groupCell bs] }.groupEvent 7 1 := by
  have hbody : bs.length - 8 - 4 = bs.length - 12 := by omega
  have hshort : ¬ (bs.length - 8 < 4) := by omega
  have hlive : ∀ src stream body, s.cellLive src 3 stream body = true := fun _ _ _ => by
    rw [State.cellLive, State.flag, hg]
    rfl
  unfold State.routeCell groupCell
  dsimp only
  rw [hkind, if_neg (by decide), if_pos hdest, if_neg (fun h => h.2.elim (by rw [List.length_drop]; exact hshort) (· hcrc)),
    if_pos (hlive _ _ _), if_pos rfl, if_neg (by decide), List.length_drop, hbody]

theorem State.routeCell_touches (hp : p < 12) (l : List Cell) :
    Touches [.regs, .free, .delivered] counterKeys s ({ s.portEvent p 11 1 with delivered := l }.groupEvent 7 1) :=
  (State.portEvent_touches hp).widen.trans ((State.withDelivered_touches _ l).widen.trans State.groupEvent_touches.widen)

theorem State.routeCell_delivered {l : List Cell} : ({ s.portEvent p 11 1 with delivered := l }.groupEvent 7 1).delivered = l :=
  State.groupEvent_touches.only .delivered (by decide)

end

section

variable {s : State} {p seq vc c n : Nat} {payload bs : List Byte}

/-- The byte stream of a VC after an accepted flit has joined it. -/
theorem State.joinData_part (hp : p < 12) (hvc : vc < 4) (hlen : (s.port p).part.length = 4) :
    ((s.joinData p seq vc payload).port p).part.getD vc [] = (s.port p).part.getD vc [] ++ payload := by
  rw [State.joinData_port hp]
  exact getD_set_same (hlen ▸ hvc)

/-- Too few bytes for a header wait. -/
theorem State.assembled_waits (hp : p < 12) (hvc : vc < 4) (hlen : (s.port p).part.length = 4)
    (hshort : ((s.port p).part.getD vc []).length + payload.length < 8) :
    s.assembled p seq vc payload = s.joinData p seq vc payload :=
  State.assemble_waits (by rwa [State.joinData_part hp hvc hlen, List.length_append]) _

/-- A flit leaves NODE and GROUP_ENABLE as they are. -/
theorem groupField_not_mem_flitKeys {r : Reg} (hp : p < 12) (hr : r ∈ [Reg.grpNode, .grpGroupEnable]) : r.key [] ∉ flitKeys p := by
  obtain rfl | rfl := by simpa using hr
  · exact not_mem_flitKeys hp
  · exact not_mem_flitKeys hp

/-- The whole cell of a group message for this node is taken off its VC and delivered. -/
theorem State.assembled_delivers (hp : p < 12) (hvc : vc < 4) (hlen : (s.port p).part.length = 4)
    (hnone : (s.port p).part.getD vc [] = []) (hm : 12 ≤ payload.length)
    (hwhole : 8 + bitsOf (fieldLe payload 0 8) 35 26 = payload.length)
    (hdest : bitsOf (fieldLe payload 0 8) 63 50 = s.rd .grpNode []) (hkind : bitsOf (fieldLe payload 0 8) 23 16 = 3)
    (hcrc : crc32 (payload.take (payload.length - 4)) = fieldLe payload (payload.length - 4) 4)
    (hg : s.rd .grpGroupEnable [] = 1) :
    Assembles p (s.joinData p seq vc payload) (s.assembled p seq vc payload) ∧
      (s.assembled p seq vc payload).delivered = s.delivered ++ [groupCell payload] ∧
      (s.assembled p seq vc payload).port p = ((s.port p).join seq vc payload).emptied vc := by
  have hjoin := State.joinData_touches (s := s) (seq := seq) (vc := vc) (payload := payload) hp
  have hport := State.joinData_port (s := s) (seq := seq) (vc := vc) (payload := payload) hp
  have hpart : ((s.joinData p seq vc payload).port p).part.getD vc [] = payload := by
    rw [State.joinData_part hp hvc hlen, hnone, List.nil_append]
  have hcell : s.assembled p seq vc payload = State.assemble p vc (payload.length - 1) (((s.joinData p seq vc payload).setPort p
      (((s.joinData p seq vc payload).port p).emptied vc)).routeCell p vc payload) := by
    obtain ⟨k, hk⟩ : ∃ k, payload.length = k + 1 := ⟨payload.length - 1, by omega⟩
    have h := State.assemble_cell (s := s.joinData p seq vc payload) (p := p) (vc := vc) (fuel := k)
      (by rw [hpart]; omega) (by rw [hpart]; exact hwhole)
    rw [hpart] at h
    rw [State.assembled, hnone, List.nil_append, hk, h]
    rfl
  generalize s.joinData p seq vc payload = j at hjoin hport hpart hcell
  have hset : Touches [.regs, .ports] (partialKeys p) j (j.setPort p ((j.port p).emptied vc)) := State.setPort_touches
  have hgroup : ∀ r ∈ [Reg.grpNode, .grpGroupEnable], (j.setPort p ((j.port p).emptied vc)).rd r [] = s.rd r [] := fun r hr => by
    have hnot : r.key [] ∉ flitKeys p := groupField_not_mem_flitKeys hp hr
    rw [hset.regs _ _ fun h => hnot (partialKeys_subset_flitKeys hp h), hjoin.regs _ _ fun h => hnot (joinKeys_subset_flitKeys hp h)]
  have hdelivered : (j.setPort p ((j.port p).emptied vc)).delivered = s.delivered := by
    rw [hset.only .delivered (by decide), hjoin.only .delivered (by decide)]
  have hsetport : (j.setPort p ((j.port p).emptied vc)).port p = ((s.port p).join seq vc payload).emptied vc := by
    rw [State.setPort_port, hport]
  rw [State.routeCell_delivers hm (by rw [hgroup _ (by simp), hdest]) hkind hcrc (by rw [hgroup _ (by simp), hg]), hdelivered]
    at hcell
  generalize j.setPort p ((j.port p).emptied vc) = b at hset hcell hsetport
  have hroute := State.routeCell_touches (s := b) hp (s.delivered ++ [groupCell payload])
  have hlist := State.routeCell_delivered (s := b) (p := p) (l := s.delivered ++ [groupCell payload])
  generalize ({ b.portEvent p 11 1 with delivered := s.delivered ++ [groupCell payload] } : State).groupEvent 7 1 = z
    at hroute hcell hlist
  have hzport : z.port p = ((s.port p).join seq vc payload).emptied vc :=
    (State.port_congr (hroute.only .ports (by decide)) p).trans hsetport
  have hempty : (z.port p).part.getD vc [] = [] := by
    rw [hzport]
    exact getD_set_same (by rw [PortSt.join, List.length_set, hlen]; exact hvc)
  rw [State.assemble_waits (by rw [hempty]; decide)] at hcell
  rw [hcell]
  exact ⟨(hset.mono (List.subset_append_right ..)).trans (hroute.mono (List.subset_append_left ..)), hlist, hzport⟩

/-! FLIT_RECEIVED. -/

theorem flitReceived_takes (hp : p < 12) (hpower : s.power = 1) (hup : s.pstate p = 3) (hs : Settled s)
    (ht : Touches flitFields (flitKeys p) s (s.takeFlit p bs c n)) :
    exec (.flitReceived p bs c n) s = .next (s.takeFlit p bs c n) := by
  rw [exec_flitReceived, powered_on hpower, if_pos ⟨hp, hup⟩, (hs.of_flit hp ht).settleStreams]

theorem flitReceived_down (hpower : s.power = 1) (hdown : s.pstate p ≠ 3) : exec (.flitReceived p bs c n) s = .next s := by
  rw [exec_flitReceived, powered_on hpower, if_neg fun h => hdown h.2]

/-- A DATA flit out of order is answered with NAK and yields nothing (R239). -/
theorem flitReceived_late (hp : p < 12) (hpower : s.power = 1) (hs : Settled s) (hup : s.pstate p = 3)
    (hgood : flitGood bs = true) (hdata : bitsOf (fieldLe bs 0 8) 37 36 = 0)
    (hseq : bitsOf (fieldLe bs 0 8) 63 52 ≠ ((s.port p).lastRx + 1) % 4096) :
    ∃ t f, exec (.flitReceived p bs c n) s = .next t ∧ t.out = s.out ++ [.flit p f] ∧ t.delivered = s.delivered ∧
      t.rd .portFlitsRx [p] = s.rd .portFlitsRx [p] ∧ (t.port p).lastRx = (s.port p).lastRx := by
  have hheard := State.heardFlit_touches (s := s) (bs := bs) (c := c) (n := n) hp
  have honly := State.heardFlit_only (s := s) (bs := bs) (c := c) (n := n) hp
  have hrx := State.heardFlit_flitsRx (s := s) (bs := bs) (c := c) (n := n) hp
  have hlast : ((s.heardFlit p bs c n).port p).lastRx = (s.port p).lastRx := by
    rw [State.heardFlit_port hp]
    rfl
  have hflit := State.takeFlit_data (s := s) (p := p) (c := c) (n := n) hgood hdata
  obtain ⟨hout, hkept, ht⟩ := State.takeData_nak (vc := bitsOf (fieldLe bs 0 8) 39 38)
    (payload := slice bs 8 (min 244 (bitsOf (fieldLe bs 0 8) 35 28))) hp (by rw [hlast]; exact hseq)
  rw [← hflit] at hout hkept ht
  have hall : Touches flitFields (flitKeys p) s (s.takeFlit p bs c n) := hheard.trans (ht.mono (control_subset_flitKeys hp))
  rw [honly .out (by decide)] at hout
  refine ⟨_, _, flitReceived_takes hp hpower hup hs hall, hout, ?_, ?_, ?_⟩
  · exact (ht.only .delivered (by decide)).trans (honly .delivered (by decide))
  · rw [ht.regs _ _ (portField_not_mem_control hp), hrx]
  · rw [hkept, hlast]

/-- The next DATA flit joins its VC: its count, its ACK, and what its bytes assembled to (R239). -/
theorem flitReceived_next (hp : p < 12) (hpower : s.power = 1) (hs : Settled s) (hup : s.pstate p = 3)
    (hgood : flitGood bs = true) (hdata : bitsOf (fieldLe bs 0 8) 37 36 = 0)
    (hseq : bitsOf (fieldLe bs 0 8) 63 52 = ((s.port p).lastRx + 1) % 4096)
    {z : State} (hz : (s.heardFlit p bs c n).assembled p (bitsOf (fieldLe bs 0 8) 63 52) (bitsOf (fieldLe bs 0 8) 39 38)
      (slice bs 8 (min 244 (bitsOf (fieldLe bs 0 8) 35 28))) = z)
    (ha : Assembles p ((s.heardFlit p bs c n).joinData p (bitsOf (fieldLe bs 0 8) 63 52) (bitsOf (fieldLe bs 0 8) 39 38)
      (slice bs 8 (min 244 (bitsOf (fieldLe bs 0 8) 35 28)))) z)
    (hdue : (z.port p).flitsDue = 0) :
    ∃ t f, exec (.flitReceived p bs c n) s = .next t ∧ t.out = s.out ++ [.flit p f] ∧ t.delivered = z.delivered ∧
      t.rd .portFlitsRx [p] = (s.rd .portFlitsRx [p] + 1) % 2 ^ 64 ∧ (t.port p).lastRx = (z.port p).lastRx ∧
      (t.port p).part = (z.port p).part := by
  have hheard := State.heardFlit_touches (s := s) (bs := bs) (c := c) (n := n) hp
  have hlast : ((s.heardFlit p bs c n).port p).lastRx = (s.port p).lastRx := by
    rw [State.heardFlit_port hp]
    rfl
  have hflit := State.takeFlit_data (s := s) (p := p) (c := c) (n := n) hgood hdata
  subst hz
  obtain ⟨⟨f, hout⟩, hdelivered, hrx, hlastRx, hpart, ht⟩ :=
    State.takeData_idle hp (bitsOf_vc_lt _) (by rw [hlast]; exact hseq) ha hdue
  rw [← hflit] at hout hdelivered hrx hlastRx hpart ht
  refine ⟨_, f, flitReceived_takes hp hpower hup hs (hheard.trans ht), ?_, hdelivered, ?_, hlastRx, hpart⟩
  · rw [hout, State.heardFlit_only hp .out (by decide)]
  · rw [hrx, State.heardFlit_flitsRx hp]

end

/-! Retraining, RETRY_TIMEOUT and NAK (R240, R244, R278). -/

section

variable {s t : State} {p : Nat} {f : FlitTotals}

theorem exec_lossOfLock (p : Nat) (s : State) : exec (.lossOfLock p) s =
    powered s (fun s => if s.portUp p then (s.retrain p).slowIfRetraining p else s) := rfl

theorem exec_retryTimeout (p : Nat) (s : State) : exec (.retryTimeout p) s =
    powered s (fun s => if s.portUp p then (s.resendOrRetrain p).slowIfRetraining p else s) := rfl

theorem exec_nak (p : Nat) (f : FlitTotals) (s : State) : exec (.nak p f) s = powered s (fun s => if s.portUp p then
    (((s.takeTotals p f.ack f.cvc f.credits).resendOrRetrain p).pump p).slowIfRetraining p else s) := rfl

theorem State.portUp_iff : s.portUp p = true ↔ p < 12 ∧ s.pstate p = 3 := by
  rw [State.portUp, Bool.and_eq_true, decide_eq_true_eq, beq_iff_eq]
  rfl

/-! SLOW. -/

theorem State.sendColl_sends {c : CollSt} {rank vc phase msg : Nat} {content : List Byte} :
    Sends s (s.sendColl c rank vc phase msg content) := .ite (fun _ => .refl) fun _ => State.sendCell_sends

/-- The register fields that notices of SLOW change. -/
def slowKeys : List Nat := Reg.collSlowTx.key [] :: sendKeys

theorem State.sendSlow_touches {reason : Nat} {c : CollSt} : Touches (.colls :: sendFields) slowKeys s (s.sendSlow reason c) := by
  unfold State.sendSlow
  extract_lets a
  have hsend : Touches sendFields sendKeys s a := (Sends.foldl fun _ _ _ => State.sendColl_sends).touches
  have hcount : Touches [.regs] slowKeys a (a.count .collSlowTx [] c.others.length) := (OnlyRegs.wr List.mem_cons_self).touches
  have hevent := State.groupEvent_touches (s := a.count .collSlowTx [] c.others.length) (j := 4) (n := c.others.length)
  have hset : ∀ (x : State) (d : CollSt), Touches [.colls] slowKeys x (x.setColl d) := fun x d =>
    (State.setColl_does x d Does.refl).only.touches rfl
  refine (hsend.mono (List.subset_cons_self ..)).trans (hcount.widen.trans (Touches.trans ?_ (hset _ _).widen))
  exact hevent.mono fun k hk => List.mem_cons_of_mem _ (counterKeys_subset_sendKeys hk)

theorem State.slowCheck_touches : Touches (.colls :: sendFields) slowKeys s s.slowCheck := by
  have hcleared : ∀ l, Touches [.colls] slowKeys s { s with colls := l } := fun l =>
    (State.withColls_does s l Does.refl).only.touches rfl
  exact .ite (fun _ => (hcleared _).widen) (Touches.foldl fun _ _ _ => State.sendSlow_touches)

theorem State.slowIfRetraining_up (h : s.rd .portPstate [p] ≠ 4) : s.slowIfRetraining p = s := if_neg h

theorem State.slowIfRetraining_touches : Touches (.colls :: sendFields) slowKeys s (s.slowIfRetraining p) :=
  .ite (fun _ => State.slowCheck_touches) .refl

theorem portField_not_mem_slowKeys {r : Reg} (hp : p < 12) (hr : r ∈ portFields := by decide) : r.key [p] ∉ slowKeys := fun h => by
  obtain h | h := List.mem_cons.1 h
  · obtain ⟨-, hhigh, -⟩ := portField_bounds hr
    have hslow : 0x401000 * 32 ≤ Reg.collSlowTx.key [] := by decide
    rw [portField_key hr] at h
    omega
  · exact portField_not_mem_sendKeys hp hr h

/-! Retraining. -/

/-- The fields of the state that a port that begins to retrain changes, beside the notices of SLOW. -/
def retrainFields : List Field := [.regs, .riskEvents, .reports, .reportSeq, .out]

theorem State.noteRisk_touches {kind n : Nat} {ks : List Nat} : Touches [.riskEvents] ks s (s.noteRisk kind n) :=
  (State.noteRisk_does s kind n Does.refl).only.touches rfl

theorem State.retrain_begins (hp : p < 12) : (s.retrain p).rd .portPstate [p] = 4 ∧
    (s.retrain p).rd .portRetrains [p] = satAdd 32 (s.rd .portRetrains [p]) 1 ∧ ChangesOnly retrainFields s (s.retrain p) := by
  unfold State.retrain
  have hrisk := State.noteRisk_touches (s := (s.wr .portPstate [p] psRetraining).count .portRetrains [p] 1) (kind := 7) (n := 1)
    (ks := [])
  have hreport := State.report_touches (((s.wr .portPstate [p] psRetraining).count .portRetrains [p] 1).noteRisk 7 1) 0x05
    ([BitVec.ofNat 8 p, 1] ++ zeros 6)
  have hwr : Touches [.regs] [Reg.portPstate.key [p], Reg.portRetrains.key [p]] s
      ((s.wr .portPstate [p] psRetraining).count .portRetrains [p] 1) := (Touches.refl.wr (by simp)).wr (by simp)
  refine ⟨?_, ?_, (hwr.only.mono (by decide)).trans ((hrisk.only.mono (by decide)).trans (hreport.only.mono (by decide)))⟩
  · rw [hreport.regs _ _ (portField_not_mem_sentKeys hp), hrisk.regs _ _ List.not_mem_nil, State.rd_count_ne _ _ portField_ne,
      State.rd_wr_same]
    rfl
  · rw [hreport.regs _ _ (portField_not_mem_sentKeys hp), hrisk.regs _ _ List.not_mem_nil, State.rd_count_same,
      State.rd_wr_ne _ _ portField_ne]
    exact Nat.mod_eq_of_lt satAdd_lt

/-- A port that begins to retrain counts it, and notices of SLOW go out for the collectives in flight (R244, R278). -/
theorem State.retrain_slows (hp : p < 12) : ((s.retrain p).slowIfRetraining p).pstate p = 4 ∧
    ((s.retrain p).slowIfRetraining p).rd .portRetrains [p] = satAdd 32 (s.rd .portRetrains [p]) 1 ∧
    ChangesOnly (.colls :: .riskEvents :: .reports :: .reportSeq :: sendFields) s ((s.retrain p).slowIfRetraining p) ∧
    (s.colls = [] → ((s.retrain p).slowIfRetraining p).ports = s.ports ∧
      ChangesOnly [.regs, .riskEvents, .reports, .reportSeq, .out] s ((s.retrain p).slowIfRetraining p)) := by
  obtain ⟨hstate, hcount, honly⟩ := State.retrain_begins (s := s) hp
  have hslow := State.slowIfRetraining_touches (s := s.retrain p) (p := p)
  refine ⟨?_, ?_, (honly.mono (by decide)).trans (hslow.only.mono (by decide)), fun hcolls => ?_⟩
  · rw [State.pstate, hslow.regs _ _ (portField_not_mem_slowKeys hp), hstate]
  · rw [hslow.regs _ _ (portField_not_mem_slowKeys hp), hcount]
  · have hnone : (s.retrain p).slowIfRetraining p = s.retrain p := by
      unfold State.slowIfRetraining
      rw [State.slowCheck_none ((honly .colls (by decide)).trans hcolls), ite_self]
    rw [hnone]
    exact ⟨honly .ports (by decide), honly⟩

/-! Resends. -/

theorem State.resendOrRetrain_none (h : (s.port p).retry = []) : s.resendOrRetrain p = s := if_pos (by rw [h]; rfl)

theorem State.resendOrRetrain_limit (h : (s.port p).retry ≠ []) (hlimit : s.rd .linkRetryLimit [] ≤ (s.port p).resent) :
    s.resendOrRetrain p = s.retrain p := by
  unfold State.resendOrRetrain
  rw [if_neg (by rwa [List.isEmpty_iff]), if_pos hlimit]

/-- A port that has sent its flits again once more. -/
def PortSt.again (q : PortSt) : PortSt := { q with resent := q.resent + 1 }

theorem State.resendOrRetrain_again (h : (s.port p).retry ≠ []) (hlimit : (s.port p).resent < s.rd .linkRetryLimit []) :
    s.resendOrRetrain p = (s.setPort p (s.port p).again).resendAll p := by
  unfold State.resendOrRetrain
  rw [if_neg (by rwa [List.isEmpty_iff]), if_neg (by omega)]
  rfl

/-- The fields of the state that resends or a retraining change. -/
def resendFields : List Field := [.regs, .ports, .bwWindow, .bwTotals, .out, .riskEvents, .reports, .reportSeq]

theorem State.resendOrRetrain_only (hp : p < 12) : ChangesOnly resendFields s (s.resendOrRetrain p) := by
  by_cases hnone : (s.port p).retry = []
  · rw [State.resendOrRetrain_none hnone]
    exact Does.refl.only
  · by_cases hlimit : s.rd .linkRetryLimit [] ≤ (s.port p).resent
    · rw [State.resendOrRetrain_limit hnone hlimit]
      obtain ⟨-, -, honly⟩ := State.retrain_begins (s := s) hp
      exact honly.mono (by decide)
    · rw [State.resendOrRetrain_again hnone (Nat.lt_of_not_le hlimit)]
      exact (State.setPort_touches.only.mono (by decide)).trans ((State.resendAll_touches hp).only.mono (by decide))

/-- One flit is sent again with the totals of the port (R240). -/
theorem State.resendAll_one {d : Nat × Nat × Bool × List Byte} (hp : p < 12) (h : (s.port p).retry = [d]) :
    (s.resendAll p).out = s.out ++ [.flit p ((s.port p).flit 0 d.2.1 d.1 d.2.2.2)] ∧
      ((s.resendAll p).port p).resent = (s.port p).resent ∧
      (s.resendAll p).rd .portResends [p] = satAdd 32 (s.rd .portResends [p]) 1 := by
  have heq : s.resendAll p = ((s.sendFlit p 0 d.2.1 d.1 d.2.2.2).count .portResends [p] 1).portEvent p 2 1 := by
    rw [State.resendAll, h, List.foldl_cons, List.foldl_nil]
  have hevent := State.portEvent_touches (s := (s.sendFlit p 0 d.2.1 d.1 d.2.2.2).count .portResends [p] 1) (j := 2) (n := 1) hp
  have hsend := State.sendFlit_touches (s := s) (type := 0) (vc := d.2.1) (seq := d.1) (payload := d.2.2.2) hp
  rw [heq]
  refine ⟨?_, ?_, ?_⟩
  · rw [hevent.only .out (by decide), State.count_out, State.sendFlit_out hp]
  · rw [State.port_congr (hevent.only .ports (by decide)), State.port_congr (State.count_ports ..), State.sendFlit_port]
  · rw [hevent.regs _ _ (portField_not_mem_counterKeys hp), State.rd_count_same,
      hsend.regs _ _ (portField_not_mem_sendKeys hp)]
    exact Nat.mod_eq_of_lt satAdd_lt

/-- RETRY_TIMEOUT below the limit sends the one unacknowledged flit again. -/
theorem State.retry_resends {d : Nat × Nat × Bool × List Byte} (hp : p < 12) (hup : s.pstate p = 3) (h : (s.port p).retry = [d])
    (hlimit : (s.port p).resent < s.rd .linkRetryLimit []) :
    ((s.resendOrRetrain p).slowIfRetraining p).out = s.out ++ [.flit p ((s.port p).flit 0 d.2.1 d.1 d.2.2.2)] ∧
      (((s.resendOrRetrain p).slowIfRetraining p).port p).resent = (s.port p).resent + 1 ∧
      ((s.resendOrRetrain p).slowIfRetraining p).rd .portResends [p] = satAdd 32 (s.rd .portResends [p]) 1 := by
  have hset : Touches [.regs, .ports] (partialKeys p) s (s.setPort p (s.port p).again) := State.setPort_touches
  have hport : (s.setPort p (s.port p).again).port p = (s.port p).again := State.setPort_port ..
  rw [State.resendOrRetrain_again (by rw [h]; exact List.cons_ne_nil _ _) hlimit]
  generalize s.setPort p (s.port p).again = a at hset hport
  have hstate : (a.resendAll p).rd .portPstate [p] = 3 := by
    rw [State.resendAll_rd hp, hset.regs _ _ portField_not_mem_partialKeys]
    exact hup
  obtain ⟨hout, hresent, hcount⟩ := State.resendAll_one (s := a) (d := d) hp (by rw [hport]; exact h)
  rw [State.slowIfRetraining_up (by rw [hstate]; decide)]
  refine ⟨?_, ?_, ?_⟩
  · rw [hout, hset.only .out (by decide), hport]
    rfl
  · rw [hresent, hport]
    rfl
  · rw [hcount, hset.regs _ _ portField_not_mem_partialKeys]

/-! NAK. -/

/-- NAK with nothing to send again or to send only takes the totals. -/
theorem State.nak_totals (hup : s.pstate p = 3) (hc : f.cvc < 4) (hnone : (s.port p).retry = []) (hdue : (s.port p).flitsDue = 0) :
    (((s.takeTotals p f.ack f.cvc f.credits).resendOrRetrain p).pump p).slowIfRetraining p =
      s.takeTotals p f.ack f.cvc f.credits := by
  have hretry : ((s.takeTotals p f.ack f.cvc f.credits).port p).retry = [] := by
    rw [State.takeTotals_port]
    exact congrArg (dropAcked f.ack) hnone
  have hidle : ((s.takeTotals p f.ack f.cvc f.credits).port p).flitsDue = 0 := by
    rw [State.takeTotals_port]
    exact hdue
  have hstate : (s.takeTotals p f.ack f.cvc f.credits).rd .portPstate [p] = 3 := by
    rw [State.takeTotals_rd hc]
    exact hup
  rw [State.resendOrRetrain_none hretry, State.pump_idle hidle, State.slowIfRetraining_up (by rw [hstate]; decide)]

/-- NAK changes no memory and no packet. -/
theorem State.nak_keeps (hp : p < 12) :
    let t := (((s.takeTotals p f.ack f.cvc f.credits).resendOrRetrain p).pump p).slowIfRetraining p
    t.mem = s.mem ∧ t.flight = s.flight := by
  intro t
  have honly : ChangesOnly (.colls :: sendFields ++ resendFields) s t :=
    (State.takeTotals_touches.only.mono (by decide)).trans (((State.resendOrRetrain_only hp).mono (by decide)).trans
      (((State.pump_sends hp).touches.only.mono (by decide)).trans (State.slowIfRetraining_touches.only.mono (by decide))))
  exact ⟨honly .mem (by decide), honly .flight (by decide)⟩

/-- SYNC changes no memory and no packet. -/
theorem State.takeSync_keeps {i n e : Nat} {cs : List Nat} (hp : p < 12) :
    (s.takeSync p f i n e cs).mem = s.mem ∧ (s.takeSync p f i n e cs).flight = s.flight := by
  have honly : ChangesOnly (sendFields ++ resendFields) s (s.takeSync p f i n e cs) := by
    rw [State.takeSync_eq]
    split
    · exact (State.resumeSession_touches.only.mono (by decide)).trans (((State.resendAll_touches hp).only.mono (by decide)).trans
        ((State.pump_sends hp).touches.only.mono (by decide)))
    · obtain ⟨-, -, -, -, -, -, hrenew⟩ := State.renew_begins (s := s) (i := i) (n := n) (e := e) (cs := cs) hp
      exact (hrenew.mono (by decide)).trans ((State.pump_sends hp).touches.only.mono (by decide))
  exact ⟨honly .mem (by decide), honly .flight (by decide)⟩

end

/-! The link ports' obligation (R237–R246). -/

section

variable {s : State} {p : Nat}

/-- PORT_ENABLE of a port that is neither enabled nor FENCED begins its session and trains (R237). -/
theorem portEnable_trains (ht : HostTakes s) (hp : p < 12) : ∃ t, exec (.portEnable p) s = .next t ∧
    if s.rd .portEnable [p] = 1 ∨ s.fenced (82 + p) = true then HostWrote 4 [] s t
    else t.rd .portEnable [p] = 1 ∧ t.rd .portPstate [p] = 1 ∧
      t.port p = { PortSt.empty with waiting := (s.port p).waiting } ∧
      t.rd .portLinkSession [p] = (s.rd .portLinkSession [p] + 1) % 2 ^ 32 ∧
      ChangesOnly [.regs, .bwTotals, .bwWindow, .ports] s t := by
  have henable : (s.tlpIn 4).rd .portEnable [p] = s.rd .portEnable [p] := State.tlpIn_portField hp
  have hfenced : (s.tlpIn 4).fenced (82 + p) = s.fenced (82 + p) := State.tlpIn_fenced (by omega)
  refine ⟨_, portEnable_takes ht hp, ?_⟩
  split
  · next h =>
    rw [State.enablePort_ignored (by rwa [henable, hfenced])]
    exact State.tlpIn_hostWrote
  · next h =>
    obtain ⟨hne, hnf⟩ := not_or.1 h
    obtain ⟨hset, hstate, hport, hsession, honly⟩ := State.enablePort_trains (s := s.tlpIn 4) hp (by rwa [henable])
      (by rw [hfenced]; exact Bool.eq_false_iff.2 hnf)
    rw [State.tlpIn_port] at hport
    rw [State.tlpIn_portField hp] at hsession
    exact ⟨hset, hstate, hport, hsession, (State.tlpIn_touches.only.mono (by decide)).trans (honly.mono (by decide))⟩

/-- PORT_DISABLE of an enabled port idles it (R237). -/
theorem portDisable_idles (ht : HostTakes s) (hp : p < 12) : ∃ t, exec (.portDisable p) s = .next t ∧
    if s.rd .portEnable [p] = 1 then t.rd .portEnable [p] = 0 ∧ t.rd .portPstate [p] = 0 ∧
      t.port p = { PortSt.empty with waiting := (s.port p).waiting } ∧
      (∀ v, v < 4 → t.rd .portTxCredits [p, v] = 0) ∧
      t.rd .portCellsLost [p] = satAdd 32 (s.rd .portCellsLost [p]) (s.port p).lost ∧
      ChangesOnly [.regs, .bwTotals, .bwWindow, .ports] s t
    else HostWrote 4 [] s t := by
  have henable : (s.tlpIn 4).rd .portEnable [p] = s.rd .portEnable [p] := State.tlpIn_portField hp
  refine ⟨_, portDisable_takes ht hp, ?_⟩
  split
  · next h =>
    obtain ⟨hcleared, hstate, hport, hcredits, hlost, honly⟩ := State.disablePort_idles (s := s.tlpIn 4) hp (by rwa [henable])
    rw [State.tlpIn_port] at hport hlost
    rw [State.tlpIn_portField hp] at hlost
    exact ⟨hcleared, hstate, hport, hcredits, hlost,
      (State.tlpIn_touches.only.mono (by decide)).trans (honly.mono (by decide))⟩
  · next h =>
    rw [State.disablePort_ignored (by rwa [henable])]
    exact State.tlpIn_hostWrote

/-- TRAINING_COMPLETE sends SYNC (R244). -/
theorem trainingComplete_syncs (hpower : s.power = 1) : ∃ t, exec (.trainingComplete p) s = .next t ∧
    if p < 12 ∧ (s.pstate p = 1 ∨ s.pstate p = 4) ∧ s.rd .domDstate [portGroup p] = 2 then
      let q := s.port p
      t.pstate p = 2 ∧ t.out = s.out ++ [.flit p (flitBytes (flitHeader q.nextSeq q.lastRx 0 3 (s.syncPayload p).length q.cvc
        (q.returned.getD q.cvc 0)) (s.syncPayload p))] ∧ ChangesOnly [.regs, .ports, .out] s t
    else t = s := by
  refine ⟨_, (exec_trainingComplete p s).trans (powered_on hpower), ?_⟩
  split
  · next h =>
    obtain ⟨hp, hstate, hgroup⟩ := h
    exact State.trained_syncs hp hstate hgroup
  · next h => exact State.trained_waits h

theorem sync_takes {f : FlitTotals} {i n e : Nat} {cs : List Nat} (hpower : s.power = 1) (hp : p < 12) (hs : s.pstate p = 2) :
    exec (.sync p f i n e cs) s = .next (s.takeSync p f i n e cs) := by
  rw [exec_sync, powered_on hpower, if_pos ⟨hp, hs⟩]

/-- SYNC brings the port UP, in a new session or in its own (R245). -/
theorem sync_brings_up (f : FlitTotals) (i n e : Nat) (cs : List Nat) (hpower : s.power = 1) (hp : p < 12) :
    (s.pstate p ≠ 2 → exec (.sync p f i n e cs) s = .next s) ∧
    (s.pstate p = 2 → ∃ t, exec (.sync p f i n e cs) s = .next t ∧ t.pstate p = 3 ∧ t.mem = s.mem ∧ t.flight = s.flight) ∧
    (s.pstate p = 2 → (s.port p).waiting = [] → (s.port p).fresh = true → ∃ t, exec (.sync p f i n e cs) s = .next t ∧
      t.pstate p = 3 ∧ t.rd .portPeerChanged [p] = 1 ∧ t.rd .portPeerId [p] = i % 2 ^ 64 ∧ t.rd .portPeerPort [p] = n % 16 ∧
      (∀ v, v < 4 → t.rd .portTxCredits [p, v] = cs.getD v 0 % 1024) ∧ (t.port p).fresh = false ∧
      (t.port p).peerSession = e ∧ ChangesOnly [.regs, .ports, .reports, .reportSeq, .out] s t) ∧
    (s.pstate p = 2 → (s.port p).flitsDue = 0 → (s.port p).retry = [] → (s.port p).fresh = false →
      s.rd .portPeerId [p] = i → s.rd .portPeerPort [p] = n → (s.port p).peerSession = e →
      ∃ t, exec (.sync p f i n e cs) s = .next t ∧ t.pstate p = 3 ∧ (t.port p).nextSeq = (s.port p).nextSeq ∧
        (t.port p).lastRx = (s.port p).lastRx ∧ ChangesOnly [.regs, .ports] s t ∧
        RegsBut (Reg.portPstate.key [p] :: Reg.portTxCredits.key [p, f.cvc] ::
          (List.range 4).map (fun v => Reg.portPartial.key [p, v])) s t) := by
  refine ⟨fun h => ?_, fun h => ?_, fun h hw hf => ?_, fun h hdue hretry hf hi hn he => ?_⟩
  · rw [exec_sync, powered_on hpower, if_neg fun h' => h h'.2]
  · exact ⟨_, sync_takes hpower hp h, State.takeSync_pstate hp, State.takeSync_keeps hp⟩
  · obtain ⟨hup, hchanged, hid, hpeer, hcredits, hport, honly⟩ :=
      State.renew_begins (s := s) (i := i) (n := n) (e := e) (cs := cs) hp
    refine ⟨_, (sync_takes hpower hp h).trans (congrArg _ (State.takeSync_fresh hp hw hf)), hup, hchanged, hid, hpeer,
      hcredits, ?_, ?_, honly⟩
    · rw [hport]
      rfl
    · rw [hport]
      rfl
  · refine ⟨_, (sync_takes hpower hp h).trans (congrArg _ (State.takeSync_continued hdue hretry hf hi hn he)),
      State.resumeSession_pstate, ?_, ?_, State.resumeSession_touches.only, State.resumeSession_touches.regs⟩
    · rw [State.resumeSession_port]
      rfl
    · rw [State.resumeSession_port]
      rfl

/-! Flits (R239, R242). -/

section

variable {bs : List Byte} {c n : Nat}

/-- A flit with a bad CRC is counted and answered with NAK. -/
theorem flitReceived_bad (hpower : s.power = 1) (hs : Settled s) (hp : p < 12) (hup : s.pstate p = 3) (hbad : flitGood bs = false) :
    ∃ t, exec (.flitReceived p bs c n) s = .next t ∧ t.rd .portCrcErrors [p] = satAdd 32 (s.rd .portCrcErrors [p]) 1 ∧
      t.rd .portFecCorrected [p] = (s.rd .portFecCorrected [p] + c) % 2 ^ 64 ∧
      t.out = s.out ++ [.flit p ((s.port p).flit 2 0 (s.port p).nextSeq [])] ∧ ChangesOnly [.regs, .ports, .out] s t := by
  obtain ⟨hcrc, hfec, hout, ht⟩ := State.takeFlit_nak (s := s) (c := c) (n := n) hp hbad
  exact ⟨_, flitReceived_takes hp hpower hup hs ht.widen, hcrc, hfec, hout, ht.only⟩

variable (hpower : s.power = 1) (hs : Settled s) (hp : p < 12) (hup : s.pstate p = 3) (hgood : flitGood bs = true)
  (hdata : bitsOf (fieldLe bs 0 8) 37 36 = 0) (hseq : bitsOf (fieldLe bs 0 8) 63 52 = ((s.port p).lastRx + 1) % 4096)
  (hlen : (s.port p).part.length = 4) (hdue : (s.port p).flitsDue = 0)

include hpower hs hp hup hgood hdata hseq hlen hdue

/-- The next DATA flit whose bytes make no header waits in its VC. -/
theorem flitReceived_joins {vc : Nat} {body : List Byte} (hvc : bitsOf (fieldLe bs 0 8) 39 38 = vc)
    (hbody : slice bs 8 (min 244 (bitsOf (fieldLe bs 0 8) 35 28)) = body)
    (hshort : ((s.port p).part.getD vc []).length + body.length < 8) :
    ∃ t f, exec (.flitReceived p bs c n) s = .next t ∧ t.out = s.out ++ [.flit p f] ∧ t.delivered = s.delivered ∧
      t.rd .portFlitsRx [p] = (s.rd .portFlitsRx [p] + 1) % 2 ^ 64 ∧ (t.port p).lastRx = bitsOf (fieldLe bs 0 8) 63 52 ∧
      (t.port p).part.getD vc [] = (s.port p).part.getD vc [] ++ body := by
  have hlt : vc < 4 := hvc ▸ bitsOf_vc_lt _
  have hheard := State.heardFlit_port (s := s) (bs := bs) (c := c) (n := n) hp
  have honly := State.heardFlit_only (s := s) (bs := bs) (c := c) (n := n) hp
  have hz := State.assembled_waits (s := s.heardFlit p bs c n) (seq := bitsOf (fieldLe bs 0 8) 63 52) (payload := body) hp hlt
    (by rw [hheard]; exact hlen) (by rw [hheard]; exact hshort)
  have hjoin := State.joinData_touches (s := s.heardFlit p bs c n) (seq := bitsOf (fieldLe bs 0 8) 63 52) (vc := vc)
    (payload := body) hp
  have hport := State.joinData_port (s := s.heardFlit p bs c n) (seq := bitsOf (fieldLe bs 0 8) 63 52) (vc := vc)
    (payload := body) hp
  rw [hheard] at hport
  subst hvc hbody
  obtain ⟨t, f, hexec, hout, hdelivered, hrx, hlast, hpart⟩ := flitReceived_next (c := c) (n := n) hp hpower hs hup hgood hdata
    hseq hz .refl (by rw [hport]; exact hdue)
  refine ⟨t, f, hexec, hout, ?_, hrx, ?_, ?_⟩
  · rw [hdelivered, hjoin.only .delivered (by decide), honly .delivered (by decide)]
  · rw [hlast, hport]
    rfl
  · rw [hpart, hport]
    exact getD_set_same (hlen ▸ hlt)

/-- The next DATA flit that brings a whole group message for this node delivers it. -/
theorem flitReceived_delivers {vc : Nat} {body : List Byte} (hvc : bitsOf (fieldLe bs 0 8) 39 38 = vc)
    (hbody : slice bs 8 (min 244 (bitsOf (fieldLe bs 0 8) 35 28)) = body) (hnone : (s.port p).part.getD vc [] = [])
    (hm : 12 ≤ body.length) (hwhole : 8 + bitsOf (fieldLe body 0 8) 35 26 = body.length)
    (hdest : bitsOf (fieldLe body 0 8) 63 50 = s.rd .grpNode []) (hkind : bitsOf (fieldLe body 0 8) 23 16 = 3)
    (hcrc : crc32 (body.take (body.length - 4)) = fieldLe body (body.length - 4) 4) (hg : s.rd .grpGroupEnable [] = 1) :
    ∃ t f, exec (.flitReceived p bs c n) s = .next t ∧ t.out = s.out ++ [.flit p f] ∧ (t.port p).part.getD vc [] = [] ∧
      t.delivered = s.delivered ++ [groupCell body] := by
  have hlt : vc < 4 := hvc ▸ bitsOf_vc_lt _
  have hheard := State.heardFlit_port (s := s) (bs := bs) (c := c) (n := n) hp
  have honly := State.heardFlit_only (s := s) (bs := bs) (c := c) (n := n) hp
  have hgroup : ∀ r ∈ [Reg.grpNode, .grpGroupEnable], (s.heardFlit p bs c n).rd r [] = s.rd r [] := fun r hr =>
    (State.heardFlit_touches hp).regs _ _ (groupField_not_mem_flitKeys hp hr)
  obtain ⟨ha, hlist, hport⟩ := State.assembled_delivers (s := s.heardFlit p bs c n) (seq := bitsOf (fieldLe bs 0 8) 63 52) hp hlt
    (by rw [hheard]; exact hlen) (by rw [hheard]; exact hnone) hm hwhole (by rw [hgroup _ (by simp), hdest]) hkind hcrc
    (by rw [hgroup _ (by simp), hg])
  rw [hheard] at hport
  subst hvc hbody
  obtain ⟨t, f, hexec, hout, hdelivered, -, -, hpart⟩ := flitReceived_next (c := c) (n := n) hp hpower hs hup hgood hdata
    hseq rfl ha (by rw [hport]; exact hdue)
  refine ⟨t, f, hexec, hout, ?_, ?_⟩
  · rw [hpart, hport]
    exact getD_set_same (by rw [PortSt.join, List.length_set]; exact hlen ▸ hlt)
  · rw [hdelivered, hlist, honly .delivered (by decide)]

end

/-! Retries (R240, R244). -/

/-- A port that is not UP takes no loss of lock, no timeout and no NAK. -/
theorem retries_down (hpower : s.power = 1) (hdown : s.pstate p ≠ 3) : exec (.lossOfLock p) s = .next s ∧
    exec (.retryTimeout p) s = .next s ∧ ∀ f, exec (.nak p f) s = .next s := by
  have hport : ¬ (s.portUp p = true) := fun h => hdown (State.portUp_iff.1 h).2
  refine ⟨?_, ?_, fun f => ?_⟩
  · rw [exec_lossOfLock, powered_on hpower, if_neg hport]
  · rw [exec_retryTimeout, powered_on hpower, if_neg hport]
  · rw [exec_nak, powered_on hpower, if_neg hport]

section

variable (hpower : s.power = 1) (hp : p < 12) (hup : s.pstate p = 3)

include hpower hp hup

theorem lossOfLock_takes : exec (.lossOfLock p) s = .next ((s.retrain p).slowIfRetraining p) := by
  rw [exec_lossOfLock, powered_on hpower, if_pos (State.portUp_iff.2 ⟨hp, hup⟩)]

theorem retryTimeout_takes : exec (.retryTimeout p) s = .next ((s.resendOrRetrain p).slowIfRetraining p) := by
  rw [exec_retryTimeout, powered_on hpower, if_pos (State.portUp_iff.2 ⟨hp, hup⟩)]

theorem nak_takes (f : FlitTotals) : exec (.nak p f) s =
    .next ((((s.takeTotals p f.ack f.cvc f.credits).resendOrRetrain p).pump p).slowIfRetraining p) := by
  rw [exec_nak, powered_on hpower, if_pos (State.portUp_iff.2 ⟨hp, hup⟩)]

theorem retryTimeout_none (h : (s.port p).retry = []) : exec (.retryTimeout p) s = .next s := by
  have hstate : s.rd .portPstate [p] ≠ 4 := fun h4 => absurd (hup.symm.trans h4) (by decide)
  rw [retryTimeout_takes hpower hp hup, State.resendOrRetrain_none h, State.slowIfRetraining_up hstate]

theorem retryTimeout_limit (h : (s.port p).retry ≠ []) (hlimit : s.rd .linkRetryLimit [] ≤ (s.port p).resent) :
    exec (.retryTimeout p) s = .next ((s.retrain p).slowIfRetraining p) := by
  rw [retryTimeout_takes hpower hp hup, State.resendOrRetrain_limit h hlimit]

end

end

/-- Settles O55: each clause is the lemma about its instruction; PORT_ENABLE to RETRY_TIMEOUT are reduced to the operations on
the port, whose register fields and port state the lemmas above give. -/
theorem linkPortsTrainAndCarryFlits : Obligations.LinkPortsTrainAndCarryFlits := by
  unfold Obligations.LinkPortsTrainAndCarryFlits
  refine ⟨fun s p ht hp => ⟨portEnable_trains ht hp, portDisable_idles ht hp⟩, fun s p hpower => trainingComplete_syncs hpower,
    fun s p f i n e cs hpower hp _ => sync_brings_up f i n e cs hpower hp, fun s p bs c n hpower hs hp => ?_,
    fun s p hpower hp => ⟨retries_down hpower, fun hup => ?_⟩⟩
  · refine ⟨flitReceived_down hpower, flitReceived_bad hpower hs hp, flitReceived_late hp hpower hs,
      fun hup hgood hdata hseq hlen hdue => ⟨flitReceived_joins hpower hs hp hup hgood hdata hseq hlen hdue rfl rfl, ?_⟩⟩
    exact fun hnone hm hwhole hdest hkind hcrc hg =>
      flitReceived_delivers hpower hs hp hup hgood hdata hseq hlen hdue rfl rfl hnone hm hwhole hdest hkind hcrc hg
  · refine ⟨⟨_, lossOfLock_takes hpower hp hup, State.retrain_slows hp⟩, retryTimeout_none hpower hp hup,
      fun hretry hlimit => ⟨_, retryTimeout_limit hpower hp hup hretry hlimit, State.retrain_slows hp⟩,
      fun f hretry hlimit => ⟨_, retryTimeout_takes hpower hp hup, State.retry_resends hp hup hretry hlimit⟩,
      fun f => ⟨_, nak_takes hpower hp hup f, State.nak_keeps hp⟩, fun f hc hretry hdue => ?_⟩
    exact ⟨_, (nak_takes hpower hp hup f).trans (congrArg _ (State.nak_totals hup hc hretry hdue)), State.takeTotals_credits,
      State.takeTotals_touches.only, State.takeTotals_touches.regs⟩

end Sys2Proof.Machine
end

section
/-! PROOFS. Groups (R246–R253): the message that is heard, what its taker sends, and what follows from a member's change. -/

namespace Sys2Proof.Machine

set_option Elab.async false

/-! A message that is heard (R246, R253). -/

section

variable {s t u : State} {h : GroupHeader} {ks : List Nat}

theorem State.consume_touches {kind src msg : Nat} : Touches [.delivered] ks s (s.consume kind src msg) := by
  unfold State.consume
  split
  · exact s.withDelivered_touches _
  · exact .refl

/-- A message of the TERM that is known is taken. -/
theorem State.termCheck_same {src term : Nat} (ht : term = s.rd .grpTerm []) : s.termCheck src term = (s, true) := by
  unfold State.termCheck
  rw [ht, if_neg (lt_irrefl _), if_neg (lt_irrefl _)]

/-- A message with a lower TERM is ignored and counted. -/
theorem State.termCheck_lower {src term : Nat} (ht : term < s.rd .grpTerm []) :
    s.termCheck src term = (s.count .grpIgnored [] 1, false) := if_pos ht

/-- A higher TERM makes a manager a WORKER under the sender. -/
theorem State.termCheck_higher {src term : Nat} (ht : s.rd .grpTerm [] < term) (hr : s.rd .grpRole [] ≠ 0) :
    s.termCheck src term = (((s.wr .grpTerm [] term).wr .grpRole [] 0).wr .grpManagerNode [] src, true) := by
  unfold State.termCheck
  rw [if_neg (by omega), if_pos ht]
  dsimp only
  rw [State.rd_wr_ne _ _ (by decide), if_pos hr]

/-- The message of a cell that is taken off runs on a state that differs in its cells alone. -/
theorem Heard.runs (hh : Heard s h) (msg : Nat) (f : State → State) :
    ∃ u, grouped s h msg f = .next (f u) ∧ Touches [.delivered] [] s u := by
  obtain ⟨hpower, henable, hterm⟩ := hh
  have hu : Touches [.delivered] [] s (s.consume 3 h.src msg) := State.consume_touches
  refine ⟨_, ?_, hu⟩
  have hsame : h.term = (s.consume 3 h.src msg).rd .grpTerm [] := by rw [hu.regs _ _ List.not_mem_nil, hterm]
  rw [grouped, powered_on hpower, State.flag, henable]
  dsimp only
  rw [State.termCheck_same hsame]
  rfl

/-- A state that differs in its cells alone has the same register fields. -/
theorem Touches.rd_nil {fs : List Field} (hu : Touches fs [] s u) (r : Reg) (idx : List Nat) : u.rd r idx = s.rd r idx :=
  hu.regs _ _ List.not_mem_nil

end

/-! Sending, and what keeps this module without copies. -/

/-- A state follows another by a list of fields and register fields, and makes no copy where there was none. -/
structure Quietly (fs : List Field) (ks : List Nat) (s t : State) : Prop where
  touches : Touches fs ks s t
  noCopies : s.copies = [] → t.copies = []

namespace Quietly

variable {fs gs : List Field} {ks ls : List Nat} {s a t : State}

theorem refl : Quietly fs ks s s := ⟨.refl, id⟩

theorem trans (h1 : Quietly fs ks s a) (h2 : Quietly fs ks a t) : Quietly fs ks s t :=
  ⟨h1.touches.trans h2.touches, fun h => h2.noCopies (h1.noCopies h)⟩

theorem mono (h : Quietly fs ks s t) (hk : ks ⊆ ls) (hs : Field.sub fs gs = true := by decide) : Quietly gs ls s t :=
  ⟨h.touches.mono hk hs, h.noCopies⟩

theorem widen (h : Quietly fs ks s t) (hs : Field.sub fs gs = true := by decide) : Quietly gs ks s t :=
  h.mono (List.Subset.refl _) hs

theorem of_touches (h : Touches fs ks s t) (hc : .copy ∉ fs ∧ .copyWas ∉ fs := by decide) : Quietly fs ks s t := by
  obtain ⟨hcopy, hwas⟩ := hc
  refine ⟨h, fun hn => ?_⟩
  rwa [State.copies, h.only .copy hcopy, h.only .copyWas hwas]

theorem of_sends (h : Sends s t) : Quietly sendFields sendKeys s t := ⟨h.touches, h.noCopies⟩

theorem wr {r : Reg} {idx : List Nat} {v : Nat} (hk : r.key idx ∈ ks) (hs : Field.sub [.regs] fs = true := by decide) :
    Quietly fs ks s (s.wr r idx v) :=
  (of_touches (fs := [.regs]) (OnlyRegs.wr hk).touches).widen hs

theorem foldl {β : Type} {f : State → β → State} {l : List β} (hf : ∀ b ∈ l, ∀ x, Quietly fs ks x (f x b)) :
    Quietly fs ks s (l.foldl f s) := by
  induction l generalizing s with
  | nil => exact .refl
  | cons b l ih => exact (hf b List.mem_cons_self s).trans (ih fun c hc => hf c (List.mem_cons_of_mem _ hc))

theorem ite {c : Prop} [Decidable c] {x y : State} (hx : c → Quietly fs ks s x) (hy : ¬ c → Quietly fs ks s y) :
    Quietly fs ks s (if c then x else y) := by
  split
  · exact hx ‹_›
  · exact hy ‹_›

end Quietly

section

variable {s t : State} {ks : List Nat}

theorem State.sendGroup_sends {dest msg epoch : Nat} {content : List Byte} : Sends s (s.sendGroup dest msg epoch content) :=
  State.sendCell_sends

theorem State.sendPrepare_sends {epoch dest : Nat} {nodes : List Nat} : Sends s (s.sendPrepare epoch nodes dest) :=
  State.sendGroup_sends.trans (Sends.foldl fun _ _ _ => State.sendGroup_sends)

theorem State.withTop_touches (s : State) (q : Option TopSt) : Touches [.top] ks s { s with top := q } :=
  (State.withTop_does s q Does.refl).only.touches rfl

theorem State.withSysMembers_touches (s : State) (l : List Nat) : Touches [.sysMembers] ks s { s with sysMembers := l } :=
  (State.withSysMembers_does s l Does.refl).only.touches rfl

/-- The membership change that the top manager begins (R252). -/
def State.nextChange (s : State) : TopSt :=
  { epoch := max s.lastEpoch (s.rd .grpEpoch []) + 1, list := s.sysMembers, wanted := s.sysMembers, ready := []
    deadline := s.aoNow + msTicks (s.rd .grpPrepareTimeoutMs []) }

/-- The top manager's state as it begins a change. -/
def State.changing (s : State) : State := { s with top := some s.nextChange, lastEpoch := s.nextChange.epoch }

theorem State.changing_touches : Touches [.top, .lastEpoch] ks s s.changing := by
  refine ChangesOnly.touches (fun f hf => ?_) rfl
  cases f
  case top => exact absurd (by decide) hf
  case lastEpoch => exact absurd (by decide) hf
  all_goals rfl

theorem State.startEpoch_other (h : s.isTop = false) : s.startEpoch = s := if_pos (by rw [h]; rfl)

theorem State.startEpoch_sends (h : s.isTop = true) : Sends s.changing s.startEpoch := by
  have heq : s.startEpoch = ((s.changing.bothLists s.nextChange.list).foldl
      (fun l a => insertRising (s.changing.managerOf a) l) []).foldl
      (fun x a => x.sendPrepare s.nextChange.epoch s.nextChange.list a) s.changing := if_neg (by rw [h]; decide)
  rw [heq]
  exact Sends.foldl fun _ _ _ => State.sendPrepare_sends

/-- The top manager begins a change with a higher number (R251, R252). -/
theorem State.startEpoch_begins (h : s.isTop = true) : s.startEpoch.top = some s.nextChange ∧
    s.startEpoch.lastEpoch = s.nextChange.epoch ∧ s.startEpoch.sysMembers = s.sysMembers := by
  have hsend := (State.startEpoch_sends h).touches.only
  exact ⟨hsend .top (by decide), hsend .lastEpoch (by decide), hsend .sysMembers (by decide)⟩

theorem State.startEpoch_quietly : Quietly reportFields sendKeys s s.startEpoch := by
  by_cases h : s.isTop = true
  · exact (Quietly.of_touches State.changing_touches).widen.trans (Quietly.of_sends (State.startEpoch_sends h)).widen
  · rw [State.startEpoch_other (Bool.eq_false_iff.2 h)]
    exact .refl

/-- The top manager's list after a report of a node's state (R250). -/
def State.listWith (s : State) (node mstate : Nat) : List Nat :=
  if mstate = 1 ∨ mstate = 2 then insertRising node s.sysMembers else s.sysMembers.filter (fun a => a != node)

theorem State.memberChange_other {node mstate : Nat} (h : s.isTop = false) : s.memberChange node mstate = s :=
  if_pos (by rw [h]; rfl)

theorem State.memberChange_same {node mstate : Nat} (hl : s.listWith node mstate = s.sysMembers) (hm : mstate ≠ 1) :
    s.memberChange node mstate = s := by
  unfold State.memberChange
  split
  · rfl
  · exact if_pos ⟨hl, hm⟩

/-- A change of the list, or a node that joins, begins an epoch change. -/
theorem State.memberChange_starts {node mstate : Nat} (h : s.isTop = true)
    (hc : s.listWith node mstate ≠ s.sysMembers ∨ mstate = 1) :
    s.memberChange node mstate = ({ s with sysMembers := s.listWith node mstate } : State).startEpoch := by
  unfold State.memberChange
  rw [if_neg (by rw [h]; decide)]
  exact if_neg fun hn => hc.elim (absurd hn.1) hn.2

theorem State.memberChange_quietly {node mstate : Nat} : Quietly reportFields sendKeys s (s.memberChange node mstate) := by
  unfold State.memberChange
  refine .ite (fun _ => .refl) fun _ => .ite (fun _ => .refl) fun _ => ?_
  exact (Quietly.of_touches (s.withSysMembers_touches _)).widen.trans State.startEpoch_quietly

/-- GRISK of this module's group at the top manager. -/
def griskKeys (s : State) : List Nat := [Reg.gtGrisk.key [s.rd .grpNode [] / 128]]

theorem State.noteGrisk_touches : Touches [.regs] (griskKeys s) s s.noteGrisk :=
  .ite (fun _ => (OnlyRegs.wr List.mem_cons_self).touches) .refl

theorem griskKeys_subset_reportKeys : griskKeys s ⊆ reportKeys s := by simp [griskKeys, reportKeys]

theorem State.reportChange_quietly {node mstate : Nat} : Quietly reportFields (reportKeys s) s (s.reportChange node mstate) := by
  refine .ite (fun _ => ?_) fun _ => ?_
  · exact ((Quietly.of_touches State.noteGrisk_touches).mono griskKeys_subset_reportKeys).trans
      (State.memberChange_quietly.mono (List.subset_cons_self ..))
  · exact (Quietly.of_sends State.sendGroup_sends).mono (List.subset_cons_self ..)

theorem State.isTop_iff : s.isTop = true ↔ s.rd .grpGroupEnable [] = 1 ∧ s.rd .grpRole [] = 2 := by
  rw [State.isTop, State.flag, Bool.and_eq_true, beq_iff_eq, beq_iff_eq]

theorem State.isManager_iff : s.isManager = true ↔ s.rd .grpGroupEnable [] = 1 ∧ s.rd .grpRole [] ≠ 0 := by
  rw [State.isManager, State.flag, Bool.and_eq_true, beq_iff_eq, bne_iff_ne]

/-- A manager that is not the top manager reports by a cell. -/
theorem State.reportChange_sends {node mstate : Nat} (h : s.isTop = false) : Sends s (s.reportChange node mstate) := by
  unfold State.reportChange
  rw [if_neg (by rw [h]; decide)]
  exact State.sendGroup_sends

end

/-! Shroud partners (R322). -/

section

variable {s t : State}

/-- The fields of the state that the loss of a shroud partner changes while this module makes no copy. -/
def partnerFields : List Field := [.regs, .reports, .reportSeq, .out, .hold]

/-- The register fields that it changes. -/
def partnerKeys : List Nat :=
  [Reg.shrSrcState.key [], Reg.shrHoldState.key [], Reg.shrHeldSourceNode.key [], Reg.shrHeldSourceId.key []] ++ sentKeys

theorem sentKeys_subset_partnerKeys : sentKeys ⊆ partnerKeys := List.subset_append_right ..

theorem State.reportShroud_touches {e c n : Nat} :
    Touches [.regs, .reports, .reportSeq, .out] sentKeys s (s.reportShroud e c n) := State.report_touches ..

theorem State.setSrcState_touches {v : Nat} :
    Touches [.regs, .reports, .reportSeq, .out] (Reg.shrSrcState.key [] :: sentKeys) s (s.setSrcState v) := by
  unfold State.setSrcState
  split
  · exact .refl
  · have hwr : OnlyRegs (Reg.shrSrcState.key [] :: sentKeys) s (s.wr .shrSrcState [] v) := OnlyRegs.wr List.mem_cons_self
    exact hwr.touches.trans (State.reportShroud_touches.mono (List.subset_cons_self ..))

theorem State.setSrcState_rd {v : Nat} (hv : v < 8) : (s.setSrcState v).rd .shrSrcState [] = v := by
  unfold State.setSrcState
  split
  · assumption
  · rw [State.reportShroud_touches.regs _ _ (by decide), State.rd_wr_same]
    exact Nat.mod_eq_of_lt hv

theorem State.withHold_touches {ks : List Nat} (s : State) (x) : Touches [.hold] ks s { s with hold := x } := by
  refine ChangesOnly.touches (fun f hf => ?_) rfl
  cases f
  case hold => exact absurd (by decide) hf
  all_goals rfl

theorem State.retain_touches : Touches [.regs, .hold]
    [Reg.shrHoldState.key [], Reg.shrHeldSourceNode.key [], Reg.shrHeldSourceId.key []] s s.retain := by
  unfold State.retain
  split
  · exact (s.withHold_touches none).widen.trans (OnlyRegs.wr (by simp)).touches
  · have hcleared : Touches [.regs] [Reg.shrHoldState.key [], Reg.shrHeldSourceNode.key [], Reg.shrHeldSourceId.key []] s
        (((s.wr .shrHoldState [] 0).wr .shrHeldSourceNode [] noNode).wr .shrHeldSourceId [] 0) :=
      ((Touches.refl.wr (by simp)).wr (by simp)).wr (by simp)
    exact hcleared.widen
  · exact .refl

theorem State.abandonCopies_none {cause : Nat} {p : CopySt → Bool} (h : s.copies = []) : s.abandonCopies cause p = s := by
  unfold State.abandonCopies
  rw [h]
  rfl

theorem State.retain_quietly : Quietly partnerFields partnerKeys s s.retain :=
  (Quietly.of_touches State.retain_touches).mono (by decide)

/-- A lost holder changes SRC_STATE and is reported, when no copy is in progress. -/
theorem State.holderLost_quietly (h : s.copies = []) : Quietly partnerFields partnerKeys s s.holderLost := by
  refine .ite (fun _ => .refl) fun _ => ?_
  have hset := State.setSrcState_touches (s := s) (v := 4)
  have hreport := State.reportShroud_touches (s := s.setSrcState 4) (e := 2) (c := 0) (n := 0)
  have hall : Quietly partnerFields partnerKeys s ((s.setSrcState 4).reportShroud 2 0 0) :=
    ((Quietly.of_touches hset).mono (by decide)).trans ((Quietly.of_touches hreport).mono sentKeys_subset_partnerKeys)
  rw [State.abandonCopies_none (hall.noCopies h)]
  exact hall

end

end Sys2Proof.Machine
end

section
/-! PROOFS. Membership epochs (R251, R252, R276). -/

namespace Sys2Proof.Machine

set_option Elab.async false

/-! Numbers that are not above the committed one, EPOCH_PREPARE and EPOCH_LIST. -/

section

variable {s t u : State} {h : GroupHeader} {ks : List Nat}

/-- What EPOCH_PREPARE asks to prepare. -/
def prepared (h : GroupHeader) (m f c g : Nat) : PrepSt :=
  { epoch := h.epoch, members := m, fp := f, chunkRule := c, segments := g, nodes := [] }

/-- The state as it takes up a change. -/
def State.preparing (s : State) (p : PrepSt) : State :=
  ({ s with prep := some p, lastEpoch := max s.lastEpoch p.epoch } : State).wr .grpPrepared [] 0

/-- EPOCH_PREPARE as it is judged (R252). -/
def State.takePrepare (s : State) (h : GroupHeader) (m f c g : Nat) : State :=
  if h.epoch ≤ s.rd .grpEpoch [] then s.count .grpIgnored [] 1
  else if (s.prep.map (fun p => decide (h.epoch ≤ p.epoch))).getD false then s
  else (s.preparing (prepared h m f c g)).passOn h.src 0x07 h.epoch (leBytes 4 m ++ leBytes 16 f ++ leBytes 4 c ++ leBytes 4 g)

theorem State.takePrepare_old {m f c g : Nat} (hold : h.epoch ≤ s.rd .grpEpoch []) :
    s.takePrepare h m f c g = s.count .grpIgnored [] 1 := if_pos hold

theorem State.takePrepare_known {m f c g : Nat} (hnew : s.rd .grpEpoch [] < h.epoch)
    (hk : (s.prep.map (fun p => decide (h.epoch ≤ p.epoch))).getD false = true) : s.takePrepare h m f c g = s := by
  unfold State.takePrepare
  rw [if_neg (by omega), if_pos hk]

theorem State.takePrepare_begins {m f c g : Nat} (hnew : s.rd .grpEpoch [] < h.epoch)
    (hk : ¬ (s.prep.map (fun p => decide (h.epoch ≤ p.epoch))).getD false = true) : s.takePrepare h m f c g =
      (s.preparing (prepared h m f c g)).passOn h.src 0x07 h.epoch
        (leBytes 4 m ++ leBytes 16 f ++ leBytes 4 c ++ leBytes 4 g) := by
  unfold State.takePrepare
  rw [if_neg (by omega), if_neg hk]

theorem exec_epochPrepare (h : GroupHeader) (m f c g : Nat) (s : State) : exec (.epochPrepare h m f c g) s =
    grouped s h 0x07 (fun s => s.takePrepare h m f c g) := rfl

/-- A rank list with the nodes of a segment filled in from a first rank, as far as there are members. -/
def filledIn (first members : Nat) (t : Tab Nat) (q : Nat × Nat) : Tab Nat :=
  if first + q.2 < members then Tab.put t (first + q.2) q.1 else t

/-- The change in preparation with a segment of its list. -/
def PrepSt.listed (p : PrepSt) (first : Nat) (l : List Nat) : PrepSt :=
  { p with nodes := l.zipIdx.foldl (filledIn first p.members) p.nodes }

theorem State.withPrep_touches (s : State) (x : Option PrepSt) : Touches [.prep] ks s { s with prep := x } := by
  refine ChangesOnly.touches (fun f hf => ?_) rfl
  cases f
  case prep => exact absurd (by decide) hf
  all_goals rfl

/-- EPOCH_LIST as it is judged (R252). -/
def State.takeList (s : State) (h : GroupHeader) (first : Nat) (l : List Nat) : State :=
  if h.epoch ≤ s.rd .grpEpoch [] then s.count .grpIgnored [] 1
  else
    match s.prep with
    | some p =>
      if p.epoch = h.epoch then
        ({ s with prep := some (p.listed first l) } : State).passOn h.src 0x08 h.epoch
          (leBytes 4 first ++ leBytes 4 l.length ++ (l.map (leBytes 2)).flatten)
      else s
    | none => s

theorem State.takeList_fills {p : PrepSt} {first : Nat} {l : List Nat} (hnew : s.rd .grpEpoch [] < h.epoch)
    (hp : s.prep = some p) (he : p.epoch = h.epoch) : s.takeList h first l =
      ({ s with prep := some (p.listed first l) } : State).passOn h.src 0x08 h.epoch
        (leBytes 4 first ++ leBytes 4 l.length ++ (l.map (leBytes 2)).flatten) := by
  unfold State.takeList
  rw [if_neg (by omega), hp]
  exact if_pos he

theorem exec_epochList (h : GroupHeader) (f : Nat) (l : List Nat) (s : State) : exec (.epochList h f l) s =
    grouped s h 0x08 (fun s => s.takeList h f l) := rfl

/-- EPOCH_COMMIT as it is judged (R252). -/
def State.takeCommit (s : State) (h : GroupHeader) (f : Nat) : State :=
  if h.epoch ≤ s.rd .grpEpoch [] then s.count .grpIgnored [] 1
  else
    match s.prep with
    | some p =>
      if p.epoch = h.epoch ∧ p.nodes.length = p.members then
        ((((s.staleColls h.epoch).installEpoch { p with fp := f }).dropStale.partnersGone).groupTable254.sendPartners.sendTable).after
      else s
    | none => s

theorem exec_epochCommit (h : GroupHeader) (f : Nat) (s : State) : exec (.epochCommit h f) s =
    grouped s h 0x0A (fun s => s.takeCommit h f) := rfl

/-- A message of an epoch change whose number is not above the committed EPOCH is ignored and counted. -/
theorem Heard.ignores_old (hh : Heard s h) (hold : h.epoch ≤ s.rd .grpEpoch []) {msg : Nat} {f : State → State}
    (hf : ∀ u : State, h.epoch ≤ u.rd .grpEpoch [] → f u = u.count .grpIgnored [] 1) :
    ∃ t, grouped s h msg f = .next t ∧ t.rd .grpIgnored [] = satAdd 32 (s.rd .grpIgnored []) 1 ∧
      ChangesOnly [.regs, .delivered] s t ∧ RegsBut [Reg.grpIgnored.key []] s t := by
  obtain ⟨u, hrun, hu⟩ := hh.runs msg f
  rw [hf u (by rwa [hu.rd_nil])] at hrun
  have hcount : OnlyRegs [Reg.grpIgnored.key []] u (u.count .grpIgnored [] 1) := OnlyRegs.wr List.mem_cons_self
  have hall : Touches [.regs, .delivered] [Reg.grpIgnored.key []] s (u.count .grpIgnored [] 1) :=
    (hu.mono (List.nil_subset _)).trans hcount.touches
  refine ⟨_, hrun, ?_, hall.only, hall.regs⟩
  rw [State.rd_count_same, hu.rd_nil]
  exact Nat.mod_eq_of_lt satAdd_lt

theorem State.passOn_sends {src msg epoch : Nat} {content : List Byte} : Sends s (s.passOn src msg epoch content) :=
  .ite (fun _ => Sends.foldl fun _ _ _ => State.sendGroup_sends) fun _ => .refl

theorem State.passOn_other {src msg epoch : Nat} {content : List Byte} (hn : s.rd .grpRole [] ≠ 1 ∨ src ≠ s.rd .grpTopNode []) :
    s.passOn src msg epoch content = s := if_neg fun hc => hn.elim (absurd hc.1) (absurd hc.2)

theorem State.preparing_touches {p : PrepSt} :
    Touches [.regs, .prep, .lastEpoch] [Reg.grpPrepared.key []] s (s.preparing p) := by
  have hset : Touches [.prep, .lastEpoch] [Reg.grpPrepared.key []] s
      { s with prep := some p, lastEpoch := max s.lastEpoch p.epoch } := by
    refine ChangesOnly.touches (fun f hf => ?_) rfl
    cases f
    case prep => exact absurd (by decide) hf
    case lastEpoch => exact absurd (by decide) hf
    all_goals rfl
  exact hset.widen.trans (OnlyRegs.wr List.mem_cons_self).touches

/-- A higher EPOCH_PREPARE begins the change, and a group manager passes it on (R252). -/
theorem epochPrepare_begins (m f c g : Nat) (hh : Heard s h) (hnew : s.rd .grpEpoch [] < h.epoch) :
    ∃ t, exec (.epochPrepare h m f c g) s = .next t ∧
      if (s.prep.map (fun p => decide (h.epoch ≤ p.epoch))).getD false = true then ChangesOnly [.delivered] s t
      else t.prep = some { epoch := h.epoch, members := m, fp := f, chunkRule := c, segments := g, nodes := [] } ∧
        t.lastEpoch = max s.lastEpoch h.epoch ∧ t.rd .grpPrepared [] = 0 ∧
        ChangesOnly (.prep :: .lastEpoch :: sendFields) s t ∧ RegsBut (Reg.grpPrepared.key [] :: sendKeys) s t ∧
        (s.rd .grpRole [] ≠ 1 ∨ h.src ≠ s.rd .grpTopNode [] → ChangesOnly [.regs, .delivered, .prep, .lastEpoch] s t) := by
  obtain ⟨u, hrun, hu⟩ := hh.runs 0x07 (fun s => s.takePrepare h m f c g)
  have hprep : u.prep = s.prep := hu.only .prep (by decide)
  have hnew' : u.rd .grpEpoch [] < h.epoch := by rwa [hu.rd_nil]
  have hlast : u.lastEpoch = s.lastEpoch := hu.only .lastEpoch (by decide)
  refine ⟨_, (exec_epochPrepare h m f c g s).trans hrun, ?_⟩
  split
  · next hk =>
    rw [State.takePrepare_known hnew' (by rwa [hprep])]
    exact hu.only
  · next hk =>
    rw [State.takePrepare_begins hnew' (by rwa [hprep])]
    have hset := State.preparing_touches (s := u) (p := prepared h m f c g)
    have hstart : Touches [.regs, .delivered, .prep, .lastEpoch] [Reg.grpPrepared.key []] s (u.preparing (prepared h m f c g)) :=
      (hu.mono (List.nil_subset _)).trans hset.widen
    have hrole : (u.preparing (prepared h m f c g)).rd .grpRole [] = s.rd .grpRole [] := hstart.regs _ _ (by decide)
    have htop : (u.preparing (prepared h m f c g)).rd .grpTopNode [] = s.rd .grpTopNode [] := hstart.regs _ _ (by decide)
    have hzero : (u.preparing (prepared h m f c g)).rd .grpPrepared [] = 0 := by
      rw [State.preparing, State.rd_wr_same]
      rfl
    have hq : (u.preparing (prepared h m f c g)).prep = some (prepared h m f c g) ∧
        (u.preparing (prepared h m f c g)).lastEpoch = max s.lastEpoch h.epoch := by
      rw [State.preparing, State.wr_prep, State.wr_lastEpoch, hlast]
      exact ⟨rfl, rfl⟩
    generalize u.preparing (prepared h m f c g) = a at hstart hrole htop hzero hq
    have hsend := State.passOn_sends (s := a) (src := h.src) (msg := 0x07) (epoch := h.epoch)
      (content := leBytes 4 m ++ leBytes 16 f ++ leBytes 4 c ++ leBytes 4 g)
    have hall : Touches (.prep :: .lastEpoch :: sendFields) (Reg.grpPrepared.key [] :: sendKeys) s _ :=
      (hstart.mono (by simp)).trans (hsend.touches.mono (List.subset_cons_self ..))
    obtain ⟨hqprep, hqlast⟩ := hq
    refine ⟨?_, ?_, ?_, hall.only, hall.regs, fun hn => ?_⟩
    · exact (hsend.touches.only .prep (by decide)).trans hqprep
    · exact (hsend.touches.only .lastEpoch (by decide)).trans hqlast
    · rw [hsend.rd, hzero]
    · rw [State.passOn_other (by rwa [hrole, htop])]
      exact hstart.only

/-! Segments of the list. -/

/-- A segment from the number i of its place on fills in the ranks of its nodes and no other. -/
theorem filledIn_foldl (first members : Nat) (l : List Nat) (i : Nat) (t : Tab Nat) :
    (∀ k, k < l.length → first + (i + k) < members →
      Tab.get noNode ((l.zipIdx i).foldl (filledIn first members) t) (first + (i + k)) = l.getD k noNode) ∧
    ∀ k, k < first + i ∨ first + i + l.length ≤ k →
      Tab.get noNode ((l.zipIdx i).foldl (filledIn first members) t) k = Tab.get noNode t k := by
  induction l generalizing i t with
  | nil => exact ⟨fun k hk => absurd hk (Nat.not_lt_zero k), fun _ _ => rfl⟩
  | cons n l ih =>
    obtain ⟨hin, hout⟩ := ih (i + 1) (filledIn first members t (n, i))
    rw [List.zipIdx_cons, List.foldl_cons]
    refine ⟨fun k hk hm => ?_, fun k hk => ?_⟩
    · cases k with
      | zero =>
        rw [hout _ (.inl (by omega))]
        exact (congrArg (Tab.get noNode · (first + i)) (if_pos hm)).trans (Tab.get_put_same ..)
      | succ k =>
        have hplace : first + (i + (k + 1)) = first + (i + 1 + k) := by omega
        rw [hplace] at hm ⊢
        rw [hin k (by rw [List.length_cons] at hk; omega) hm, List.getD_cons_succ]
    · rw [List.length_cons] at hk
      rw [hout k (by omega), filledIn]
      split
      · exact Tab.get_put_ne _ _ _ (by dsimp only; omega)
      · rfl

/-- EPOCH_LIST of the change in preparation fills in its ranks, and a group manager passes it on (R252). -/
theorem epochList_fills {p : PrepSt} (f : Nat) (l : List Nat) (hh : Heard s h) (hnew : s.rd .grpEpoch [] < h.epoch)
    (hp : s.prep = some p) (he : p.epoch = h.epoch) : ∃ t q, exec (.epochList h f l) s = .next t ∧ t.prep = some q ∧
      q.epoch = p.epoch ∧ q.members = p.members ∧ q.fp = p.fp ∧
      (∀ i, i < l.length → f + i < p.members → Tab.get noNode q.nodes (f + i) = l.getD i noNode) ∧
      (∀ k, k < f ∨ f + l.length ≤ k → Tab.get noNode q.nodes k = Tab.get noNode p.nodes k) ∧
      ChangesOnly (.prep :: sendFields) s t ∧ RegsBut sendKeys s t ∧
      (s.rd .grpRole [] ≠ 1 ∨ h.src ≠ s.rd .grpTopNode [] → ChangesOnly [.delivered, .prep] s t) := by
  obtain ⟨u, hrun, hu⟩ := hh.runs 0x08 (fun s => s.takeList h f l)
  have hprep : u.prep = some p := (hu.only .prep (by decide)).trans hp
  have hset : Touches [.prep] [] u { u with prep := some (p.listed f l) } := u.withPrep_touches _
  obtain ⟨hin, hout⟩ := filledIn_foldl f p.members l 0 p.nodes
  refine ⟨_, p.listed f l, (exec_epochList h f l s).trans hrun, ?_⟩
  rw [State.takeList_fills (by rwa [hu.rd_nil]) hprep he]
  have hstart : Touches [.delivered, .prep] [] s { u with prep := some (p.listed f l) } := hu.widen.trans hset.widen
  have hlisted : ({ u with prep := some (p.listed f l) } : State).prep = some (p.listed f l) := rfl
  generalize ({ u with prep := some (p.listed f l) } : State) = a at hstart hlisted
  have hsend := State.passOn_sends (s := a) (src := h.src) (msg := 0x08) (epoch := h.epoch)
    (content := leBytes 4 f ++ leBytes 4 l.length ++ (l.map (leBytes 2)).flatten)
  have hall : Touches (.prep :: sendFields) sendKeys s _ :=
    (hstart.mono (List.nil_subset _)).trans hsend.touches.widen
  refine ⟨(hsend.touches.only .prep (by decide)).trans hlisted, rfl, rfl, rfl, fun i hi hm => ?_, fun k hk => hout k (by omega),
    hall.only, hall.regs, fun hn => ?_⟩
  · have := hin i hi (by rwa [Nat.zero_add])
    rwa [Nat.zero_add] at this
  · rw [State.passOn_other (by rwa [hstart.rd_nil, hstart.rd_nil])]
    exact hstart.only

/-! EPOCH_READY. -/

/-- EPOCH_READY_SEND as it is judged (R252). -/
def State.sendReady (s : State) : State :=
  match s.prep with
  | some p =>
    if s.flag .grpGroupEnable [] ∧ !s.flag .grpPrepared [] ∧ p.nodes.length = p.members ∧ s.rd .stState [] = 0 then
      (s.wr .grpPrepared [] 1).sendGroup (s.rd .grpTopNode []) 0x09 p.epoch []
    else s
  | none => s

theorem exec_epochReadySend (s : State) : exec .epochReadySend s = powered s (fun s => s.sendReady) := rfl

/-- The module has the whole list of the change, is in IDLE and has not answered yet (R252 step 2). -/
abbrev State.mayAnswer (s : State) : Prop :=
  s.rd .grpGroupEnable [] = 1 ∧ s.rd .grpPrepared [] ≠ 1 ∧ s.rd .stState [] = 0 ∧
    (s.prep.map (fun p => decide (p.nodes.length = p.members))).getD false = true

theorem State.sendReady_answers (ha : s.mayAnswer) :
    ∃ p : PrepSt, s.sendReady = (s.wr .grpPrepared [] 1).sendGroup (s.rd .grpTopNode []) 0x09 p.epoch [] := by
  obtain ⟨henable, hprepared, hidle, hlist⟩ := ha
  unfold State.sendReady
  cases hp : s.prep with
  | none => rw [hp] at hlist; exact absurd hlist (by decide)
  | some p =>
    rw [hp] at hlist
    exact ⟨p, if_pos ⟨by rw [State.flag, henable]; rfl, by simp [State.flag, hprepared], of_decide_eq_true hlist, hidle⟩⟩

theorem State.sendReady_waits (ha : ¬ s.mayAnswer) : s.sendReady = s := by
  unfold State.sendReady
  split
  · next p hp =>
    refine if_neg fun hc => ha ?_
    obtain ⟨henable, hprepared, hlist, hidle⟩ := hc
    exact ⟨by simpa [State.flag] using henable, by simpa [State.flag] using hprepared, hidle, by rw [hp]; exact decide_eq_true hlist⟩
  · rfl

/-- With the whole list there and STATE IDLE the module is PREPARED and answers (R252 step 2). -/
theorem epochReadySend_answers (hpower : s.power = 1) : ∃ t, exec .epochReadySend s = .next t ∧
    if s.mayAnswer then t.rd .grpPrepared [] = 1 ∧ ChangesOnly sendFields s t ∧ RegsBut (Reg.grpPrepared.key [] :: sendKeys) s t
    else t = s := by
  refine ⟨_, (exec_epochReadySend s).trans (powered_on hpower), ?_⟩
  split
  · next ha =>
    obtain ⟨p, hp⟩ := State.sendReady_answers ha
    have hwr : OnlyRegs [Reg.grpPrepared.key []] s (s.wr .grpPrepared [] 1) := OnlyRegs.wr List.mem_cons_self
    have hsend := State.sendGroup_sends (s := s.wr .grpPrepared [] 1) (dest := s.rd .grpTopNode []) (msg := 0x09)
      (epoch := p.epoch) (content := [])
    have hall : Touches sendFields (Reg.grpPrepared.key [] :: sendKeys) s _ :=
      ((hwr.touches (fs := sendFields)).mono (by simp)).trans (hsend.touches.mono (List.subset_cons_self ..))
    rw [hp]
    refine ⟨?_, hall.only, hall.regs⟩
    rw [hsend.rd, State.rd_wr_same]
    rfl
  · next ha => exact State.sendReady_waits ha

/-- EPOCH_READY as it is judged (R252). -/
def State.takeReady (s : State) (h : GroupHeader) : State :=
  match s.top with
  | some t =>
    if t.epoch ≠ h.epoch ∨ !s.isTop then s
    else
      let ready := insertRising h.src t.ready
      if t.wanted.all (fun a => ready.contains a) then
        let fp := leBytes 16 (orderFingerprint t.epoch t.list (s.rd .grpChunkRule []))
        (s.bothLists t.list).foldl (fun s a => s.sendGroup a 0x0A t.epoch fp) { s with top := none }
      else { s with top := some { t with ready := ready } }
  | none => s

theorem State.takeReady_last {q : TopSt} (his : s.isTop = true) (hq : s.top = some q) (he : q.epoch = h.epoch)
    (hlast : q.wanted.all (fun a => (insertRising h.src q.ready).contains a) = true) :
    Sends ({ s with top := none } : State) (s.takeReady h) := by
  unfold State.takeReady
  rw [hq]
  dsimp only
  rw [if_neg (by rw [his, he]; simp), if_pos hlast]
  exact Sends.foldl fun _ _ _ => State.sendGroup_sends

theorem State.takeReady_noted {q : TopSt} (his : s.isTop = true) (hq : s.top = some q) (he : q.epoch = h.epoch)
    (hwait : ¬ q.wanted.all (fun a => (insertRising h.src q.ready).contains a) = true) :
    s.takeReady h = { s with top := some { q with ready := insertRising h.src q.ready } } := by
  unfold State.takeReady
  rw [hq]
  dsimp only
  rw [if_neg (by rw [his, he]; simp), if_neg hwait]

theorem exec_epochReady (h : GroupHeader) (s : State) : exec (.epochReady h) s = grouped s h 0x09 (fun s => s.takeReady h) := rfl

/-- At the top manager each EPOCH_READY is noted, and the last one ends the change (R252 step 3). -/
theorem epochReady_noted {q : TopSt} (hh : Heard s h) (hr : s.rd .grpRole [] = 2) (hq : s.top = some q) (he : q.epoch = h.epoch) :
    ∃ t, exec (.epochReady h) s = .next t ∧
      if q.wanted.all (fun a => (insertRising h.src q.ready).contains a) = true then
        t.top = none ∧ ChangesOnly (.top :: sendFields) s t ∧ RegsBut sendKeys s t
      else t.top = some { q with ready := insertRising h.src q.ready } ∧ ChangesOnly [.delivered, .top] s t := by
  obtain ⟨u, hrun, hu⟩ := hh.runs 0x09 (fun s => s.takeReady h)
  obtain ⟨-, henable, -⟩ := hh
  have htop : u.top = some q := (hu.only .top (by decide)).trans hq
  have his : u.isTop = true := State.isTop_iff.2 ⟨by rw [hu.rd_nil, henable], by rw [hu.rd_nil, hr]⟩
  have hset : ∀ x : Option TopSt, Touches [.top] [] u { u with top := x } := fun x => u.withTop_touches x
  refine ⟨_, (exec_epochReady h s).trans hrun, ?_⟩
  split
  · next hlast =>
    have hsend := State.takeReady_last his htop he hlast
    have hall : Touches (.top :: sendFields) sendKeys s (u.takeReady h) := (hu.mono (List.nil_subset _)).trans
      (((hset none).mono (List.nil_subset _)).trans hsend.touches.widen)
    exact ⟨hsend.touches.only .top (by decide), hall.only, hall.regs⟩
  · next hwait =>
    have heq := State.takeReady_noted his htop he hwait
    have hall : Touches [.delivered, .top] [] s (u.takeReady h) := by
      rw [heq]
      exact hu.widen.trans (hset _).widen
    exact ⟨by rw [heq], hall.only⟩

end

/-! EPOCH_COMMIT (R252 step 3, R276). -/

namespace Quietly

variable {fs : List Field} {ks : List Nat} {s : State} {β : Type} {f : State → β → State} {l : List β}

/-- A fold whose steps need a register field that they keep. -/
theorem foldl_keeping {r : Reg} {idx : List Nat} {v : Nat} (hr : r.key idx ∉ ks) (hv : s.rd r idx = v)
    (hf : ∀ b ∈ l, ∀ x, x.rd r idx = v → Quietly fs ks x (f x b)) : Quietly fs ks s (l.foldl f s) := by
  induction l generalizing s with
  | nil => exact .refl
  | cons b l ih =>
    have hb := hf b List.mem_cons_self s hv
    exact hb.trans (ih (by rw [hb.touches.regs _ _ hr, hv]) fun c hc => hf c (List.mem_cons_of_mem _ hc))

/-- A fold whose steps need that no copy is in progress. -/
theorem foldl_noCopies (hs : s.copies = []) (hf : ∀ b ∈ l, ∀ x, x.copies = [] → Quietly fs ks x (f x b)) :
    Quietly fs ks s (l.foldl f s) := by
  induction l generalizing s with
  | nil => exact .refl
  | cons b l ih =>
    have hb := hf b List.mem_cons_self s hs
    exact hb.trans (ih (hb.noCopies hs) fun c hc => hf c (List.mem_cons_of_mem _ hc))

end Quietly

section

variable {s t u b : State} {h : GroupHeader} {p : PrepSt} {ks : List Nat} {g m k : Nat}

/-! What the new epoch is at the module itself. -/

/-- The nodes of a change, by rank. -/
def PrepSt.list (p : PrepSt) : List Nat := (List.range p.members).map (fun k => Tab.get noNode p.nodes k)

/-- The rank of a node in a change. -/
def PrepSt.rankOf (p : PrepSt) (node : Nat) : Option Nat := p.list.findIdx? (fun a => a == node)

/-- EPOCH, MEMBERS and ORDER_FP of the new epoch. -/
def State.epochNumbers (s : State) (p : PrepSt) : State :=
  (((s.wr .grpEpoch [] p.epoch).wr .grpMembers [] p.members).wr .grpOrderFp [] p.fp).wr .grpPrepared [] 0

/-- What the group block tells of the new epoch. -/
def State.epochRegs (s : State) (p : PrepSt) : State :=
  ((s.epochNumbers p).wr .grpInEpoch [] (b2n (p.rankOf (s.rd .grpNode [])).isSome)).wr .grpRank []
    ((p.rankOf (s.rd .grpNode [])).getD ((s.epochNumbers p).rd .grpRank []))

/-- The list in force is that of the change, which has ended. -/
def State.epochLists (s : State) (p : PrepSt) : State :=
  { s with rankNodes := p.list, chunkRule := p.chunkRule, prep := none, reserved := [], verdicts := [] }

/-- The new epoch, before the entries of a manager follow it. -/
def State.atEpoch (s : State) (p : PrepSt) : State := ((s.epochRegs p).epochLists p).wr .collCollSeq [] 1

/-- The register fields that a new epoch changes. -/
def epochKeys : List Nat :=
  [Reg.grpEpoch.key [], Reg.grpMembers.key [], Reg.grpOrderFp.key [], Reg.grpPrepared.key [], Reg.grpInEpoch.key [],
   Reg.grpRank.key [], Reg.collCollSeq.key []]

/-- The fields of the state that it changes. -/
def epochFields : List Field := [.regs, .rankNodes, .chunkRule, .prep, .reserved, .verdicts]

theorem State.epochNumbers_touches : Touches [.regs]
    [Reg.grpEpoch.key [], Reg.grpMembers.key [], Reg.grpOrderFp.key [], Reg.grpPrepared.key []] s (s.epochNumbers p) :=
  (((Touches.refl.wr (by decide)).wr (by decide)).wr (by decide)).wr (by decide)

theorem State.epochRegs_touches : Touches [.regs] epochKeys s (s.epochRegs p) :=
  ((State.epochNumbers_touches.mono (by decide)).wr (by decide)).wr (by decide)

theorem State.epochLists_touches : Touches [.rankNodes, .chunkRule, .prep, .reserved, .verdicts] ks s (s.epochLists p) := by
  refine ChangesOnly.touches (fun f hf => ?_) rfl
  cases f
  case rankNodes => exact absurd (by decide) hf
  case chunkRule => exact absurd (by decide) hf
  case prep => exact absurd (by decide) hf
  case reserved => exact absurd (by decide) hf
  case verdicts => exact absurd (by decide) hf
  all_goals rfl

theorem State.atEpoch_touches : Touches epochFields epochKeys s (s.atEpoch p) :=
  (State.epochRegs_touches.widen.trans State.epochLists_touches.widen).trans (OnlyRegs.wr (by decide)).touches

theorem State.atEpoch_lists : (s.atEpoch p).rankNodes = p.list ∧ (s.atEpoch p).chunkRule = p.chunkRule ∧ (s.atEpoch p).prep = none := by
  rw [State.atEpoch, State.wr_rankNodes, State.wr_chunkRule, State.wr_prep]
  exact ⟨rfl, rfl, rfl⟩

theorem State.atEpoch_collSeq : (s.atEpoch p).rd .collCollSeq [] = 1 := by
  rw [State.atEpoch, State.rd_wr_same]
  rfl

/-- The fields of the group block at the new epoch are those written. -/
theorem State.atEpoch_rd {r : Reg} (hr : r.key [] ≠ Reg.collCollSeq.key []) : (s.atEpoch p).rd r [] = (s.epochRegs p).rd r [] := by
  rw [State.atEpoch, State.rd_wr_ne _ _ hr]
  exact State.rd_congr rfl r []

theorem State.atEpoch_numbers {r : Reg} (hr : r.key [] ≠ Reg.collCollSeq.key [] ∧ r.key [] ≠ Reg.grpInEpoch.key [] ∧
    r.key [] ≠ Reg.grpRank.key [] := by decide) : (s.atEpoch p).rd r [] = (s.epochNumbers p).rd r [] := by
  obtain ⟨hseq, hin, hrank⟩ := hr
  rw [State.atEpoch_rd hseq, State.epochRegs, State.rd_wr_ne _ _ hrank, State.rd_wr_ne _ _ hin]

theorem State.atEpoch_epoch : (s.atEpoch p).rd .grpEpoch [] = p.epoch % 2 ^ 64 := by
  rw [State.atEpoch_numbers, State.epochNumbers, State.rd_wr_ne _ _ (by decide), State.rd_wr_ne _ _ (by decide),
    State.rd_wr_ne _ _ (by decide), State.rd_wr_same]
  rfl

theorem State.atEpoch_members : (s.atEpoch p).rd .grpMembers [] = p.members % 2 ^ 15 := by
  rw [State.atEpoch_numbers, State.epochNumbers, State.rd_wr_ne _ _ (by decide), State.rd_wr_ne _ _ (by decide),
    State.rd_wr_same]
  rfl

theorem State.atEpoch_orderFp : (s.atEpoch p).rd .grpOrderFp [] = p.fp % 2 ^ 128 := by
  rw [State.atEpoch_numbers, State.epochNumbers, State.rd_wr_ne _ _ (by decide), State.rd_wr_same]
  rfl

theorem State.atEpoch_prepared : (s.atEpoch p).rd .grpPrepared [] = 0 := by
  rw [State.atEpoch_numbers, State.epochNumbers, State.rd_wr_same]
  rfl

theorem State.atEpoch_inEpoch :
    (s.atEpoch p).rd .grpInEpoch [] = if (p.rankOf (s.rd .grpNode [])).isSome then 1 else 0 := by
  rw [State.atEpoch_rd (by decide), State.epochRegs, State.rd_wr_ne _ _ (by decide), State.rd_wr_same]
  cases (p.rankOf (s.rd .grpNode [])).isSome <;> rfl

theorem State.atEpoch_rank :
    (s.atEpoch p).rd .grpRank [] = (p.rankOf (s.rd .grpNode [])).getD (s.rd .grpRank []) % 2 ^ 14 := by
  rw [State.atEpoch_rd (by decide), State.epochRegs, State.rd_wr_same, State.epochNumbers_touches.regs _ _ (by decide)]
  rfl

/-- A worker's epoch is installed by its own fields; a manager's entries follow the list. -/
theorem State.installEpoch_eq (s : State) (p : PrepSt) : s.installEpoch p =
    if (s.atEpoch p).isManager then (List.range 128).foldl (State.followList p.list) (s.atEpoch p) else s.atEpoch p := rfl

/-! What follows at a manager and at a shroud's partners. -/

/-- The entries of a manager's tables that a commit writes. -/
def entryKeys : List Nat :=
  (List.range 128).map (fun m => Reg.mbrMrank.key [m]) ++ (List.range 128).map (fun m => Reg.mbrMstate.key [m]) ++
    (List.range 128).map (fun g => Reg.gtGactive.key [g])

/-- The register fields that a commit changes beside those of the new epoch, at a node of group g. -/
def commitKeys (g : Nat) : List Nat :=
  Reg.gtGrisk.key [g] :: Reg.gtGmanager.key [g] :: Reg.collStaleDiscarded.key [] :: (entryKeys ++ partnerKeys ++ sendKeys)

/-- The fields of the state that a commit changes beside those of the new epoch. -/
def commitFields : List Field := .heldMsgs :: .hold :: .reports :: .reportSeq :: reportFields

theorem entryKeys_bounds (hk : k ∈ entryKeys) : 0x404000 * 32 ≤ k ∧ k < 0x405200 * 32 ∧ k % 32 ≠ 30 := by
  simp only [entryKeys, List.mem_append, List.mem_map, List.mem_range, Reg.key, Reg.mbrMrank, Reg.mbrMstate, Reg.gtGactive,
    strideSum] at hk
  obtain (⟨m, hm, rfl⟩ | ⟨m, hm, rfl⟩) | ⟨m, hm, rfl⟩ := hk <;> omega

/-- A commit leaves the group block below the members' table, and the health and domains of the units. -/
theorem not_mem_commitKeys (hin : 0x400C00 * 32 ≤ k ∧ k < 0x404000 * 32 ∨ 0x600000 * 32 ≤ k ∧ k < 0x700000 * 32 ∧ k % 32 = 30 ∨
      0x900000 * 32 ≤ k ∧ k < 0xA00000 * 32 ∧ k % 32 = 30)
    (hne : k ≠ Reg.grpLocalUnroutable.key [] := by decide) : k ∉ commitKeys g := by
  have hsend : k ∉ sendKeys := not_mem_sendKeys (by omega) hne
  have hpartner : ∀ k ∈ Reg.collStaleDiscarded.key [] :: partnerKeys,
      0x404000 * 32 ≤ k ∧ k < 0x600000 * 32 ∨ 0x700000 * 32 ≤ k ∧ k < 0x900000 * 32 ∨ 0xA00000 * 32 ≤ k := by decide
  intro h
  simp only [commitKeys, List.mem_cons, List.mem_append] at h
  obtain h | h | h | (h | h) | h := h
  · simp only [Reg.key, Reg.gtGrisk, strideSum] at h
    omega
  · simp only [Reg.key, Reg.gtGmanager, strideSum] at h
    omega
  · have := hpartner k (List.mem_cons.2 (.inl h))
    omega
  · have := entryKeys_bounds h
    omega
  · have := hpartner k (List.mem_cons_of_mem _ h)
    omega
  · exact hsend h

theorem grpNode_not_mem_commitKeys : Reg.grpNode.key [] ∉ commitKeys g := not_mem_commitKeys (by decide)

theorem mbrMrank_mem_commitKeys (hm : m < 128) : Reg.mbrMrank.key [m] ∈ commitKeys g := by
  simp only [commitKeys, entryKeys, List.mem_cons, List.mem_append, List.mem_map, List.mem_range]
  exact .inr (.inr (.inr (.inl (.inl (.inl (.inl ⟨m, hm, rfl⟩))))))

theorem mbrMstate_mem_commitKeys (hm : m < 128) : Reg.mbrMstate.key [m] ∈ commitKeys g := by
  simp only [commitKeys, entryKeys, List.mem_cons, List.mem_append, List.mem_map, List.mem_range]
  exact .inr (.inr (.inr (.inl (.inl (.inl (.inr ⟨m, hm, rfl⟩))))))

theorem gtGactive_mem_commitKeys (hm : m < 128) : Reg.gtGactive.key [m] ∈ commitKeys g := by
  simp only [commitKeys, entryKeys, List.mem_cons, List.mem_append, List.mem_map, List.mem_range]
  exact .inr (.inr (.inr (.inl (.inl (.inr ⟨m, hm, rfl⟩)))))

theorem partnerKeys_subset_commitKeys : partnerKeys ⊆ commitKeys g := fun k hk => by
  simp only [commitKeys, List.mem_cons, List.mem_append]
  exact .inr (.inr (.inr (.inl (.inr hk))))

theorem sendKeys_subset_commitKeys : sendKeys ⊆ commitKeys g := fun k hk => by
  simp only [commitKeys, List.mem_cons, List.mem_append]
  exact .inr (.inr (.inr (.inr hk)))

theorem reportKeys_subset_commitKeys (hg : s.rd .grpNode [] / 128 = g) : reportKeys s ⊆ commitKeys g := by
  rw [reportKeys, hg]
  exact List.cons_subset.2 ⟨List.mem_cons_self, sendKeys_subset_commitKeys⟩

theorem State.setMstate_quietly {st : Nat} (hm : m < 128) (hg : s.rd .grpNode [] / 128 = g) :
    Quietly commitFields (commitKeys g) s (s.setMstate m st) := by
  refine .ite (fun _ => .refl) fun _ => ?_
  have hwr : Quietly commitFields (commitKeys g) s (s.wr .mbrMstate [m] st) := .wr (mbrMstate_mem_commitKeys hm)
  have hnode : (s.wr .mbrMstate [m] st).rd .grpNode [] / 128 = g := by
    rw [State.rd_wr_ne, hg]
    simp only [ne_eq, Reg.key, Reg.grpNode, Reg.mbrMstate, strideSum]
    omega
  exact hwr.trans (State.reportChange_quietly.mono (reportKeys_subset_commitKeys hnode))

theorem State.followList_quietly {l : List Nat} (hm : m < 128) (hg : s.rd .grpNode [] / 128 = g) :
    Quietly commitFields (commitKeys g) s (State.followList l s m) := by
  have hrank : ∀ v, Quietly commitFields (commitKeys g) s (s.wr .mbrMrank [m] v) := fun v => .wr (mbrMrank_mem_commitKeys hm)
  have hnode : ∀ v, (s.wr .mbrMrank [m] v).rd .grpNode [] / 128 = g := fun v => by
    rw [(hrank v).touches.regs _ _ grpNode_not_mem_commitKeys, hg]
  unfold State.followList
  split
  · exact (hrank _).trans (State.setMstate_quietly hm (hnode _))
  · exact .ite (fun _ => .refl) fun _ => (hrank _).trans (State.setMstate_quietly hm (hnode _))

theorem State.withHeldMsgs_touches (s : State) (l) : Touches [.heldMsgs] ks s { s with heldMsgs := l } :=
  (State.withHeldMsgs_does s l Does.refl).only.touches rfl

theorem State.dropStale_touches : Touches [.regs, .heldMsgs] [Reg.collStaleDiscarded.key []] s s.dropStale := by
  unfold State.dropStale
  dsimp only
  split
  · exact .refl
  · exact (s.withHeldMsgs_touches _).widen.trans (OnlyRegs.wr List.mem_cons_self).touches

/-- A node that is no longer a member. -/
def State.gone (s : State) (n : Nat) : Bool := n != noNode && !s.rankNodes.contains n

theorem State.partnersGone_eq (s : State) : s.partnersGone =
    let t := if s.gone (s.rd .shrHolderNode []) then s.holderLost else s
    if s.gone (s.rd .shrHeldSourceNode []) then t.retain else t := rfl

theorem State.partnersGone_quietly (hs : s.copies = []) : Quietly partnerFields partnerKeys s s.partnersGone := by
  rw [State.partnersGone_eq]
  extract_lets a
  have ha : Quietly partnerFields partnerKeys s a := .ite (fun _ => State.holderLost_quietly hs) fun _ => .refl
  exact .ite (fun _ => ha.trans State.retain_quietly) fun _ => ha

/-- A module without a holder and a source keeps what it has. -/
theorem State.partnersGone_none (hh : s.rd .shrHolderNode [] = noNode) (hs : s.rd .shrHeldSourceNode [] = noNode) :
    s.partnersGone = s := by
  rw [State.partnersGone_eq, hh, hs]
  rfl

theorem State.groupTable254_quietly (hg : s.rd .grpNode [] / 128 = g) : Quietly [.regs] (commitKeys g) s s.groupTable254 := by
  refine .ite (fun _ => .refl) fun _ => ?_
  have hmanager : Reg.gtGmanager.key [s.rd .grpNode [] / 128] ∈ commitKeys g := by simp [commitKeys, hg]
  exact (Quietly.wr hmanager).trans (Quietly.foldl fun m hm _ => .wr (gtGactive_mem_commitKeys (List.mem_range.1 hm)))

theorem State.sendPartners_sends : Sends s s.sendPartners :=
  .ite (fun _ => .refl) fun _ => Sends.foldl fun _ _ _ => State.sendGroup_sends

theorem State.sendTable_sends : Sends s s.sendTable := by
  have hfree : ∀ x : State, Sends x (x.freeVal 16).2 := fun x => .of_touches (x.freeVal_touches 16) (List.nil_subset _)
  refine .ite (fun _ => .refl) fun _ => Sends.foldl fun _ _ _ => Sends.foldl fun _ _ x => ?_
  exact (hfree x).trans State.sendGroup_sends

/-- What follows from a new epoch (R250, R253, R254, R322): the entries of a manager, the partners, and the tables. -/
def State.followed (s : State) (l : List Nat) : State :=
  ((if s.isManager then (List.range 128).foldl (State.followList l) s else s).dropStale.partnersGone).groupTable254.sendPartners.sendTable

theorem State.followed_quietly {l : List Nat} (hs : s.copies = []) (hg : s.rd .grpNode [] / 128 = g) :
    Quietly commitFields (commitKeys g) s (s.followed l) := by
  unfold State.followed
  have hkeep : ∀ x y : State, Quietly commitFields (commitKeys g) x y → x.rd .grpNode [] / 128 = g → y.rd .grpNode [] / 128 = g :=
    fun x y hq hx => by rw [hq.touches.regs _ _ grpNode_not_mem_commitKeys, hx]
  have hentries : Quietly commitFields (commitKeys g) s
      (if s.isManager then (List.range 128).foldl (State.followList l) s else s) := by
    refine .ite (fun _ => Quietly.foldl_keeping grpNode_not_mem_commitKeys rfl fun m hm x hx => ?_) fun _ => .refl
    exact State.followList_quietly (List.mem_range.1 hm) (by rw [hx, hg])
  generalize (if s.isManager then (List.range 128).foldl (State.followList l) s else s) = a at hentries
  have hstale : Quietly commitFields (commitKeys g) a a.dropStale :=
    (Quietly.of_touches State.dropStale_touches).mono (by simp [commitKeys])
  have hquiet : a.dropStale.copies = [] := hstale.noCopies (hentries.noCopies hs)
  have hpartners : Quietly commitFields (commitKeys g) a.dropStale a.dropStale.partnersGone :=
    (State.partnersGone_quietly hquiet).mono partnerKeys_subset_commitKeys
  have hnode : a.dropStale.partnersGone.rd .grpNode [] / 128 = g :=
    hkeep _ _ hpartners (hkeep _ _ hstale (hkeep _ _ hentries hg))
  have htable : Quietly commitFields (commitKeys g) a.dropStale.partnersGone a.dropStale.partnersGone.groupTable254 :=
    (State.groupTable254_quietly hnode).widen
  have hsend : ∀ x y : State, Sends x y → Quietly commitFields (commitKeys g) x y := fun x y h =>
    (Quietly.of_sends h).mono sendKeys_subset_commitKeys
  exact hentries.trans (hstale.trans (hpartners.trans (htable.trans
    ((hsend _ _ State.sendPartners_sends).trans (hsend _ _ State.sendTable_sends)))))

/-- A worker without shroud partners drops the messages of the old epoch, and that is all. -/
theorem State.followed_worker {l : List Nat} (hr : s.rd .grpRole [] = 0) (hh : s.rd .shrHolderNode [] = noNode)
    (hs : s.rd .shrHeldSourceNode [] = noNode) : s.followed l = s.dropStale := by
  have hworker : ∀ x : State, x.rd .grpRole [] = 0 → x.isManager = false ∧ x.isTop = false := fun x hx => by
    rw [State.isManager, State.isTop, hx]
    simp
  have hrole : s.dropStale.rd .grpRole [] = 0 := by rw [State.dropStale_touches.regs _ _ (by decide), hr]
  obtain ⟨hmanager, htop⟩ := hworker _ hrole
  have hnone : s.dropStale.partnersGone = s.dropStale :=
    State.partnersGone_none (by rw [State.dropStale_touches.regs _ _ (by decide), hh])
      (by rw [State.dropStale_touches.regs _ _ (by decide), hs])
  have htable : s.dropStale.groupTable254 = s.dropStale := if_pos (by rw [htop]; rfl)
  have hsend : s.dropStale.sendPartners = s.dropStale := if_pos (by rw [hmanager]; rfl)
  have hcopy : s.dropStale.sendTable = s.dropStale := if_pos (by rw [hmanager]; rfl)
  unfold State.followed
  rw [if_neg (by rw [(hworker s hr).1]; decide), hnone, htable, hsend, hcopy]

theorem State.staleColls_none {e : Nat} (hs : s.colls = []) : s.staleColls e = s := by
  rw [State.staleColls, hs]
  rfl

/-- EPOCH_COMMIT of the prepared epoch, with no collective. -/
theorem State.takeCommit_installs {f : Nat} (hnew : s.rd .grpEpoch [] < h.epoch) (hp : s.prep = some p) (he : p.epoch = h.epoch)
    (hl : p.nodes.length = p.members) (hc : s.colls = []) :
    s.takeCommit h f = ((s.atEpoch { p with fp := f }).followed p.list).after := by
  unfold State.takeCommit
  rw [if_neg (by omega), hp]
  dsimp only
  rw [if_pos ⟨he, hl⟩, State.staleColls_none hc, State.installEpoch_eq]
  rfl

/-- A machine stays settled while it has no step and makes no copy, whatever else follows. -/
theorem Settled.of_idle {fs : List Field} (hs : Settled s) (ht : Touches fs ks s t)
    (hf : ∀ f ∈ [Field.flight, .colls, .commit, .restore, .step], f ∉ fs)
    (hk : ∀ k < 20, Reg.unitHstate.key [56 + k] ∉ ks ∧ Reg.domDstate.key [56 + k] ∉ ks)
    (hstep : s.step = none) (hcopies : s.copies = []) (hquiet : t.copies = []) : Settled t := by
  have hflight : t.flight = s.flight := ht.only .flight (hf _ (by simp))
  have hcolls : t.colls = s.colls := ht.only .colls (hf _ (by simp))
  have hnone : t.step = none := (ht.only .step (hf _ (by simp))).trans hstep
  refine ⟨fun p hp => ?_, ?_, fun q v hq => ?_, fun c hc => ?_, ?_, fun k hk20 hfenced => ?_⟩
  · rw [hcolls, hquiet, ← hcopies]
    exact hs.packets p (hflight ▸ hp)
  · rw [ht.only .commit (hf _ (by simp))]
    exact hs.commit
  · exact absurd (hnone.symm.trans hq) (Option.some_ne_none q).symm
  · have hmem : c ∈ t.copies := by simp [State.copies, hc]
    exact absurd (hquiet ▸ hmem) List.not_mem_nil
  · rw [ht.only .restore (hf _ (by simp))]
    exact hs.restore
  · obtain ⟨hhealth, hdomain⟩ := hk k hk20
    rw [State.fenced, ht.regs _ _ hhealth] at hfenced
    rw [ht.regs _ _ hdomain]
    exact hs.fences k hk20 hfenced

end

section

variable {s : State} {h : GroupHeader} {p : PrepSt} {f : Nat}

/-- EPOCH_COMMIT of the prepared epoch runs to its end: what follows from the new epoch leaves nothing to wait for. -/
theorem epochCommit_runs (hh : Heard s h) (hs : Settled s) (hnew : s.rd .grpEpoch [] < h.epoch) (hp : s.prep = some p)
    (he : p.epoch = h.epoch) (hl : p.nodes.length = p.members) (hstep : s.step = none) (hcolls : s.colls = [])
    (hcopies : s.copies = []) :
    ∃ u, exec (.epochCommit h f) s = .next ((u.atEpoch { p with fp := f }).followed p.list) ∧ Touches [.delivered] [] s u ∧
      Quietly commitFields (commitKeys (s.rd .grpNode [] / 128)) (u.atEpoch { p with fp := f })
        ((u.atEpoch { p with fp := f }).followed p.list) := by
  obtain ⟨u, hrun, hu⟩ := hh.runs 0x0A (fun s => s.takeCommit h f)
  have huq : u.copies = [] := (Quietly.of_touches hu).noCopies hcopies
  have hinstall := State.atEpoch_touches (s := u) (p := { p with fp := f })
  have hquiet : (u.atEpoch { p with fp := f }).copies = [] := (Quietly.of_touches hinstall).noCopies huq
  have hnode : (u.atEpoch { p with fp := f }).rd .grpNode [] / 128 = s.rd .grpNode [] / 128 := by
    rw [hinstall.regs _ _ (by decide), hu.rd_nil]
  have hfollow := State.followed_quietly (l := p.list) hquiet hnode
  refine ⟨u, ?_, hu, hfollow⟩
  have hall : Touches (.delivered :: epochFields ++ commitFields) (epochKeys ++ commitKeys (s.rd .grpNode [] / 128)) s
      ((u.atEpoch { p with fp := f }).followed p.list) :=
    (hu.mono (List.nil_subset _)).trans ((hinstall.mono (List.subset_append_left ..)).trans
      (hfollow.touches.mono (List.subset_append_right ..)))
  have hunit : ∀ k < 20, Reg.unitHstate.key [56 + k] ∉ epochKeys ++ commitKeys (s.rd .grpNode [] / 128) ∧
      Reg.domDstate.key [56 + k] ∉ epochKeys ++ commitKeys (s.rd .grpNode [] / 128) := fun k hk => by
    have hepoch : ∀ k ∈ epochKeys, k < 0x600000 * 32 := by decide
    have hbounds : (0x600000 * 32 ≤ Reg.unitHstate.key [56 + k] ∧ Reg.unitHstate.key [56 + k] < 0x700000 * 32 ∧
        Reg.unitHstate.key [56 + k] % 32 = 30) ∧ (0x900000 * 32 ≤ Reg.domDstate.key [56 + k] ∧
        Reg.domDstate.key [56 + k] < 0xA00000 * 32 ∧ Reg.domDstate.key [56 + k] % 32 = 30) := by
      simp only [Reg.key, Reg.unitHstate, Reg.domDstate, strideSum]
      omega
    obtain ⟨hhealth, hdomain⟩ := hbounds
    have hlocal : Reg.grpLocalUnroutable.key [] < 0x600000 * 32 := by decide
    rw [List.mem_append, List.mem_append, not_or, not_or]
    refine ⟨⟨fun hm => ?_, not_mem_commitKeys (.inr (.inl hhealth)) (by omega)⟩, fun hm => ?_,
      not_mem_commitKeys (.inr (.inr hdomain)) (by omega)⟩
    · have := hepoch _ hm
      omega
    · have := hepoch _ hm
      omega
  have hsettled : Settled ((u.atEpoch { p with fp := f }).followed p.list) :=
    hs.of_idle hall (by decide) hunit hstep hcopies (hfollow.noCopies hquiet)
  rw [exec_epochCommit, hrun, State.takeCommit_installs (by rwa [hu.rd_nil]) ((hu.only .prep (by decide)).trans hp) he hl
    ((hu.only .colls (by decide)).trans hcolls), hsettled.after]

/-- EPOCH_COMMIT of the prepared epoch installs it, and at a worker without shroud partners nothing else changes (R252). -/
theorem epochCommit_installs (hh : Heard s h) (hs : Settled s) (hnew : s.rd .grpEpoch [] < h.epoch) (hp : s.prep = some p)
    (he : p.epoch = h.epoch) (hl : p.nodes.length = p.members) (hstep : s.step = none) (hcolls : s.colls = [])
    (hcopies : s.copies = []) :
    (∃ t, exec (.epochCommit h f) s = .next t ∧ t.rd .grpEpoch [] = h.epoch % 2 ^ 64 ∧ t.rankNodes = p.list ∧
      t.prep = none ∧ t.mem = s.mem ∧ t.flight = s.flight) ∧
    (s.rd .grpRole [] = 0 → s.rd .shrHolderNode [] = noNode → s.rd .shrHeldSourceNode [] = noNode →
    ∃ t, exec (.epochCommit h f) s = .next t ∧ t.rd .grpEpoch [] = h.epoch % 2 ^ 64 ∧
      t.rd .grpMembers [] = p.members % 2 ^ 15 ∧ t.rd .grpOrderFp [] = f % 2 ^ 128 ∧ t.rd .grpPrepared [] = 0 ∧
      t.rd .grpInEpoch [] = (if (p.rankOf (s.rd .grpNode [])).isSome then 1 else 0) ∧
      t.rd .grpRank [] = (p.rankOf (s.rd .grpNode [])).getD (s.rd .grpRank []) % 2 ^ 14 ∧
      t.rd .collCollSeq [] = 1 ∧ t.rankNodes = p.list ∧ t.prep = none ∧ t.chunkRule = p.chunkRule ∧
      ChangesOnly [.regs, .delivered, .rankNodes, .chunkRule, .prep, .reserved, .verdicts, .heldMsgs] s t ∧
      RegsBut [Reg.grpEpoch.key [], Reg.grpMembers.key [], Reg.grpOrderFp.key [], Reg.grpPrepared.key [], Reg.grpInEpoch.key [],
        Reg.grpRank.key [], Reg.collCollSeq.key [], Reg.collStaleDiscarded.key []] s t) := by
  obtain ⟨u, hrun, hu, hfollow⟩ := epochCommit_runs (f := f) hh hs hnew hp he hl hstep hcolls hcopies
  have hinstall := State.atEpoch_touches (s := u) (p := { p with fp := f })
  obtain ⟨hlist, hrule, hprep⟩ := State.atEpoch_lists (s := u) (p := { p with fp := f })
  refine ⟨⟨_, hrun, ?_, ?_, ?_, ?_, ?_⟩, fun hrole hholder hsource => ⟨_, hrun, ?_⟩⟩
  · rw [hfollow.touches.regs _ _ (not_mem_commitKeys (by decide)), State.atEpoch_epoch, ← he]
  · exact (hfollow.touches.only .rankNodes (by decide)).trans hlist
  · exact (hfollow.touches.only .prep (by decide)).trans hprep
  · exact (hfollow.touches.only .mem (by decide)).trans ((hinstall.only .mem (by decide)).trans (hu.only .mem (by decide)))
  · exact (hfollow.touches.only .flight (by decide)).trans
      ((hinstall.only .flight (by decide)).trans (hu.only .flight (by decide)))
  · have hkept : ∀ r : Reg, r.key [] ∉ epochKeys → (u.atEpoch { p with fp := f }).rd r [] = s.rd r [] := fun r hr => by
      rw [hinstall.regs _ _ hr, hu.rd_nil]
    rw [State.followed_worker (by rw [hkept _ (by decide), hrole]) (by rw [hkept _ (by decide), hholder])
      (by rw [hkept _ (by decide), hsource])]
    have hdrop := State.dropStale_touches (s := u.atEpoch { p with fp := f })
    have hall : Touches [.regs, .delivered, .rankNodes, .chunkRule, .prep, .reserved, .verdicts, .heldMsgs]
        (epochKeys ++ [Reg.collStaleDiscarded.key []]) s _ := (hu.mono (List.nil_subset _)).trans
      ((hinstall.mono (List.subset_append_left ..)).trans (hdrop.mono (List.subset_append_right ..)))
    refine ⟨?_, ?_, ?_, ?_, ?_, ?_, ?_, ?_, ?_, ?_, hall.only, hall.regs⟩
    · rw [hdrop.regs _ _ (by decide), State.atEpoch_epoch, ← he]
    · rw [hdrop.regs _ _ (by decide), State.atEpoch_members]
    · rw [hdrop.regs _ _ (by decide), State.atEpoch_orderFp]
    · rw [hdrop.regs _ _ (by decide), State.atEpoch_prepared]
    · rw [hdrop.regs _ _ (by decide), State.atEpoch_inEpoch, hu.rd_nil]
      rfl
    · rw [hdrop.regs _ _ (by decide), State.atEpoch_rank, hu.rd_nil, hu.rd_nil]
      rfl
    · rw [hdrop.regs _ _ (by decide), State.atEpoch_collSeq]
    · exact (hdrop.only .rankNodes (by decide)).trans hlist
    · exact (hdrop.only .prep (by decide)).trans hprep
    · exact (hdrop.only .chunkRule (by decide)).trans hrule

/-! PREPARE_TIMEOUT (R252). -/

theorem exec_prepareTimeout (s : State) : exec .prepareTimeout s = powered s (fun s => s.prepareLate) := rfl

/-- A member that has not answered is LOST, with what that is to a shroud's partners (R322). -/
def State.lose (s : State) (a : Nat) : State :=
  let s := if s.rd .shrHolderNode [] = a then s.holderLost else s
  let s := if s.rd .shrHeldSourceNode [] = a then s.retain else s
  if a / 128 = s.rd .grpNode [] / 128 then s.wr .mbrMstate [a % 128] 4 else s

/-- Those who have not answered a change. -/
def TopSt.late (q : TopSt) : List Nat := q.wanted.filter (fun a => !q.ready.contains a)

/-- The register fields that members that are lost change. -/
def loseKeys : List Nat := (List.range 128).map (fun m => Reg.mbrMstate.key [m]) ++ partnerKeys

theorem State.lose_quietly {a : Nat} (hs : s.copies = []) : Quietly partnerFields loseKeys s (s.lose a) := by
  have hpartner : partnerKeys ⊆ loseKeys := List.subset_append_right ..
  have hmember : Reg.mbrMstate.key [a % 128] ∈ loseKeys :=
    List.mem_append_left _ (List.mem_map.2 ⟨a % 128, List.mem_range.2 (Nat.mod_lt _ (by decide)), rfl⟩)
  unfold State.lose
  extract_lets x y
  have hx : Quietly partnerFields loseKeys s x := .ite (fun _ => (State.holderLost_quietly hs).mono hpartner) fun _ => .refl
  have hy : Quietly partnerFields loseKeys x y := .ite (fun _ => State.retain_quietly.mono hpartner) fun _ => .refl
  exact (hx.trans hy).trans (.ite (fun _ => .wr hmember) fun _ => .refl)

/-- The state with the late members lost and off the list. -/
def State.withoutLate (s : State) (q : TopSt) : State :=
  let t := q.late.foldl State.lose { s with top := none }
  { t with sysMembers := t.sysMembers.filter (fun a => !q.late.contains a), top := none }

theorem State.withoutLate_quietly {q : TopSt} (hs : s.copies = []) :
    Quietly (.top :: .sysMembers :: partnerFields) loseKeys s (s.withoutLate q) := by
  have htop : Quietly (.top :: .sysMembers :: partnerFields) loseKeys s { s with top := none } :=
    (Quietly.of_touches (s.withTop_touches none)).widen
  have hlose : Quietly partnerFields loseKeys ({ s with top := none } : State) (q.late.foldl State.lose { s with top := none }) :=
    Quietly.foldl_noCopies (htop.noCopies hs) fun _ _ _ hx => State.lose_quietly hx
  have hlast : ∀ (x : State) (l : List Nat), Touches [.top, .sysMembers] loseKeys x { x with sysMembers := l, top := none } := by
    refine fun x l => ChangesOnly.touches (fun f hf => ?_) rfl
    cases f
    case top => exact absurd (by decide) hf
    case sysMembers => exact absurd (by decide) hf
    all_goals rfl
  exact htop.trans (hlose.widen.trans (Quietly.of_touches (hlast _ _)).widen)

theorem State.withoutLate_members {q : TopSt} (hs : s.copies = []) :
    (s.withoutLate q).sysMembers = s.sysMembers.filter (fun a => !q.late.contains a) := by
  have hlose : Quietly partnerFields loseKeys ({ s with top := none } : State) (q.late.foldl State.lose { s with top := none }) :=
    Quietly.foldl_noCopies ((Quietly.of_touches (s.withTop_touches (ks := []) none)).noCopies hs) fun _ _ _ hx =>
      State.lose_quietly hx
  exact congrArg (List.filter (fun a => !q.late.contains a)) (hlose.touches.only .sysMembers (by decide))

theorem State.prepareLate_restarts {q : TopSt} (hq : s.top = some q) (hl : s.isTop = true ∧ q.deadline ≤ s.aoNow) :
    s.prepareLate = (s.withoutLate q).startEpoch := by
  unfold State.prepareLate
  rw [hq]
  dsimp only
  rw [if_pos hl]
  rfl

theorem State.prepareLate_waits {q : TopSt} (hq : s.top = some q) (hl : ¬ (s.isTop = true ∧ q.deadline ≤ s.aoNow)) :
    s.prepareLate = s := by
  unfold State.prepareLate
  rw [hq]
  dsimp only
  rw [if_neg hl]

/-- A change that is late begins again without the members that have not answered (R252). -/
theorem State.prepareLate_begins {q : TopSt} (hs : s.copies = []) (hq : s.top = some q)
    (hl : s.isTop = true ∧ q.deadline ≤ s.aoNow) :
    s.prepareLate.mem = s.mem ∧ ∃ n, s.prepareLate.top = some n ∧ n.epoch = max s.lastEpoch (s.rd .grpEpoch []) + 1 ∧
      n.list = s.prepareLate.sysMembers ∧ s.prepareLate.sysMembers = s.sysMembers.filter (fun a => !q.late.contains a) := by
  have hkeys : ∀ r ∈ [Reg.grpGroupEnable, .grpRole, .grpEpoch], r.key [] ∉ loseKeys := by decide
  have hlate := (State.withoutLate_quietly (q := q) hs).touches
  have hmembers := State.withoutLate_members (q := q) hs
  rw [State.prepareLate_restarts hq hl]
  obtain ⟨htop, -⟩ := hl
  obtain ⟨henable, hrole⟩ := State.isTop_iff.1 htop
  have htop' : (s.withoutLate q).isTop = true := State.isTop_iff.2
    ⟨by rw [hlate.regs _ _ (hkeys _ (by simp)), henable], by rw [hlate.regs _ _ (hkeys _ (by simp)), hrole]⟩
  obtain ⟨hbegun, -, hlist⟩ := State.startEpoch_begins htop'
  refine ⟨?_, _, hbegun, ?_, hlist.symm, hlist.trans hmembers⟩
  · exact (State.startEpoch_quietly.touches.only .mem (by decide)).trans (hlate.only .mem (by decide))
  · rw [State.nextChange, hlate.only .lastEpoch (by decide), hlate.regs _ _ (hkeys _ (by simp))]

/-- PREPARE_TIMEOUT begins a late change again at the top manager, and changes nothing else (R252). -/
theorem prepareTimeout_restarts (hpower : s.power = 1) (hs : s.copies = []) :
    ∃ t, exec .prepareTimeout s = .next t ∧ t.mem = s.mem ∧
    match s.top with
    | some q =>
      if s.isTop = true ∧ q.deadline ≤ s.aoNow then
        ∃ n, t.top = some n ∧ n.epoch = max s.lastEpoch (s.rd .grpEpoch []) + 1 ∧ n.list = t.sysMembers ∧
          t.sysMembers = s.sysMembers.filter (fun a => !(q.wanted.filter (fun b => !q.ready.contains b)).contains a)
      else t = s
    | none => t = s := by
  refine ⟨s.prepareLate, (exec_prepareTimeout s).trans (powered_on hpower), ?_⟩
  cases hq : s.top with
  | none =>
    have hkept : s.prepareLate = s := by
      unfold State.prepareLate
      rw [hq]
    exact ⟨by rw [hkept], hkept⟩
  | some q =>
    dsimp only
    split
    · next hl => exact State.prepareLate_begins hs hq hl
    · next hl => exact ⟨by rw [State.prepareLate_waits hq hl], State.prepareLate_waits hq hl⟩

end

/-- Settles O57: each clause is the lemma about its message; what EPOCH_COMMIT leaves is settled, so that nothing waits on. -/
theorem membershipEpochsChange : Obligations.MembershipEpochsChange := by
  unfold Obligations.MembershipEpochsChange
  refine ⟨fun s h hh hold => ⟨fun m f c g => ?_, fun f l => ?_, fun f => ?_⟩,
    fun s h m f c g hh hnew => epochPrepare_begins m f c g hh hnew, fun s h p f l hh hnew hp he => epochList_fills f l hh hnew hp he,
    fun s hpower => epochReadySend_answers hpower, fun s h q hh hr hq he => epochReady_noted hh hr hq he,
    fun s h p f hh hs hnew hp he hl hstep hcolls hcopies => epochCommit_installs hh hs hnew hp he hl hstep hcolls hcopies,
    fun s hpower hs => prepareTimeout_restarts hpower hs⟩
  · rw [exec_epochPrepare]
    exact hh.ignores_old hold fun u hu => if_pos hu
  · rw [exec_epochList]
    exact hh.ignores_old hold fun u hu => if_pos hu
  · rw [exec_epochCommit]
    exact hh.ignores_old hold fun u hu => if_pos hu

end Sys2Proof.Machine
end

section
/-! PROOFS. Roles, joins and leaves of a group (R248–R250, R351, R401). -/

namespace Sys2Proof.Machine

set_option Elab.async false

/-! A packet that starts at once (R340, R342). -/

section

variable {s u a t : State} {h : PktHdr} {op : Op} {p : Packet} {fs gs : List Field} {ks : List Nat} {st : Status} {d : Nat}

/-- A packet of an operation has been fetched and runs; nothing else has happened. -/
structure Started (s : State) (h : PktHdr) (op : Op) (p : Packet) (u : State) : Prop where
  flight : u.flight = s.flight ++ [p]
  new : NewPacket s h op p
  running : p.phase = .running
  fetched : u.rd .ringRingFetched [h.ring] = (s.rd .ringRingFetched [h.ring] + h.length) % 2 ^ 32
  only : ChangesOnly [.regs, .flight, .nextId] s u
  regs : RegsBut (fetchKeys h.ring) s u

/-- An operation without descriptors that nothing holds starts when its packet is fetched. -/
theorem Quiet.starts (hq : Quiet s h) (ho : ordinaryOp op = true) (hz : s.refRanges op = []) (hr : opRefs op = [])
    (hc : launchCheck op [] = none) : ∃ u p, s.packetIn h op = u.runOp p ∧ Started s h op p u := by
  have hd : s.readDescs op (opRefs op).zipIdx = .ok ([], []) := by rw [hr]; rfl
  obtain ⟨u, p, hrun, hflight, hnew, hphase, -, -, -, -, -, hfetched, honly, hregs⟩ := State.packetIn_runs hq ho hz hd hc
  exact ⟨u, p, hrun, hflight, hnew, hphase, hfetched, honly, hregs⟩

theorem Quiet.ring_lt (hq : Quiet s h) : h.ring < 16 := by
  have hf := hq.fetch
  simp only [State.canFetch, Bool.and_eq_true, decide_eq_true_eq] at hf
  omega

/-- Fetching leaves the fields above the ring blocks alone, but the counters. -/
theorem not_mem_fetchKeys {r k : Nat} (hr : r < 16)
    (hk : 0x100000 * 32 ≤ k ∧ (k < 0x801000 * 32 ∨ 0x802000 * 32 ≤ k) := by decide) : k ∉ fetchKeys r := by
  simp only [fetchKeys, List.mem_cons, List.mem_map, List.mem_range, Reg.key, Reg.ringRingFetched, Reg.ringRingHead, Reg.progValue,
    strideSum]
  rintro (h | h | ⟨i, hi, h⟩) <;> omega

/-- What fetching leaves alone reads as before when the packet has started. -/
theorem Started.rd (hs : Started s h op p u) (hq : Quiet s h) {r : Reg} {idx : List Nat}
    (hk : 0x100000 * 32 ≤ r.key idx ∧ (r.key idx < 0x801000 * 32 ∨ 0x802000 * 32 ≤ r.key idx) := by decide) :
    u.rd r idx = s.rd r idx := hs.regs _ _ (not_mem_fetchKeys hq.ring_lt hk)

/-- A packet that has ended with a status, unless it had ended before. -/
def Packet.endedWith (p : Packet) (st : Status) (d : Nat) : Packet := if p.isEnded then p else { p with phase := .ended st d false }

theorem State.endPacket_flight {pid : Nat} : (a.endPacket pid st d).flight =
    a.flight.map (fun q => if q.pid = pid then q.endedWith st d else q) := rfl

/-- The end of the last packet of the flight. -/
theorem State.endPacket_new (hi : Numbered s) (hf : a.flight = s.flight ++ [p]) (hp : p.pid = s.nextId) (hr : p.phase = .running) :
    (a.endPacket p.pid st d).flight = s.flight ++ [{ p with phase := .ended st d false }] := by
  have hlive : p.isEnded = false := by
    unfold Packet.isEnded
    rw [hr]
  have hkept : s.flight.map (fun q => if q.pid = p.pid then q.endedWith st d else q) = s.flight := by
    refine (List.map_congr_left (g := id) fun q hq => ?_).trans (List.map_id _)
    have := hi q hq
    exact if_neg (by omega)
  have hlast : p.endedWith st d = { p with phase := .ended st d false } := if_neg (by rw [hlive]; decide)
  rw [State.endPacket_flight, hf, List.map_append, hkept, List.map_singleton, if_pos rfl, hlast]

/-- A packet whose operation keeps the flight ends with a status. -/
theorem Started.ends (hs : Started s h op p u) (hi : Numbered s) (ha : Touches fs ks u a)
    (hf : Field.flight ∉ fs ∧ Field.sub fs (.regs :: .flight :: .nextId :: gs) = true := by decide)
    (hring : Reg.ringRingFetched.key [h.ring] ∉ ks) : RanTo s h op st d gs ks (a.endPacket p.pid st d) := by
  obtain ⟨hflight, hsub⟩ := hf
  have hend : Touches [.flight] [] a (a.endPacket p.pid st d) := (State.endPacket_does a p.pid st d Does.refl).only.touches rfl
  have hall : Touches (.regs :: .flight :: .nextId :: gs) (fetchKeys h.ring ++ ks) s (a.endPacket p.pid st d) := by
    have hstart : Touches [.regs, .flight, .nextId] (fetchKeys h.ring) s u := ⟨hs.only, hs.regs⟩
    refine (hstart.mono (List.subset_append_left ..) ?_).trans ((ha.mono (List.subset_append_right ..) hsub).trans
      (hend.mono (List.nil_subset _) ?_))
    · simp [Field.sub]
    · simp [Field.sub]
  have hnew := hs.new
  refine ⟨⟨{ p with phase := .ended st d false }, ?_, hnew.pid, hnew.ring, hnew.tag, hnew.op, hnew.sigEn, hnew.signal, rfl⟩, ?_, hall.only, hall.regs⟩
  · exact State.endPacket_new hi ((ha.only .flight hflight).trans hs.flight) hnew.pid hs.running
  · rw [hend.rd_nil, ha.regs _ _ hring, hs.fetched]

end

/-! The operations of roles, joins and leaves. -/

section

variable {s t : State} {a : Asker} {r : Nat} {nodes : List (Reg × Nat)} {p : Packet}

/-- ROLE and the node fields are written. -/
def State.putNodes (s : State) (l : List (Reg × Nat)) : State := l.foldl (fun s n => s.wr n.1 [] n.2) s

theorem State.putNodes_touches {l : List (Reg × Nat)} : Touches [.regs] (l.map (fun n => n.1.key [])) s (s.putNodes l) :=
  Touches.foldl fun n hn _ => (OnlyRegs.wr (List.mem_map.2 ⟨n, hn, rfl⟩)).touches

/-- Each of several fields reads what was written to it. -/
theorem State.putNodes_rd {l : List (Reg × Nat)} (hd : (l.map (fun n => n.1.key [])).Nodup) {n : Reg × Nat} (hn : n ∈ l) :
    (s.putNodes l).rd n.1 [] = n.2 % 2 ^ n.1.width := by
  induction l generalizing s with
  | nil => exact absurd hn List.not_mem_nil
  | cons m l ih =>
    rw [List.map_cons, List.nodup_cons] at hd
    obtain ⟨hout, hd⟩ := hd
    obtain rfl | hn := List.mem_cons.1 hn
    · exact ((State.putNodes_touches (s := s.wr n.1 [] n.2)).regs _ _ hout).trans (State.rd_wr_same ..)
    · exact ih (s := s.wr m.1 [] m.2) hd hn

theorem State.roleSet_enabled (hg : s.rd .grpGroupEnable [] = 1) :
    s.roleSet a r nodes = (s.count .grpIgnored [] 1).answer a .notEnabled 0 := if_pos (by rw [State.flag, hg]; rfl)

theorem State.roleSet_open (hg : s.rd .grpGroupEnable [] ≠ 1) (ho : s.stepOpen = true) :
    s.roleSet a r nodes = s.answer a .notEnabled 0 := by
  unfold State.roleSet
  rw [if_neg (by simpa [State.flag] using hg), if_pos ho]

theorem State.roleSet_bad (hg : s.rd .grpGroupEnable [] ≠ 1) (ho : ¬ s.stepOpen = true) (hr : 2 < r) :
    s.roleSet a r nodes = s.answer a .badParam 0 := by
  unfold State.roleSet
  rw [if_neg (by simpa [State.flag] using hg), if_neg ho, if_pos (.inl hr)]

theorem State.roleSet_done (hg : s.rd .grpGroupEnable [] ≠ 1) (ho : ¬ s.stepOpen = true) (hr : ¬ 2 < r)
    (hn : ∀ n ∈ nodes, n.2 ≤ 0x3FFF) : s.roleSet a r nodes = (s.putNodes ((.grpRole, r) :: nodes)).answer a .done 0 := by
  have hall : nodes.any (fun n => decide (0x3FFF < n.2)) = false := by
    refine List.any_eq_false.2 fun n hm => ?_
    have := hn n hm
    simp only [decide_eq_true_eq]
    omega
  unfold State.roleSet
  rw [if_neg (by simpa [State.flag] using hg), if_neg ho, if_neg (by rw [hall]; simpa using hr)]
  rfl

theorem State.groupJoin_enabled (ho : s.stepOpen = false) (hg : s.rd .grpGroupEnable [] = 1) :
    s.groupJoin a = s.answer a .done 256 := by
  unfold State.groupJoin
  rw [if_neg (by rw [ho]; decide), if_pos (by rw [State.flag, hg]; rfl)]

/-- The state of a module that begins to join. -/
def State.joining (s : State) : State :=
  { s with mgrMissed := 0, mgrHeard := false, heard := [] }.wr .grpGroupEnable [] 1

/-- The module waits for JOIN_REPLY. -/
def State.waits (s : State) (a : Asker) (l : List JoinWait) : State := { s with joins := l ++ [{ asker := a, since := s.aoNow }] }

theorem State.joinGroup_new (hg : s.rd .grpGroupEnable [] ≠ 1) : s.joinGroup = s.joining.sendJoin :=
  if_neg (by simpa [State.flag] using hg)

theorem State.joining_touches : Touches [.regs, .mgrMissed, .mgrHeard, .heard] [Reg.grpGroupEnable.key []] s s.joining := by
  have hset : Touches [.mgrMissed, .mgrHeard, .heard] [Reg.grpGroupEnable.key []] s
      { s with mgrMissed := 0, mgrHeard := false, heard := [] } := by
    refine ChangesOnly.touches (fun f hf => ?_) rfl
    cases f
    case mgrMissed => exact absurd (by decide) hf
    case mgrHeard => exact absurd (by decide) hf
    case heard => exact absurd (by decide) hf
    all_goals rfl
  exact hset.widen.trans (OnlyRegs.wr List.mem_cons_self).touches

/-- GROUP_ENABLE is 1 and nothing is known of heartbeats. -/
def Joined (s t : State) : Prop :=
  t.rd .grpGroupEnable [] = 1 ∧ t.heard = [] ∧ t.mgrMissed = 0 ∧ t.mgrHeard = false ∧ t.mem = s.mem

/-- A join sets GROUP_ENABLE, forgets the heartbeats and sends JOIN (R248). -/
theorem State.joinGroup_joins (hg : s.rd .grpGroupEnable [] ≠ 1) : Joined s s.joinGroup ∧
    Touches (.mgrMissed :: .mgrHeard :: .heard :: sendFields) (Reg.grpGroupEnable.key [] :: sendKeys) s s.joinGroup := by
  rw [State.joinGroup_new hg]
  have hsend : Sends s.joining s.joining.sendJoin := State.sendGroup_sends
  have hjoin := State.joining_touches (s := s)
  have hall : Touches (.mgrMissed :: .mgrHeard :: .heard :: sendFields) (Reg.grpGroupEnable.key [] :: sendKeys) s
      s.joining.sendJoin := (hjoin.mono (by simp)).trans (hsend.touches.mono (List.subset_cons_self ..))
  have hstate : s.joining.heard = [] ∧ s.joining.mgrMissed = 0 ∧ s.joining.mgrHeard = false := by
    rw [State.joining, State.wr_heard, State.wr_mgrMissed, State.wr_mgrHeard]
    exact ⟨rfl, rfl, rfl⟩
  obtain ⟨hheard, hmissed, hmgr⟩ := hstate
  refine ⟨⟨?_, (hsend.touches.only .heard (by decide)).trans hheard, (hsend.touches.only .mgrMissed (by decide)).trans hmissed,
    (hsend.touches.only .mgrHeard (by decide)).trans hmgr, hall.only .mem (by decide)⟩, hall⟩
  rw [hsend.rd, State.joining, State.rd_wr_same]
  rfl

theorem State.groupJoin_new (ho : s.stepOpen = false) (hg : s.rd .grpGroupEnable [] ≠ 1) :
    s.groupJoin a = { s.joinGroup with joins := s.joins ++ [{ asker := a, since := s.aoNow }] } := by
  unfold State.groupJoin
  rw [if_neg (by rw [ho]; decide), if_neg (by simpa [State.flag] using hg)]

theorem State.withJoins_touches {ks : List Nat} (s : State) (l : List JoinWait) : Touches [.joins] ks s { s with joins := l } := by
  refine ChangesOnly.touches (fun f hf => ?_) rfl
  cases f
  case joins => exact absurd (by decide) hf
  all_goals rfl

/-- GROUP_JOIN while GROUP_ENABLE is 0 joins and waits for the reply (R248). -/
theorem State.groupJoin_joins (ho : s.stepOpen = false) (hg : s.rd .grpGroupEnable [] ≠ 1) :
    Joined s (s.groupJoin a) ∧ (s.groupJoin a).joins = s.joins ++ [{ asker := a, since := s.aoNow }] ∧
    Touches (.joins :: .mgrMissed :: .mgrHeard :: .heard :: sendFields) (Reg.grpGroupEnable.key [] :: sendKeys) s (s.groupJoin a) := by
  obtain ⟨hjoined, hall⟩ := State.joinGroup_joins hg
  rw [State.groupJoin_new ho hg]
  exact ⟨hjoined, rfl, hall.widen.trans (State.withJoins_touches _ _).widen⟩

/-! Leaving. -/

/-- The register fields that leaving a group changes. -/
def leaveKeys : List Nat := Reg.grpInEpoch.key [] :: Reg.grpGroupEnable.key [] :: (partnerKeys ++ sendKeys)

/-- The fields of the state that it changes. -/
def leaveFields : List Field := .reports :: .reportSeq :: .hold :: sendFields

/-- GROUP_ENABLE, IN_EPOCH and SRC_STATE are 0; EPOCH, RANK and the memory are as they were. -/
def Left (s t : State) : Prop :=
  t.rd .grpGroupEnable [] = 0 ∧ t.rd .grpInEpoch [] = 0 ∧ t.rd .shrSrcState [] = 0 ∧
    t.rd .grpEpoch [] = s.rd .grpEpoch [] ∧ t.rd .grpRank [] = s.rd .grpRank [] ∧ t.mem = s.mem

theorem leave_rd_kept {r : Reg} (hr : r ∈ [Reg.grpEpoch, .grpRank]) : r.key [] ∉ leaveKeys := by
  have hlist : ∀ r ∈ [Reg.grpEpoch, .grpRank], (r.key [] ≠ Reg.grpInEpoch.key [] ∧ r.key [] ≠ Reg.grpGroupEnable.key [] ∧
      r.key [] ∉ partnerKeys) ∧ 0x400C00 * 32 ≤ r.key [] ∧ r.key [] < 0x402030 * 32 := by decide
  obtain ⟨⟨hin, henable, hpartner⟩, hlow, hhigh⟩ := hlist r hr
  have hlocal : Reg.grpLocalUnroutable.key [] = 0x402048 * 32 := by decide
  have hsend : r.key [] ∉ sendKeys := not_mem_sendKeys (by omega) (by omega)
  simp only [leaveKeys, List.mem_cons, List.mem_append, not_or]
  exact ⟨hin, henable, hpartner, hsend⟩

/-- Leaving clears GROUP_ENABLE, IN_EPOCH and SRC_STATE (R249). -/
theorem State.leaveGroup_leaves : Left s s.leaveGroup ∧ Touches leaveFields leaveKeys s s.leaveGroup := by
  unfold State.leaveGroup
  extract_lets x
  have hx : Touches leaveFields leaveKeys s x := by
    have hsend : sendKeys ⊆ leaveKeys := fun k hk => List.mem_cons_of_mem _ (List.mem_cons_of_mem _ (List.mem_append_right _ hk))
    exact .ite (fun _ => State.sendGroup_sends.touches.mono hsend) .refl
  have hin : Touches [.regs] leaveKeys x (x.wr .grpInEpoch [] 0) := (OnlyRegs.wr List.mem_cons_self).touches
  have hpartner : partnerKeys ⊆ leaveKeys := fun k hk => List.mem_cons_of_mem _ (List.mem_cons_of_mem _ (List.mem_append_left _ hk))
  have hsrc := State.setSrcState_touches (s := x.wr .grpInEpoch [] 0) (v := 0)
  have hsrc0 : ((x.wr .grpInEpoch [] 0).setSrcState 0).rd .shrSrcState [] = 0 := State.setSrcState_rd (by decide)
  have hin0 : ((x.wr .grpInEpoch [] 0).setSrcState 0).rd .grpInEpoch [] = 0 := by
    rw [hsrc.regs _ _ (by decide), State.rd_wr_same]
    rfl
  generalize (x.wr .grpInEpoch [] 0).setSrcState 0 = y at hsrc hsrc0 hin0
  have hretain := State.retain_touches (s := y)
  have hlast : OnlyRegs leaveKeys y.retain (y.retain.wr .grpGroupEnable [] 0) := OnlyRegs.wr (by simp [leaveKeys])
  have hall : Touches leaveFields leaveKeys s (y.retain.wr .grpGroupEnable [] 0) :=
    hx.trans (hin.widen.trans ((hsrc.mono (List.Subset.trans (by decide) hpartner)).trans
      ((hretain.mono (List.Subset.trans (by decide) hpartner)).trans hlast.touches)))
  refine ⟨⟨?_, ?_, ?_, hall.regs _ _ (leave_rd_kept (by simp)), hall.regs _ _ (leave_rd_kept (by simp)),
    hall.only .mem (by decide)⟩, hall⟩
  · rw [State.rd_wr_same]
    rfl
  · rw [State.rd_wr_ne _ _ (by decide), hretain.regs _ _ (by decide), hin0]
  · rw [State.rd_wr_ne _ _ (by decide), hretain.regs _ _ (by decide), hsrc0]

theorem State.groupLeave_blocked (hg : s.rd .grpGroupEnable [] = 1 ∧ s.leaveBlocked = true) :
    s.groupLeave a = (s.count .grpIgnored [] 1).answer a .notEnabled 0 := by
  obtain ⟨hg, hb⟩ := hg
  exact if_pos ⟨by rw [State.flag, hg]; rfl, hb⟩

theorem State.groupLeave_open (hg : ¬ (s.rd .grpGroupEnable [] = 1 ∧ s.leaveBlocked = true)) (ho : s.stepOpen = true) :
    s.groupLeave a = s.answer a .notEnabled 0 := by
  unfold State.groupLeave
  rw [if_neg (by simpa [State.flag] using hg), if_pos ho]

theorem State.groupLeave_alone (ho : ¬ s.stepOpen = true) (hg : s.rd .grpGroupEnable [] ≠ 1) :
    s.groupLeave a = s.answer a .done 256 := by
  have hflag : s.flag .grpGroupEnable [] = false := by simpa [State.flag] using hg
  unfold State.groupLeave
  rw [if_neg (by rw [hflag]; simp), if_neg ho, if_pos hflag]

theorem State.groupLeave_leaves (hb : ¬ (s.rd .grpGroupEnable [] = 1 ∧ s.leaveBlocked = true)) (ho : ¬ s.stepOpen = true)
    (hg : s.rd .grpGroupEnable [] = 1) : s.groupLeave a = s.leaveGroup.answer a .done 0 := by
  have hflag : s.flag .grpGroupEnable [] = true := by rw [State.flag, hg]; rfl
  unfold State.groupLeave
  rw [if_neg (by simpa [State.flag] using hb), if_neg ho, if_neg (by rw [hflag]; decide)]

end

/-! Packets (R248, R249, R351). -/

section

variable {s u : State} {h : PktHdr} {r n m k : Nat} {p : Packet}

theorem exec_roleSet (h : PktHdr) (r n m k : Nat) (s : State) :
    exec (.roleSet h r n m k) s = .next (s.packetIn h (.roleSet r n m k)) := rfl

theorem exec_groupJoin (h : PktHdr) (s : State) : exec (.groupJoin h) s = .next (s.packetIn h .groupJoin) := rfl

theorem exec_groupLeave (h : PktHdr) (s : State) : exec (.groupLeave h) s = .next (s.packetIn h .groupLeave) := rfl

theorem State.runOp_roleSet (hop : p.op = .roleSet r n m k) : s.runOp p =
    s.roleSet (.packet p.pid) r [(.grpNode, n), (.grpManagerNode, m), (.grpTopNode, k)] := by
  unfold State.runOp
  rw [hop]

theorem State.runOp_groupJoin (hop : p.op = .groupJoin) : s.runOp p = s.groupJoin (.packet p.pid) := by
  unfold State.runOp
  rw [hop]

theorem State.runOp_groupLeave (hop : p.op = .groupLeave) : s.runOp p = s.groupLeave (.packet p.pid) := by
  unfold State.runOp
  rw [hop]

/-- The fields of a list of registers above the ring blocks are none of a ring's. -/
theorem ringFetched_not_mem {r : Nat} {ks : List Nat} (hr : r < 16) (hk : ∀ k ∈ ks, 0x100000 * 32 ≤ k) :
    Reg.ringRingFetched.key [r] ∉ ks := fun hm => by
  have := hk _ hm
  simp only [Reg.key, Reg.ringRingFetched, strideSum] at this
  omega

theorem State.stepOpen_congr (h : u.rd .stState [] = s.rd .stState []) : u.stepOpen = s.stepOpen := by
  rw [State.stepOpen, h, State.stepOpen]

/-- ROLE_SET while GROUP_ENABLE is 0 and no step is open sets the role; else it ends with its refusal (R248). -/
theorem roleSet_sets (hq : Quiet s h) (hn : n ≤ 0x3FFF) (hm : m ≤ 0x3FFF) (hk : k ≤ 0x3FFF) :
    ∃ t, exec (.roleSet h r n m k) s = .next t ∧
      if s.rd .grpGroupEnable [] = 1 then t.rd .grpIgnored [] = satAdd 32 (s.rd .grpIgnored []) 1 ∧
        RanTo s h (.roleSet r n m k) .notEnabled 0 [] [Reg.grpIgnored.key []] t
      else if s.stepOpen = true then RanTo s h (.roleSet r n m k) .notEnabled 0 [] [] t
      else if 2 < r then RanTo s h (.roleSet r n m k) .badParam 0 [] [] t
      else t.rd .grpRole [] = r ∧ t.rd .grpNode [] = n ∧ t.rd .grpManagerNode [] = m ∧ t.rd .grpTopNode [] = k ∧
        RanTo s h (.roleSet r n m k) .done 0 []
          [Reg.grpRole.key [], Reg.grpNode.key [], Reg.grpManagerNode.key [], Reg.grpTopNode.key []] t := by
  obtain ⟨u, p, hrun, hu⟩ := hq.starts (op := .roleSet r n m k) rfl rfl rfl rfl
  have henable : u.rd .grpGroupEnable [] = s.rd .grpGroupEnable [] := hu.rd hq
  have hopen : u.stepOpen = s.stepOpen := State.stepOpen_congr (hu.rd hq)
  refine ⟨_, exec_roleSet h r n m k s, ?_⟩
  rw [hrun, State.runOp_roleSet hu.new.op]
  split
  · next hg =>
    rw [State.roleSet_enabled (by rwa [henable])]
    refine ⟨?_, hu.ends (fs := [.regs]) hq.inv.pids (OnlyRegs.wr List.mem_cons_self).touches (by decide)
      (ringFetched_not_mem hq.ring_lt (by decide))⟩
    refine (State.rd_congr (State.endPacket_regs ..) ..).trans ?_
    rw [State.rd_count_same, hu.rd hq]
    exact Nat.mod_eq_of_lt satAdd_lt
  · next hg =>
    have hg' : u.rd .grpGroupEnable [] ≠ 1 := by rwa [henable]
    split
    · next ho =>
      rw [State.roleSet_open hg' (by rwa [hopen])]
      exact hu.ends (fs := []) hq.inv.pids .refl (by decide) List.not_mem_nil
    · next ho =>
      have ho' : ¬ u.stepOpen = true := by rwa [hopen]
      split
      · next hr =>
        rw [State.roleSet_bad hg' ho' hr]
        exact hu.ends (fs := []) hq.inv.pids .refl (by decide) List.not_mem_nil
      · next hr =>
        rw [State.roleSet_done hg' ho' hr (by simp [hn, hm, hk])]
        have hread : ∀ x ∈ [(Reg.grpRole, r), (Reg.grpNode, n), (Reg.grpManagerNode, m), (Reg.grpTopNode, k)],
            ((u.putNodes [(.grpRole, r), (.grpNode, n), (.grpManagerNode, m), (.grpTopNode, k)]).answer (.packet p.pid) .done 0).rd
              x.1 [] = x.2 % 2 ^ x.1.width := fun x hx => by
          have hd : [Reg.grpRole.key [], Reg.grpNode.key [], Reg.grpManagerNode.key [], Reg.grpTopNode.key []].Nodup := by decide
          exact (State.rd_congr (State.endPacket_regs ..) ..).trans (State.putNodes_rd
            (l := [(.grpRole, r), (.grpNode, n), (.grpManagerNode, m), (.grpTopNode, k)]) hd hx)
        have hnode : ∀ v ≤ 0x3FFF, v % 2 ^ 14 = v := fun v hv => Nat.mod_eq_of_lt (by omega)
        have hput : Touches [.regs] [Reg.grpRole.key [], Reg.grpNode.key [], Reg.grpManagerNode.key [], Reg.grpTopNode.key []] u
            (u.putNodes [(.grpRole, r), (.grpNode, n), (.grpManagerNode, m), (.grpTopNode, k)]) :=
          State.putNodes_touches (l := [(.grpRole, r), (.grpNode, n), (.grpManagerNode, m), (.grpTopNode, k)])
        refine ⟨?_, ?_, ?_, ?_, hu.ends hq.inv.pids hput (by decide) (ringFetched_not_mem hq.ring_lt (by decide))⟩
        · exact (hread (.grpRole, r) (by simp)).trans (Nat.mod_eq_of_lt (by simp only [Reg.grpRole]; omega))
        · exact (hread (.grpNode, n) (by simp)).trans (hnode n hn)
        · exact (hread (.grpManagerNode, m) (by simp)).trans (hnode m hm)
        · exact (hread (.grpTopNode, k) (by simp)).trans (hnode k hk)

/-- GROUP_JOIN joins and waits for JOIN_REPLY (R248). -/
theorem groupJoin_joins (hq : Quiet s h) (ho : s.stepOpen = false) : ∃ t, exec (.groupJoin h) s = .next t ∧
    if s.rd .grpGroupEnable [] = 1 then RanTo s h .groupJoin .done 256 [] [] t
    else Joined s t ∧ Fetched s t .groupJoin .running ∧ t.joins = s.joins ++ [{ asker := .packet s.nextId, since := s.aoNow }] ∧
      ChangesOnly (.flight :: .nextId :: .joins :: .mgrMissed :: .mgrHeard :: .heard :: sendFields) s t ∧
      RegsBut (Reg.grpGroupEnable.key [] :: fetchKeys h.ring ++ sendKeys) s t := by
  obtain ⟨u, p, hrun, hu⟩ := hq.starts (op := .groupJoin) rfl rfl rfl rfl
  have henable : u.rd .grpGroupEnable [] = s.rd .grpGroupEnable [] := hu.rd hq
  have hopen : u.stepOpen = false := (State.stepOpen_congr (hu.rd hq)).trans ho
  refine ⟨_, exec_groupJoin h s, ?_⟩
  rw [hrun, State.runOp_groupJoin hu.new.op]
  split
  · next hg =>
    rw [State.groupJoin_enabled hopen (by rwa [henable])]
    exact hu.ends (fs := []) hq.inv.pids .refl (by decide) List.not_mem_nil
  · next hg =>
    obtain ⟨hjoined, hjoins, hall⟩ := State.groupJoin_joins (a := .packet p.pid) hopen (by rwa [henable])
    obtain ⟨hone, hheard, hmissed, hmgr, hmem⟩ := hjoined
    have hstart : Touches [.regs, .flight, .nextId] (fetchKeys h.ring) s u := ⟨hu.only, hu.regs⟩
    have htotal : Touches (.flight :: .nextId :: .joins :: .mgrMissed :: .mgrHeard :: .heard :: sendFields)
        (Reg.grpGroupEnable.key [] :: fetchKeys h.ring ++ sendKeys) s (u.groupJoin (.packet p.pid)) := by
      refine (hstart.mono fun k hk => ?_).trans (hall.mono fun k hk => ?_)
      · exact List.mem_append_left _ (List.mem_cons_of_mem _ hk)
      · obtain rfl | hk := List.mem_cons.1 hk
        · exact List.mem_append_left _ List.mem_cons_self
        · exact List.mem_append_right _ hk
    refine ⟨⟨hone, hheard, hmissed, hmgr, hmem.trans (hu.only .mem (by decide))⟩,
      ⟨p, (hall.only .flight (by decide)).trans hu.flight, hu.new.pid, hu.new.op, hu.running⟩, ?_, htotal.only, htotal.regs⟩
    rw [hjoins, hu.only .joins (by decide), hu.only .aoNow (by decide), hu.new.pid]

/-- What keeps a module in its group does not change when a packet is fetched or a write counted. -/
theorem State.leaveBlocked_congr (hstate : u.rd .stState [] = s.rd .stState []) (hnode : u.rd .grpNode [] = s.rd .grpNode [])
    (hcolls : u.colls = s.colls) (hcopies : u.copies = s.copies) (hhold : u.hold = s.hold) (hserve : u.serve = s.serve)
    (hports : u.ports = s.ports) : u.leaveBlocked = s.leaveBlocked := by
  have hport : ∀ p, u.port p = s.port p := fun p => State.port_congr hports p
  have hserving : u.isServing = s.isServing := by
    unfold State.isServing
    simp only [hserve, hport, hnode]
  rw [State.leaveBlocked, State.stepOpen_congr hstate, hcolls, hcopies, hhold, hserving, State.leaveBlocked]

theorem Started.leaveBlocked {op : Op} (hu : Started s h op p u) (hq : Quiet s h) : u.leaveBlocked = s.leaveBlocked := by
  refine State.leaveBlocked_congr (hu.rd hq) (hu.rd hq) (hu.only .colls (by decide)) ?_ (hu.only .hold (by decide))
    (hu.only .serve (by decide)) (hu.only .ports (by decide))
  rw [State.copies, hu.only .copy (by decide), hu.only .copyWas (by decide), State.copies]

/-- GROUP_LEAVE leaves the group unless something keeps the module in it (R249). -/
theorem groupLeave_leaves (hq : Quiet s h) : ∃ t, exec (.groupLeave h) s = .next t ∧
    if s.rd .grpGroupEnable [] = 1 ∧ s.leaveBlocked = true then t.rd .grpIgnored [] = satAdd 32 (s.rd .grpIgnored []) 1 ∧
      RanTo s h .groupLeave .notEnabled 0 [] [Reg.grpIgnored.key []] t
    else if s.stepOpen = true then RanTo s h .groupLeave .notEnabled 0 [] [] t
    else if s.rd .grpGroupEnable [] ≠ 1 then RanTo s h .groupLeave .done 256 [] [] t
    else Left s t ∧ Fetched s t .groupLeave (.ended .done 0 false) := by
  obtain ⟨u, p, hrun, hu⟩ := hq.starts (op := .groupLeave) rfl rfl rfl rfl
  have henable : u.rd .grpGroupEnable [] = s.rd .grpGroupEnable [] := hu.rd hq
  have hopen : u.stepOpen = s.stepOpen := State.stepOpen_congr (hu.rd hq)
  have hblocked : u.leaveBlocked = s.leaveBlocked := hu.leaveBlocked hq
  refine ⟨_, exec_groupLeave h s, ?_⟩
  rw [hrun, State.runOp_groupLeave hu.new.op]
  split
  · next hb =>
    rw [State.groupLeave_blocked (by rwa [henable, hblocked])]
    refine ⟨?_, hu.ends (fs := [.regs]) hq.inv.pids (OnlyRegs.wr List.mem_cons_self).touches (by decide)
      (ringFetched_not_mem hq.ring_lt (by decide))⟩
    refine (State.rd_congr (State.endPacket_regs ..) ..).trans ?_
    rw [State.rd_count_same, hu.rd hq]
    exact Nat.mod_eq_of_lt satAdd_lt
  · next hb =>
    split
    · next ho =>
      rw [State.groupLeave_open (by rwa [henable, hblocked]) (by rwa [hopen])]
      exact hu.ends (fs := []) hq.inv.pids .refl (by decide) List.not_mem_nil
    · next ho =>
      split
      · next hg =>
        rw [State.groupLeave_alone (by rwa [hopen]) (by rwa [henable])]
        exact hu.ends (fs := []) hq.inv.pids .refl (by decide) List.not_mem_nil
      · next hg =>
        rw [State.groupLeave_leaves (by rwa [henable, hblocked]) (by rwa [hopen]) (by rw [henable]; exact not_not.1 hg)]
        obtain ⟨⟨hoff, hin, hsrc, hepoch, hrank, hmem⟩, hall⟩ := State.leaveGroup_leaves (s := u)
        have hend : ∀ r, (u.leaveGroup.answer (.packet p.pid) .done 0).rd r [] = u.leaveGroup.rd r [] := fun r =>
          State.rd_congr (State.endPacket_regs ..) r []
        refine ⟨⟨(hend _).trans hoff, (hend _).trans hin, (hend _).trans hsrc, ?_, ?_, ?_⟩,
          { p with phase := .ended .done 0 false }, ?_, hu.new.pid, hu.new.op, rfl⟩
        · exact (hend _).trans (hepoch.trans (hu.rd hq))
        · exact (hend _).trans (hrank.trans (hu.rd hq))
        · exact hmem.trans (hu.only .mem (by decide))
        · exact State.endPacket_new hq.inv.pids ((hall.only .flight (by decide)).trans hu.flight) hu.new.pid hu.running

end

/-! Management commands (R248, R401). -/

section

variable {s : State} {h : MgmtHeader} {r n m k s0 s1 ts a : Nat}

theorem exec_mgmtRoleSet (h : MgmtHeader) (r n m k s0 s1 ts : Nat) (s : State) : exec (.mgmtRoleSet h r n m k s0 s1 ts) s =
    mgmtCommand s h 0x45 (roleBody r n m k s0 s1 ts) (fun s => s.roleSet (.command h.seq) r
      [(.grpNode, n), (.grpManagerNode, m), (.grpTopNode, k), (.grpStandby0, s0), (.grpStandby1, s1), (.grpTopStandby, ts)]) := rfl

theorem exec_group (h : MgmtHeader) (a : Nat) (s : State) : exec (.group h a) s =
    mgmtCommand s h 0x46 (leBytes 1 a) (fun s => s.groupCommand h.seq a) := rfl

theorem State.accept_rd {seq : Nat} {r : Reg} (hr : r.key [] ∉ acceptKeys := by decide) : (s.accept seq).rd r [] = s.rd r [] :=
  (State.accept_onlyRegs s seq).2 r [] hr

/-- A command that only answers leaves what taking it changes. -/
theorem Accepts.replies {type : Nat} {body : List Byte} (ha : Accepts s h type body) (st : Status) (d : Nat) :
    Replied h.seq st d s ((s.accept h.seq).reply h.seq st d) ∧
      ChangesOnly [.regs, .out] s ((s.accept h.seq).reply h.seq st d) ∧
      RegsBut acceptKeys s ((s.accept h.seq).reply h.seq st d) := by
  have htaken := State.accept_onlyRegs s h.seq
  have hall : Touches [.regs, .out] acceptKeys s ((s.accept h.seq).reply h.seq st d) :=
    htaken.touches.trans (State.reply_touches _ _ _ _).widen
  exact ⟨(State.reply_replied ha.portUp).of_onlyRegs htaken, hall.only, hall.regs⟩

/-- MGMT_ROLE_SET while GROUP_ENABLE is 0 and no step is open sets the role, the nodes and the standbys (R248, R401). -/
theorem mgmtRoleSet_sets (ha : Accepts s h 0x45 (roleBody r n m k s0 s1 ts)) (hg : s.rd .grpGroupEnable [] = 0)
    (ho : s.stepOpen = false) (hr : r ≤ 2) (hn : n ≤ 0x3FFF) (hm : m ≤ 0x3FFF) (hk : k ≤ 0x3FFF) (hs0 : s0 ≤ 0x3FFF)
    (hs1 : s1 ≤ 0x3FFF) (hts : ts ≤ 0x3FFF) : ∃ t, exec (.mgmtRoleSet h r n m k s0 s1 ts) s = .next t ∧ t.rd .grpRole [] = r ∧
      t.rd .grpNode [] = n ∧ t.rd .grpManagerNode [] = m ∧ t.rd .grpTopNode [] = k ∧ t.rd .grpStandby0 [] = s0 ∧
      t.rd .grpStandby1 [] = s1 ∧ t.rd .grpTopStandby [] = ts ∧ Replied h.seq .done 0 s t ∧ ChangesOnly [.regs, .out] s t ∧
      RegsBut (acceptKeys ++ [Reg.grpRole.key [], Reg.grpNode.key [], Reg.grpManagerNode.key [], Reg.grpTopNode.key [],
        Reg.grpStandby0.key [], Reg.grpStandby1.key [], Reg.grpTopStandby.key []]) s t := by
  have htaken := State.accept_onlyRegs s h.seq
  have hopen : (s.accept h.seq).stepOpen = false := (State.stepOpen_congr State.accept_rd).trans ho
  have hrun : exec (.mgmtRoleSet h r n m k s0 s1 ts) s = .next (((s.accept h.seq).putNodes [(.grpRole, r), (.grpNode, n),
      (.grpManagerNode, m), (.grpTopNode, k), (.grpStandby0, s0), (.grpStandby1, s1), (.grpTopStandby, ts)]).reply h.seq .done 0) := by
    rw [exec_mgmtRoleSet, mgmtCommand_accepts ha, State.roleSet_done (by rw [State.accept_rd, hg]; decide)
      (by rw [hopen]; decide) (by omega) (by simp [hn, hm, hk, hs0, hs1, hts])]
    rfl
  have hput : Touches [.regs] [Reg.grpRole.key [], Reg.grpNode.key [], Reg.grpManagerNode.key [], Reg.grpTopNode.key [],
      Reg.grpStandby0.key [], Reg.grpStandby1.key [], Reg.grpTopStandby.key []] (s.accept h.seq) ((s.accept h.seq).putNodes
      [(.grpRole, r), (.grpNode, n), (.grpManagerNode, m), (.grpTopNode, k), (.grpStandby0, s0), (.grpStandby1, s1),
        (.grpTopStandby, ts)]) := State.putNodes_touches (l := [(.grpRole, r), (.grpNode, n), (.grpManagerNode, m),
      (.grpTopNode, k), (.grpStandby0, s0), (.grpStandby1, s1), (.grpTopStandby, ts)])
  have hread : ∀ x ∈ [(Reg.grpRole, r), (Reg.grpNode, n), (Reg.grpManagerNode, m), (Reg.grpTopNode, k), (Reg.grpStandby0, s0),
      (Reg.grpStandby1, s1), (Reg.grpTopStandby, ts)], ((s.accept h.seq).putNodes [(.grpRole, r), (.grpNode, n),
      (.grpManagerNode, m), (.grpTopNode, k), (.grpStandby0, s0), (.grpStandby1, s1), (.grpTopStandby, ts)]).rd x.1 [] =
      x.2 % 2 ^ x.1.width := fun x hx => by
    have hd : [Reg.grpRole.key [], Reg.grpNode.key [], Reg.grpManagerNode.key [], Reg.grpTopNode.key [], Reg.grpStandby0.key [],
        Reg.grpStandby1.key [], Reg.grpTopStandby.key []].Nodup := by decide
    exact State.putNodes_rd (l := [(.grpRole, r), (.grpNode, n), (.grpManagerNode, m), (.grpTopNode, k), (.grpStandby0, s0),
      (.grpStandby1, s1), (.grpTopStandby, ts)]) hd hx
  generalize (s.accept h.seq).putNodes [(.grpRole, r), (.grpNode, n), (.grpManagerNode, m), (.grpTopNode, k), (.grpStandby0, s0),
    (.grpStandby1, s1), (.grpTopStandby, ts)] = u at hrun hput hread
  have hreply := State.reply_touches u h.seq .done 0 (ks := [])
  have hup : u.rd .mgmtPortUp [] = 1 := by rw [hput.regs _ _ (by decide), ha.portUp]
  have hset : OnlyRegs (acceptKeys ++ [Reg.grpRole.key [], Reg.grpNode.key [], Reg.grpManagerNode.key [], Reg.grpTopNode.key [],
      Reg.grpStandby0.key [], Reg.grpStandby1.key [], Reg.grpTopStandby.key []]) s u :=
    (htaken.mono fun _ hk => List.mem_append_left _ hk).trans
      (OnlyRegs.mono ⟨hput.only, hput.regs⟩ fun _ hk => List.mem_append_right _ hk)
  have hall : Touches [.regs, .out] _ s (u.reply h.seq .done 0) := hset.touches.trans (hreply.mono (List.nil_subset _))
  have hnode : ∀ v ≤ 0x3FFF, v % 2 ^ 14 = v := fun v hv => Nat.mod_eq_of_lt (by omega)
  refine ⟨_, hrun, ?_, ?_, ?_, ?_, ?_, ?_, ?_, (State.reply_replied hup).of_onlyRegs hset, hall.only, hall.regs⟩
  · rw [hreply.rd_nil]
    exact (hread (.grpRole, r) (by simp)).trans (Nat.mod_eq_of_lt (by simp only [Reg.grpRole]; omega))
  · rw [hreply.rd_nil]
    exact (hread (.grpNode, n) (by simp)).trans (hnode n hn)
  · rw [hreply.rd_nil]
    exact (hread (.grpManagerNode, m) (by simp)).trans (hnode m hm)
  · rw [hreply.rd_nil]
    exact (hread (.grpTopNode, k) (by simp)).trans (hnode k hk)
  · rw [hreply.rd_nil]
    exact (hread (.grpStandby0, s0) (by simp)).trans (hnode s0 hs0)
  · rw [hreply.rd_nil]
    exact (hread (.grpStandby1, s1) (by simp)).trans (hnode s1 hs1)
  · rw [hreply.rd_nil]
    exact (hread (.grpTopStandby, ts) (by simp)).trans (hnode ts hts)

/-- GROUP with action 1 joins; with action 2 there is no group to leave; another action is refused (R401). -/
theorem group_acts (ha : Accepts s h 0x46 (leBytes 1 a)) (ho : s.stepOpen = false) (hg : s.rd .grpGroupEnable [] = 0) :
    ∃ t, exec (.group h a) s = .next t ∧
      (a = 1 → Joined s t ∧ t.joins = s.joins ++ [{ asker := .command h.seq, since := s.aoNow }] ∧
        ChangesOnly (.joins :: .mgrMissed :: .mgrHeard :: .heard :: sendFields) s t ∧
        RegsBut (Reg.grpGroupEnable.key [] :: acceptKeys ++ sendKeys) s t) ∧
      (a = 2 → Replied h.seq .done 256 s t ∧ ChangesOnly [.regs, .out] s t ∧ RegsBut acceptKeys s t) ∧
      (a ≠ 1 → a ≠ 2 → Replied h.seq .badParam 0 s t ∧ ChangesOnly [.regs, .out] s t ∧ RegsBut acceptKeys s t) := by
  have htaken := State.accept_onlyRegs s h.seq
  have hopen : (s.accept h.seq).stepOpen = false := (State.stepOpen_congr State.accept_rd).trans ho
  have hoff : (s.accept h.seq).rd .grpGroupEnable [] ≠ 1 := by rw [State.accept_rd, hg]; decide
  refine ⟨_, (exec_group h a s).trans (mgmtCommand_accepts ha), fun h1 => ?_, fun h2 => ?_, fun h1 h2 => ?_⟩
  · have heq : (s.accept h.seq).groupCommand h.seq a = (s.accept h.seq).groupJoin (.command h.seq) := if_pos h1
    obtain ⟨⟨hone, hheard, hmissed, hmgr, hmem⟩, hjoins, hall⟩ := State.groupJoin_joins (a := .command h.seq) hopen hoff
    rw [heq]
    have htotal : Touches (.joins :: .mgrMissed :: .mgrHeard :: .heard :: sendFields)
        (Reg.grpGroupEnable.key [] :: acceptKeys ++ sendKeys) s ((s.accept h.seq).groupJoin (.command h.seq)) := by
      refine ((htaken.touches (fs := [.regs])).mono fun k hk => ?_).trans (hall.mono fun k hk => ?_)
      · exact List.mem_append_left _ (List.mem_cons_of_mem _ hk)
      · obtain rfl | hk := List.mem_cons.1 hk
        · exact List.mem_append_left _ List.mem_cons_self
        · exact List.mem_append_right _ hk
    refine ⟨⟨hone, hheard, hmissed, hmgr, hmem.trans (htaken.1 .mem (by decide))⟩, ?_, htotal.only, htotal.regs⟩
    rw [hjoins, htaken.1 .joins (by decide), htaken.1 .aoNow (by decide)]
  · have heq : (s.accept h.seq).groupCommand h.seq a = (s.accept h.seq).reply h.seq .done 256 := by
      unfold State.groupCommand
      rw [if_neg (by omega), if_pos h2, State.groupLeave_alone (by rw [hopen]; decide) hoff]
      rfl
    rw [heq]
    exact ha.replies _ _
  · have heq : (s.accept h.seq).groupCommand h.seq a = (s.accept h.seq).reply h.seq .badParam 0 := by
      unfold State.groupCommand
      rw [if_neg h1, if_neg h2]
    rw [heq]
    exact ha.replies _ _

end

/-! Writes of GROUP_ENABLE (R248, R249). -/

section

variable {s : State}

theorem exec_groupEnableSet (s : State) : exec .groupEnableSet s = hosted s (fun s => s.hostField .grpGroupEnable [] 1) := rfl

theorem exec_groupEnableClear (s : State) : exec .groupEnableClear s = hosted s (fun s => s.hostField .grpGroupEnable [] 0) := rfl

theorem State.fieldWrite_grpGroupEnable (s0 s : State) (v : Nat) : s0.fieldWrite s .grpGroupEnable [] v =
    if v = 1 then s.joinGroup
    else if !s.flag .grpGroupEnable [] then s
    else if s.leaveBlocked then s.count .grpIgnored [] 1
    else s.leaveGroup := by
  unfold State.fieldWrite
  rfl

theorem groupEnableSet_takes (ht : HostTakes s) : exec .groupEnableSet s = .next (s.tlpIn 4).joinGroup := by
  rw [exec_groupEnableSet, hosted_takes ht, State.hostField_takes ht rfl, State.fieldWrite_grpGroupEnable, if_pos (by decide)]
  rfl

/-- A write counted leaves the group block and the step's state alone. -/
theorem State.tlpIn_rd_nil {r : Reg} {n : Nat} (hr : r.key [] < 0x801000 * 32 := by decide) : (s.tlpIn n).rd r [] = s.rd r [] :=
  State.tlpIn_touches.regs _ _ fun h => by
    have := counterKeys_bounds (channelKeys_subset_counterKeys (by decide) h)
    omega

/-- A set of GROUP_ENABLE joins the group (R248). -/
theorem groupEnableSet_joins (ht : HostTakes s) (hg : s.rd .grpGroupEnable [] = 0) :
    ∃ t, exec .groupEnableSet s = .next t ∧ Joined s t ∧ ChangesOnly (.mgrMissed :: .mgrHeard :: .heard :: sendFields) s t ∧
      RegsBut (Reg.grpGroupEnable.key [] :: sendKeys) s t := by
  have hoff : (s.tlpIn 4).rd .grpGroupEnable [] ≠ 1 := by rw [State.tlpIn_rd_nil, hg]; decide
  obtain ⟨⟨hone, hheard, hmissed, hmgr, hmem⟩, hall⟩ := State.joinGroup_joins hoff
  have hcount : Touches [.regs, .bwTotals, .bwWindow] (channelKeys 0) s (s.tlpIn 4) := State.tlpIn_touches
  have htotal : Touches (.mgrMissed :: .mgrHeard :: .heard :: sendFields) (Reg.grpGroupEnable.key [] :: sendKeys) s
      (s.tlpIn 4).joinGroup :=
    (hcount.mono fun k hk => List.mem_cons_of_mem _ (counterKeys_subset_sendKeys
      (channelKeys_subset_counterKeys (by decide) hk))).trans hall
  exact ⟨_, groupEnableSet_takes ht, ⟨hone, hheard, hmissed, hmgr, hmem.trans (hcount.only .mem (by decide))⟩, htotal.only,
    htotal.regs⟩

/-- A clear of GROUP_ENABLE leaves the group, or is ignored and counted (R249). -/
theorem groupEnableClear_leaves (ht : HostTakes s) (hg : s.rd .grpGroupEnable [] = 1) :
    ∃ t, exec .groupEnableClear s = .next t ∧
      if s.leaveBlocked = true then t.rd .grpIgnored [] = satAdd 32 (s.rd .grpIgnored []) 1 ∧ HostWrote 4 [Reg.grpIgnored.key []] s t
      else Left s t ∧ ChangesOnly (.reports :: .reportSeq :: .hold :: sendFields) s t := by
  have hcount : Touches [.regs, .bwTotals, .bwWindow] (channelKeys 0) s (s.tlpIn 4) := State.tlpIn_touches
  have hblocked : (s.tlpIn 4).leaveBlocked = s.leaveBlocked := by
    refine State.leaveBlocked_congr State.tlpIn_rd_nil State.tlpIn_rd_nil (hcount.only .colls (by decide)) ?_
      (hcount.only .hold (by decide)) (hcount.only .serve (by decide)) (hcount.only .ports (by decide))
    rw [State.copies, hcount.only .copy (by decide), hcount.only .copyWas (by decide), State.copies]
  have hrun : exec .groupEnableClear s = .next (if s.leaveBlocked = true then (s.tlpIn 4).count .grpIgnored [] 1
      else (s.tlpIn 4).leaveGroup) := by
    have hflag : (!(s.tlpIn 4).flag .grpGroupEnable []) = false := by rw [State.flag, State.tlpIn_rd_nil, hg]; rfl
    have hspan : Reg.grpGroupEnable.span = 4 := by decide
    rw [exec_groupEnableClear, hosted_takes ht, State.hostField_takes ht rfl, State.fieldWrite_grpGroupEnable,
      if_neg (by decide), hspan, hflag, if_neg (by decide), hblocked]
  refine ⟨_, hrun, ?_⟩
  split
  · next hb =>
    have hwr : Touches [.regs] [Reg.grpIgnored.key []] (s.tlpIn 4) ((s.tlpIn 4).count .grpIgnored [] 1) :=
      (OnlyRegs.wr List.mem_cons_self).touches
    refine ⟨?_, hwr.hostWrote⟩
    rw [State.rd_count_same, State.tlpIn_rd_nil]
    exact Nat.mod_eq_of_lt satAdd_lt
  · next hb =>
    obtain ⟨⟨hoff, hin, hsrc, hepoch, hrank, hmem⟩, hall⟩ := State.leaveGroup_leaves (s := s.tlpIn 4)
    refine ⟨⟨hoff, hin, hsrc, hepoch.trans State.tlpIn_rd_nil, hrank.trans State.tlpIn_rd_nil,
      hmem.trans (hcount.only .mem (by decide))⟩, (hcount.only.mono (by decide)).trans hall.only⟩

end

/-! The answer to a join (R250, R351). -/

section

variable {s : State} {h : GroupHeader} {p : Packet} {n r : Nat}

theorem exec_joinReply (h : GroupHeader) (r : Nat) (s : State) : exec (.joinReply h r) s =
    grouped s h 0x02 (fun s => s.joinAnswered r) := rfl

theorem exec_joinReplyTimeout (s : State) : exec .joinReplyTimeout s = powered s (fun s => s.joinTimeout) := rfl

/-- The one who waits is answered and waits no more. -/
theorem answered_one {u : State} {st : Status} {d : Nat} (hp : u.packet p.pid = some p) (hr : p.isEnded = false) :
    EndedAs (({ u with joins := [] } : State).endPacket p.pid st d) p.pid st d ∧
      Touches [.flight, .joins] [] u (({ u with joins := [] } : State).endPacket p.pid st d) := by
  have hset : Touches [.joins] [] u { u with joins := [] } := u.withJoins_touches []
  have hend : Touches [.flight] [] ({ u with joins := [] } : State) (({ u with joins := [] } : State).endPacket p.pid st d) :=
    (State.endPacket_does _ p.pid st d Does.refl).only.touches rfl
  exact ⟨State.endPacket_endedAs (s := { u with joins := [] }) hp hr, hset.widen.trans hend.widen⟩

/-- JOIN_REPLY ends the packet that waits with DONE and the result (R250). -/
theorem joinReply_answers (hh : Heard s h) (hp : s.packet p.pid = some p) (hr : p.isEnded = false)
    (hj : s.joins = [{ asker := .packet p.pid, since := n }]) :
    ∃ t, exec (.joinReply h r) s = .next t ∧ t.joins = [] ∧ EndedAs t p.pid .done (r % 8) ∧
      ChangesOnly [.flight, .joins, .delivered] s t := by
  obtain ⟨u, hrun, hu⟩ := hh.runs 0x02 (fun s => s.joinAnswered r)
  have hjoins : u.joins = [{ asker := .packet p.pid, since := n }] := (hu.only .joins (by decide)).trans hj
  have heq : u.joinAnswered r = ({ u with joins := [] } : State).endPacket p.pid .done (r % 8) := by
    rw [State.joinAnswered, hjoins]
    rfl
  obtain ⟨hended, hall⟩ := answered_one (st := .done) (d := r % 8)
    ((State.packet_congr (hu.only .flight (by decide))).trans hp) hr
  refine ⟨_, (exec_joinReply h r s).trans hrun, ?_⟩
  rw [heq]
  exact ⟨rfl, hended, (hu.only.mono (by decide)).trans (hall.only.mono (by decide))⟩

/-- A join that has waited for ten heartbeats ends with PARTNER_LOST (R351). -/
theorem joinReplyTimeout_ends (hpower : s.power = 1) (hp : s.packet p.pid = some p) (hr : p.isEnded = false)
    (hj : s.joins = [{ asker := .packet p.pid, since := n }]) : ∃ t, exec .joinReplyTimeout s = .next t ∧
      if n + msTicks (10 * s.rd .grpHeartbeatMs []) ≤ s.aoNow then
        t.joins = [] ∧ EndedAs t p.pid .partnerLost 0 ∧ ChangesOnly [.flight, .joins] s t
      else t = s := by
  refine ⟨_, (exec_joinReplyTimeout s).trans (powered_on hpower), ?_⟩
  split
  · next hlate =>
    have heq : s.joinTimeout = ({ s with joins := [] } : State).endPacket p.pid .partnerLost 0 := by
      unfold State.joinTimeout
      rw [hj]
      simp only [List.filter_cons, List.filter_nil, decide_eq_true hlate, Bool.not_true, ite_true]
      rfl
    obtain ⟨hended, hall⟩ := answered_one (st := .partnerLost) (d := 0) hp hr
    rw [heq]
    exact ⟨rfl, hended, hall.only⟩
  · next hearly =>
    unfold State.joinTimeout
    rw [hj]
    simp only [List.filter_cons, List.filter_nil, decide_eq_false hearly, Bool.not_false, ite_true]
    rw [← hj]
    rfl

end

/-- Settles O47: each clause is the lemma about its packet, write, command or message. -/
theorem rolesJoinsAndLeaves : Obligations.RolesJoinsAndLeaves := by
  unfold Obligations.RolesJoinsAndLeaves
  exact ⟨fun s h r n m k hq hn hm hk => roleSet_sets hq hn hm hk,
    fun s h r n m k s0 s1 ts ha hg ho hr hn hm hk hs0 hs1 hts => mgmtRoleSet_sets ha hg ho hr hn hm hk hs0 hs1 hts,
    ⟨fun s h hq ho => groupJoin_joins hq ho, fun s h a ha ho hg => group_acts ha ho hg, fun s ht hg => groupEnableSet_joins ht hg⟩,
    fun s h r p n hh hp hr hj => joinReply_answers hh hp hr hj, fun s p n hpower hp hr hj => joinReplyTimeout_ends hpower hp hr hj,
    fun s h hq => groupLeave_leaves hq, fun s ht hg => groupEnableClear_leaves ht hg⟩

end Sys2Proof.Machine
end

section
/-! PROOFS. Membership messages of a group (R246, R248–R250, R253, R306, R307, R322). -/

namespace Sys2Proof.Machine

set_option Elab.async false

/-! The entries of a manager's table. -/

section

variable {s u : State} {r : Reg} {m g : Nat}

/-- The fields of a member's entry. -/
def memberFields : List Reg := [.mbrMstate, .mbrFeedId, .mbrMissed, .mbrRisk, .mbrMrank]

theorem memberField_bounds (hr : r ∈ memberFields) : ∃ k, r.key [m] = k + 0x100 * m ∧ 0x404000 * 32 ≤ k ∧ k < 0x404008 * 32 ∧
    (k % 32 = 29 ∨ k % 32 = 27 ∨ k % 32 = 14 ∨ k % 32 = 0) := by
  have hall : ∀ r ∈ memberFields, r.dims = [(128, 0x8)] ∧ 0x404000 * 32 ≤ r.key [0] ∧ r.key [0] < 0x404008 * 32 ∧
      (r.key [0] % 32 = 29 ∨ r.key [0] % 32 = 27 ∨ r.key [0] % 32 = 14 ∨ r.key [0] % 32 = 0) := by decide
  obtain ⟨hdims, hlow, hhigh, hlsb⟩ := hall r hr
  refine ⟨r.key [0], ?_, hlow, hhigh, hlsb⟩
  simp only [Reg.key, hdims, strideSum]
  omega

theorem memberField_not_mem_sendKeys (hm : m < 128) (hr : r ∈ memberFields := by decide) : r.key [m] ∉ sendKeys := by
  obtain ⟨k, hkey, hlow, hhigh, -⟩ := memberField_bounds (m := m) hr
  have hlocal : Reg.grpLocalUnroutable.key [] < 0x404000 * 32 := by decide
  exact not_mem_sendKeys (by omega) (by omega)

theorem memberField_ne_gtGrisk (hr : r ∈ memberFields := by decide) : r.key [m] ≠ Reg.gtGrisk.key [g] := by
  obtain ⟨k, hkey, -, -, hlsb⟩ := memberField_bounds (m := m) hr
  simp only [Reg.key, Reg.gtGrisk, strideSum] at hkey ⊢
  omega

theorem memberField_not_mem_reportKeys (hm : m < 128) (hr : r ∈ memberFields := by decide) : r.key [m] ∉ reportKeys s := fun h =>
  (List.mem_cons.1 h).elim (memberField_ne_gtGrisk hr) (memberField_not_mem_sendKeys hm hr)

theorem memberField_ne {q : Reg} (h : r.key [0] ≠ q.key [0] := by decide) (hr : r ∈ memberFields := by decide)
    (hq : q ∈ memberFields := by decide) : r.key [m] ≠ q.key [m] := by
  have hall : ∀ r ∈ memberFields, r.dims = [(128, 0x8)] := by decide
  simp only [Reg.key, hall r hr, hall q hq, strideSum] at h ⊢
  omega

theorem reportKeys_congr (h : u.rd .grpNode [] = s.rd .grpNode []) : reportKeys u = reportKeys s := by
  rw [reportKeys, reportKeys, h]

theorem griskKeys_congr (h : u.rd .grpNode [] = s.rd .grpNode []) : griskKeys u = griskKeys s := by
  rw [griskKeys, griskKeys, h]

end

/-! JOIN and LEAVE (R249, R250). -/

section

variable {s u : State} {h : GroupHeader} {ks : List Nat} {src i f n m : Nat}

theorem exec_join (h : GroupHeader) (i f n : Nat) (s : State) : exec (.join h i f n) s =
    grouped s h 0x01 (fun s => s.takeJoin h.src i f n) := rfl

/-- A member becomes JOINING, with its FEED_ID and no heartbeat missed. -/
def State.enrolled (s : State) (m i f : Nat) : State :=
  let t := ((s.wr .mbrMstate [m] 1).wr .mbrFeedId [m] f).wr .mbrMissed [m] 0
  { t with memberIds := Tab.put t.memberIds m i }

theorem State.withMemberIds_touches (s : State) (t : Tab Nat) : Touches [.memberIds] ks s { s with memberIds := t } := by
  refine ChangesOnly.touches (fun f hf => ?_) rfl
  cases f
  case memberIds => exact absurd (by decide) hf
  all_goals rfl

/-- The register fields of an entry that JOIN writes. -/
def enrolKeys (m : Nat) : List Nat := [Reg.mbrMstate.key [m], Reg.mbrFeedId.key [m], Reg.mbrMissed.key [m]]

theorem State.enrolled_touches : Touches [.regs, .memberIds] (enrolKeys m) s (s.enrolled m i f) := by
  have hwr : Touches [.regs] (enrolKeys m) s (((s.wr .mbrMstate [m] 1).wr .mbrFeedId [m] f).wr .mbrMissed [m] 0) :=
    ((Touches.refl.wr (by simp [enrolKeys])).wr (by simp [enrolKeys])).wr (by simp [enrolKeys])
  exact hwr.widen.trans (State.withMemberIds_touches _ _).widen

theorem State.enrolled_rd : (s.enrolled m i f).rd .mbrMstate [m] = 1 ∧ (s.enrolled m i f).rd .mbrFeedId [m] = f % 16 ∧
    (s.enrolled m i f).rd .mbrMissed [m] = 0 := by
  have hsame : ∀ r, (s.enrolled m i f).rd r [m] = (((s.wr .mbrMstate [m] 1).wr .mbrFeedId [m] f).wr .mbrMissed [m] 0).rd r [m] :=
    fun r => State.rd_congr rfl r [m]
  refine ⟨?_, ?_, ?_⟩
  · rw [hsame, State.rd_wr_ne _ _ memberField_ne, State.rd_wr_ne _ _ memberField_ne, State.rd_wr_same]
    rfl
  · rw [hsame, State.rd_wr_ne _ _ memberField_ne, State.rd_wr_same]
    rfl
  · rw [hsame, State.rd_wr_same]
    rfl

theorem State.takeJoin_accepts (hr : s.joinResult src i n = 0) : s.takeJoin src i f n =
    ((s.enrolled (src % 128) i f).sendGroup src 0x02 ((s.enrolled (src % 128) i f).rd .grpEpoch []) (leBytes 1 0)).reportChange src 1 := by
  unfold State.takeJoin State.enrolled
  dsimp only
  rw [hr, if_pos rfl, if_pos rfl]

theorem State.takeJoin_refuses (hr : s.joinResult src i n ≠ 0) : Sends s (s.takeJoin src i f n) := by
  unfold State.takeJoin
  dsimp only
  rw [if_neg hr, if_neg hr]
  exact State.sendGroup_sends

/-- The result of a JOIN depends on the entry and the group block alone. -/
theorem State.joinResult_congr (h : ∀ r idx, u.rd r idx = s.rd r idx) (hi : u.memberIds = s.memberIds) :
    u.joinResult src i n = s.joinResult src i n := by
  unfold State.joinResult
  simp only [h, hi]

theorem grpNode_not_mem_enrolKeys : Reg.grpNode.key [] ∉ enrolKeys m := by
  simp only [enrolKeys, List.mem_cons, List.not_mem_nil, or_false, Reg.key, Reg.grpNode, Reg.mbrMstate, Reg.mbrFeedId, Reg.mbrMissed,
    strideSum]
  omega

theorem grpRole_not_mem_enrolKeys : Reg.grpRole.key [] ∉ enrolKeys m := by
  simp only [enrolKeys, List.mem_cons, List.not_mem_nil, or_false, Reg.key, Reg.grpRole, Reg.mbrMstate, Reg.mbrFeedId, Reg.mbrMissed,
    strideSum]
  omega

theorem isTop_of_role (hr : s.rd .grpRole [] ≠ 2) : s.isTop = false := Bool.eq_false_iff.2 fun ht => hr (State.isTop_iff.1 ht).2

/-- A manager that accepts JOIN makes the member JOINING; one it refuses changes no entry (R250). -/
theorem join_enrols (hh : Heard s h) : ∃ t, exec (.join h i f n) s = .next t ∧
    if s.joinResult h.src i n = 0 then
      t.rd .mbrMstate [h.src % 128] = 1 ∧ t.rd .mbrFeedId [h.src % 128] = f % 16 ∧ t.rd .mbrMissed [h.src % 128] = 0 ∧
      Tab.get 0 t.memberIds (h.src % 128) = i ∧ ChangesOnly (.memberIds :: reportFields) s t ∧
      RegsBut (Reg.mbrMstate.key [h.src % 128] :: Reg.mbrFeedId.key [h.src % 128] :: Reg.mbrMissed.key [h.src % 128] ::
        reportKeys s) s t ∧
      (s.rd .grpRole [] ≠ 2 → ChangesOnly (.memberIds :: sendFields) s t)
    else ChangesOnly sendFields s t ∧ RegsBut sendKeys s t := by
  obtain ⟨u, hrun, hu⟩ := hh.runs 0x01 (fun s => s.takeJoin h.src i f n)
  have hresult : u.joinResult h.src i n = s.joinResult h.src i n := State.joinResult_congr hu.rd_nil (hu.only .memberIds (by decide))
  have hm : h.src % 128 < 128 := Nat.mod_lt _ (by decide)
  refine ⟨_, (exec_join h i f n s).trans hrun, ?_⟩
  split
  · next hr =>
    rw [State.takeJoin_accepts (by rwa [hresult])]
    have henrol := State.enrolled_touches (s := u) (m := h.src % 128) (i := i) (f := f)
    obtain ⟨hstate, hfeed, hmissed⟩ := State.enrolled_rd (s := u) (m := h.src % 128) (i := i) (f := f)
    have hid : Tab.get 0 (u.enrolled (h.src % 128) i f).memberIds (h.src % 128) = i := Tab.get_put_same ..
    generalize u.enrolled (h.src % 128) i f = a at henrol hstate hfeed hmissed hid
    have hsend := State.sendGroup_sends (s := a) (dest := h.src) (msg := 0x02) (epoch := a.rd .grpEpoch []) (content := leBytes 1 0)
    generalize a.sendGroup h.src 0x02 (a.rd .grpEpoch []) (leBytes 1 0) = b at hsend
    have hnode : b.rd .grpNode [] = s.rd .grpNode [] := by
      rw [hsend.rd, henrol.regs _ _ grpNode_not_mem_enrolKeys, hu.rd_nil]
    have hreport := (State.reportChange_quietly (s := b) (node := h.src) (mstate := 1)).touches
    rw [reportKeys_congr hnode] at hreport
    have hsub : sendKeys ⊆ reportKeys s := List.subset_cons_self ..
    have hkept : ∀ r ∈ memberFields, (b.reportChange h.src 1).rd r [h.src % 128] = a.rd r [h.src % 128] := fun r hr => by
      rw [hreport.regs _ _ (memberField_not_mem_reportKeys hm hr), hsend.rd (memberField_not_mem_sendKeys hm hr)]
    have hall : Touches (.memberIds :: reportFields) (enrolKeys (h.src % 128) ++ reportKeys s) s (b.reportChange h.src 1) :=
      (hu.mono (List.nil_subset _)).trans ((henrol.mono (List.subset_append_left ..)).trans
        ((hsend.touches.mono (List.Subset.trans hsub (List.subset_append_right ..))).trans
          (hreport.mono (List.subset_append_right ..))))
    refine ⟨?_, ?_, ?_, ?_, hall.only, hall.regs, fun hrole => ?_⟩
    · rw [hkept _ (by decide), hstate]
    · rw [hkept _ (by decide), hfeed]
    · rw [hkept _ (by decide), hmissed]
    · rw [hreport.only .memberIds (by decide), hsend.touches.only .memberIds (by decide), hid]
    · have htop : b.isTop = false := isTop_of_role (by
        rw [hsend.rd, henrol.regs _ _ grpRole_not_mem_enrolKeys, hu.rd_nil]
        exact hrole)
      exact (hu.only.mono (by decide)).trans ((henrol.only.mono (by decide)).trans
        ((hsend.touches.only.mono (by decide)).trans ((State.reportChange_sends htop).touches.only.mono (by decide))))
  · next hr =>
    have hsend := State.takeJoin_refuses (f := f) (hresult.trans_ne hr)
    have hall : Touches sendFields sendKeys s _ := (hu.mono (List.nil_subset _)).trans hsend.touches
    exact ⟨hall.only, hall.regs⟩

theorem exec_leave (h : GroupHeader) (s : State) : exec (.leave h) s = grouped s h 0x03 (fun s =>
    if s.ownMember h.src ∧ (s.rd .mbrMstate [h.src % 128] = 1 ∨ s.rd .mbrMstate [h.src % 128] = 2) then
      s.memberGone (h.src % 128) 3 else s) := rfl

theorem State.memberGone_leaving : s.memberGone m 3 = (s.wr .mbrMstate [m] 3).reportChange (s.nodeOfMember m) 3 := rfl

theorem State.ownMember_congr {node : Nat} (h : ∀ r idx, u.rd r idx = s.rd r idx) : u.ownMember node = s.ownMember node := by
  unfold State.ownMember State.isManager State.flag
  simp only [h]

/-- LEAVE of a member makes it LEAVING, and the change is reported (R249). -/
theorem leave_marks (hh : Heard s h) : ∃ t, exec (.leave h) s = .next t ∧
    if s.ownMember h.src = true ∧ (s.rd .mbrMstate [h.src % 128] = 1 ∨ s.rd .mbrMstate [h.src % 128] = 2) then
      t.rd .mbrMstate [h.src % 128] = 3 ∧ ChangesOnly reportFields s t ∧
      RegsBut (Reg.mbrMstate.key [h.src % 128] :: reportKeys s) s t
    else ChangesOnly [.delivered] s t := by
  obtain ⟨u, hrun, hu⟩ := hh.runs 0x03 (fun s =>
    if s.ownMember h.src ∧ (s.rd .mbrMstate [h.src % 128] = 1 ∨ s.rd .mbrMstate [h.src % 128] = 2) then
      s.memberGone (h.src % 128) 3 else s)
  have hm : h.src % 128 < 128 := Nat.mod_lt _ (by decide)
  rw [State.ownMember_congr hu.rd_nil, hu.rd_nil, State.memberGone_leaving] at hrun
  refine ⟨_, (exec_leave h s).trans hrun, ?_⟩
  split
  · have hwr : OnlyRegs [Reg.mbrMstate.key [h.src % 128]] u (u.wr .mbrMstate [h.src % 128] 3) := OnlyRegs.wr List.mem_cons_self
    have hnode : (u.wr .mbrMstate [h.src % 128] 3).rd .grpNode [] = s.rd .grpNode [] := by
      rw [State.rd_wr_ne, hu.rd_nil]
      simp only [ne_eq, Reg.key, Reg.grpNode, Reg.mbrMstate, strideSum]
      omega
    have hthree : (u.wr .mbrMstate [h.src % 128] 3).rd .mbrMstate [h.src % 128] = 3 := by
      rw [State.rd_wr_same]
      rfl
    have hreport := (State.reportChange_quietly (s := u.wr .mbrMstate [h.src % 128] 3) (node := u.nodeOfMember (h.src % 128))
      (mstate := 3)).touches
    rw [reportKeys_congr hnode] at hreport
    have hall : Touches reportFields (Reg.mbrMstate.key [h.src % 128] :: reportKeys s) s _ :=
      (hu.mono (List.nil_subset _)).trans (((hwr.touches (fs := [.regs])).mono (by simp)).trans
        (hreport.mono (List.subset_cons_self ..)))
    refine ⟨?_, hall.only, hall.regs⟩
    rw [hreport.regs _ _ (memberField_not_mem_reportKeys hm), hthree]
  · exact hu.only

end

/-! MGR_HEARTBEAT, TAKEOVER and the TERM of a message (R253). -/

section

variable {s u : State} {h : GroupHeader} {ks : List Nat} {n : Nat}

theorem exec_mgrHeartbeat (h : GroupHeader) (s : State) : exec (.mgrHeartbeat h) s =
    grouped s h 0x05 (fun s => if h.src = s.superior then { s with mgrHeard := true, mgrMissed := 0 } else s) := rfl

theorem State.withMgr_touches (s : State) (b : Bool) (n : Nat) :
    Touches [.mgrHeard, .mgrMissed] ks s { s with mgrHeard := b, mgrMissed := n } := by
  refine ChangesOnly.touches (fun f hf => ?_) rfl
  cases f
  case mgrHeard => exact absurd (by decide) hf
  case mgrMissed => exact absurd (by decide) hf
  all_goals rfl

theorem State.superior_congr (h : ∀ r idx, u.rd r idx = s.rd r idx) : u.superior = s.superior := by
  unfold State.superior
  simp only [h]

/-- MGR_HEARTBEAT from the manager is noted (R253). -/
theorem mgrHeartbeat_noted (hh : Heard s h) : ∃ t, exec (.mgrHeartbeat h) s = .next t ∧
    if h.src = s.superior then
      t.mgrHeard = true ∧ t.mgrMissed = 0 ∧ ChangesOnly [.delivered, .mgrHeard, .mgrMissed] s t
    else ChangesOnly [.delivered] s t := by
  obtain ⟨u, hrun, hu⟩ := hh.runs 0x05 (fun s => if h.src = s.superior then { s with mgrHeard := true, mgrMissed := 0 } else s)
  rw [State.superior_congr hu.rd_nil] at hrun
  refine ⟨_, (exec_mgrHeartbeat h s).trans hrun, ?_⟩
  split
  · have hset : Touches [.mgrHeard, .mgrMissed] [] u { u with mgrHeard := true, mgrMissed := 0 } := u.withMgr_touches true 0
    exact ⟨rfl, rfl, (hu.only.mono (by decide)).trans (hset.only.mono (by decide))⟩
  · exact hu.only

/-- TAKEOVER announces the top manager: it is TOP_STANDBY, not the top manager yet, of another group or of the manager's place. -/
def State.announcesTop (s : State) (n : Nat) : Bool :=
  s.rd .grpTopStandby [] == n && s.rd .grpTopNode [] != n &&
    (n / 128 != s.rd .grpNode [] / 128 || s.rd .grpTopNode [] == s.rd .grpManagerNode [])

/-- The manager of this group after TAKEOVER of a node. -/
def State.underNew (s : State) (n : Nat) : State := if n / 128 = s.rd .grpNode [] / 128 then s.wr .grpManagerNode [] n else s

/-- TAKEOVER as it is judged (R253). -/
def State.takeNew (s : State) (n : Nat) : State :=
  let t := s.underNew n
  let t := { t with mgrMissed := 0, mgrHeard := true }
  if s.announcesTop n then t.wr .grpTopNode [] n else t

theorem exec_takeover (h : GroupHeader) (n : Nat) (s : State) : exec (.takeover h n) s =
    grouped s h 0x0B (fun s => s.takeNew n) := rfl

theorem State.announcesTop_congr (h : ∀ r idx, u.rd r idx = s.rd r idx) : u.announcesTop n = s.announcesTop n := by
  unfold State.announcesTop
  simp only [h]

theorem State.underNew_touches : Touches [.regs] [Reg.grpManagerNode.key [], Reg.grpTopNode.key []] s (s.underNew n) :=
  .ite (fun _ => (OnlyRegs.wr (by simp)).touches) .refl

theorem State.underNew_manager : (s.underNew n).rd .grpManagerNode [] =
    if n / 128 = s.rd .grpNode [] / 128 then n % 2 ^ 14 else s.rd .grpManagerNode [] := by
  unfold State.underNew
  split
  · rw [State.rd_wr_same]
    rfl
  · rfl

theorem State.underNew_top : (s.underNew n).rd .grpTopNode [] = s.rd .grpTopNode [] := by
  unfold State.underNew
  split
  · rw [State.rd_wr_ne _ _ (by decide)]
  · rfl

/-- TAKEOVER names the new manager of this group, and the new top manager when TOP_STANDBY announces itself (R253). -/
theorem State.takeNew_names : (s.takeNew n).rd .grpManagerNode [] =
      (if n / 128 = s.rd .grpNode [] / 128 then n % 2 ^ 14 else s.rd .grpManagerNode []) ∧
    (s.takeNew n).rd .grpTopNode [] = (if s.announcesTop n then n % 2 ^ 14 else s.rd .grpTopNode []) ∧
    (s.takeNew n).mgrMissed = 0 ∧ (s.takeNew n).mgrHeard = true ∧
    Touches [.regs, .mgrHeard, .mgrMissed] [Reg.grpManagerNode.key [], Reg.grpTopNode.key []] s (s.takeNew n) := by
  have hnew := State.underNew_touches (s := s) (n := n)
  have hmanager := State.underNew_manager (s := s) (n := n)
  have htop := State.underNew_top (s := s) (n := n)
  unfold State.takeNew
  generalize s.underNew n = a at hnew hmanager htop
  have hset : Touches [.mgrHeard, .mgrMissed] [] a { a with mgrMissed := 0, mgrHeard := true } := a.withMgr_touches true 0
  have hheard : ({ a with mgrMissed := 0, mgrHeard := true } : State).mgrMissed = 0 ∧
      ({ a with mgrMissed := 0, mgrHeard := true } : State).mgrHeard = true := ⟨rfl, rfl⟩
  dsimp only
  generalize ({ a with mgrMissed := 0, mgrHeard := true } : State) = b at hset hheard
  have hall : Touches [.regs, .mgrHeard, .mgrMissed] [Reg.grpManagerNode.key [], Reg.grpTopNode.key []] s b :=
    hnew.widen.trans (hset.mono (List.nil_subset _))
  obtain ⟨hmissed, hseen⟩ := hheard
  split
  · refine ⟨?_, ?_, ?_, ?_, hall.trans (OnlyRegs.wr (by simp)).touches⟩
    · rw [State.rd_wr_ne _ _ (by decide), hset.rd_nil, hmanager]
    · rw [State.rd_wr_same]
      rfl
    · rw [State.wr_mgrMissed, hmissed]
    · rw [State.wr_mgrHeard, hseen]
  · exact ⟨by rw [hset.rd_nil, hmanager], by rw [hset.rd_nil, htop], hmissed, hseen, hall⟩

theorem takeover_names (n : Nat) (hh : Heard s h) : ∃ t, exec (.takeover h n) s = .next t ∧
    t.rd .grpManagerNode [] = (if n / 128 = s.rd .grpNode [] / 128 then n % 2 ^ 14 else s.rd .grpManagerNode []) ∧
    t.mgrMissed = 0 ∧ t.mgrHeard = true ∧
    (t.rd .grpTopNode [] ≠ s.rd .grpTopNode [] → s.rd .grpTopStandby [] = n ∧ t.rd .grpTopNode [] = n % 2 ^ 14) ∧
    ChangesOnly [.regs, .delivered, .mgrHeard, .mgrMissed] s t ∧
    RegsBut [Reg.grpManagerNode.key [], Reg.grpTopNode.key []] s t := by
  obtain ⟨u, hrun, hu⟩ := hh.runs 0x0B (fun s => s.takeNew n)
  obtain ⟨hmanager, htop, hmissed, hseen, hset⟩ := State.takeNew_names (s := u) (n := n)
  rw [hu.rd_nil, hu.rd_nil] at hmanager
  rw [hu.rd_nil, State.announcesTop_congr hu.rd_nil] at htop
  have hall : Touches [.regs, .delivered, .mgrHeard, .mgrMissed] [Reg.grpManagerNode.key [], Reg.grpTopNode.key []] s
      (u.takeNew n) := (hu.mono (List.nil_subset _)).trans hset.widen
  refine ⟨_, (exec_takeover h n s).trans hrun, hmanager, hmissed, hseen, fun hne => ?_, hall.only, hall.regs⟩
  rw [htop] at hne ⊢
  split at hne
  · next ht =>
    rw [if_pos ht]
    unfold State.announcesTop at ht
    rw [Bool.and_eq_true, Bool.and_eq_true, beq_iff_eq] at ht
    exact ⟨ht.1.1, rfl⟩
  · exact absurd rfl hne

/-- A message with a lower TERM is ignored and counted, whatever it is (R253). -/
theorem lowerTerm_ignored {msg : Nat} {f : State → State} (hpower : s.power = 1) (hg : s.rd .grpGroupEnable [] = 1)
    (ht : h.term < s.rd .grpTerm []) : ∃ t, grouped s h msg f = .next t ∧
      t.rd .grpIgnored [] = satAdd 32 (s.rd .grpIgnored []) 1 ∧ ChangesOnly [.regs, .delivered] s t ∧
      RegsBut [Reg.grpIgnored.key []] s t := by
  have hu : Touches [.delivered] [] s (s.consume 3 h.src msg) := State.consume_touches
  have hcount : OnlyRegs [Reg.grpIgnored.key []] (s.consume 3 h.src msg) ((s.consume 3 h.src msg).count .grpIgnored [] 1) :=
    OnlyRegs.wr List.mem_cons_self
  have hall : Touches [.regs, .delivered] [Reg.grpIgnored.key []] s ((s.consume 3 h.src msg).count .grpIgnored [] 1) :=
    (hu.mono (List.nil_subset _)).trans hcount.touches
  refine ⟨(s.consume 3 h.src msg).count .grpIgnored [] 1, ?_, ?_, hall.only, hall.regs⟩
  · rw [grouped, powered_on hpower, State.flag, hg]
    dsimp only
    rw [State.termCheck_lower (by rwa [hu.rd_nil])]
    rfl
  · rw [State.rd_count_same, hu.rd_nil]
    exact Nat.mod_eq_of_lt satAdd_lt

/-- MGR_HEARTBEAT with a higher TERM returns a manager to WORKER under the sender (R253). -/
theorem higherTerm_returns (hpower : s.power = 1) (hg : s.rd .grpGroupEnable [] = 1) (ht : s.rd .grpTerm [] < h.term)
    (hr : s.rd .grpRole [] ≠ 0) : ∃ t, exec (.mgrHeartbeat h) s = .next t ∧
      t.rd .grpTerm [] = h.term % 2 ^ 32 ∧ t.rd .grpRole [] = 0 ∧ t.rd .grpManagerNode [] = h.src % 2 ^ 14 := by
  have hu : Touches [.delivered] [] s (s.consume 3 h.src 0x05) := State.consume_touches
  generalize hx : s.consume 3 h.src 0x05 = u at hu
  generalize hw : ((u.wr .grpTerm [] h.term).wr .grpRole [] 0).wr .grpManagerNode [] h.src = w
  have hrun : exec (.mgrHeartbeat h) s =
      .next (if h.src = w.superior then { w with mgrHeard := true, mgrMissed := 0 } else w) := by
    rw [exec_mgrHeartbeat, grouped, powered_on hpower, State.flag, hg, hx]
    dsimp only
    rw [State.termCheck_higher (by rwa [hu.rd_nil]) (by rwa [hu.rd_nil]), hw]
    rfl
  have hset : Touches [.mgrHeard, .mgrMissed] [] w (if h.src = w.superior then { w with mgrHeard := true, mgrMissed := 0 } else w) :=
    .ite (fun _ => w.withMgr_touches true 0) .refl
  refine ⟨_, hrun, ?_, ?_, ?_⟩
  · rw [hset.rd_nil, ← hw, State.rd_wr_ne _ _ (by decide), State.rd_wr_ne _ _ (by decide), State.rd_wr_same]
    rfl
  · rw [hset.rd_nil, ← hw, State.rd_wr_ne _ _ (by decide), State.rd_wr_same]
    rfl
  · rw [hset.rd_nil, ← hw, State.rd_wr_same]
    rfl

end

/-! The heartbeat interval of a member (R250, R253). -/

section

variable {s u : State} {ks : List Nat}

theorem exec_heartbeatTimer (s : State) : exec .heartbeatTimer s = powered s (fun s => s.heartbeatInterval.after) := rfl

theorem State.heartbeatInterval_off (hg : s.rd .grpGroupEnable [] ≠ 1) : s.heartbeatInterval = s :=
  if_pos (by simp [State.flag, hg])

/-- A member counts the heartbeat of its manager as missed, or begins to count again. -/
def State.counted (s : State) : State := { s with mgrMissed := if s.mgrHeard then 0 else s.mgrMissed + 1 }

/-- The interval begins again. -/
def State.newInterval (s : State) : State := { s with heard := [], mgrHeard := false }

theorem State.counted_touches : Touches [.mgrMissed] ks s s.counted := by
  refine ChangesOnly.touches (fun f hf => ?_) rfl
  cases f
  case mgrMissed => exact absurd (by decide) hf
  all_goals rfl

theorem State.newInterval_touches : Touches [.heard, .mgrHeard] ks s s.newInterval := by
  refine ChangesOnly.touches (fun f hf => ?_) rfl
  cases f
  case heard => exact absurd (by decide) hf
  case mgrHeard => exact absurd (by decide) hf
  all_goals rfl

theorem State.heartbeatTo_sends : Sends s s.heartbeatTo.2 := by
  unfold State.heartbeatTo
  split
  · exact .refl
  · exact .of_touches (s.freeVal_touches 3) (List.nil_subset _)

/-- A worker that is no manager of its own counts, and sends HEARTBEAT. -/
theorem State.heartbeatInterval_worker (hg : s.rd .grpGroupEnable [] = 1) (hr : s.rd .grpRole [] = 0)
    (hn : s.rd .grpManagerNode [] ≠ s.rd .grpNode []) :
    ∃ x, Sends s.counted x ∧ s.heartbeatInterval = x.newInterval := by
  have hflag : (!s.flag .grpGroupEnable []) = false := by rw [State.flag, hg]; rfl
  have hmanager : s.isManager = false := Bool.eq_false_iff.2 fun hm => (State.isManager_iff.1 hm).2 hr
  have hinterval : s.managerInterval = s := if_pos (by rw [hmanager]; rfl)
  have hsuperior : s.superior = s.rd .grpManagerNode [] := if_neg fun hc => hc.1 hr
  refine ⟨s.counted.heartbeatTo.2.sendGroup s.counted.heartbeatTo.1 0x04 (s.rd .grpEpoch []) s.heartbeatBody,
    State.heartbeatTo_sends.trans State.sendGroup_sends, ?_⟩
  unfold State.heartbeatInterval
  rw [hflag, if_neg (by decide), hinterval]
  dsimp only
  rw [if_neg (by rwa [hsuperior]), if_neg (fun hc => hc.2 hr)]
  rfl

theorem Settled.of_interval {fs : List Field} (hs : Settled s) (ht : Touches fs [] s u)
    (hf : ∀ f ∈ settledFields, f ∉ fs := by decide) : Settled u := hs.of_touches ht hf fun _ _ => List.not_mem_nil

/-- HEARTBEAT_TIMER of a module that is in no group does nothing; a member keeps the count of its manager (R250, R253). -/
theorem heartbeatTimer_counts (hpower : s.power = 1) (hs : Settled s) :
    (s.rd .grpGroupEnable [] = 0 → exec .heartbeatTimer s = .next s) ∧
    (s.rd .grpGroupEnable [] = 1 → s.rd .grpRole [] = 0 → s.rd .grpManagerNode [] ≠ s.rd .grpNode [] →
      ∃ t, exec .heartbeatTimer s = .next t ∧ t.mgrMissed = (if s.mgrHeard then 0 else s.mgrMissed + 1) ∧
        t.heard = [] ∧ t.mgrHeard = false ∧ ChangesOnly (.heard :: .mgrHeard :: .mgrMissed :: sendFields) s t ∧
        RegsBut sendKeys s t) := by
  refine ⟨fun hg => ?_, fun hg hr hn => ?_⟩
  · rw [exec_heartbeatTimer, powered_on hpower, State.heartbeatInterval_off (by rw [hg]; decide), hs.after]
  · obtain ⟨x, hsend, heq⟩ := State.heartbeatInterval_worker hg hr hn
    have hcount : Touches [.mgrMissed] [] s s.counted := State.counted_touches
    have hlast : Touches [.heard, .mgrHeard] [] x x.newInterval := State.newInterval_touches
    have hsettled : Settled x.newInterval := ((hs.of_interval hcount).of_sends hsend).of_interval hlast
    have hall : Touches (.heard :: .mgrHeard :: .mgrMissed :: sendFields) sendKeys s x.newInterval :=
      (hcount.mono (List.nil_subset _)).trans (hsend.touches.widen.trans (hlast.mono (List.nil_subset _)))
    refine ⟨x.newInterval, ?_, ?_, rfl, rfl, hall.only, hall.regs⟩
    · rw [exec_heartbeatTimer, powered_on hpower, heq, hsettled.after]
    · exact (hlast.only .mgrMissed (by decide)).trans (hsend.touches.only .mgrMissed (by decide))

end

/-! GROUP_REPORT (R250, R252, R254). -/

section

variable {s : State} {h : GroupHeader} {n st r : Nat}

theorem exec_groupReport (h : GroupHeader) (n st r : Nat) (s : State) : exec (.groupReport h n st r) s =
    grouped s h 0x06 (fun s => if s.isTop then
      ((s.wr .gtGrisk [h.src / 128] r).wr .gtGmanager [h.src / 128] h.src).memberChange n st else s) := rfl

theorem groupTable_not_mem_sendKeys {q : Reg} {g : Nat} (hg : g < 128) (hq : q ∈ [Reg.gtGrisk, .gtGmanager]) :
    q.key [g] ∉ sendKeys := by
  have hlocal : Reg.grpLocalUnroutable.key [] < 0x404000 * 32 := by decide
  have hkey : 0x405000 * 32 ≤ q.key [g] ∧ q.key [g] < 0x405200 * 32 := by
    obtain rfl | rfl := by simpa using hq
    · simp only [Reg.key, Reg.gtGrisk, strideSum]
      omega
    · simp only [Reg.key, Reg.gtGmanager, strideSum]
      omega
  exact not_mem_sendKeys (by omega) (by omega)

/-- What the top manager's list becomes, and whether a change begins. -/
theorem State.memberChange_lists (htop : s.isTop = true) : (s.memberChange n st).sysMembers = s.listWith n st ∧
    if s.listWith n st ≠ s.sysMembers ∨ st = 1 then
      ∃ q, (s.memberChange n st).top = some q ∧ q.epoch = max s.lastEpoch (s.rd .grpEpoch []) + 1 ∧ q.list = s.listWith n st ∧
        (s.memberChange n st).lastEpoch = q.epoch
    else (s.memberChange n st).top = s.top := by
  by_cases hc : s.listWith n st ≠ s.sysMembers ∨ st = 1
  · have hset : ({ s with sysMembers := s.listWith n st } : State).isTop = true := htop
    obtain ⟨hbegun, hlast, hlist⟩ := State.startEpoch_begins hset
    rw [State.memberChange_starts htop hc, if_pos hc]
    exact ⟨hlist, _, hbegun, rfl, rfl, hlast⟩
  · obtain ⟨hl, hst⟩ := not_or.1 hc
    rw [if_neg hc, State.memberChange_same (not_not.1 hl) hst]
    exact ⟨(not_not.1 hl).symm, rfl⟩

/-- GROUP_REPORT at the top manager sets GRISK and GMANAGER, and a change of the list begins a change of the epoch (R250). -/
theorem groupReport_lists (hh : Heard s h) (hsrc : h.src < 16384) : ∃ t, exec (.groupReport h n st r) s = .next t ∧
    if s.rd .grpRole [] = 2 then
      t.rd .gtGrisk [h.src / 128] = r % 4 ∧ t.rd .gtGmanager [h.src / 128] = h.src ∧ t.sysMembers = s.listWith n st ∧
      ChangesOnly reportFields s t ∧
      RegsBut (Reg.gtGrisk.key [h.src / 128] :: Reg.gtGmanager.key [h.src / 128] :: sendKeys) s t ∧
      if s.listWith n st ≠ s.sysMembers ∨ st = 1 then
        ∃ q, t.top = some q ∧ q.epoch = max s.lastEpoch (s.rd .grpEpoch []) + 1 ∧ q.list = s.listWith n st ∧ t.lastEpoch = q.epoch
      else t.top = s.top
    else ChangesOnly [.delivered] s t := by
  obtain ⟨u, hrun, hu⟩ := hh.runs 0x06 (fun s => if s.isTop then
    ((s.wr .gtGrisk [h.src / 128] r).wr .gtGmanager [h.src / 128] h.src).memberChange n st else s)
  obtain ⟨-, henable, -⟩ := hh
  have htop : u.isTop = true ↔ s.rd .grpRole [] = 2 := by
    rw [State.isTop_iff, hu.rd_nil, hu.rd_nil]
    exact and_iff_right henable
  have hg : h.src / 128 < 128 := by omega
  refine ⟨_, (exec_groupReport h n st r s).trans hrun, ?_⟩
  by_cases hr : s.rd .grpRole [] = 2
  · rw [if_pos hr, if_pos (htop.2 hr)]
    have hset : Touches [.regs] [Reg.gtGrisk.key [h.src / 128], Reg.gtGmanager.key [h.src / 128]] u
        ((u.wr .gtGrisk [h.src / 128] r).wr .gtGmanager [h.src / 128] h.src) := (Touches.refl.wr (by simp)).wr (by simp)
    have hrisk : ((u.wr .gtGrisk [h.src / 128] r).wr .gtGmanager [h.src / 128] h.src).rd .gtGrisk [h.src / 128] = r % 4 := by
      have hne : Reg.gtGrisk.key [h.src / 128] ≠ Reg.gtGmanager.key [h.src / 128] := by
        simp only [Reg.key, Reg.gtGrisk, Reg.gtGmanager, strideSum]
        omega
      rw [State.rd_wr_ne _ _ hne, State.rd_wr_same]
      rfl
    have hmanager : ((u.wr .gtGrisk [h.src / 128] r).wr .gtGmanager [h.src / 128] h.src).rd .gtGmanager [h.src / 128] = h.src := by
      rw [State.rd_wr_same]
      exact Nat.mod_eq_of_lt hsrc
    have hlow : ∀ q : Reg, q.key [] < 0x405000 * 32 →
        ((u.wr .gtGrisk [h.src / 128] r).wr .gtGmanager [h.src / 128] h.src).rd q [] = s.rd q [] := fun q hq => by
      rw [hset.regs, hu.rd_nil]
      simp only [List.mem_cons, List.not_mem_nil, or_false]
      rintro (h | h)
      · rw [h] at hq
        simp only [Reg.key, Reg.gtGrisk, strideSum] at hq
        omega
      · rw [h] at hq
        simp only [Reg.key, Reg.gtGmanager, strideSum] at hq
        omega
    generalize (u.wr .gtGrisk [h.src / 128] r).wr .gtGmanager [h.src / 128] h.src = a at hset hrisk hmanager hlow
    have hmembers : a.sysMembers = s.sysMembers := (hset.only .sysMembers (by decide)).trans (hu.only .sysMembers (by decide))
    have hlist : a.listWith n st = s.listWith n st := by rw [State.listWith, hmembers, State.listWith]
    have hlast : a.lastEpoch = s.lastEpoch := (hset.only .lastEpoch (by decide)).trans (hu.only .lastEpoch (by decide))
    have htops : a.top = s.top := (hset.only .top (by decide)).trans (hu.only .top (by decide))
    have hatop : a.isTop = true := State.isTop_iff.2 ⟨by rw [hlow _ (by decide), henable], by rw [hlow _ (by decide), hr]⟩
    obtain ⟨hmember, hchange⟩ := State.memberChange_lists (n := n) (st := st) hatop
    rw [hlist, hmembers, hlast, hlow _ (by decide), htops] at hchange
    have hkeep := (State.memberChange_quietly (s := a) (node := n) (mstate := st)).touches
    have hall : Touches reportFields (Reg.gtGrisk.key [h.src / 128] :: Reg.gtGmanager.key [h.src / 128] :: sendKeys) s
        (a.memberChange n st) := (hu.mono (List.nil_subset _)).trans
      ((hset.mono (by simp)).trans (hkeep.mono fun k hk => List.mem_cons_of_mem _ (List.mem_cons_of_mem _ hk)))
    refine ⟨?_, ?_, hmember.trans hlist, hall.only, hall.regs, hchange⟩
    · rw [hkeep.regs _ _ (groupTable_not_mem_sendKeys hg (by simp)), hrisk]
    · rw [hkeep.regs _ _ (groupTable_not_mem_sendKeys hg (by simp)), hmanager]
  · rw [if_neg hr, if_neg fun ht => hr (htop.1 ht)]
    exact hu.only

end

/-! PARTNER (R306, R307, R322, R323). -/

section

variable {s : State} {h : GroupHeader} {n c i e : Nat} {f : Bool}

theorem exec_partner (h : GroupHeader) (n c : Nat) (f : Bool) (e i : Nat) (s : State) : exec (.partner h n c f e i) s =
    grouped s h 0x0D (fun s => s.takePartner n c f e i) := rfl

/-- The holder that PARTNER names. -/
def State.named (s : State) (n : Nat) (f : Bool) (e : Nat) : State :=
  ((s.wr .shrHolderNode [] n).wr .shrForced [] (b2n f)).wr .shrRefuseCause [] e

/-- The report of a forced pairing. -/
def State.reportForced (s : State) (f : Bool) : State := if f then s.reportShroud 3 0 0 else s

/-- The source that PARTNER names. -/
def State.takeSource (s : State) (source sourceId : Nat) : State :=
  if source = noNode then s.retain
  else if s.rd .shrHoldState [] = 3 ∧ s.rd .shrHeldSourceId [] ≠ sourceId then s
  else
    let s := if s.rd .shrHeldSourceId [] = sourceId ∧ 2 ≤ s.rd .shrHoldState [] then s.wr .shrHoldState [] 2
      else s.wr .shrHoldState [] 1
    (s.wr .shrHeldSourceNode [] source).wr .shrHeldSourceId [] sourceId

/-- A new holder is probed. -/
theorem State.takePartner_probes (hn : n ≠ noNode) (hs : s.rd .shrSrcState [] ≠ 2) : s.takePartner n c f e i =
    ((((s.named n f e).reportForced f).setSrcState 1).probeHolder).takeSource c i := by
  have hsame : (s.rd .shrHolderNode [] == n && s.rd .shrSrcState [] == 2) = false := by simp [hs]
  unfold State.takePartner
  unfold State.named State.reportForced State.takeSource
  dsimp only
  rw [if_neg hn, hsame, if_neg Bool.false_ne_true]

/-- The register fields that name the holder. -/
def holderKeys : List Nat :=
  Reg.shrHolderNode.key [] :: Reg.shrForced.key [] :: Reg.shrRefuseCause.key [] :: Reg.shrSrcState.key [] :: sentKeys

theorem State.named_touches : Touches [.regs] holderKeys s (s.named n f e) :=
  ((Touches.refl.wr (by decide)).wr (by decide)).wr (by decide)

theorem State.reportForced_touches : Touches [.regs, .reports, .reportSeq, .out] sentKeys s (s.reportForced f) :=
  .ite (fun _ => State.reportShroud_touches) .refl

theorem State.probeHolder_sends : Sends s s.probeHolder := .ite (fun _ => State.sendCell_sends) fun _ => .refl

theorem State.takeSource_touches : Touches [.regs, .hold]
    [Reg.shrHoldState.key [], Reg.shrHeldSourceNode.key [], Reg.shrHeldSourceId.key []] s (s.takeSource c i) := by
  unfold State.takeSource
  split
  · exact State.retain_touches
  · split
    · exact .refl
    · extract_lets x
      have hx : Touches [.regs] [Reg.shrHoldState.key [], Reg.shrHeldSourceNode.key [], Reg.shrHeldSourceId.key []] s x :=
        .ite (fun _ => (OnlyRegs.wr (by simp)).touches) (OnlyRegs.wr (by simp)).touches
      exact ((hx.wr (by simp)).wr (by simp)).widen

/-- A module that holds for no one is ASSIGNED the source. -/
theorem State.takeSource_assigns (hc : c < noNode) (hs : s.rd .shrHoldState [] = 0) :
    (s.takeSource c i).rd .shrHoldState [] = 1 ∧ (s.takeSource c i).rd .shrHeldSourceNode [] = c ∧
      (s.takeSource c i).rd .shrHeldSourceId [] = i % 2 ^ 64 := by
  have heq : s.takeSource c i = ((s.wr .shrHoldState [] 1).wr .shrHeldSourceNode [] c).wr .shrHeldSourceId [] i := by
    unfold State.takeSource
    rw [if_neg (Nat.ne_of_lt hc), if_neg (by rw [hs]; simp)]
    dsimp only
    rw [if_neg (by rw [hs]; simp)]
  rw [heq]
  refine ⟨?_, ?_, ?_⟩
  · rw [State.rd_wr_ne _ _ (by decide), State.rd_wr_ne _ _ (by decide), State.rd_wr_same]
    rfl
  · rw [State.rd_wr_ne _ _ (by decide), State.rd_wr_same]
    exact Nat.mod_eq_of_lt (Nat.lt_of_lt_of_le hc (by decide))
  · rw [State.rd_wr_same]
    rfl

/-- PARTNER assigns the holder and the source (R306). -/
theorem partner_assigns (hh : Heard s h) (hn : n < noNode) (hs : s.rd .shrSrcState [] ≠ 2) :
    ∃ t, exec (.partner h n c f e i) s = .next t ∧ t.rd .shrHolderNode [] = n ∧ t.rd .shrForced [] = (if f then 1 else 0) ∧
      t.rd .shrSrcState [] = 1 ∧ t.mem = s.mem ∧ t.flight = s.flight ∧
      (c < noNode → s.rd .shrHoldState [] = 0 → t.rd .shrHoldState [] = 1 ∧ t.rd .shrHeldSourceNode [] = c ∧
        t.rd .shrHeldSourceId [] = i % 2 ^ 64) := by
  obtain ⟨u, hrun, hu⟩ := hh.runs 0x0D (fun s => s.takePartner n c f e i)
  have hnamed := State.named_touches (s := u) (n := n) (f := f) (e := e)
  have hholder : (u.named n f e).rd .shrHolderNode [] = n := by
    rw [State.named, State.rd_wr_ne _ _ (by decide), State.rd_wr_ne _ _ (by decide), State.rd_wr_same]
    exact Nat.mod_eq_of_lt (Nat.lt_of_lt_of_le hn (by decide))
  have hforced : (u.named n f e).rd .shrForced [] = if f then 1 else 0 := by
    rw [State.named, State.rd_wr_ne _ _ (by decide), State.rd_wr_same]
    cases f <;> rfl
  have hrun' : exec (.partner h n c f e i) s =
      .next (((((u.named n f e).reportForced f).setSrcState 1).probeHolder).takeSource c i) := by
    rw [exec_partner, hrun, State.takePartner_probes (Nat.ne_of_lt hn) (by rwa [hu.rd_nil])]
  generalize u.named n f e = a at hnamed hholder hforced hrun'
  have hreport := State.reportForced_touches (s := a) (f := f)
  generalize a.reportForced f = b at hreport hrun'
  have hset := State.setSrcState_touches (s := b) (v := 1)
  have hone : (b.setSrcState 1).rd .shrSrcState [] = 1 := State.setSrcState_rd (by decide)
  generalize b.setSrcState 1 = d at hset hone hrun'
  have hprobe := State.probeHolder_sends (s := d)
  generalize d.probeHolder = g at hprobe hrun'
  have htake := State.takeSource_touches (s := g) (c := c) (i := i)
  have hfree : g.rd .shrHoldState [] = s.rd .shrHoldState [] := by
    rw [hprobe.rd, hset.regs _ _ (by decide), hreport.regs _ _ (by decide), hnamed.regs _ _ (by decide), hu.rd_nil]
  have hall : ChangesOnly (.delivered :: .hold :: .reports :: .reportSeq :: sendFields) s (g.takeSource c i) :=
    (hu.only.mono (by decide)).trans ((hnamed.only.mono (by decide)).trans ((hreport.only.mono (by decide)).trans
      ((hset.only.mono (by decide)).trans ((hprobe.touches.only.mono (by decide)).trans (htake.only.mono (by decide))))))
  refine ⟨_, hrun', ?_, ?_, ?_, hall .mem (by decide), hall .flight (by decide), fun hc hz => ?_⟩
  · rw [htake.regs _ _ (by decide), hprobe.rd, hset.regs _ _ (by decide), hreport.regs _ _ (by decide), hholder]
  · rw [htake.regs _ _ (by decide), hprobe.rd, hset.regs _ _ (by decide), hreport.regs _ _ (by decide), hforced]
  · rw [htake.regs _ _ (by decide), hprobe.rd, hone]
  · exact State.takeSource_assigns hc (hfree.trans hz)

end

/-! A member's heartbeat at its manager (R250). -/

section

variable {s u : State} {m n r : Nat} {l : List Nat}

theorem mem_insertRising_self : n ∈ insertRising n l := by
  induction l with
  | nil => exact List.mem_cons_self
  | cons a l ih =>
    unfold insertRising
    split
    · exact List.mem_cons_self
    · split
      · next h => exact h ▸ List.mem_cons_self
      · exact List.mem_cons_of_mem _ ih

/-- A member is heard: its miss count restarts, and its risk and its health are kept. -/
def State.heardFrom (s : State) (m risk : Nat) (health : List Nat) : State :=
  ({ (s.wr .mbrMissed [m] 0).wr .mbrRisk [m] risk with
    heard := insertRising m s.heard, memberHealth := Tab.put s.memberHealth m health }).noteGrisk

/-- A standby that hears a member of its manager takes the manager's role. -/
def State.stoodBy (s : State) (src : Nat) : State := match s.standbyFor src with | some top => s.takeOver top | none => s

theorem State.takeHeartbeat_eq (s : State) (src r : Nat) (l : List Nat) : s.takeHeartbeat src r l =
    if (s.stoodBy src).ownMember src then (s.stoodBy src).heardFrom (src % 128) r l else s.stoodBy src := rfl

/-- The register fields that a heartbeat writes. -/
def heardKeys (s : State) (m : Nat) : List Nat :=
  [Reg.mbrMissed.key [m], Reg.mbrRisk.key [m], Reg.gtGrisk.key [s.rd .grpNode [] / 128]]

theorem State.withHeard_touches {ks : List Nat} (s : State) (l : List Nat) (t : Tab (List Nat)) :
    Touches [.heard, .memberHealth] ks s { s with heard := l, memberHealth := t } := by
  refine ChangesOnly.touches (fun f hf => ?_) rfl
  cases f
  case heard => exact absurd (by decide) hf
  case memberHealth => exact absurd (by decide) hf
  all_goals rfl

theorem grpNode_ne_memberField {q : Reg} (hq : q ∈ memberFields := by decide) : Reg.grpNode.key [] ≠ q.key [m] := by
  obtain ⟨k, hkey, hlow, -, -⟩ := memberField_bounds (m := m) hq
  have hnode : Reg.grpNode.key [] < 0x404000 * 32 := by decide
  omega

theorem State.heardFrom_keeps : Touches [.regs, .heard, .memberHealth] (heardKeys s m) s (s.heardFrom m r l) ∧
    (s.heardFrom m r l).rd .mbrMissed [m] = 0 ∧ (s.heardFrom m r l).rd .mbrRisk [m] = r % 4 ∧
    m ∈ (s.heardFrom m r l).heard ∧ Tab.get [] (s.heardFrom m r l).memberHealth m = l := by
  have hwr : Touches [.regs] (heardKeys s m) s ((s.wr .mbrMissed [m] 0).wr .mbrRisk [m] r) :=
    (Touches.refl.wr (by simp [heardKeys])).wr (by simp [heardKeys])
  have hmissed : ((s.wr .mbrMissed [m] 0).wr .mbrRisk [m] r).rd .mbrMissed [m] = 0 := by
    rw [State.rd_wr_ne _ _ memberField_ne, State.rd_wr_same]
    rfl
  have hrisk : ((s.wr .mbrMissed [m] 0).wr .mbrRisk [m] r).rd .mbrRisk [m] = r % 4 := by
    rw [State.rd_wr_same]
    rfl
  have hnode : ((s.wr .mbrMissed [m] 0).wr .mbrRisk [m] r).rd .grpNode [] = s.rd .grpNode [] := by
    rw [State.rd_wr_ne _ _ grpNode_ne_memberField, State.rd_wr_ne _ _ grpNode_ne_memberField]
  unfold State.heardFrom
  generalize (s.wr .mbrMissed [m] 0).wr .mbrRisk [m] r = a at hwr hmissed hrisk hnode
  have hset : Touches [.heard, .memberHealth] [] a _ := a.withHeard_touches (insertRising m s.heard) (Tab.put s.memberHealth m l)
  have hheard : ({ a with heard := insertRising m s.heard, memberHealth := Tab.put s.memberHealth m l } : State).heard =
      insertRising m s.heard := rfl
  have hhealth : ({ a with heard := insertRising m s.heard, memberHealth := Tab.put s.memberHealth m l } : State).memberHealth =
      Tab.put s.memberHealth m l := rfl
  generalize ({ a with heard := insertRising m s.heard, memberHealth := Tab.put s.memberHealth m l } : State) = b
    at hset hheard hhealth
  have hnote := State.noteGrisk_touches (s := b)
  have hkeys : griskKeys b = [Reg.gtGrisk.key [s.rd .grpNode [] / 128]] := by rw [griskKeys, hset.rd_nil, hnode]
  rw [hkeys] at hnote
  have hkept : ∀ q ∈ memberFields, b.noteGrisk.rd q [m] = a.rd q [m] := fun q hq => by
    rw [hnote.regs _ _ fun h => memberField_ne_gtGrisk hq (List.mem_singleton.1 h), hset.rd_nil]
  refine ⟨?_, ?_, ?_, ?_, ?_⟩
  · exact hwr.widen.trans ((hset.mono (List.nil_subset _)).trans (hnote.mono (by simp [heardKeys])))
  · rw [hkept _ (by decide), hmissed]
  · rw [hkept _ (by decide), hrisk]
  · rw [hnote.only .heard (by decide), hheard]
    exact mem_insertRising_self
  · rw [hnote.only .memberHealth (by decide), hhealth]
    exact Tab.get_put_same ..

end

/-! A standby takes its manager's role (R253). -/

section

variable {s u : State} {g m n old : Nat} {top : Bool}

/-- The new manager's own fields: TERM one higher, its role and its node. -/
def State.rises (s : State) (top : Bool) : State :=
  let me := s.rd .grpNode []
  let s := ((s.wr .grpTerm [] (s.rd .grpTerm [] + 1)).wr .grpRole [] (if top then 2 else 1)).wr .grpManagerNode [] me
  if top then { s.wr .grpTopNode [] me with sysMembers := s.rankNodes } else s

/-- The entry of a node of the committed epoch, as the new manager sets it. -/
def State.seat (s : State) (m rank : Nat) : State :=
  let f := s.freeVal 128
  let t := ((f.2.wr .mbrMstate [m] 2).wr .mbrMrank [m] rank).wr .mbrFeedId [m] (f.1 / 2 ^ 64 % 16)
  let health := [f.1 / 2 ^ 68 % 256, f.1 / 2 ^ 76 % 256, f.1 / 2 ^ 84 % 2 ^ 16, f.1 / 2 ^ 100 % 256, f.1 / 2 ^ 108 % 256]
  { t.wr .mbrRisk [m] (f.1 / 2 ^ 116 % 4) with
    memberIds := Tab.put t.memberIds m (f.1 % 2 ^ 64), memberHealth := Tab.put t.memberHealth m health }

/-- The entries of the group's nodes. -/
def State.seated (s : State) (g : Nat) : State :=
  s.rankNodes.zipIdx.foldl (fun s p => if p.1 / 128 = g then s.seat (p.1 % 128) p.2 else s) s

/-- TAKEOVER to the nodes that the new manager serves. -/
def State.announced (s : State) (top : Bool) (me old : Nat) : State :=
  (s.rankNodes.filter (fun a => (top || a / 128 == me / 128) && a != me && a != old)).foldl
    (fun s a => s.sendGroup a 0x0B (s.rd .grpEpoch []) (leBytes 2 me)) s

/-- The manager that was is lost as a partner. -/
def State.partnerLost (s : State) (old : Nat) : State :=
  let s := if s.rd .shrHolderNode [] = old then s.holderLost else s
  if s.rd .shrHeldSourceNode [] = old then s.retain else s

/-- The manager that was is LOST in the entries, or reported lost. -/
def State.managerLost (s : State) (me old : Nat) : State :=
  if old / 128 = me / 128 then s.setMstate (old % 128) 4 else s.reportChange old 4

/-- The manager whose role is taken. -/
def State.managerBefore (s : State) (top : Bool) : Nat := if top then s.rd .grpTopNode [] else s.rd .grpManagerNode []

theorem State.takeOver_eq (s : State) (top : Bool) : s.takeOver top =
    ((((s.rises top).seated (s.rd .grpNode [] / 128)).announced top (s.rd .grpNode []) (s.managerBefore top)).partnerLost
      (s.managerBefore top)).managerLost (s.rd .grpNode []) (s.managerBefore top) := rfl

/-- The register fields that a new manager writes for itself. -/
def riseKeys : List Nat := [Reg.grpTerm.key [], Reg.grpRole.key [], Reg.grpManagerNode.key [], Reg.grpTopNode.key []]

theorem State.rises_takes : Touches [.regs, .sysMembers] riseKeys s (s.rises top) ∧
    (s.rises top).rd .grpTerm [] = (s.rd .grpTerm [] + 1) % 2 ^ 32 ∧
    (s.rises top).rd .grpRole [] = (if top then 2 else 1) ∧
    (s.rises top).rd .grpManagerNode [] = s.rd .grpNode [] % 2 ^ 14 ∧
    (top = true → (s.rises top).rd .grpTopNode [] = s.rd .grpNode [] % 2 ^ 14) := by
  have hwr : Touches [.regs] riseKeys s (((s.wr .grpTerm [] (s.rd .grpTerm [] + 1)).wr .grpRole [] (if top then 2 else 1)).wr
      .grpManagerNode [] (s.rd .grpNode [])) :=
    ((Touches.refl.wr (by decide)).wr (by decide)).wr (by decide)
  have hterm : (((s.wr .grpTerm [] (s.rd .grpTerm [] + 1)).wr .grpRole [] (if top then 2 else 1)).wr
      .grpManagerNode [] (s.rd .grpNode [])).rd .grpTerm [] = (s.rd .grpTerm [] + 1) % 2 ^ 32 := by
    rw [State.rd_wr_ne _ _ (by decide), State.rd_wr_ne _ _ (by decide), State.rd_wr_same]
    rfl
  have hrole : (((s.wr .grpTerm [] (s.rd .grpTerm [] + 1)).wr .grpRole [] (if top then 2 else 1)).wr
      .grpManagerNode [] (s.rd .grpNode [])).rd .grpRole [] = if top then 2 else 1 := by
    rw [State.rd_wr_ne _ _ (by decide), State.rd_wr_same]
    cases top <;> rfl
  have hmanager : (((s.wr .grpTerm [] (s.rd .grpTerm [] + 1)).wr .grpRole [] (if top then 2 else 1)).wr
      .grpManagerNode [] (s.rd .grpNode [])).rd .grpManagerNode [] = s.rd .grpNode [] % 2 ^ 14 := by
    rw [State.rd_wr_same]
    rfl
  unfold State.rises
  dsimp only
  generalize ((s.wr .grpTerm [] (s.rd .grpTerm [] + 1)).wr .grpRole [] (if top then 2 else 1)).wr
    .grpManagerNode [] (s.rd .grpNode []) = a at hwr hterm hrole hmanager
  cases top
  case false => exact ⟨hwr.widen, hterm, hrole, hmanager, fun h => nomatch h⟩
  case true =>
    have htop : Touches [.regs] riseKeys a (a.wr .grpTopNode [] (s.rd .grpNode [])) := (OnlyRegs.wr (by decide)).touches
    have hset := (a.wr .grpTopNode [] (s.rd .grpNode [])).withSysMembers_touches (ks := []) a.rankNodes
    have hkept : ∀ q : Reg, q.key [] ≠ Reg.grpTopNode.key [] →
        ({ a.wr .grpTopNode [] (s.rd .grpNode []) with sysMembers := a.rankNodes } : State).rd q [] = a.rd q [] := fun q hq => by
      rw [hset.rd_nil, State.rd_wr_ne _ _ hq]
    rw [if_pos rfl]
    refine ⟨hwr.widen.trans (htop.widen.trans (hset.mono (List.nil_subset _))), ?_, ?_, ?_, fun _ => ?_⟩
    · rw [hkept _ (by decide), hterm]
    · rw [hkept _ (by decide), hrole]
    · rw [hkept _ (by decide), hmanager]
    · rw [hset.rd_nil, State.rd_wr_same]
      rfl

/-- The register fields that the rest of a takeover, and a heartbeat after it, change. -/
def takeKeys (g : Nat) : List Nat :=
  (List.range 128).map (fun m => Reg.mbrFeedId.key [m]) ++ (List.range 128).map (fun m => Reg.mbrRisk.key [m]) ++
    (List.range 128).map (fun m => Reg.mbrMissed.key [m]) ++ commitKeys g

/-- The fields of the state that they change. -/
def takeFields : List Field := .memberIds :: .memberHealth :: .heard :: .free :: commitFields

theorem commitKeys_subset_takeKeys : commitKeys g ⊆ takeKeys g := List.subset_append_right ..

theorem memberField_mem_takeKeys (hm : m < 128) {q : Reg} (hq : q ∈ memberFields) : q.key [m] ∈ takeKeys g := by
  have hmem : ∀ q : Reg, q.key [m] ∈ (List.range 128).map (fun m => q.key [m]) := fun q => List.mem_map.2 ⟨m, List.mem_range.2 hm, rfl⟩
  simp only [memberFields, List.mem_cons, List.not_mem_nil, or_false] at hq
  simp only [takeKeys, List.mem_append]
  obtain rfl | rfl | rfl | rfl | rfl := hq
  · exact .inr (mbrMstate_mem_commitKeys hm)
  · exact .inl (.inl (.inl (hmem _)))
  · exact .inl (.inr (hmem _))
  · exact .inl (.inl (.inr (hmem _)))
  · exact .inr (mbrMrank_mem_commitKeys hm)

/-- A takeover leaves the rest of the group block below the members' table. -/
theorem not_mem_takeKeys {k : Nat} (hin : 0x400C00 * 32 ≤ k ∧ k < 0x404000 * 32 := by decide)
    (hne : k ≠ Reg.grpLocalUnroutable.key [] := by decide) : k ∉ takeKeys g := by
  intro h
  simp only [takeKeys, List.mem_append, List.mem_map, List.mem_range] at h
  obtain ((⟨m, -, rfl⟩ | ⟨m, -, rfl⟩) | ⟨m, -, rfl⟩) | h := h
  · obtain ⟨k, hkey, hlow, -, -⟩ := memberField_bounds (m := m) (r := .mbrFeedId) (by decide)
    omega
  · obtain ⟨k, hkey, hlow, -, -⟩ := memberField_bounds (m := m) (r := .mbrRisk) (by decide)
    omega
  · obtain ⟨k, hkey, hlow, -, -⟩ := memberField_bounds (m := m) (r := .mbrMissed) (by decide)
    omega
  · exact not_mem_commitKeys (.inl hin) hne h

theorem State.withEntries_touches {ks : List Nat} (s : State) (l : Tab Nat) (t : Tab (List Nat)) :
    Touches [.memberIds, .memberHealth] ks s { s with memberIds := l, memberHealth := t } := by
  refine ChangesOnly.touches (fun f hf => ?_) rfl
  cases f
  case memberIds => exact absurd (by decide) hf
  case memberHealth => exact absurd (by decide) hf
  all_goals rfl

theorem State.seat_quietly (hm : m < 128) : Quietly takeFields (takeKeys g) s (s.seat m n) := by
  have hwr : ∀ (x : State) (q : Reg) (v : Nat), q ∈ memberFields → Quietly takeFields (takeKeys g) x (x.wr q [m] v) :=
    fun x q v hq => .wr (memberField_mem_takeKeys hm hq)
  have hfree : Quietly takeFields (takeKeys g) s (s.freeVal 128).2 := (Quietly.of_touches (s.freeVal_touches 128)).widen
  have hset : ∀ (x : State) (i : Tab Nat) (t : Tab (List Nat)),
      Quietly takeFields (takeKeys g) x { x with memberIds := i, memberHealth := t } :=
    fun x i t => (Quietly.of_touches (x.withEntries_touches i t)).widen
  exact hfree.trans ((hwr _ .mbrMstate _ (by decide)).trans ((hwr _ .mbrMrank _ (by decide)).trans
    ((hwr _ .mbrFeedId _ (by decide)).trans ((hwr _ .mbrRisk _ (by decide)).trans (hset _ _ _)))))

theorem State.seated_quietly : Quietly takeFields (takeKeys g) s (s.seated n) :=
  .foldl fun _ _ _ => .ite (fun _ => State.seat_quietly (Nat.mod_lt _ (by decide))) fun _ => .refl

theorem State.announced_sends : Sends s (s.announced top n old) := Sends.foldl fun _ _ _ => State.sendGroup_sends

theorem State.partnerLost_quietly (hs : s.copies = []) : Quietly partnerFields partnerKeys s (s.partnerLost old) := by
  have hholder : Quietly partnerFields partnerKeys s (if s.rd .shrHolderNode [] = old then s.holderLost else s) :=
    .ite (fun _ => State.holderLost_quietly hs) fun _ => .refl
  exact hholder.trans (.ite (fun _ => State.retain_quietly) fun _ => .refl)

theorem State.managerLost_quietly (hg : s.rd .grpNode [] / 128 = g) :
    Quietly commitFields (commitKeys g) s (s.managerLost n old) :=
  .ite (fun _ => State.setMstate_quietly (Nat.mod_lt _ (by decide)) hg) fun _ =>
    State.reportChange_quietly.mono (reportKeys_subset_commitKeys hg)

theorem grpNode_not_mem_takeKeys : Reg.grpNode.key [] ∉ takeKeys g := not_mem_takeKeys

/-- After the new manager's own fields, a takeover changes entries, cells and partners alone. -/
theorem State.takeOver_quietly (hs : s.copies = []) :
    Quietly takeFields (takeKeys (s.rd .grpNode [] / 128)) (s.rises top) (s.takeOver top) := by
  obtain ⟨hrise, -⟩ := State.rises_takes (s := s) (top := top)
  have hquiet : (s.rises top).copies = [] := (Quietly.of_touches hrise).noCopies hs
  have hnode : (s.rises top).rd .grpNode [] = s.rd .grpNode [] := hrise.regs _ _ (by decide)
  rw [State.takeOver_eq]
  generalize s.rises top = a at hquiet hnode
  have hseat : Quietly takeFields (takeKeys (s.rd .grpNode [] / 128)) a (a.seated (s.rd .grpNode [] / 128)) :=
    State.seated_quietly
  generalize a.seated (s.rd .grpNode [] / 128) = b at hseat
  have hsend : Quietly takeFields (takeKeys (s.rd .grpNode [] / 128)) b (b.announced top (s.rd .grpNode []) (s.managerBefore top)) :=
    (Quietly.of_sends State.announced_sends).mono (List.Subset.trans sendKeys_subset_commitKeys commitKeys_subset_takeKeys)
  generalize b.announced top (s.rd .grpNode []) (s.managerBefore top) = c at hsend
  have hpartner : Quietly takeFields (takeKeys (s.rd .grpNode [] / 128)) c (c.partnerLost (s.managerBefore top)) :=
    (State.partnerLost_quietly ((hseat.trans hsend).noCopies hquiet)).mono
      (List.Subset.trans partnerKeys_subset_commitKeys commitKeys_subset_takeKeys)
  generalize c.partnerLost (s.managerBefore top) = d at hpartner
  have hbefore := hseat.trans (hsend.trans hpartner)
  have hlast : Quietly takeFields (takeKeys (s.rd .grpNode [] / 128)) d (d.managerLost (s.rd .grpNode []) (s.managerBefore top)) :=
    (State.managerLost_quietly (by rw [hbefore.touches.regs _ _ grpNode_not_mem_takeKeys, hnode])).mono commitKeys_subset_takeKeys
  exact hbefore.trans hlast

end

/-! HEARTBEAT (R250, R253). -/

section

variable {s u : State} {h : GroupHeader} {src r a b c d e : Nat} {l : List Nat} {top : Bool}

theorem exec_heartbeat (h : GroupHeader) (r a b c d e : Nat) (s : State) : exec (.heartbeat h r a b c d e) s =
    grouped s h 0x04 (fun s => s.takeHeartbeat h.src r [a, b, c, d, e]) := rfl

theorem State.standbyFor_congr (h : ∀ r idx, u.rd r idx = s.rd r idx) : u.standbyFor src = s.standbyFor src := by
  unfold State.standbyFor
  simp only [h]

theorem State.ownMember_iff : s.ownMember src = true ↔
    s.rd .grpGroupEnable [] = 1 ∧ s.rd .grpRole [] ≠ 0 ∧ src / 128 = s.rd .grpNode [] / 128 := by
  rw [State.ownMember, Bool.and_eq_true, State.isManager_iff, beq_iff_eq, and_assoc]

/-- A manager stands by for no node of its own group. -/
theorem State.standbyFor_ownMember (h : s.ownMember src = true) : s.standbyFor src = none := by
  obtain ⟨-, hrole, hgroup⟩ := State.ownMember_iff.1 h
  have hworker : (s.rd .grpRole [] == 0 && s.rd .grpManagerNode [] != s.rd .grpNode []) = false := by simp [hrole]
  unfold State.standbyFor
  dsimp only
  rw [hworker, if_neg (by simp [hgroup]), if_neg (by simp)]

theorem State.stoodBy_none (h : s.standbyFor src = none) : s.stoodBy src = s := by rw [State.stoodBy, h]

theorem State.stoodBy_some (h : s.standbyFor src = some top) : s.stoodBy src = s.takeOver top := by rw [State.stoodBy, h]

/-- What a heartbeat writes lies in the fields of a takeover. -/
theorem heardKeys_subset_takeKeys : heardKeys s (src % 128) ⊆ takeKeys (s.rd .grpNode [] / 128) := by
  have hm : src % 128 < 128 := Nat.mod_lt _ (by decide)
  have hrisk : Reg.gtGrisk.key [s.rd .grpNode [] / 128] ∈ takeKeys (s.rd .grpNode [] / 128) :=
    commitKeys_subset_takeKeys List.mem_cons_self
  exact List.cons_subset.2 ⟨memberField_mem_takeKeys hm (by decide),
    List.cons_subset.2 ⟨memberField_mem_takeKeys hm (by decide), List.cons_subset.2 ⟨hrisk, List.nil_subset _⟩⟩⟩

/-- A standby takes the manager's role with TERM one higher, and no memory changes. -/
theorem State.takeHeartbeat_takesOver (h : s.standbyFor src = some top) (hs : s.copies = []) :
    Touches takeFields (takeKeys (s.rd .grpNode [] / 128)) (s.rises top) (s.takeHeartbeat src r l) := by
  have hover := (State.takeOver_quietly (top := top) hs).touches
  obtain ⟨hrise, -⟩ := State.rises_takes (s := s) (top := top)
  rw [State.takeHeartbeat_eq, State.stoodBy_some h]
  refine hover.trans (.ite (fun _ => ?_) .refl)
  have hnode : (s.takeOver top).rd .grpNode [] = s.rd .grpNode [] := by
    rw [hover.regs _ _ grpNode_not_mem_takeKeys, hrise.regs _ _ (by decide)]
  obtain ⟨hheard, -⟩ := State.heardFrom_keeps (s := s.takeOver top) (m := src % 128) (r := r) (l := l)
  exact hheard.mono (hnode ▸ heardKeys_subset_takeKeys)

theorem heartbeat_heard (hh : Heard s h) : ∃ t, exec (.heartbeat h r a b c d e) s = .next t ∧
    (s.ownMember h.src = true → t.rd .mbrMissed [h.src % 128] = 0 ∧ t.rd .mbrRisk [h.src % 128] = r % 4 ∧
      h.src % 128 ∈ t.heard ∧ Tab.get [] t.memberHealth (h.src % 128) = [a, b, c, d, e] ∧
      ChangesOnly [.regs, .delivered, .heard, .memberHealth] s t ∧ RegsBut (heardKeys s (h.src % 128)) s t) ∧
    (∀ top, s.standbyFor h.src = some top → s.copies = [] → t.rd .grpTerm [] = (s.rd .grpTerm [] + 1) % 2 ^ 32 ∧
      t.rd .grpRole [] = (if top then 2 else 1) ∧ t.rd .grpManagerNode [] = s.rd .grpNode [] % 2 ^ 14 ∧
      (top = true → t.rd .grpTopNode [] = s.rd .grpNode [] % 2 ^ 14) ∧ t.mem = s.mem ∧ t.flight = s.flight) ∧
    (s.standbyFor h.src = none → s.ownMember h.src = false → ChangesOnly [.delivered] s t) := by
  obtain ⟨u, hrun, hu⟩ := hh.runs 0x04 (fun s => s.takeHeartbeat h.src r [a, b, c, d, e])
  have hstand : u.standbyFor h.src = s.standbyFor h.src := State.standbyFor_congr hu.rd_nil
  have hown : u.ownMember h.src = s.ownMember h.src := State.ownMember_congr hu.rd_nil
  refine ⟨_, (exec_heartbeat h r a b c d e s).trans hrun, fun hm => ?_, fun top ht hs => ?_, fun hn hm => ?_⟩
  · obtain ⟨hset, hmissed, hrisk, hheard, hhealth⟩ :=
      State.heardFrom_keeps (s := u) (m := h.src % 128) (r := r) (l := [a, b, c, d, e])
    have hkeys : heardKeys u (h.src % 128) = heardKeys s (h.src % 128) := by rw [heardKeys, hu.rd_nil, heardKeys]
    rw [hkeys] at hset
    have hall : Touches [.regs, .delivered, .heard, .memberHealth] (heardKeys s (h.src % 128)) s _ :=
      (hu.mono (List.nil_subset _)).trans hset.widen
    rw [State.takeHeartbeat_eq, State.stoodBy_none (hstand.trans (State.standbyFor_ownMember hm)), if_pos (hown.trans hm)]
    exact ⟨hmissed, hrisk, hheard, hhealth, hall.only, hall.regs⟩
  · obtain ⟨hrise, hterm, hrole, hmanager, htop⟩ := State.rises_takes (s := u) (top := top)
    have hquiet : u.copies = [] := (Quietly.of_touches hu).noCopies hs
    have htake := State.takeHeartbeat_takesOver (r := r) (l := [a, b, c, d, e]) (hstand.trans ht) hquiet
    rw [hu.rd_nil] at hterm hmanager htop
    have hmem : ChangesOnly (.delivered :: .sysMembers :: takeFields) s (u.takeHeartbeat h.src r [a, b, c, d, e]) :=
      (hu.only.mono (by decide)).trans ((hrise.only.mono (by decide)).trans (htake.only.mono (by decide)))
    refine ⟨?_, ?_, ?_, fun h => ?_, hmem .mem (by decide), hmem .flight (by decide)⟩
    · rw [htake.regs _ _ not_mem_takeKeys, hterm]
    · rw [htake.regs _ _ not_mem_takeKeys, hrole]
    · rw [htake.regs _ _ not_mem_takeKeys, hmanager]
    · rw [htake.regs _ _ not_mem_takeKeys, htop h]
  · rw [State.takeHeartbeat_eq, State.stoodBy_none (hstand.trans hn), if_neg (by rw [hown, hm]; decide)]
    exact hu.only

/-- Settles O56, message by message: a cell that is taken off runs on a state that differs in its cells alone, and each message
then touches what it writes; a takeover is the new manager's own fields, and then entries, cells and partners. -/
theorem groupMembershipMessages : Obligations.GroupMembershipMessages := by
  unfold Obligations.GroupMembershipMessages
  refine ⟨fun s h i f n hh => join_enrols hh, fun s h hh => leave_marks hh, fun s h r a b c d e hh => heartbeat_heard hh,
    fun s h hh => mgrHeartbeat_noted hh, fun s hp hs => heartbeatTimer_counts hp hs,
    fun s h n st r hh hsrc => groupReport_lists hh hsrc, fun s h n hh => takeover_names n hh,
    fun s h n c i e f hh hn hs => partner_assigns hh hn hs, fun s h hp hg => ⟨fun ht => ⟨fun n => ?_, ?_⟩, fun ht hr => ?_⟩⟩
  · rw [exec_takeover]
    exact lowerTerm_ignored hp hg ht
  · rw [exec_leave]
    exact lowerTerm_ignored hp hg ht
  · exact higherTerm_returns hp hg ht hr

end

end Sys2Proof.Machine
end
